-- ==== Sys2Proof/Word.lean ====
section
/-! DEFINITION. The word types of the KV-RL8 (00_scope R5; 02 R27, R30; 06 R81). -/

namespace Sys2Proof

/-- A byte (R5). -/
abbrev Byte := BitVec 8

/-- A general register (R81), or any 64-bit word. -/
abbrev Word := BitVec 64

/-- A virtual address, or the program counter (R27). -/
abbrev Addr := BitVec 56

/-- An instruction word (R27). -/
abbrev IWord := BitVec 32

/-- A vector register of 128 bytes (R123). -/
abbrev VWord := BitVec 1024

/-- A lane mask (R71). -/
abbrev KWord := BitVec 128

end Sys2Proof
end

