-- ==== Sys2Proof/Syntax.lean ====
section
/-! DEFINITION. The syntax of Dreok and of the device's steps: one constructor for every row of spec/opcode_table.json.
The first 197 are instructions of a program (02 R38, 04 R61, R62); the others are the steps that the device, the Courier
firmware, the host and the outside world take (95_what_each_step_holds, and the rule each row names). -/

namespace Sys2Proof

/-- Element formats (02 R34). -/
inductive Fmt where
  | fp32 | bf16 | fp16 | e4m3 | e5m2 | mk8 | int8 | uint8 | int32
  deriving DecidableEq, Repr

/-- Rounding modes (02 R35). -/
inductive Rnd where
  | rne | rz | ru | rd | sr
  deriving DecidableEq, Repr

/-- The flags and scope of an engine form's second word (02 R28, R36). -/
structure EFlags where
  scope : BitVec 2
  sig   : Bool
  rel   : Bool
  acq   : Bool
  deriving DecidableEq, Repr

/-- The source of MMA's A operand (02 R40, 16 R251). -/
inductive ASrc where
  | ring (q : BitVec 4)
  | tensor (tid : BitVec 16) (ga : BitVec 6)
  deriving DecidableEq, Repr

/-- What an access does, in the order of the fault record's kind codes (09 R151). -/
inductive Acc where
  | read | write | fetch | engRead | engWrite
  deriving DecidableEq, Repr

/-- A request to a slice's walker (09 R146, R151). -/
structure WalkArgs where
  tower : Fin 4
  asid  : Nat
  va    : Nat
  cls   : Bool
  acc   : Acc
  core  : Nat
  slot  : Nat
  deriving DecidableEq, Repr

/-- A shootdown descriptor (09 R153), with the model's own number. -/
structure Shootdown where
  id         : Nat
  base       : Nat
  count      : Nat
  asid       : Nat
  cls        : Bool
  dropPhys   : Bool
  dropTensor : Bool
  pbase      : Nat
  done       : Nat
  deriving DecidableEq, Repr

/-- Where an uncorrectable error strikes (09 R159, 16 R257); pieces are 32 bytes. -/
inductive ErrorPlace where
  | memory (piece : Nat)
  /-- A copy of a physical piece in the L1 region of a core. -/
  | l1 (core piece : Nat)
  /-- The copy in the L2 slices of a tower, which is the line its home gives. -/
  | l2 (tower piece : Nat)
  /-- The copy in a tower's remote-data cache. -/
  | rdc (tower piece : Nat)
  /-- The copy in the memory-side cache of its home. -/
  | msc (piece : Nat)
  | bstore (cluster piece : Nat)
  | tile (cluster piece : Nat)
  | scratch (key piece : Nat)
  deriving DecidableEq, Repr

/-- An arrival at a barrier object (19 R284), with the vector clock that its sender's release carries (10 R170; 20 R308). -/
structure Arrival where
  core  : Nat
  bar   : Nat
  count : Nat
  tid   : Option Nat
  cmd   : Option Nat
  clock : Vector (BitVec 20) 4
  deriving DecidableEq, Repr

/-- What the Courier firmware chooses for a new address space (09 R146, 14 R223, 17 R259). -/
structure AsGrant where
  asid       : Nat
  root       : Nat
  tensorBase : Nat
  freeRing   : Addr
  ruleRight  : Bool
  govRight   : Bool
  agents     : List (Nat × Nat × Nat)
  cells      : List (Nat × Nat × Nat)
  /-- Pages of the BAR2 aperture, and the addresses of the pages of the address space that they reach (09 R329, 23 R315). -/
  aperture   : List (Nat × Nat)
  deriving DecidableEq, Repr

/-- State of a die-to-die link (23 R323). -/
inductive DieState where
  | full | half | down
  deriving DecidableEq, Repr

/-- How bring-up training fails (23 R326). -/
inductive TrainFail where
  | memory | dieLinks
  deriving DecidableEq, Repr

/-- Every instruction and step of the opcode table. -/
inductive Instr where
  | add (d a b : BitVec 6)
  | sub (d a b : BitVec 6)
  | and (d a b : BitVec 6)
  | or (d a b : BitVec 6)
  | xor (d a b : BitVec 6)
  | sll (d a b : BitVec 6)
  | srl (d a b : BitVec 6)
  | sra (d a b : BitVec 6)
  | mul (d a b : BitVec 6)
  | mulh (d a b : BitVec 6)
  | mulhu (d a b : BitVec 6)
  | div (d a b : BitVec 6)
  | divu (d a b : BitVec 6)
  | rem (d a b : BitVec 6)
  | remu (d a b : BitVec 6)
  | min (d a b : BitVec 6)
  | max (d a b : BitVec 6)
  | minu (d a b : BitVec 6)
  | maxu (d a b : BitVec 6)
  | seq (d a b : BitVec 6)
  | sne (d a b : BitVec 6)
  | slt (d a b : BitVec 6)
  | sltu (d a b : BitVec 6)
  | clz (d a : BitVec 6)
  | ctz (d a : BitVec 6)
  | popc (d a : BitVec 6)
  | addi (d a : BitVec 6) (imm : BitVec 14)
  | andi (d a : BitVec 6) (imm : BitVec 14)
  | ori (d a : BitVec 6) (imm : BitVec 14)
  | xori (d a : BitVec 6) (imm : BitVec 14)
  | slli (d a sh : BitVec 6)
  | srli (d a sh : BitVec 6)
  | srai (d a sh : BitVec 6)
  | slti (d a : BitVec 6) (imm : BitVec 14)
  | sltiu (d a : BitVec 6) (imm : BitVec 14)
  | lui (d : BitVec 6) (imm : BitVec 20)
  | amov (ad aa : BitVec 4)
  | aset (ad : BitVec 4) (ga gb : BitVec 6)
  | asetl (ad : BitVec 4) (ga : BitVec 6)
  | aperm (ad : BitVec 4) (ga : BitVec 6)
  | aadv (ad : BitVec 4) (ga : BitVec 6)
  | aget (gd : BitVec 6) (aa : BitVec 4)
  | agetb (gd : BitVec 6) (aa : BitVec 4)
  | agetl (gd : BitVec 6) (aa : BitVec 4)
  | agetp (gd : BitVec 6) (aa : BitVec 4)
  | aaddi (ad aa : BitVec 4) (imm : BitVec 14)
  | ldB (d : BitVec 6) (a : BitVec 4) (disp : BitVec 11)
  | ldH (d : BitVec 6) (a : BitVec 4) (disp : BitVec 11)
  | ldW (d : BitVec 6) (a : BitVec 4) (disp : BitVec 11)
  | ldD (d : BitVec 6) (a : BitVec 4) (disp : BitVec 11)
  | ldBu (d : BitVec 6) (a : BitVec 4) (disp : BitVec 11)
  | ldHu (d : BitVec 6) (a : BitVec 4) (disp : BitVec 11)
  | ldWu (d : BitVec 6) (a : BitVec 4) (disp : BitVec 11)
  | stB (sig : Bool) (d : BitVec 6) (a : BitVec 4) (disp : BitVec 11)
  | stH (sig : Bool) (d : BitVec 6) (a : BitVec 4) (disp : BitVec 11)
  | stW (sig : Bool) (d : BitVec 6) (a : BitVec 4) (disp : BitVec 11)
  | stD (sig : Bool) (d : BitVec 6) (a : BitVec 4) (disp : BitVec 11)
  | amoAdd (sc : BitVec 2) (sig w : Bool) (d : BitVec 6) (a : BitVec 4) (b : BitVec 6)
  | amoAnd (sc : BitVec 2) (sig w : Bool) (d : BitVec 6) (a : BitVec 4) (b : BitVec 6)
  | amoOr (sc : BitVec 2) (sig w : Bool) (d : BitVec 6) (a : BitVec 4) (b : BitVec 6)
  | amoXor (sc : BitVec 2) (sig w : Bool) (d : BitVec 6) (a : BitVec 4) (b : BitVec 6)
  | amoMin (sc : BitVec 2) (sig w : Bool) (d : BitVec 6) (a : BitVec 4) (b : BitVec 6)
  | amoMax (sc : BitVec 2) (sig w : Bool) (d : BitVec 6) (a : BitVec 4) (b : BitVec 6)
  | amoMinu (sc : BitVec 2) (sig w : Bool) (d : BitVec 6) (a : BitVec 4) (b : BitVec 6)
  | amoMaxu (sc : BitVec 2) (sig w : Bool) (d : BitVec 6) (a : BitVec 4) (b : BitVec 6)
  | amoSwap (sc : BitVec 2) (sig w : Bool) (d : BitVec 6) (a : BitVec 4) (b : BitVec 6)
  | cas (sc : BitVec 2) (sig w : Bool) (d : BitVec 6) (a : BitVec 4) (b : BitVec 6)
  | casGt (sc : BitVec 2) (sig w : Bool) (d : BitVec 6) (a : BitVec 4) (b : BitVec 6)
  | casVer (sc : BitVec 2) (sig w : Bool) (d : BitVec 6) (a : BitVec 4) (b : BitVec 6)
  | casPtag (sc : BitVec 2) (sig w : Bool) (d : BitVec 6) (a : BitVec 4) (b : BitVec 6)
  | redAdd (sc : BitVec 2) (sig w : Bool) (a : BitVec 4) (b : BitVec 6)
  | redAnd (sc : BitVec 2) (sig w : Bool) (a : BitVec 4) (b : BitVec 6)
  | redOr (sc : BitVec 2) (sig w : Bool) (a : BitVec 4) (b : BitVec 6)
  | redXor (sc : BitVec 2) (sig w : Bool) (a : BitVec 4) (b : BitVec 6)
  | redMin (sc : BitVec 2) (sig w : Bool) (a : BitVec 4) (b : BitVec 6)
  | redMax (sc : BitVec 2) (sig w : Bool) (a : BitVec 4) (b : BitVec 6)
  | redMinu (sc : BitVec 2) (sig w : Bool) (a : BitVec 4) (b : BitVec 6)
  | redMaxu (sc : BitVec 2) (sig w : Bool) (a : BitVec 4) (b : BitVec 6)
  | redFadd (sc : BitVec 2) (sig : Bool) (a : BitVec 4) (b : BitVec 6)
  | lda (sc size : BitVec 2) (d : BitVec 6) (a : BitVec 4)
  | stl (sc : BitVec 2) (sig : Bool) (size : BitVec 2) (d : BitVec 6) (a : BitVec 4)
  | fence (sc : BitVec 2)
  | waitW (gt : BitVec 6) (a : BitVec 4) (b : BitVec 6)
  | waitD (gt : BitVec 6) (a : BitVec 4) (b : BitVec 6)
  | bra (off : BitVec 16)
  | beqz (a : BitVec 6) (off : BitVec 16)
  | bnez (a : BitVec 6) (off : BitVec 16)
  | bltz (a : BitVec 6) (off : BitVec 16)
  | bgez (a : BitVec 6) (off : BitVec 16)
  | bgtz (a : BitVec 6) (off : BitVec 16)
  | blez (a : BitVec 6) (off : BitVec 16)
  | bkany (k : BitVec 3) (off : BitVec 16)
  | bknone (k : BitVec 3) (off : BitVec 16)
  | call (d : BitVec 6) (imm : BitVec 20)
  | jmp (a : BitVec 6)
  | callr (d a : BitVec 6)
  | rwaitH (q : BitVec 4) (b : BitVec 6)
  | rwaitT (q : BitVec 4) (b : BitVec 6)
  | radvH (q : BitVec 4) (b : BitVec 6)
  | radvT (q : BitVec 4) (b : BitVec 6)
  | rfill (d : BitVec 6) (q : BitVec 4)
  | rfree (d : BitVec 6) (q : BitVec 4)
  | rbind (q : BitVec 4) (a : BitVec 4)
  | sysrd (d : BitVec 6) (num : BitVec 12)
  | syswr (num : BitVec 12) (a : BitVec 6)
  | trap (imm : BitVec 18)
  | eret
  | sleep (a : BitVec 6)
  | movb (ad sa : BitVec 4) (n : BitVec 6)
  | rep (n : BitVec 6)
  | vadd (f : Fmt) (vd va vb : BitVec 5) (k : BitVec 3)
  | vsub (f : Fmt) (vd va vb : BitVec 5) (k : BitVec 3)
  | vmul (f : Fmt) (vd va vb : BitVec 5) (k : BitVec 3)
  | vmin (f : Fmt) (vd va vb : BitVec 5) (k : BitVec 3)
  | vmax (f : Fmt) (vd va vb : BitVec 5) (k : BitVec 3)
  | vabs (f : Fmt) (vd va : BitVec 5) (k : BitVec 3)
  | vneg (f : Fmt) (vd va : BitVec 5) (k : BitVec 3)
  | vfma (f : Fmt) (vd va vb : BitVec 5) (k : BitVec 3)
  | vfms (f : Fmt) (vd va vb : BitVec 5) (k : BitVec 3)
  | vfnma (f : Fmt) (vd va vb : BitVec 5) (k : BitVec 3)
  | vceq (f : Fmt) (kd : BitVec 3) (va vb : BitVec 5) (k : BitVec 3)
  | vcne (f : Fmt) (kd : BitVec 3) (va vb : BitVec 5) (k : BitVec 3)
  | vclt (f : Fmt) (kd : BitVec 3) (va vb : BitVec 5) (k : BitVec 3)
  | vcle (f : Fmt) (kd : BitVec 3) (va vb : BitVec 5) (k : BitVec 3)
  | vcgt (f : Fmt) (kd : BitVec 3) (va vb : BitVec 5) (k : BitVec 3)
  | vcge (f : Fmt) (kd : BitVec 3) (va vb : BitVec 5) (k : BitVec 3)
  | vrsum (f : Fmt) (vd va : BitVec 5) (k : BitVec 3)
  | vrmax (f : Fmt) (vd va : BitVec 5) (k : BitVec 3)
  | vrmin (f : Fmt) (vd va : BitVec 5) (k : BitVec 3)
  | vperm (f : Fmt) (vd va vb : BitVec 5) (k : BitVec 3)
  | vbcast (f : Fmt) (vd va gb : BitVec 5) (k : BitVec 3)
  | vslideup (f : Fmt) (vd va gb : BitVec 5) (k : BitVec 3)
  | vslidedn (f : Fmt) (vd va gb : BitVec 5) (k : BitVec 3)
  | vcvt (dst src : Fmt) (rnd : Rnd) (vd va : BitVec 5) (k : BitVec 3)
  | vrcp (vd va : BitVec 5) (k : BitVec 3)
  | vrsq (vd va : BitVec 5) (k : BitVec 3)
  | vexp2 (vd va : BitVec 5) (k : BitVec 3)
  | vlog2 (vd va : BitVec 5) (k : BitVec 3)
  | vld (vd : BitVec 5) (a : BitVec 4) (disp : BitVec 5) (k : BitVec 3)
  | vst (vd : BitVec 5) (a : BitVec 4) (disp : BitVec 5) (k : BitVec 3)
  | vldBc (f : Fmt) (vd : BitVec 5) (a : BitVec 4) (disp : BitVec 5) (k : BitVec 3)
  | kand (kd ka kb : BitVec 3)
  | kor (kd ka kb : BitVec 3)
  | kxor (kd ka kb : BitVec 3)
  | knot (kd ka : BitVec 3)
  | kmov (kd ka : BitVec 3)
  | vmovg (f : Fmt) (vd : BitVec 5) (ga gb : BitVec 6)
  | vext (f : Fmt) (gd : BitVec 6) (va : BitVec 5) (gb : BitVec 6)
  | ksetg (f : Fmt) (kd : BitVec 3) (ga gb : BitVec 6)
  | kgetg (f : Fmt) (gd : BitVec 6) (ka : BitVec 3) (gb : BitVec 6)
  | vand (f : Fmt) (vd va vb : BitVec 5) (k : BitVec 3)
  | vor (f : Fmt) (vd va vb : BitVec 5) (k : BitVec 3)
  | vxor (f : Fmt) (vd va vb : BitVec 5) (k : BitVec 3)
  | vshl (f : Fmt) (vd va vb : BitVec 5) (k : BitVec 3)
  | vshr (f : Fmt) (vd va vb : BitVec 5) (k : BitVec 3)
  | vsra (f : Fmt) (vd va vb : BitVec 5) (k : BitVec 3)
  | agld (ad : BitVec 4) (ga : BitVec 6)
  | anew (gd ga : BitVec 6)
  | afree (ga : BitVec 6)
  | wire (gd : BitVec 6)
  | link (gd ga gb : BitVec 6)
  | adup (gd ga gb : BitVec 6)
  | aera (gd ga gb : BitVec 6)
  | payshare (gd ga : BitVec 6)
  | paydrop (gd ga : BitVec 6)
  | ruleset (a : BitVec 4)
  | rulepub
  | launch (e : EFlags) (gd : BitVec 6) (a : BitVec 4)
  | launchInd (e : EFlags) (gd : BitVec 6) (a : BitVec 4)
  | retire
  | retireS
  | yieldSlot
  | krel (gd ga : BitVec 6)
  | govset (ga gb : BitVec 6)
  | profrd (gd ga : BitVec 6)
  | mma (e : EFlags) (shape : BitVec 3) (f : Fmt) (acc : BitVec 2) (src : ASrc) (gb : BitVec 6)
  | mmaRg (e : EFlags) (shape : BitVec 3) (f : Fmt) (acc : BitVec 2) (q : BitVec 4) (gb : BitVec 6)
  | bld (e : EFlags) (tr : Bool) (f : Fmt) (tid : BitVec 16) (ga gb gc : BitVec 6)
  | aclr (acc : BitVec 2)
  | mxw (ga : BitVec 6)
  | mxwait
  | ast (e : EFlags) (z : Bool) (f : Fmt) (rnd : Rnd) (tid : BitVec 16) (acc : BitVec 2) (ga gb : BitVec 6)
  | cpy (e : EFlags) (ad sa : BitVec 4) (gb : BitVec 6)
  | cpyAdd (e : EFlags) (ad sa : BitVec 4) (gb : BitVec 6)
  | cpyMc (e : EFlags) (wx wy : BitVec 5) (gm : BitVec 6) (sa : BitVec 4) (gb : BitVec 6)
  | post (e : EFlags) (gr : BitVec 6) (sa : BitVec 4) (gb : BitVec 6)
  | postMb (e : EFlags) (ge gb : BitVec 6)
  | postQ (e : EFlags) (tag : BitVec 16) (ad sa : BitVec 4) (gb : BitVec 6)
  | toksend (e : EFlags) (gt : BitVec 6) (sa : BitVec 4) (gb : BitVec 6)
  | mboxCfg (ga : BitVec 6)
  | mboxRd (gd ga : BitVec 6)
  | csnap (a : BitVec 4) (ga : BitVec 6)
  | barInit (bar : BitVec 7) (ga gb : BitVec 6)
  | barArrive (bar : BitVec 7) (ga gk : BitVec 6)
  | barWait (bar : BitVec 7) (gt : BitVec 6)
  | extensionPrefix (ext : BitVec 26) (next : BitVec 32)
  | hint (bits : BitVec 26)
  | illegalInstruction (info : BitVec 64)
  | instructionFetch
  | reset
  | routerPowerGate (tower : Fin 4) (router : Fin 64)
  | routerWake (tower : Fin 4) (router : Fin 64)
  | portRequestLeave (core pick : Nat)
  | shaperRefill (tower : Fin 4)
  | sliceRequest (id : Nat)
  | translationWalk (q : WalkArgs)
  | remoteDataCacheRequest (id : Nat)
  | performAtHome (id : Nat)
  | responseDelivery (id : Nat)
  | announcementApply (dst home : Fin 4)
  | clockGapWriteResume (id : Nat)
  | l1LineExpiry (core asid vline : Nat)
  | accessRetry (key : Nat)
  | watchMessage (cluster line : Nat)
  | watchWithdrawal (cluster line : Nat)
  | watchWithdrawalAck (cluster line : Nat)
  | wakeWrite (cluster line : Nat)
  | waitTimeout (key : Nat)
  | sleepExpiry (key : Nat)
  | barWaitTimeout (key : Nat)
  | busySlotPoll (key : Nat)
  | busyWaitReport (key : Nat)
  | shootdownDescriptor (sd : Shootdown) (tower : Fin 4) (slice : Fin 64)
  | shootdownDrainComplete (id : Nat) (tower : Fin 4) (slice : Fin 64)
  | shootdownAck (id : Nat) (tower : Fin 4) (slice : Fin 64)
  | migrationWriteStall (frame bytes : Nat)
  | migrationStallLift (frame bytes : Nat)
  | uncorrectableError (place : ErrorPlace)
  | meetEnqueue (asid x y : Nat)
  | heldEnqueueEntry (tower : Fin 4)
  | slotFill (key : Nat)
  | keyRequest (unit lockKey : Nat)
  | keyGrant (unit lockKey : Nat)
  | keyRelease (lockKey : Nat)
  | keyTableEntryFree (tower : Fin 4)
  | groupPlacement (launch : Nat)
  | groupDispatch (gid core : Nat)
  | successorStart (gid : Nat)
  | governorEvaluation (tower : Fin 4)
  | governorSetting (tower : Fin 4) (key : Nat) (ga gb : BitVec 64)
  | rulePublicationFlip (tower : Fin 4) (asid key : Nat)
  | preemptionRequest (key : Nat)
  | taskSuspension (key : Nat)
  | taskRelease (tid : Nat)
  | taskRestore (tid : Nat)
  | courierEndTask (tid : Nat)
  | coreFault (core : Nat) (readable passes : Bool)
  | coreStallDetect (core : Nat) (readable passes : Bool)
  | remoteRegisterAccess (tower : Fin 4) (write : Bool) (num : BitVec 12) (val : BitVec 64)
  | matrixArbiterSelect (cluster : Nat)
  | mmaKStep (cluster : Nat)
  | mmaRgChunkStart (cluster : Nat)
  | matrixCommandStop (cluster : Nat)
  | matrixCommandComplete (cluster : Nat)
  | engineCommandStart (cluster pieces : Nat)
  | enginePieceWrite (id : Nat)
  | heldWriteRelease (id : Nat)
  | heldWriteAbandon (id : Nat)
  | heldWriteRoomFree (id : Nat)
  | completionWordWrite (id : Nat)
  | multicastReplicate (id : Nat)
  | postDelivery (id : Nat)
  | ringReservationResume (id : Nat)
  | fillReport (id : Nat)
  | postQRecordSend (id : Nat)
  | tokenRowArrival (id : Nat)
  | mailboxArrival (id : Nat)
  | barrierArrival (arr : Arrival)
  | frameBarrierArrival (tid : Nat) (arr : Arrival)
  | freeRingHeldPublish (tower : Fin 4)
  | peerAcknowledge (id : Nat)
  | ewefonisLinkFailure (link : Fin 12)
  | linkTrainingComplete (link : Fin 12) (peer : Fin 8) (peerLink : BitVec 4)
  | droopDetect (tower : Fin 4)
  | droopRecover (tower : Fin 4)
  | ringTailDoorbell (ring : Fin 16) (tail : BitVec 32)
  | ringRestart (ring : Fin 16) (newhead : BitVec 32)
  | ringEnable (ring : Fin 16) (enable : Bool)
  | packetNop (ring : Fin 16)
  | packetLaunch (ring : Fin 16)
  | packetLaunchInd (ring : Fin 16)
  | packetCopy (ring : Fin 16)
  | packetCopyAdd (ring : Fin 16)
  | packetSignalWrite (ring : Fin 16)
  | packetSignalAdd (ring : Fin 16)
  | packetWaitNe (ring : Fin 16)
  | packetWaitGe (ring : Fin 16)
  | packetWaitTimeout (ring : Fin 16)
  | identity
  | attest (nonce : List (BitVec 8)) (bus : Nat)
  | createAs (tenant : Fin 4) (seed : BitVec 64) (grant : AsGrant)
  | destroyAs (asid : Nat)
  | ringSetup (ring : Fin 16) (loc : Bool) (base : BitVec 56) (size : BitVec 5) (asid : BitVec 16)
  | tensorSet (asid id : Nat) (image : List (BitVec 8))
  | bar2Write (addr : Nat) (data : List (BitVec 8))
  | bar2Read (addr len : Nat)
  | bar0RegisterWrite (off : BitVec 20) (data : List (BitVec 8))
  | enumerationUpdate
  | dieLinkStateChange (die : Fin 4) (st : DieState)
  | sliceMarkedDead (tower : Fin 4) (slice : Fin 64)
  | memoryTrainingComplete (fail : Option TrainFail)
  deriving DecidableEq, Repr

end Sys2Proof
end

