-- ==== Sys2Proof/WellFormed.lean ====
section
/-! DEFINITION. Which terms of `Instr` are instructions: the formats each accepts (04 R64) and the combinations R41 refuses.
Every other bound of an instruction's fields is in the type of the field. -/

namespace Sys2Proof

/-! ## Accepted formats (04 R64) -/

def Fmt.any : Fmt → Bool := fun _ => true

/-- VADD to VNEG. -/
def Fmt.laneArith : Fmt → Bool
  | .fp32 | .bf16 | .fp16 | .int8 | .uint8 | .int32 => true
  | .e4m3 | .e5m2 | .mk8 => false

/-- VFMA, VFMS, VFNMA. -/
def Fmt.fma : Fmt → Bool
  | .fp32 | .bf16 | .fp16 => true
  | .e4m3 | .e5m2 | .mk8 | .int8 | .uint8 | .int32 => false

/-- VRSUM, VRMAX, VRMIN. -/
def Fmt.reduce : Fmt → Bool
  | .fp32 | .bf16 | .fp16 | .int32 => true
  | .e4m3 | .e5m2 | .mk8 | .int8 | .uint8 => false

/-- VRCP, VRSQ, VEXP2, VLOG2. -/
def Fmt.only32 : Fmt → Bool
  | .fp32 => true
  | .bf16 | .fp16 | .e4m3 | .e5m2 | .mk8 | .int8 | .uint8 | .int32 => false

/-- VAND to VSRA. -/
def Fmt.bitwise : Fmt → Bool
  | .int8 | .uint8 | .int32 => true
  | .fp32 | .bf16 | .fp16 | .e4m3 | .e5m2 | .mk8 => false

/-- MMA, MMA.RG, BLD. -/
def Fmt.matrix : Fmt → Bool
  | .bf16 | .fp16 | .e4m3 | .e5m2 | .mk8 => true
  | .fp32 | .int8 | .uint8 | .int32 => false

/-- The destination of AST. -/
def Fmt.astDst : Fmt → Bool
  | .fp32 | .bf16 | .fp16 | .e4m3 | .e5m2 | .mk8 => true
  | .int8 | .uint8 | .int32 => false

/-- Formats of 16 bits, which shapes s5 and s7 refuse (02 R37). -/
def Fmt.sixteen : Fmt → Bool
  | .bf16 | .fp16 => true
  | .fp32 | .e4m3 | .e5m2 | .mk8 | .int8 | .uint8 | .int32 => false

/-- s5 and s7 take 8-bit formats only (02 R37, R41). -/
def shapeTakes (shape : BitVec 3) (f : Fmt) : Bool := !((shape == 5#3 || shape == 7#3) && f.sixteen)

/-- An instruction whose coded fields all carry values its description accepts. -/
def Instr.wf : Instr → Bool
  | .vadd f .. | .vsub f .. | .vmul f .. | .vmin f .. | .vmax f .. | .vabs f .. | .vneg f .. => f.laneArith
  | .vfma f .. | .vfms f .. | .vfnma f .. => f.fma
  | .vrsum f .. | .vrmax f .. | .vrmin f .. => f.reduce
  | .vand f .. | .vor f .. | .vxor f .. | .vshl f .. | .vshr f .. | .vsra f .. => f.bitwise
  | .mma _ shape f .. | .mmaRg _ shape f .. => f.matrix && shapeTakes shape f
  | .bld _ _ f .. => f.matrix
  | .ast _ _ f .. => f.astDst
  | _ => true

end Sys2Proof
end

