-- ==== Sys2Proof/Decode.lean ====
section
/-! DEFINITION. Decoding and encoding of Dreok words (02 R27-R32, R38-R42; 04 R63-R65). `decode` is total: every word is an
instruction or is rejected by name with the information word that R41 gives the illegal instruction trap. -/

namespace Sys2Proof

/-! ## Fields (02 R28) -/

def fMajor (w : IWord) : BitVec 6 := w.extractLsb' 26 6
def fD (w : IWord) : BitVec 6 := w.extractLsb' 20 6
def fA (w : IWord) : BitVec 6 := w.extractLsb' 14 6
def fB (w : IWord) : BitVec 6 := w.extractLsb' 8 6
def fFn (w : IWord) : BitVec 8 := w.extractLsb' 0 8
def fImm14 (w : IWord) : BitVec 14 := w.extractLsb' 0 14
def fImm20 (w : IWord) : BitVec 20 := w.extractLsb' 0 20
def fCond (w : IWord) : BitVec 4 := w.extractLsb' 22 4
def fBa (w : IWord) : BitVec 6 := w.extractLsb' 16 6
def fOff16 (w : IWord) : BitVec 16 := w.extractLsb' 0 16
def fVd (w : IWord) : BitVec 5 := w.extractLsb' 21 5
def fVa (w : IWord) : BitVec 5 := w.extractLsb' 16 5
def fVb (w : IWord) : BitVec 5 := w.extractLsb' 11 5
def fVm (w : IWord) : BitVec 3 := w.extractLsb' 8 3
def fExt (w : IWord) : BitVec 26 := w.extractLsb' 0 26

/-- The mode or shape field of an E second word. -/
def eMode (w : IWord) : BitVec 3 := w.extractLsb' 21 3
/-- The tensor id field of an E second word. -/
def eTid (w : IWord) : BitVec 16 := w.extractLsb' 0 16
/-- The flags and scope of an E second word. -/
def eFlags (w : IWord) : EFlags := ⟨w.extractLsb' 16 2, w.getLsbD 20, w.getLsbD 19, w.getLsbD 18⟩

/-- The low four bits of a field name an address register or a ring handle, the low three a mask (02 R29). -/
def lo4 (x : BitVec 6) : BitVec 4 := x.extractLsb' 0 4
def lo5 (x : BitVec 6) : BitVec 5 := x.extractLsb' 0 5
def lo3 (x : BitVec 6) : BitVec 3 := x.extractLsb' 0 3
def lo2 (x : BitVec 6) : BitVec 2 := x.extractLsb' 0 2
def vlo4 (x : BitVec 5) : BitVec 4 := x.extractLsb' 0 4
def vlo3 (x : BitVec 5) : BitVec 3 := x.extractLsb' 0 3
/-- The upper half of an 8-bit function field: an operation or a rounding code. -/
def fnHi (x : BitVec 8) : BitVec 4 := x.extractLsb' 4 4
/-- The lower half of an 8-bit function field: a format code or an operation. -/
def fnLo (x : BitVec 8) : BitVec 4 := x.extractLsb' 0 4

/-! ## Codes (02 R34, R35) -/

def Fmt.ofCode : BitVec 4 → Option Fmt
  | 0#4 => some .fp32 | 1#4 => some .bf16 | 2#4 => some .fp16 | 3#4 => some .e4m3 | 4#4 => some .e5m2
  | 5#4 => some .mk8 | 6#4 => some .int8 | 7#4 => some .uint8 | 8#4 => some .int32 | _ => none

def Fmt.code : Fmt → BitVec 4
  | .fp32 => 0#4 | .bf16 => 1#4 | .fp16 => 2#4 | .e4m3 => 3#4 | .e5m2 => 4#4
  | .mk8 => 5#4 | .int8 => 6#4 | .uint8 => 7#4 | .int32 => 8#4

def Rnd.ofCode : BitVec 4 → Option Rnd
  | 0#4 => some .rne | 1#4 => some .rz | 2#4 => some .ru | 3#4 => some .rd | 4#4 => some .sr | _ => none

def Rnd.code : Rnd → BitVec 4
  | .rne => 0#4 | .rz => 1#4 | .ru => 2#4 | .rd => 3#4 | .sr => 4#4

/-! ## Rejections (02 R41) -/

/-- Why a word is not an instruction: the cases of R41 that raise illegal instruction. -/
inductive RejectWhy where
  /-- A major the map does not assign. -/
  | unassignedMajor
  /-- A function or selector value the map does not list. -/
  | unlistedFunction
  /-- A reserved value in a coded subfield, or an unlisted mode. -/
  | reservedValue
  /-- A format the instruction's description does not accept. -/
  | formatNotAccepted
  /-- LDA with the signal bit, MMA.RG with fn [5], s5 or s7 with a 16-bit format, RED.FADD without .W. -/
  | badCombination
  deriving DecidableEq, Repr

/-- A rejection, with the information word of R41. -/
structure Reject where
  why  : RejectWhy
  info : Word
  deriving DecidableEq, Repr

abbrev Decoded := Except Reject Instr

/-- The information word of a one-word instruction (R41). -/
def info1 (w : IWord) : Word := w.setWidth 64
/-- The information word of an E-format instruction: the first word in [31:0], the second in [63:32] (R41). -/
def info2 (w0 w1 : IWord) : Word := w1 ++ w0

def reject (why : RejectWhy) (info : Word) : Decoded := .error ⟨why, info⟩

/-- Decodes a format code that must be one the instruction accepts (R34, R64). -/
def withFmt (ok : Fmt → Bool) (code : BitVec 4) (info : Word) (mk : Fmt → Instr) : Decoded :=
  match Fmt.ofCode code with
  | none => reject .reservedValue info
  | some f => if ok f then .ok (mk f) else reject .formatNotAccepted info

/-! ## Decoding by major (02 R38-R40) -/

def dec00 (w : IWord) : Decoded :=
  match fFn w with
  | 0#8 => .ok (.add (fD w) (fA w) (fB w))
  | 1#8 => .ok (.sub (fD w) (fA w) (fB w))
  | 2#8 => .ok (.and (fD w) (fA w) (fB w))
  | 3#8 => .ok (.or (fD w) (fA w) (fB w))
  | 4#8 => .ok (.xor (fD w) (fA w) (fB w))
  | 5#8 => .ok (.sll (fD w) (fA w) (fB w))
  | 6#8 => .ok (.srl (fD w) (fA w) (fB w))
  | 7#8 => .ok (.sra (fD w) (fA w) (fB w))
  | 8#8 => .ok (.mul (fD w) (fA w) (fB w))
  | 9#8 => .ok (.mulh (fD w) (fA w) (fB w))
  | 10#8 => .ok (.mulhu (fD w) (fA w) (fB w))
  | 11#8 => .ok (.div (fD w) (fA w) (fB w))
  | 12#8 => .ok (.divu (fD w) (fA w) (fB w))
  | 13#8 => .ok (.rem (fD w) (fA w) (fB w))
  | 14#8 => .ok (.remu (fD w) (fA w) (fB w))
  | 15#8 => .ok (.min (fD w) (fA w) (fB w))
  | 16#8 => .ok (.max (fD w) (fA w) (fB w))
  | 17#8 => .ok (.minu (fD w) (fA w) (fB w))
  | 18#8 => .ok (.maxu (fD w) (fA w) (fB w))
  | 19#8 => .ok (.seq (fD w) (fA w) (fB w))
  | 20#8 => .ok (.sne (fD w) (fA w) (fB w))
  | 21#8 => .ok (.slt (fD w) (fA w) (fB w))
  | 22#8 => .ok (.sltu (fD w) (fA w) (fB w))
  | 23#8 => .ok (.clz (fD w) (fA w))
  | 24#8 => .ok (.ctz (fD w) (fA w))
  | 25#8 => .ok (.popc (fD w) (fA w))
  | _ => reject .unlistedFunction (info1 w)

def dec05 (w : IWord) : Decoded :=
  match (fImm14 w).extractLsb' 6 2 with
  | 0#2 => .ok (.slli (fD w) (fA w) ((fImm14 w).extractLsb' 0 6))
  | 1#2 => .ok (.srli (fD w) (fA w) ((fImm14 w).extractLsb' 0 6))
  | 2#2 => .ok (.srai (fD w) (fA w) ((fImm14 w).extractLsb' 0 6))
  | _ => reject .reservedValue (info1 w)

def dec09 (w : IWord) : Decoded :=
  match fFn w with
  | 0#8 => .ok (.amov (lo4 (fD w)) (lo4 (fA w)))
  | 1#8 => .ok (.aset (lo4 (fD w)) (fA w) (fB w))
  | 2#8 => .ok (.asetl (lo4 (fD w)) (fA w))
  | 3#8 => .ok (.aperm (lo4 (fD w)) (fA w))
  | 4#8 => .ok (.aadv (lo4 (fD w)) (fA w))
  | 5#8 => .ok (.aget (fD w) (lo4 (fA w)))
  | 6#8 => .ok (.agetb (fD w) (lo4 (fA w)))
  | 7#8 => .ok (.agetl (fD w) (lo4 (fA w)))
  | 8#8 => .ok (.agetp (fD w) (lo4 (fA w)))
  | _ => reject .unlistedFunction (info1 w)

def dec10 (w : IWord) : Decoded :=
  match (fImm14 w).extractLsb' 0 3 with
  | 0#3 => .ok (.ldB (fD w) (lo4 (fA w)) ((fImm14 w).extractLsb' 3 11))
  | 1#3 => .ok (.ldH (fD w) (lo4 (fA w)) ((fImm14 w).extractLsb' 3 11))
  | 2#3 => .ok (.ldW (fD w) (lo4 (fA w)) ((fImm14 w).extractLsb' 3 11))
  | 3#3 => .ok (.ldD (fD w) (lo4 (fA w)) ((fImm14 w).extractLsb' 3 11))
  | 4#3 => .ok (.ldBu (fD w) (lo4 (fA w)) ((fImm14 w).extractLsb' 3 11))
  | 5#3 => .ok (.ldHu (fD w) (lo4 (fA w)) ((fImm14 w).extractLsb' 3 11))
  | 6#3 => .ok (.ldWu (fD w) (lo4 (fA w)) ((fImm14 w).extractLsb' 3 11))
  | _ => reject .reservedValue (info1 w)

def dec11 (w : IWord) : Decoded :=
  let sig := (fImm14 w).getLsbD 2
  match (fImm14 w).extractLsb' 0 2 with
  | 0#2 => .ok (.stB sig (fD w) (lo4 (fA w)) ((fImm14 w).extractLsb' 3 11))
  | 1#2 => .ok (.stH sig (fD w) (lo4 (fA w)) ((fImm14 w).extractLsb' 3 11))
  | 2#2 => .ok (.stW sig (fD w) (lo4 (fA w)) ((fImm14 w).extractLsb' 3 11))
  | 3#2 => .ok (.stD sig (fD w) (lo4 (fA w)) ((fImm14 w).extractLsb' 3 11))

def dec12 (w : IWord) : Decoded :=
  match fnLo (fFn w) with
  | 0#4 => .ok (.amoAdd ((fFn w).extractLsb' 6 2) ((fFn w).getLsbD 5) ((fFn w).getLsbD 4) (fD w) (lo4 (fA w)) (fB w))
  | 1#4 => .ok (.amoAnd ((fFn w).extractLsb' 6 2) ((fFn w).getLsbD 5) ((fFn w).getLsbD 4) (fD w) (lo4 (fA w)) (fB w))
  | 2#4 => .ok (.amoOr ((fFn w).extractLsb' 6 2) ((fFn w).getLsbD 5) ((fFn w).getLsbD 4) (fD w) (lo4 (fA w)) (fB w))
  | 3#4 => .ok (.amoXor ((fFn w).extractLsb' 6 2) ((fFn w).getLsbD 5) ((fFn w).getLsbD 4) (fD w) (lo4 (fA w)) (fB w))
  | 4#4 => .ok (.amoMin ((fFn w).extractLsb' 6 2) ((fFn w).getLsbD 5) ((fFn w).getLsbD 4) (fD w) (lo4 (fA w)) (fB w))
  | 5#4 => .ok (.amoMax ((fFn w).extractLsb' 6 2) ((fFn w).getLsbD 5) ((fFn w).getLsbD 4) (fD w) (lo4 (fA w)) (fB w))
  | 6#4 => .ok (.amoMinu ((fFn w).extractLsb' 6 2) ((fFn w).getLsbD 5) ((fFn w).getLsbD 4) (fD w) (lo4 (fA w)) (fB w))
  | 7#4 => .ok (.amoMaxu ((fFn w).extractLsb' 6 2) ((fFn w).getLsbD 5) ((fFn w).getLsbD 4) (fD w) (lo4 (fA w)) (fB w))
  | 8#4 => .ok (.amoSwap ((fFn w).extractLsb' 6 2) ((fFn w).getLsbD 5) ((fFn w).getLsbD 4) (fD w) (lo4 (fA w)) (fB w))
  | 9#4 => .ok (.cas ((fFn w).extractLsb' 6 2) ((fFn w).getLsbD 5) ((fFn w).getLsbD 4) (fD w) (lo4 (fA w)) (fB w))
  | 10#4 => .ok (.casGt ((fFn w).extractLsb' 6 2) ((fFn w).getLsbD 5) ((fFn w).getLsbD 4) (fD w) (lo4 (fA w)) (fB w))
  | 11#4 => .ok (.casVer ((fFn w).extractLsb' 6 2) ((fFn w).getLsbD 5) ((fFn w).getLsbD 4) (fD w) (lo4 (fA w)) (fB w))
  | 12#4 => .ok (.casPtag ((fFn w).extractLsb' 6 2) ((fFn w).getLsbD 5) ((fFn w).getLsbD 4) (fD w) (lo4 (fA w)) (fB w))
  | _ => reject .reservedValue (info1 w)

def dec13 (w : IWord) : Decoded :=
  match fnLo (fFn w) with
  | 0#4 => .ok (.redAdd ((fFn w).extractLsb' 6 2) ((fFn w).getLsbD 5) ((fFn w).getLsbD 4) (lo4 (fA w)) (fB w))
  | 1#4 => .ok (.redAnd ((fFn w).extractLsb' 6 2) ((fFn w).getLsbD 5) ((fFn w).getLsbD 4) (lo4 (fA w)) (fB w))
  | 2#4 => .ok (.redOr ((fFn w).extractLsb' 6 2) ((fFn w).getLsbD 5) ((fFn w).getLsbD 4) (lo4 (fA w)) (fB w))
  | 3#4 => .ok (.redXor ((fFn w).extractLsb' 6 2) ((fFn w).getLsbD 5) ((fFn w).getLsbD 4) (lo4 (fA w)) (fB w))
  | 4#4 => .ok (.redMin ((fFn w).extractLsb' 6 2) ((fFn w).getLsbD 5) ((fFn w).getLsbD 4) (lo4 (fA w)) (fB w))
  | 5#4 => .ok (.redMax ((fFn w).extractLsb' 6 2) ((fFn w).getLsbD 5) ((fFn w).getLsbD 4) (lo4 (fA w)) (fB w))
  | 6#4 => .ok (.redMinu ((fFn w).extractLsb' 6 2) ((fFn w).getLsbD 5) ((fFn w).getLsbD 4) (lo4 (fA w)) (fB w))
  | 7#4 => .ok (.redMaxu ((fFn w).extractLsb' 6 2) ((fFn w).getLsbD 5) ((fFn w).getLsbD 4) (lo4 (fA w)) (fB w))
  | 8#4 => if (fFn w).getLsbD 4 then .ok (.redFadd ((fFn w).extractLsb' 6 2) ((fFn w).getLsbD 5) (lo4 (fA w)) (fB w))
      else reject .badCombination (info1 w)
  | _ => reject .reservedValue (info1 w)

def dec14 (w : IWord) : Decoded :=
  if (fFn w).getLsbD 5 then
    .ok (.stl ((fFn w).extractLsb' 6 2) ((fFn w).getLsbD 4) ((fFn w).extractLsb' 0 2) (fD w) (lo4 (fA w)))
  else if (fFn w).getLsbD 4 then reject .badCombination (info1 w)
  else .ok (.lda ((fFn w).extractLsb' 6 2) ((fFn w).extractLsb' 0 2) (fD w) (lo4 (fA w)))

def dec15 (w : IWord) : Decoded :=
  match fFn w with
  | 0#8 => .ok (.fence 0#2)
  | 1#8 => .ok (.fence 1#2)
  | 2#8 => .ok (.fence 2#2)
  | 3#8 => .ok (.fence 3#2)
  | 16#8 => .ok (.waitW (fD w) (lo4 (fA w)) (fB w))
  | 17#8 => .ok (.waitD (fD w) (lo4 (fA w)) (fB w))
  | _ => reject .unlistedFunction (info1 w)

def dec18 (w : IWord) : Decoded :=
  match fCond w with
  | 0#4 => .ok (.bra (fOff16 w))
  | 1#4 => .ok (.beqz (fBa w) (fOff16 w))
  | 2#4 => .ok (.bnez (fBa w) (fOff16 w))
  | 3#4 => .ok (.bltz (fBa w) (fOff16 w))
  | 4#4 => .ok (.bgez (fBa w) (fOff16 w))
  | 5#4 => .ok (.bgtz (fBa w) (fOff16 w))
  | 6#4 => .ok (.blez (fBa w) (fOff16 w))
  | 7#4 => .ok (.bkany (lo3 (fBa w)) (fOff16 w))
  | 8#4 => .ok (.bknone (lo3 (fBa w)) (fOff16 w))
  | _ => reject .reservedValue (info1 w)

def dec1A (w : IWord) : Decoded :=
  match fFn w with
  | 0#8 => .ok (.jmp (fA w))
  | 1#8 => .ok (.callr (fD w) (fA w))
  | _ => reject .unlistedFunction (info1 w)

def dec1B (w : IWord) : Decoded :=
  match fFn w with
  | 0#8 => .ok (.rwaitH (lo4 (fA w)) (fB w))
  | 1#8 => .ok (.rwaitT (lo4 (fA w)) (fB w))
  | 2#8 => .ok (.radvH (lo4 (fA w)) (fB w))
  | 3#8 => .ok (.radvT (lo4 (fA w)) (fB w))
  | 4#8 => .ok (.rfill (fD w) (lo4 (fA w)))
  | 5#8 => .ok (.rfree (fD w) (lo4 (fA w)))
  | 6#8 => .ok (.rbind (lo4 (fD w)) (lo4 (fA w)))
  | _ => reject .unlistedFunction (info1 w)

def dec1E (w : IWord) : Decoded :=
  match fFn w with
  | 0#8 => .ok (.trap (w.extractLsb' 8 18))
  | 1#8 => .ok .eret
  | 2#8 => .ok (.sleep (fA w))
  | 3#8 => .ok (.movb (lo4 (fD w)) (lo4 (fA w)) (fB w))
  | 4#8 => .ok (.rep (fA w))
  | _ => reject .unlistedFunction (info1 w)

def dec20 (w : IWord) : Decoded :=
  match fnHi (fFn w) with
  | 0#4 => withFmt Fmt.laneArith (fnLo (fFn w)) (info1 w) fun f => .vadd f (fVd w) (fVa w) (fVb w) (fVm w)
  | 1#4 => withFmt Fmt.laneArith (fnLo (fFn w)) (info1 w) fun f => .vsub f (fVd w) (fVa w) (fVb w) (fVm w)
  | 2#4 => withFmt Fmt.laneArith (fnLo (fFn w)) (info1 w) fun f => .vmul f (fVd w) (fVa w) (fVb w) (fVm w)
  | 3#4 => withFmt Fmt.laneArith (fnLo (fFn w)) (info1 w) fun f => .vmin f (fVd w) (fVa w) (fVb w) (fVm w)
  | 4#4 => withFmt Fmt.laneArith (fnLo (fFn w)) (info1 w) fun f => .vmax f (fVd w) (fVa w) (fVb w) (fVm w)
  | 5#4 => withFmt Fmt.laneArith (fnLo (fFn w)) (info1 w) fun f => .vabs f (fVd w) (fVa w) (fVm w)
  | 6#4 => withFmt Fmt.laneArith (fnLo (fFn w)) (info1 w) fun f => .vneg f (fVd w) (fVa w) (fVm w)
  | _ => reject .unlistedFunction (info1 w)

def dec21 (w : IWord) : Decoded :=
  match fnHi (fFn w) with
  | 0#4 => withFmt Fmt.fma (fnLo (fFn w)) (info1 w) fun f => .vfma f (fVd w) (fVa w) (fVb w) (fVm w)
  | 1#4 => withFmt Fmt.fma (fnLo (fFn w)) (info1 w) fun f => .vfms f (fVd w) (fVa w) (fVb w) (fVm w)
  | 2#4 => withFmt Fmt.fma (fnLo (fFn w)) (info1 w) fun f => .vfnma f (fVd w) (fVa w) (fVb w) (fVm w)
  | _ => reject .unlistedFunction (info1 w)

def dec22 (w : IWord) : Decoded :=
  match fnHi (fFn w) with
  | 0#4 => withFmt Fmt.any (fnLo (fFn w)) (info1 w) fun f => .vceq f (vlo3 (fVd w)) (fVa w) (fVb w) (fVm w)
  | 1#4 => withFmt Fmt.any (fnLo (fFn w)) (info1 w) fun f => .vcne f (vlo3 (fVd w)) (fVa w) (fVb w) (fVm w)
  | 2#4 => withFmt Fmt.any (fnLo (fFn w)) (info1 w) fun f => .vclt f (vlo3 (fVd w)) (fVa w) (fVb w) (fVm w)
  | 3#4 => withFmt Fmt.any (fnLo (fFn w)) (info1 w) fun f => .vcle f (vlo3 (fVd w)) (fVa w) (fVb w) (fVm w)
  | 4#4 => withFmt Fmt.any (fnLo (fFn w)) (info1 w) fun f => .vcgt f (vlo3 (fVd w)) (fVa w) (fVb w) (fVm w)
  | 5#4 => withFmt Fmt.any (fnLo (fFn w)) (info1 w) fun f => .vcge f (vlo3 (fVd w)) (fVa w) (fVb w) (fVm w)
  | _ => reject .unlistedFunction (info1 w)

def dec23 (w : IWord) : Decoded :=
  match fnHi (fFn w) with
  | 0#4 => withFmt Fmt.reduce (fnLo (fFn w)) (info1 w) fun f => .vrsum f (fVd w) (fVa w) (fVm w)
  | 1#4 => withFmt Fmt.reduce (fnLo (fFn w)) (info1 w) fun f => .vrmax f (fVd w) (fVa w) (fVm w)
  | 2#4 => withFmt Fmt.reduce (fnLo (fFn w)) (info1 w) fun f => .vrmin f (fVd w) (fVa w) (fVm w)
  | _ => reject .unlistedFunction (info1 w)

def dec24 (w : IWord) : Decoded :=
  match fnHi (fFn w) with
  | 0#4 => withFmt Fmt.any (fnLo (fFn w)) (info1 w) fun f => .vperm f (fVd w) (fVa w) (fVb w) (fVm w)
  | 1#4 => withFmt Fmt.any (fnLo (fFn w)) (info1 w) fun f => .vbcast f (fVd w) (fVa w) (fVb w) (fVm w)
  | 2#4 => withFmt Fmt.any (fnLo (fFn w)) (info1 w) fun f => .vslideup f (fVd w) (fVa w) (fVb w) (fVm w)
  | 3#4 => withFmt Fmt.any (fnLo (fFn w)) (info1 w) fun f => .vslidedn f (fVd w) (fVa w) (fVb w) (fVm w)
  | _ => reject .unlistedFunction (info1 w)

def dec25 (w : IWord) : Decoded :=
  match Fmt.ofCode (fnLo (fFn w)), Fmt.ofCode (vlo4 (fVb w)), Rnd.ofCode (fnHi (fFn w)) with
  | some dst, some src, some rnd => .ok (.vcvt dst src rnd (fVd w) (fVa w) (fVm w))
  | _, _, _ => reject .reservedValue (info1 w)

def dec26 (w : IWord) : Decoded :=
  match fnHi (fFn w) with
  | 0#4 => withFmt Fmt.only32 (fnLo (fFn w)) (info1 w) fun _ => .vrcp (fVd w) (fVa w) (fVm w)
  | 1#4 => withFmt Fmt.only32 (fnLo (fFn w)) (info1 w) fun _ => .vrsq (fVd w) (fVa w) (fVm w)
  | 2#4 => withFmt Fmt.only32 (fnLo (fFn w)) (info1 w) fun _ => .vexp2 (fVd w) (fVa w) (fVm w)
  | 3#4 => withFmt Fmt.only32 (fnLo (fFn w)) (info1 w) fun _ => .vlog2 (fVd w) (fVa w) (fVm w)
  | _ => reject .unlistedFunction (info1 w)

def dec27 (w : IWord) : Decoded :=
  match fnHi (fFn w) with
  | 0#4 => .ok (.vld (fVd w) (vlo4 (fVa w)) (fVb w) (fVm w))
  | 1#4 => .ok (.vst (fVd w) (vlo4 (fVa w)) (fVb w) (fVm w))
  | 2#4 => withFmt Fmt.any (fnLo (fFn w)) (info1 w) fun f => .vldBc f (fVd w) (vlo4 (fVa w)) (fVb w) (fVm w)
  | _ => reject .unlistedFunction (info1 w)

def dec28 (w : IWord) : Decoded :=
  match fnHi (fFn w) with
  | 0#4 => .ok (.kand (vlo3 (fVd w)) (vlo3 (fVa w)) (vlo3 (fVb w)))
  | 1#4 => .ok (.kor (vlo3 (fVd w)) (vlo3 (fVa w)) (vlo3 (fVb w)))
  | 2#4 => .ok (.kxor (vlo3 (fVd w)) (vlo3 (fVa w)) (vlo3 (fVb w)))
  | 3#4 => .ok (.knot (vlo3 (fVd w)) (vlo3 (fVa w)))
  | 4#4 => .ok (.kmov (vlo3 (fVd w)) (vlo3 (fVa w)))
  | _ => reject .unlistedFunction (info1 w)

def dec29 (w : IWord) : Decoded :=
  match fnHi (fFn w) with
  | 0#4 => withFmt Fmt.any (fnLo (fFn w)) (info1 w) fun f => .vmovg f (lo5 (fD w)) (fA w) (fB w)
  | 1#4 => withFmt Fmt.any (fnLo (fFn w)) (info1 w) fun f => .vext f (fD w) (lo5 (fA w)) (fB w)
  | 2#4 => withFmt Fmt.any (fnLo (fFn w)) (info1 w) fun f => .ksetg f (lo3 (fD w)) (fA w) (fB w)
  | 3#4 => withFmt Fmt.any (fnLo (fFn w)) (info1 w) fun f => .kgetg f (fD w) (lo3 (fA w)) (fB w)
  | _ => reject .unlistedFunction (info1 w)

def dec2A (w : IWord) : Decoded :=
  match fnHi (fFn w) with
  | 0#4 => withFmt Fmt.bitwise (fnLo (fFn w)) (info1 w) fun f => .vand f (fVd w) (fVa w) (fVb w) (fVm w)
  | 1#4 => withFmt Fmt.bitwise (fnLo (fFn w)) (info1 w) fun f => .vor f (fVd w) (fVa w) (fVb w) (fVm w)
  | 2#4 => withFmt Fmt.bitwise (fnLo (fFn w)) (info1 w) fun f => .vxor f (fVd w) (fVa w) (fVb w) (fVm w)
  | 3#4 => withFmt Fmt.bitwise (fnLo (fFn w)) (info1 w) fun f => .vshl f (fVd w) (fVa w) (fVb w) (fVm w)
  | 4#4 => withFmt Fmt.bitwise (fnLo (fFn w)) (info1 w) fun f => .vshr f (fVd w) (fVa w) (fVb w) (fVm w)
  | 5#4 => withFmt Fmt.bitwise (fnLo (fFn w)) (info1 w) fun f => .vsra f (fVd w) (fVa w) (fVb w) (fVm w)
  | _ => reject .unlistedFunction (info1 w)

def dec30 (w : IWord) : Decoded :=
  match fFn w with
  | 0#8 => .ok (.agld (lo4 (fD w)) (fA w))
  | 1#8 => .ok (.anew (fD w) (fA w))
  | 2#8 => .ok (.afree (fA w))
  | 3#8 => .ok (.wire (fD w))
  | 4#8 => .ok (.link (fD w) (fA w) (fB w))
  | 5#8 => .ok (.adup (fD w) (fA w) (fB w))
  | 6#8 => .ok (.aera (fD w) (fA w) (fB w))
  | 7#8 => .ok (.payshare (fD w) (fA w))
  | 8#8 => .ok (.paydrop (fD w) (fA w))
  | _ => reject .unlistedFunction (info1 w)

def dec31 (w : IWord) : Decoded :=
  match fFn w with
  | 0#8 => .ok (.ruleset (lo4 (fA w)))
  | 1#8 => .ok .rulepub
  | _ => reject .unlistedFunction (info1 w)

def dec33 (w : IWord) : Decoded :=
  match fFn w with
  | 0#8 => .ok .retire
  | 1#8 => .ok .retireS
  | 2#8 => .ok .yieldSlot
  | 3#8 => .ok (.krel (fD w) (fA w))
  | _ => reject .unlistedFunction (info1 w)

def dec34 (w : IWord) : Decoded :=
  match fFn w with
  | 0#8 => .ok (.govset (fA w) (fB w))
  | 1#8 => .ok (.profrd (fD w) (fA w))
  | _ => reject .unlistedFunction (info1 w)

def dec38 (w : IWord) : Decoded :=
  match fFn w with
  | 0#8 => .ok (.aclr (lo2 (fD w)))
  | 1#8 => .ok (.mxw (fA w))
  | 2#8 => .ok .mxwait
  | _ => reject .unlistedFunction (info1 w)

def dec32 (w w1 : IWord) : Decoded :=
  if eMode w1 ≠ 0#3 then reject .reservedValue (info2 w w1) else
  match fFn w with
  | 0#8 => .ok (.launch (eFlags w1) (fD w) (lo4 (fA w)))
  | 1#8 => .ok (.launchInd (eFlags w1) (fD w) (lo4 (fA w)))
  | _ => reject .unlistedFunction (info2 w w1)

/-- MMA and MMA.RG (R37, R40, R41). -/
def dec36 (w w1 : IWord) : Decoded :=
  match Fmt.ofCode (fnLo (fFn w)) with
  | none => reject .reservedValue (info2 w w1)
  | some f =>
    if !f.matrix then reject .formatNotAccepted (info2 w w1)
    else if !shapeTakes (eMode w1) f then reject .badCombination (info2 w w1)
    else if (fFn w).getLsbD 4 then
      if (fFn w).getLsbD 5 then reject .badCombination (info2 w w1)
      else .ok (.mmaRg (eFlags w1) (eMode w1) f (lo2 (fD w)) (lo4 (fA w)) (fB w))
    else if (fFn w).getLsbD 5 then
      .ok (.mma (eFlags w1) (eMode w1) f (lo2 (fD w)) (.tensor (eTid w1) (fA w)) (fB w))
    else .ok (.mma (eFlags w1) (eMode w1) f (lo2 (fD w)) (.ring (lo4 (fA w))) (fB w))

/-- The mode of BLD and AST: 0 or 1 (R264, R266). -/
def mode1 (m : BitVec 3) : Option Bool :=
  match m with | 0#3 => some false | 1#3 => some true | _ => none

def dec37 (w w1 : IWord) : Decoded :=
  match mode1 (eMode w1) with
  | none => reject .reservedValue (info2 w w1)
  | some tr =>
    withFmt Fmt.matrix (fnLo (fFn w)) (info2 w w1) fun f => .bld (eFlags w1) tr f (eTid w1) (fA w) (fB w) (fD w)

def dec39 (w w1 : IWord) : Decoded :=
  match mode1 (eMode w1), Rnd.ofCode (fnHi (fFn w)) with
  | some z, some r =>
    withFmt Fmt.astDst (fnLo (fFn w)) (info2 w w1) fun f => .ast (eFlags w1) z f r (eTid w1) (lo2 (fD w)) (fA w) (fB w)
  | _, _ => reject .reservedValue (info2 w w1)

def dec3A (w w1 : IWord) : Decoded :=
  match fFn w with
  | 0#8 =>
    match eMode w1 with
    | 0#3 => .ok (.cpy (eFlags w1) (lo4 (fD w)) (lo4 (fA w)) (fB w))
    | 1#3 => .ok (.cpyAdd (eFlags w1) (lo4 (fD w)) (lo4 (fA w)) (fB w))
    | _ => reject .reservedValue (info2 w w1)
  | 1#8 =>
    if eMode w1 = 0#3 then
      .ok (.cpyMc (eFlags w1) (w1.extractLsb' 0 5) (w1.extractLsb' 8 5) (fD w) (lo4 (fA w)) (fB w))
    else reject .reservedValue (info2 w w1)
  | _ => reject .unlistedFunction (info2 w w1)

def dec3B (w w1 : IWord) : Decoded :=
  match fFn w with
  | 0#8 =>
    match eMode w1 with
    | 0#3 => .ok (.post (eFlags w1) (fD w) (lo4 (fA w)) (fB w))
    | 1#3 => .ok (.postMb (eFlags w1) (fD w) (fB w))
    | _ => reject .reservedValue (info2 w w1)
  | 1#8 =>
    if eMode w1 = 0#3 then .ok (.postQ (eFlags w1) (eTid w1) (lo4 (fD w)) (lo4 (fA w)) (fB w))
    else reject .reservedValue (info2 w w1)
  | 2#8 =>
    if eMode w1 = 0#3 then .ok (.toksend (eFlags w1) (fD w) (lo4 (fA w)) (fB w))
    else reject .reservedValue (info2 w w1)
  | _ => reject .unlistedFunction (info2 w w1)

def dec3C (w : IWord) : Decoded :=
  let bar := (fImm14 w).extractLsb' 0 7
  match (fImm14 w).extractLsb' 10 4 with
  | 0#4 => .ok (.mboxCfg (fA w))
  | 1#4 => .ok (.mboxRd (fD w) (fA w))
  | 2#4 => .ok (.csnap (lo4 (fD w)) (fA w))
  | 3#4 => .ok (.barInit bar (fA w) (fD w))
  | 4#4 => .ok (.barArrive bar (fA w) (fD w))
  | 5#4 => .ok (.barWait bar (fD w))
  | _ => reject .reservedValue (info1 w)

/-- Majors of format E, whose instructions take two words (R28, R38). -/
def isEMajor (m : BitVec 6) : Bool :=
  m == 0x32#6 || m == 0x36#6 || m == 0x37#6 || m == 0x39#6 || m == 0x3A#6 || m == 0x3B#6

/-- The length in bytes of the instruction whose first word is `w`: an E-format instruction or an X prefix takes the next
word with it (R28, R31, R32). -/
def insnBytes (w : IWord) : Nat := if isEMajor (fMajor w) || fMajor w == 0x3D#6 then 8 else 4

/-- The instruction that stands at a first word `w` followed by the word `w1`, or the case of R41 that rejects it. -/
def decode (w w1 : IWord) : Decoded :=
  match fMajor w with
  | 0x00#6 => dec00 w
  | 0x01#6 => .ok (.addi (fD w) (fA w) (fImm14 w))
  | 0x02#6 => .ok (.andi (fD w) (fA w) (fImm14 w))
  | 0x03#6 => .ok (.ori (fD w) (fA w) (fImm14 w))
  | 0x04#6 => .ok (.xori (fD w) (fA w) (fImm14 w))
  | 0x05#6 => dec05 w
  | 0x06#6 => .ok (.slti (fD w) (fA w) (fImm14 w))
  | 0x07#6 => .ok (.sltiu (fD w) (fA w) (fImm14 w))
  | 0x08#6 => .ok (.lui (fD w) (fImm20 w))
  | 0x09#6 => dec09 w
  | 0x0A#6 => .ok (.aaddi (lo4 (fD w)) (lo4 (fA w)) (fImm14 w))
  | 0x10#6 => dec10 w
  | 0x11#6 => dec11 w
  | 0x12#6 => dec12 w
  | 0x13#6 => dec13 w
  | 0x14#6 => dec14 w
  | 0x15#6 => dec15 w
  | 0x18#6 => dec18 w
  | 0x19#6 => .ok (.call (fD w) (fImm20 w))
  | 0x1A#6 => dec1A w
  | 0x1B#6 => dec1B w
  | 0x1C#6 => .ok (.sysrd (fD w) ((fImm14 w).extractLsb' 0 12))
  | 0x1D#6 => .ok (.syswr ((fImm14 w).extractLsb' 0 12) (fA w))
  | 0x1E#6 => dec1E w
  | 0x20#6 => dec20 w
  | 0x21#6 => dec21 w
  | 0x22#6 => dec22 w
  | 0x23#6 => dec23 w
  | 0x24#6 => dec24 w
  | 0x25#6 => dec25 w
  | 0x26#6 => dec26 w
  | 0x27#6 => dec27 w
  | 0x28#6 => dec28 w
  | 0x29#6 => dec29 w
  | 0x2A#6 => dec2A w
  | 0x30#6 => dec30 w
  | 0x31#6 => dec31 w
  | 0x32#6 => dec32 w w1
  | 0x33#6 => dec33 w
  | 0x34#6 => dec34 w
  | 0x36#6 => dec36 w w1
  | 0x37#6 => dec37 w w1
  | 0x38#6 => dec38 w
  | 0x39#6 => dec39 w w1
  | 0x3A#6 => dec3A w w1
  | 0x3B#6 => dec3B w w1
  | 0x3C#6 => dec3C w
  | 0x3D#6 => .ok (.extensionPrefix (fExt w) w1)
  | 0x3E#6 => .ok (.hint (fExt w))
  | _ => reject .unassignedMajor (info1 w)

/-- Four bytes of memory as an instruction word, the first byte lowest (R5, R27). -/
def wordOfBytes (b0 b1 b2 b3 : Byte) : IWord := b3 ++ b2 ++ b1 ++ b0

/-- Decoding a list of bytes: the instruction and the bytes after it, a rejection, or nothing where the bytes end inside it. -/
def decodeBytes : List Byte → Option (Except Reject (Instr × List Byte))
  | b0 :: b1 :: b2 :: b3 :: rest =>
    let w := wordOfBytes b0 b1 b2 b3
    if insnBytes w = 8 then
      match rest with
      | c0 :: c1 :: c2 :: c3 :: rest' =>
        some ((decode w (wordOfBytes c0 c1 c2 c3)).map fun i => (i, rest'))
      | _ => none
    else some ((decode w 0#32).map fun i => (i, rest))
  | _ => none

/-! ## Encoding (02 R28, R38-R40) -/

def packA (m d a b : BitVec 6) (fn : BitVec 8) : IWord := m ++ d ++ a ++ b ++ fn
def packI (m d a : BitVec 6) (imm : BitVec 14) : IWord := m ++ d ++ a ++ imm
def packU (m d : BitVec 6) (imm : BitVec 20) : IWord := m ++ d ++ imm
def packB (m : BitVec 6) (c : BitVec 4) (a : BitVec 6) (off : BitVec 16) : IWord := m ++ c ++ a ++ off
def packV (m : BitVec 6) (vd va vb : BitVec 5) (k : BitVec 3) (fn : BitVec 8) : IWord := m ++ vd ++ va ++ vb ++ k ++ fn
def bit (b : Bool) : BitVec 1 := BitVec.ofBool b
def packE (mode : BitVec 3) (e : EFlags) (tid : BitVec 16) : IWord :=
  0#8 ++ mode ++ bit e.sig ++ bit e.rel ++ bit e.acq ++ e.scope ++ tid
/-- A narrower register name in a 6-bit or 5-bit field, its reserved bits clear. -/
def w6 (x : BitVec n) : BitVec 6 := x.setWidth 6
def w5 (x : BitVec n) : BitVec 5 := x.setWidth 5
def w3 (b : Bool) : BitVec 3 := 0#2 ++ bit b
def fmtFn (op : BitVec 4) (f : Fmt) : BitVec 8 := op ++ f.code
def opFn (op : BitVec 4) : BitVec 8 := op ++ 0#4
def atomFn (sc : BitVec 2) (sig w : Bool) (op : BitVec 4) : BitVec 8 := sc ++ bit sig ++ bit w ++ op

/-- The words of an instruction of a program; a step of the device has none. -/
def encode : Instr → List IWord
  | .add d a b => [packA 0x00#6 d a b 0#8]
  | .sub d a b => [packA 0x00#6 d a b 1#8]
  | .and d a b => [packA 0x00#6 d a b 2#8]
  | .or d a b => [packA 0x00#6 d a b 3#8]
  | .xor d a b => [packA 0x00#6 d a b 4#8]
  | .sll d a b => [packA 0x00#6 d a b 5#8]
  | .srl d a b => [packA 0x00#6 d a b 6#8]
  | .sra d a b => [packA 0x00#6 d a b 7#8]
  | .mul d a b => [packA 0x00#6 d a b 8#8]
  | .mulh d a b => [packA 0x00#6 d a b 9#8]
  | .mulhu d a b => [packA 0x00#6 d a b 10#8]
  | .div d a b => [packA 0x00#6 d a b 11#8]
  | .divu d a b => [packA 0x00#6 d a b 12#8]
  | .rem d a b => [packA 0x00#6 d a b 13#8]
  | .remu d a b => [packA 0x00#6 d a b 14#8]
  | .min d a b => [packA 0x00#6 d a b 15#8]
  | .max d a b => [packA 0x00#6 d a b 16#8]
  | .minu d a b => [packA 0x00#6 d a b 17#8]
  | .maxu d a b => [packA 0x00#6 d a b 18#8]
  | .seq d a b => [packA 0x00#6 d a b 19#8]
  | .sne d a b => [packA 0x00#6 d a b 20#8]
  | .slt d a b => [packA 0x00#6 d a b 21#8]
  | .sltu d a b => [packA 0x00#6 d a b 22#8]
  | .clz d a => [packA 0x00#6 d a 0#6 23#8]
  | .ctz d a => [packA 0x00#6 d a 0#6 24#8]
  | .popc d a => [packA 0x00#6 d a 0#6 25#8]
  | .addi d a imm => [packI 0x01#6 d a imm]
  | .andi d a imm => [packI 0x02#6 d a imm]
  | .ori d a imm => [packI 0x03#6 d a imm]
  | .xori d a imm => [packI 0x04#6 d a imm]
  | .slti d a imm => [packI 0x06#6 d a imm]
  | .sltiu d a imm => [packI 0x07#6 d a imm]
  | .slli d a sh => [packI 0x05#6 d a (0#6 ++ 0#2 ++ sh)]
  | .srli d a sh => [packI 0x05#6 d a (0#6 ++ 1#2 ++ sh)]
  | .srai d a sh => [packI 0x05#6 d a (0#6 ++ 2#2 ++ sh)]
  | .lui d imm => [packU 0x08#6 d imm]
  | .amov ad aa => [packA 0x09#6 (w6 ad) (w6 aa) 0#6 0#8]
  | .aset ad ga gb => [packA 0x09#6 (w6 ad) ga gb 1#8]
  | .asetl ad ga => [packA 0x09#6 (w6 ad) ga 0#6 2#8]
  | .aperm ad ga => [packA 0x09#6 (w6 ad) ga 0#6 3#8]
  | .aadv ad ga => [packA 0x09#6 (w6 ad) ga 0#6 4#8]
  | .aget gd aa => [packA 0x09#6 gd (w6 aa) 0#6 5#8]
  | .agetb gd aa => [packA 0x09#6 gd (w6 aa) 0#6 6#8]
  | .agetl gd aa => [packA 0x09#6 gd (w6 aa) 0#6 7#8]
  | .agetp gd aa => [packA 0x09#6 gd (w6 aa) 0#6 8#8]
  | .aaddi ad aa imm => [packI 0x0A#6 (w6 ad) (w6 aa) imm]
  | .ldB d a disp => [packI 0x10#6 d (w6 a) (disp ++ 0#3)]
  | .ldH d a disp => [packI 0x10#6 d (w6 a) (disp ++ 1#3)]
  | .ldW d a disp => [packI 0x10#6 d (w6 a) (disp ++ 2#3)]
  | .ldD d a disp => [packI 0x10#6 d (w6 a) (disp ++ 3#3)]
  | .ldBu d a disp => [packI 0x10#6 d (w6 a) (disp ++ 4#3)]
  | .ldHu d a disp => [packI 0x10#6 d (w6 a) (disp ++ 5#3)]
  | .ldWu d a disp => [packI 0x10#6 d (w6 a) (disp ++ 6#3)]
  | .stB sig d a disp => [packI 0x11#6 d (w6 a) (disp ++ bit sig ++ 0#2)]
  | .stH sig d a disp => [packI 0x11#6 d (w6 a) (disp ++ bit sig ++ 1#2)]
  | .stW sig d a disp => [packI 0x11#6 d (w6 a) (disp ++ bit sig ++ 2#2)]
  | .stD sig d a disp => [packI 0x11#6 d (w6 a) (disp ++ bit sig ++ 3#2)]
  | .amoAdd sc sig w d a b => [packA 0x12#6 d (w6 a) b (atomFn sc sig w 0#4)]
  | .amoAnd sc sig w d a b => [packA 0x12#6 d (w6 a) b (atomFn sc sig w 1#4)]
  | .amoOr sc sig w d a b => [packA 0x12#6 d (w6 a) b (atomFn sc sig w 2#4)]
  | .amoXor sc sig w d a b => [packA 0x12#6 d (w6 a) b (atomFn sc sig w 3#4)]
  | .amoMin sc sig w d a b => [packA 0x12#6 d (w6 a) b (atomFn sc sig w 4#4)]
  | .amoMax sc sig w d a b => [packA 0x12#6 d (w6 a) b (atomFn sc sig w 5#4)]
  | .amoMinu sc sig w d a b => [packA 0x12#6 d (w6 a) b (atomFn sc sig w 6#4)]
  | .amoMaxu sc sig w d a b => [packA 0x12#6 d (w6 a) b (atomFn sc sig w 7#4)]
  | .amoSwap sc sig w d a b => [packA 0x12#6 d (w6 a) b (atomFn sc sig w 8#4)]
  | .cas sc sig w d a b => [packA 0x12#6 d (w6 a) b (atomFn sc sig w 9#4)]
  | .casGt sc sig w d a b => [packA 0x12#6 d (w6 a) b (atomFn sc sig w 10#4)]
  | .casVer sc sig w d a b => [packA 0x12#6 d (w6 a) b (atomFn sc sig w 11#4)]
  | .casPtag sc sig w d a b => [packA 0x12#6 d (w6 a) b (atomFn sc sig w 12#4)]
  | .redAdd sc sig w a b => [packA 0x13#6 0#6 (w6 a) b (atomFn sc sig w 0#4)]
  | .redAnd sc sig w a b => [packA 0x13#6 0#6 (w6 a) b (atomFn sc sig w 1#4)]
  | .redOr sc sig w a b => [packA 0x13#6 0#6 (w6 a) b (atomFn sc sig w 2#4)]
  | .redXor sc sig w a b => [packA 0x13#6 0#6 (w6 a) b (atomFn sc sig w 3#4)]
  | .redMin sc sig w a b => [packA 0x13#6 0#6 (w6 a) b (atomFn sc sig w 4#4)]
  | .redMax sc sig w a b => [packA 0x13#6 0#6 (w6 a) b (atomFn sc sig w 5#4)]
  | .redMinu sc sig w a b => [packA 0x13#6 0#6 (w6 a) b (atomFn sc sig w 6#4)]
  | .redMaxu sc sig w a b => [packA 0x13#6 0#6 (w6 a) b (atomFn sc sig w 7#4)]
  | .redFadd sc sig a b => [packA 0x13#6 0#6 (w6 a) b (atomFn sc sig true 8#4)]
  | .lda sc size d a => [packA 0x14#6 d (w6 a) 0#6 (sc ++ 0#4 ++ size)]
  | .stl sc sig size d a => [packA 0x14#6 d (w6 a) 0#6 (sc ++ 1#1 ++ bit sig ++ 0#2 ++ size)]
  | .fence sc => [packA 0x15#6 0#6 0#6 0#6 (0#6 ++ sc)]
  | .waitW gt a b => [packA 0x15#6 gt (w6 a) b 16#8]
  | .waitD gt a b => [packA 0x15#6 gt (w6 a) b 17#8]
  | .bra off => [packB 0x18#6 0#4 0#6 off]
  | .beqz a off => [packB 0x18#6 1#4 a off]
  | .bnez a off => [packB 0x18#6 2#4 a off]
  | .bltz a off => [packB 0x18#6 3#4 a off]
  | .bgez a off => [packB 0x18#6 4#4 a off]
  | .bgtz a off => [packB 0x18#6 5#4 a off]
  | .blez a off => [packB 0x18#6 6#4 a off]
  | .bkany k off => [packB 0x18#6 7#4 (w6 k) off]
  | .bknone k off => [packB 0x18#6 8#4 (w6 k) off]
  | .call d imm => [packU 0x19#6 d imm]
  | .jmp a => [packA 0x1A#6 0#6 a 0#6 0#8]
  | .callr d a => [packA 0x1A#6 d a 0#6 1#8]
  | .rwaitH q b => [packA 0x1B#6 0#6 (w6 q) b 0#8]
  | .rwaitT q b => [packA 0x1B#6 0#6 (w6 q) b 1#8]
  | .radvH q b => [packA 0x1B#6 0#6 (w6 q) b 2#8]
  | .radvT q b => [packA 0x1B#6 0#6 (w6 q) b 3#8]
  | .rfill d q => [packA 0x1B#6 d (w6 q) 0#6 4#8]
  | .rfree d q => [packA 0x1B#6 d (w6 q) 0#6 5#8]
  | .rbind q a => [packA 0x1B#6 (w6 q) (w6 a) 0#6 6#8]
  | .sysrd d num => [packI 0x1C#6 d 0#6 (0#2 ++ num)]
  | .syswr num a => [packI 0x1D#6 0#6 a (0#2 ++ num)]
  | .trap imm => [0x1E#6 ++ imm ++ 0#8]
  | .eret => [packA 0x1E#6 0#6 0#6 0#6 1#8]
  | .sleep a => [packA 0x1E#6 0#6 a 0#6 2#8]
  | .movb ad sa n => [packA 0x1E#6 (w6 ad) (w6 sa) n 3#8]
  | .rep n => [packA 0x1E#6 0#6 n 0#6 4#8]
  | .vadd f vd va vb k => [packV 0x20#6 vd va vb k (fmtFn 0#4 f)]
  | .vsub f vd va vb k => [packV 0x20#6 vd va vb k (fmtFn 1#4 f)]
  | .vmul f vd va vb k => [packV 0x20#6 vd va vb k (fmtFn 2#4 f)]
  | .vmin f vd va vb k => [packV 0x20#6 vd va vb k (fmtFn 3#4 f)]
  | .vmax f vd va vb k => [packV 0x20#6 vd va vb k (fmtFn 4#4 f)]
  | .vfma f vd va vb k => [packV 0x21#6 vd va vb k (fmtFn 0#4 f)]
  | .vfms f vd va vb k => [packV 0x21#6 vd va vb k (fmtFn 1#4 f)]
  | .vfnma f vd va vb k => [packV 0x21#6 vd va vb k (fmtFn 2#4 f)]
  | .vperm f vd va vb k => [packV 0x24#6 vd va vb k (fmtFn 0#4 f)]
  | .vand f vd va vb k => [packV 0x2A#6 vd va vb k (fmtFn 0#4 f)]
  | .vor f vd va vb k => [packV 0x2A#6 vd va vb k (fmtFn 1#4 f)]
  | .vxor f vd va vb k => [packV 0x2A#6 vd va vb k (fmtFn 2#4 f)]
  | .vshl f vd va vb k => [packV 0x2A#6 vd va vb k (fmtFn 3#4 f)]
  | .vshr f vd va vb k => [packV 0x2A#6 vd va vb k (fmtFn 4#4 f)]
  | .vsra f vd va vb k => [packV 0x2A#6 vd va vb k (fmtFn 5#4 f)]
  | .vabs f vd va k => [packV 0x20#6 vd va 0#5 k (fmtFn 5#4 f)]
  | .vneg f vd va k => [packV 0x20#6 vd va 0#5 k (fmtFn 6#4 f)]
  | .vceq f kd va vb k => [packV 0x22#6 (w5 kd) va vb k (fmtFn 0#4 f)]
  | .vcne f kd va vb k => [packV 0x22#6 (w5 kd) va vb k (fmtFn 1#4 f)]
  | .vclt f kd va vb k => [packV 0x22#6 (w5 kd) va vb k (fmtFn 2#4 f)]
  | .vcle f kd va vb k => [packV 0x22#6 (w5 kd) va vb k (fmtFn 3#4 f)]
  | .vcgt f kd va vb k => [packV 0x22#6 (w5 kd) va vb k (fmtFn 4#4 f)]
  | .vcge f kd va vb k => [packV 0x22#6 (w5 kd) va vb k (fmtFn 5#4 f)]
  | .vrsum f vd va k => [packV 0x23#6 vd va 0#5 k (fmtFn 0#4 f)]
  | .vrmax f vd va k => [packV 0x23#6 vd va 0#5 k (fmtFn 1#4 f)]
  | .vrmin f vd va k => [packV 0x23#6 vd va 0#5 k (fmtFn 2#4 f)]
  | .vbcast f vd va gb k => [packV 0x24#6 vd va gb k (fmtFn 1#4 f)]
  | .vslideup f vd va gb k => [packV 0x24#6 vd va gb k (fmtFn 2#4 f)]
  | .vslidedn f vd va gb k => [packV 0x24#6 vd va gb k (fmtFn 3#4 f)]
  | .vcvt dst src rnd vd va k => [packV 0x25#6 vd va (0#1 ++ src.code) k (rnd.code ++ dst.code)]
  | .vrcp vd va k => [packV 0x26#6 vd va 0#5 k (opFn 0#4)]
  | .vrsq vd va k => [packV 0x26#6 vd va 0#5 k (opFn 1#4)]
  | .vexp2 vd va k => [packV 0x26#6 vd va 0#5 k (opFn 2#4)]
  | .vlog2 vd va k => [packV 0x26#6 vd va 0#5 k (opFn 3#4)]
  | .vld vd a disp k => [packV 0x27#6 vd (w5 a) disp k (opFn 0#4)]
  | .vst vd a disp k => [packV 0x27#6 vd (w5 a) disp k (opFn 1#4)]
  | .vldBc f vd a disp k => [packV 0x27#6 vd (w5 a) disp k (fmtFn 2#4 f)]
  | .kand kd ka kb => [packV 0x28#6 (w5 kd) (w5 ka) (w5 kb) 0#3 (opFn 0#4)]
  | .kor kd ka kb => [packV 0x28#6 (w5 kd) (w5 ka) (w5 kb) 0#3 (opFn 1#4)]
  | .kxor kd ka kb => [packV 0x28#6 (w5 kd) (w5 ka) (w5 kb) 0#3 (opFn 2#4)]
  | .knot kd ka => [packV 0x28#6 (w5 kd) (w5 ka) 0#5 0#3 (opFn 3#4)]
  | .kmov kd ka => [packV 0x28#6 (w5 kd) (w5 ka) 0#5 0#3 (opFn 4#4)]
  | .vmovg f vd ga gb => [packA 0x29#6 (w6 vd) ga gb (fmtFn 0#4 f)]
  | .vext f gd va gb => [packA 0x29#6 gd (w6 va) gb (fmtFn 1#4 f)]
  | .ksetg f kd ga gb => [packA 0x29#6 (w6 kd) ga gb (fmtFn 2#4 f)]
  | .kgetg f gd ka gb => [packA 0x29#6 gd (w6 ka) gb (fmtFn 3#4 f)]
  | .agld ad ga => [packA 0x30#6 (w6 ad) ga 0#6 0#8]
  | .anew gd ga => [packA 0x30#6 gd ga 0#6 1#8]
  | .afree ga => [packA 0x30#6 0#6 ga 0#6 2#8]
  | .wire gd => [packA 0x30#6 gd 0#6 0#6 3#8]
  | .link gd ga gb => [packA 0x30#6 gd ga gb 4#8]
  | .adup gd ga gb => [packA 0x30#6 gd ga gb 5#8]
  | .aera gd ga gb => [packA 0x30#6 gd ga gb 6#8]
  | .payshare gd ga => [packA 0x30#6 gd ga 0#6 7#8]
  | .paydrop gd ga => [packA 0x30#6 gd ga 0#6 8#8]
  | .ruleset a => [packA 0x31#6 0#6 (w6 a) 0#6 0#8]
  | .rulepub => [packA 0x31#6 0#6 0#6 0#6 1#8]
  | .launch f gd a => [packA 0x32#6 gd (w6 a) 0#6 0#8, packE 0#3 f 0#16]
  | .launchInd f gd a => [packA 0x32#6 gd (w6 a) 0#6 1#8, packE 0#3 f 0#16]
  | .retire => [packA 0x33#6 0#6 0#6 0#6 0#8]
  | .retireS => [packA 0x33#6 0#6 0#6 0#6 1#8]
  | .yieldSlot => [packA 0x33#6 0#6 0#6 0#6 2#8]
  | .krel gd ga => [packA 0x33#6 gd ga 0#6 3#8]
  | .govset ga gb => [packA 0x34#6 0#6 ga gb 0#8]
  | .profrd gd ga => [packA 0x34#6 gd ga 0#6 1#8]
  | .mma x shape f acc (.ring q) gb => [packA 0x36#6 (w6 acc) (w6 q) gb (0#4 ++ f.code), packE shape x 0#16]
  | .mma x shape f acc (.tensor tid ga) gb => [packA 0x36#6 (w6 acc) ga gb (2#4 ++ f.code), packE shape x tid]
  | .mmaRg x shape f acc q gb => [packA 0x36#6 (w6 acc) (w6 q) gb (1#4 ++ f.code), packE shape x 0#16]
  | .bld x tr f tid ga gb gc => [packA 0x37#6 gc ga gb (0#4 ++ f.code), packE (w3 tr) x tid]
  | .aclr acc => [packA 0x38#6 (w6 acc) 0#6 0#6 0#8]
  | .mxw ga => [packA 0x38#6 0#6 ga 0#6 1#8]
  | .mxwait => [packA 0x38#6 0#6 0#6 0#6 2#8]
  | .ast x z f r tid acc ga gb => [packA 0x39#6 (w6 acc) ga gb (r.code ++ f.code), packE (w3 z) x tid]
  | .cpy x ad sa gb => [packA 0x3A#6 (w6 ad) (w6 sa) gb 0#8, packE 0#3 x 0#16]
  | .cpyAdd x ad sa gb => [packA 0x3A#6 (w6 ad) (w6 sa) gb 0#8, packE 1#3 x 0#16]
  | .cpyMc x wx wy gm sa gb => [packA 0x3A#6 gm (w6 sa) gb 1#8, packE 0#3 x (0#3 ++ wy ++ 0#3 ++ wx)]
  | .post x gr sa gb => [packA 0x3B#6 gr (w6 sa) gb 0#8, packE 0#3 x 0#16]
  | .postMb x ge gb => [packA 0x3B#6 ge 0#6 gb 0#8, packE 1#3 x 0#16]
  | .postQ x tag ad sa gb => [packA 0x3B#6 (w6 ad) (w6 sa) gb 1#8, packE 0#3 x tag]
  | .toksend x gt sa gb => [packA 0x3B#6 gt (w6 sa) gb 2#8, packE 0#3 x 0#16]
  | .mboxCfg ga => [packI 0x3C#6 0#6 ga (0#4 ++ 0#3 ++ 0#7)]
  | .mboxRd gd ga => [packI 0x3C#6 gd ga (1#4 ++ 0#3 ++ 0#7)]
  | .csnap a ga => [packI 0x3C#6 (w6 a) ga (2#4 ++ 0#3 ++ 0#7)]
  | .barInit bar ga gb => [packI 0x3C#6 gb ga (3#4 ++ 0#3 ++ bar)]
  | .barArrive bar ga gk => [packI 0x3C#6 gk ga (4#4 ++ 0#3 ++ bar)]
  | .barWait bar gt => [packI 0x3C#6 gt 0#6 (5#4 ++ 0#3 ++ bar)]
  | .extensionPrefix ext next => [0x3D#6 ++ ext, next]
  | .hint bits => [0x3E#6 ++ bits]
  | .illegalInstruction _ => []
  | .instructionFetch => []
  | .reset => []
  | .routerPowerGate _ _ => []
  | .routerWake _ _ => []
  | .portRequestLeave _ _ => []
  | .shaperRefill _ => []
  | .sliceRequest _ => []
  | .translationWalk _ => []
  | .remoteDataCacheRequest _ => []
  | .performAtHome _ => []
  | .responseDelivery _ => []
  | .announcementApply _ _ => []
  | .clockGapWriteResume _ => []
  | .l1LineExpiry _ _ _ => []
  | .accessRetry _ => []
  | .watchMessage _ _ => []
  | .watchWithdrawal _ _ => []
  | .watchWithdrawalAck _ _ => []
  | .wakeWrite _ _ => []
  | .waitTimeout _ => []
  | .sleepExpiry _ => []
  | .barWaitTimeout _ => []
  | .busySlotPoll _ => []
  | .busyWaitReport _ => []
  | .shootdownDescriptor _ _ _ => []
  | .shootdownDrainComplete _ _ _ => []
  | .shootdownAck _ _ _ => []
  | .migrationWriteStall _ _ => []
  | .migrationStallLift _ _ => []
  | .uncorrectableError _ => []
  | .meetEnqueue _ _ _ => []
  | .heldEnqueueEntry _ => []
  | .slotFill _ => []
  | .keyRequest _ _ => []
  | .keyGrant _ _ => []
  | .keyRelease _ => []
  | .keyTableEntryFree _ => []
  | .groupPlacement _ => []
  | .groupDispatch _ _ => []
  | .successorStart _ => []
  | .governorEvaluation _ => []
  | .governorSetting _ _ _ _ => []
  | .rulePublicationFlip _ _ _ => []
  | .preemptionRequest _ => []
  | .taskSuspension _ => []
  | .taskRelease _ => []
  | .taskRestore _ => []
  | .courierEndTask _ => []
  | .coreFault _ _ _ => []
  | .coreStallDetect _ _ _ => []
  | .remoteRegisterAccess _ _ _ _ => []
  | .matrixArbiterSelect _ => []
  | .mmaKStep _ => []
  | .mmaRgChunkStart _ => []
  | .matrixCommandStop _ => []
  | .matrixCommandComplete _ => []
  | .engineCommandStart _ _ => []
  | .enginePieceWrite _ => []
  | .heldWriteRelease _ => []
  | .heldWriteAbandon _ => []
  | .heldWriteRoomFree _ => []
  | .completionWordWrite _ => []
  | .multicastReplicate _ => []
  | .postDelivery _ => []
  | .ringReservationResume _ => []
  | .fillReport _ => []
  | .postQRecordSend _ => []
  | .tokenRowArrival _ => []
  | .mailboxArrival _ => []
  | .barrierArrival _ => []
  | .frameBarrierArrival _ _ => []
  | .freeRingHeldPublish _ => []
  | .peerAcknowledge _ => []
  | .ewefonisLinkFailure _ => []
  | .linkTrainingComplete _ _ _ => []
  | .droopDetect _ => []
  | .droopRecover _ => []
  | .ringTailDoorbell _ _ => []
  | .ringRestart _ _ => []
  | .ringEnable _ _ => []
  | .packetNop _ => []
  | .packetLaunch _ => []
  | .packetLaunchInd _ => []
  | .packetCopy _ => []
  | .packetCopyAdd _ => []
  | .packetSignalWrite _ => []
  | .packetSignalAdd _ => []
  | .packetWaitNe _ => []
  | .packetWaitGe _ => []
  | .packetWaitTimeout _ => []
  | .identity => []
  | .attest _ _ => []
  | .createAs _ _ _ => []
  | .destroyAs _ => []
  | .ringSetup _ _ _ _ _ => []
  | .tensorSet _ _ _ => []
  | .bar2Write _ _ => []
  | .bar2Read _ _ => []
  | .bar0RegisterWrite _ _ => []
  | .enumerationUpdate => []
  | .dieLinkStateChange _ _ => []
  | .sliceMarkedDead _ _ => []
  | .memoryTrainingComplete _ => []

/-- The bytes of an instruction word as the hardware stores them, the lowest first (R5, R27). -/
def bytesOfWord (w : IWord) : List Byte :=
  [w.extractLsb' 0 8, w.extractLsb' 8 8, w.extractLsb' 16 8, w.extractLsb' 24 8]

/-- The two instruction words that `nbits` bits numbered as spec/opcode_table.json numbers them stand for: the first word in
bits 31..0, the second above it, every bit from `nbits` up zero. -/
def tableWords (nbits w : Nat) : IWord × IWord :=
  let v := w % 2 ^ nbits
  (BitVec.ofNat 32 v, BitVec.ofNat 32 (v / 2 ^ 32))

/-- What the decoder reads from an instruction whose bits are `w`. -/
def decodeTableWord (nbits w : Nat) : Option Instr :=
  match tableWords nbits w with
  | (w0, w1) =>
    match decode w0 w1 with
    | .ok i => some i
    | .error _ => none

end Sys2Proof
end

