-- ==== Sys2Proof/Config.lean ====
section
/-! DEFINITION. What one KV-RL8 fixes, and the values the spec leaves open. A constant here has no body: nothing in Lean
can evaluate it, so whatever is proved holds for every value of it. -/

namespace Sys2Proof.Config

/-- Cycles that pass in a step beyond the first; the spec states no time for a step of the model (log 2). -/
opaque elapsed : Nat → Nat

/-- The victim of a full L1 region, translation cache, slice or remote-data cache: no replacement rule is given (log 10). -/
opaque victim : Nat → Nat

/-- Which free record or cell ANEW and WIRE hand out: R225 promises no order (log 11). -/
opaque allocPick : Nat → Nat

/-- The bytes a line of a released payload block reads as: R229 says stale data or zero (log 12). -/
opaque releasedZero : Nat → Bool

/-- The Seal core's image verifies at this boot (R325; the images and keys are not in the spec; log 14). -/
opaque sealVerifies : Nat → Bool

/-- The Courier image verifies at this boot (R325; log 14). -/
opaque courierVerifies : Nat → Bool

/-- The 32-byte device identity (R327; a fused value the spec does not state; log 14). -/
opaque identityByte : Nat → Byte

/-- The digests of the two firmware images, 64 bytes each (R327; log 14). -/
opaque digestByte : Nat → Byte

/-- The 64-byte SHAKE256 digest of some bytes (R327; log 14). -/
opaque shakeByte : List Byte → Nat → Byte

/-- The signature of an attestation report with the device's identity key (R327; log 14), and one less than its length. -/
opaque signatureByte : List Byte → Nat → Byte
opaque signatureLength : Nat

/-- Which of a tower's physical rows of clusters is left out at each step until the rows of its grade remain (R2, R323: fused off or
held as a spare; log 9). -/
opaque rowOut : Nat → Nat → Nat

/-- The device's position on its board (R323, from the board's controller; log 9). -/
opaque boardPosition : BitVec 3

/-- How many lines, of the four the rule allows, fetch runs ahead after a fetch, and a slice prefetches (R156; log 62). -/
opaque ahead : Nat → Nat

/-- Whether a MOVB reads its next piece before it writes the oldest one in flight (R193; log 63). -/
opaque movbReads : Nat → Bool

/-- Whether the host completes an AtomicOp with Unsupported Request or Completer Abort (R179; log 37). -/
opaque hostRefuses : Nat → Bool

/-- The records that the ring of a pigeonhole gains with each enlargement by the Courier firmware (R203; log 76). -/
opaque spillRing : Nat → Nat

/-- Whether the storage of a rule table is full for one more pair (R231; log 77). -/
opaque ruleFull : Nat → Bool

/-- Whether the host answers a read of a command ring in its memory, at an address, with a bus error (R320; log 98). -/
opaque busError : Nat → Nat → Bool

/-- What a host read finds in a page of the BAR2 aperture that reaches no device page (R315; log 55). -/
opaque openByte : Nat → Byte

/-- Which of an engine's pieces is written next (R16, R176: the writes of a command are not ordered with one another; log 79). -/
opaque pieceOrder : Nat → Nat

/-- Which piece of a load of several is read next (R16; log 80). -/
opaque loadOrder : Nat → Nat

end Sys2Proof.Config
end

