-- ==== Sys2Proof/Machine/State.lean ====
section
/-! DEFINITION. The state of the KV-RL8 as plain data. One slot, the one whose instruction runs, is held unpacked in `State.me`
(its place is `State.cur`, core × 4 + slot); the other slots stand in `State.slots`. A table is a list of keys and values; a
key it does not list has the value that the file reading it names (the reset value). -/

namespace Sys2Proof.Machine

/-- Entries by key; a key that is not listed has its reset value. -/
abbrev Table (α : Type) := List (Nat × α)

/-- A slot of the device: 4 × core + slot. Core 1024 + t is the supervisor core of tower t (00 R2, 01 R21). -/
abbrev SlotKey := Nat

/-- Why a step faults. No step of this model does: what the spec calls a fault is a trap, which is a next state. -/
inductive Fault where
  /-- Never raised. -/
  | none
  deriving DecidableEq, Repr

/-- Why a step is refused. -/
inductive Refusal where
  /-- An instruction that has no meaning yet: raised by `exec` alone; safe, since no next state is claimed. -/
  | notModelled (mnemonic : String)
  deriving DecidableEq, Repr

/-! ## The registers of a task (05 R70-R73) -/

/-- An address register (R71). -/
structure AReg where
  ptr     : Addr
  base    : Addr
  limit   : Addr
  cls     : Bool
  scratch : Bool
  e       : Bool
  w       : Bool
  r       : Bool
  deriving DecidableEq, Repr

/-- A zero address register (R70). -/
def AReg.zero : AReg := ⟨0, 0, 0, false, false, false, false, false⟩

/-- A ring handle (R73). -/
structure QReg where
  ctrl     : Addr
  slots    : Addr
  m        : BitVec 5
  s        : BitVec 5
  role     : BitVec 2
  headSeen : BitVec 32
  tailSeen : BitVec 32
  deriving DecidableEq, Repr

/-- An unbound handle (R73). -/
def QReg.zero : QReg := ⟨0, 0, 0, 0, 0, 0, 0⟩

/-- What a slot parked in a WaitUntil waits for (05 R66). -/
inductive Park where
  /-- WAIT on a physical line, with the status register and the deadline (11 R189). -/
  | wait (line : Nat) (gt : BitVec 6) (deadline : Option Nat)
  /-- RWAIT on the control block's line (06 R96). -/
  | rwait (line : Nat)
  /-- BAR.WAIT (20 R309). -/
  | barWait (bar : Nat) (gt : BitVec 6) (deadline : Option Nat)
  /-- MXWAIT (17 R271). -/
  | mxwait
  /-- SLEEP until a cycle (06 R104). -/
  | sleep (wake : Nat)
  deriving DecidableEq, Repr

/-- Why a slot is stalled, not parked (05 R66, 06 R90). -/
inductive Stall where
  /-- A request waits at the core's port for tokens (09 R160). -/
  | port (cost : Nat)
  /-- Refused with retry at a pinned line (10 R173). -/
  | refused (line : Nat)
  /-- Waits for a vector clock (10 R170) or for the clock gap to close. -/
  | clock
  /-- A release waits for earlier accesses (10 R168), or a net instruction for the meets it has sent (13 R207). -/
  | drain
  /-- Sixteen reductions are pending (11 R186). -/
  | reductions
  /-- A command queue is full (16 R245, 19 R276). -/
  | queue
  /-- Holds a long instruction that its engine performs (05 R66, 16 R246, 19 R278). -/
  | engine (cmd : Nat)
  /-- The pool of records or cells is empty (14 R225). -/
  | pool
  /-- A join waits on a BUSY slot (13 R200): the cycle the wait began at, and that of the last look (01 R331). -/
  | busy (slotVa since polled : Nat)
  /-- A write to a frame stalled by migration (09 R157). -/
  | migration
  /-- An access at system scope that has been performed waits until every tower has applied it (10 R163, 11 R178). -/
  | applied (clock : Vector (BitVec 20) 4)
  /-- RULEPUB or GOVSET waits for the towers still to answer (14 R232, R240). -/
  | towers (left : Nat)
  deriving DecidableEq, Repr

/-- A kernel descriptor (14 R233) with its inheritance mask (13 R217). -/
structure KDesc where
  addr     : Addr
  code     : Addr
  lw       : Nat
  lh       : Nat
  rscope   : BitVec 2
  stage    : BitVec 3
  prio     : BitVec 4
  regs     : Nat
  scratch  : Nat
  barriers : Nat
  nkeys    : Nat
  keys     : Vector Word 4
  succ     : Addr
  done     : Addr
  inhBanks : Word
  inhScr   : KWord
  inhBar   : KWord
  bad      : Bool
  deriving DecidableEq, Repr

/-- Why a task is suspended (05 R79). -/
inductive Cause where
  | pageFault (va : Nat)
  | preempt
  | yield
  | coreFault
  /-- Delivered to the fault pigeonhole with cause, information and pc (05 R76). -/
  | fault (code : BitVec 8) (info : Word) (pc : Addr)
  /-- Not suspended but ended, by the Courier firmware or a core's repair (13 R214, R221). -/
  | ended
  deriving DecidableEq, Repr

/-- What a slot is doing (05 R66, R79; 13 R219). -/
inductive Run where
  | empty
  | running
  | parked (p : Park)
  | stalled (y : Stall)
  | suspending (c : Cause)
  /-- RETIRE.S has passed its checks; the slot is held for the successor. -/
  | held
  deriving DecidableEq, Repr

/-- What an ADUP or AERA builds once its share step is performed (14 R227, R228): the two agents, the second one's header, the words
of both records, and the share step's count and pages. -/
structure NetBuild where
  dup   : Bool
  d     : Nat
  x     : Nat
  hx    : Word
  wd    : List Word
  wx    : List Word
  count : Nat
  pages : Nat
  deriving DecidableEq, Repr

/-- What a LINK, ADUP or AERA has still to do once its checks are made (13 R200; 14 R226-R228). -/
structure NetCont where
  /-- Records and cells still to be allocated. -/
  build    : Option NetBuild
  /-- Writes to the net still to be performed, in order. -/
  puts     : List (Nat × List Byte)
  /-- The wire protocol violation that follows them. -/
  trap     : Option Nat
  /-- The exchange of a new port's reference at a cell that follows them. -/
  exch     : Option (Word × Nat)
  /-- The write of a slot(y), which waits while that is BUSY, and since when it has waited. -/
  late     : Option (Nat × List Byte)
  since    : Option Nat
  /-- The agents whose meet is enqueued after them. -/
  meet     : Option (Nat × Nat)
  /-- The cell that is freed after them. -/
  cell     : Option Nat
  /-- A join to make, with the cell it resolves. -/
  join     : Option (Word × Word × Option Nat)
  /-- Links to make: the new port's reference and the wire end. -/
  links    : List (Word × Word)
  /-- Agents to free at the end. -/
  frees    : List Nat
  /-- A payload block to release at the end: the count word's address and its pages. -/
  release  : Option (Nat × Nat)
  meets    : Nat
  /-- The meets sent, whose enqueue precedes the instruction's completion (13 R207). -/
  enq      : List (Nat × Nat)
  /-- The first exchange or meet is made: the instruction completes before its slot halts (05 R79). -/
  made     : Bool
  firstArr : Bool
  /-- The wait on a BUSY slot has been reported (05 R79). -/
  told     : Bool
  gd       : BitVec 6
  /-- What gd takes, where it is known from the start. -/
  value    : Option Word
  isLink   : Bool
  deriving DecidableEq, Repr

/-- A line of a core's L1 region, or of a slot's line buffer (05 R69, 09 R141), with the rights it was read under and the 32-byte
pieces of it that are poisoned (09 R159). -/
structure L1Line where
  asid   : Nat
  vline  : Nat
  pline  : Nat
  data   : List Byte
  poison : List Nat
  read   : Bool
  exec   : Bool
  filled : Nat
  deriving DecidableEq, Repr

/-- A piece of a MOVB whose read has left the port and whose write has not (12 R193): the physical or scratch ranges it will be
written to, and its bytes. -/
structure MovPiece where
  scratch : Bool
  ranges  : List (Nat × Nat)
  data    : List Byte
  deriving DecidableEq, Repr

/-- The context of a slot: everything its task sees, and what the Sorting Office keeps of it (05 R70-R76, R80). -/
structure Ctx where
  run        : Run
  pc         : Addr
  /-- While a repetition executes: the REP's address and its count register (06 R93). -/
  rep        : Option (Addr × BitVec 6)
  /-- The words of the instruction being executed, as its illegal-instruction trap reports them (02 R41). -/
  insn       : Word
  g          : Vector Word 64
  a          : Vector AReg 16
  q          : Vector QReg 16
  k          : Vector KWord 8
  v          : Vector VWord 32
  cause      : BitVec 8
  epc        : Addr
  tinfo      : Word
  tvec       : Addr
  srstate    : Word
  inh        : Bool
  group      : Bool
  stage      : BitVec 3
  asid       : Nat
  firstCore  : Nat
  tid        : Nat
  gid        : Option Nat
  homeTower  : Nat
  regs       : Nat
  scratch    : Nat
  bars       : List Nat
  tiles      : BitVec 4
  keys       : List Nat
  mem        : List Host.Cell
  poison     : List Nat
  usedMatrix : Bool
  /-- The port has been paid for the access of the instruction, and for its fetch (09 R160). -/
  paid       : Bool
  fetchPaid  : Bool
  /-- How many of a net instruction's accesses the port has been paid for, in their order (09 R160). -/
  nth        : Nat
  /-- A narrow release whose lines do not fit is performed at device scope (10 R172). -/
  wide       : Bool
  /-- The pieces of a MOVB in flight, oldest first (12 R193). -/
  movb       : List MovPiece
  /-- A vector access has issued, and completes before a suspension (08 R126). -/
  issued     : Bool
  /-- The 32-byte pieces that a load of several has read so far, by address (01 R16). -/
  got        : List (Nat × List Byte)
  /-- The backing frames of the scratch pages, and the pages not yet refilled since a restore (09 R152). -/
  frames     : List Nat
  absent     : List Nat
  /-- A pre-emption that waits for a LINK, ADUP or AERA to complete (R79). -/
  preempt    : Bool
  lineBuf    : Option L1Line
  cont       : Option NetCont
  /-- The successor that a RETIRE.S has passed its checks with (13 R219). -/
  succ       : Option KDesc
  faultVa    : Nat
  deriving DecidableEq, Repr

/-- A slot that holds no task, every register at the value NOTES.md names (R70; log 3). -/
def Ctx.empty : Ctx where
  run := .empty
  pc := 0
  rep := none
  insn := 0
  g := Vector.replicate 64 0
  a := Vector.replicate 16 .zero
  q := Vector.replicate 16 .zero
  k := Vector.replicate 8 0
  v := Vector.replicate 32 0
  cause := 0
  epc := 0
  tinfo := 0
  tvec := 0
  srstate := 1
  inh := false
  group := false
  stage := 0
  asid := 0
  firstCore := 0
  tid := 0
  gid := none
  homeTower := 0
  regs := 0
  scratch := 0
  bars := []
  tiles := 0
  keys := []
  mem := []
  poison := []
  usedMatrix := false
  paid := false
  fetchPaid := false
  nth := 0
  wide := false
  movb := []
  issued := false
  got := []
  frames := []
  absent := []
  preempt := false
  lineBuf := none
  cont := none
  succ := none
  faultVa := 0

/-! ## A core (05 R66-R67, R74; 09 R150, R160-R162; 13 R215) -/

/-- What a request waiting at a core's port is: the access or the fetch that its slot stalls on, a store or reduction by number, or
a piece of an engine's command, or a line that fetch runs ahead to (09 R156). -/
inductive PortItem where
  | access
  | fetch
  | store (id : Nat)
  /-- A 32-byte piece that an engine's command reads or writes. -/
  | engine (id : Nat)
  | ahead (asid vline : Nat)
  deriving DecidableEq, Repr

/-- A request waiting at a core's port (09 R160): its tenant, its cost and its slot. -/
structure PortWait where
  tenant : Nat
  cost   : Nat
  key    : SlotKey
  item   : PortItem
  deriving DecidableEq, Repr

structure Core where
  last     : Nat
  regend   : Nat
  scrend   : Nat
  poolend  : Nat
  region   : Vector Word 8
  shares   : Vector Nat 4
  bucket   : Vector Nat 4
  cap      : Vector Nat 4
  busy     : Vector Bool 4
  portq    : List PortWait
  lastCls  : Nat
  l1       : List L1Line
  mask     : BitVec 8
  saved    : Option (BitVec 8)
  movedTo  : Nat
  movedAt  : Nat
  /-- Stopped by a core fault and not yet tested (13 R221). -/
  stopped  : Bool
  dead     : Bool
  target   : Word
  activeAt : Nat
  profAt   : Nat
  /-- 1 + the cycle in which a request last left the port, of which one leaves in a cycle (12 R194); 0 before the first. -/
  sentAt   : Nat
  deriving DecidableEq, Repr

/-- A core at reset (R66, R67, R150, R160, R161, R194, R215). -/
def Core.reset : Core where
  last := 3
  regend := 0
  scrend := 0
  poolend := 96
  region := Vector.replicate 8 0
  shares := Vector.replicate 4 16
  bucket := Vector.replicate 4 2048
  cap := Vector.replicate 4 2048
  busy := Vector.replicate 4 false
  portq := []
  lastCls := 3
  l1 := []
  mask := 0xFF#8
  saved := none
  movedTo := 0
  movedAt := 0
  stopped := false
  dead := false
  target := 0
  activeAt := 0
  profAt := 0
  sentAt := 0

/-- A barrier object and the task that holds it (19 R283). -/
structure Barrier where
  expected : BitVec 32
  count    : BitVec 32
  trig     : Bool
  fired    : Bool
  block    : BitVec 52
  owner    : Option Nat
  deriving DecidableEq, Repr

def Barrier.zero : Barrier := ⟨0, 0, false, false, 0, none⟩

/-- A sorting mailbox (19 R291): entries in their order. -/
structure Mailbox where
  depth   : Nat
  entries : List Word
  count   : BitVec 16
  deriving DecidableEq, Repr

def Mailbox.reset : Mailbox := ⟨8, [], 0⟩

/-! ## Memory slices (09 R141-R159, 10 R163-R173) -/

/-- A fault record (09 R151). -/
structure FaultRec where
  va     : Nat
  asid   : Nat
  reason : Nat
  kind   : Acc
  core   : Nat
  slot   : Nat
  cls    : Bool
  origin : Nat
  deriving DecidableEq, Repr

/-- A record for the Courier firmware other than a fault record. -/
inductive CourierRec where
  | lowPool (tower asid : Nat)
  | pigeonOverflow (tower stage : Nat)
  | ruleTableFull (asid : Nat)
  | netFault (asid va : Nat)
  | busyWait (key slotVa : Nat)
  | successorAbandoned (gid : Nat)
  | redPoison (pa : Nat)
  | taskEnded (tid : Nat)
  | coreFaulted (core : Nat)
  | arrivalDropped (core bar : Nat)
  | triggerRefused (core bar : Nat)
  | ringPoisoned (ctrl : Nat)
  | fillUnwritable (va : Nat)
  | snapAbandoned (va : Nat)
  | portDropped (pa : Nat)
  | coreMessagesDropped (core : Nat)
  deriving DecidableEq, Repr

/-- An entry of a slice's translation cache (09 R146, R149). -/
structure TlbEntry where
  tower : Nat
  slice : Nat
  asid  : Nat
  cls   : Bool
  vpage : Nat
  frame : Nat
  r     : Bool
  w     : Bool
  x     : Bool
  d     : Bool
  deriving DecidableEq, Repr

/-- A line resident in an L2 slice: tags, back-tag and stored rights (09 R143). The bytes are those of its home. -/
structure L2Line where
  tower : Nat
  slice : Nat
  asid  : Nat
  vline : Nat
  pline : Nat
  r     : Bool
  w     : Bool
  x     : Bool
  d     : Bool
  deriving DecidableEq, Repr

/-- A line of a tower's remote-data cache (09 R143, 10 R170), with its poisoned pieces (09 R159). -/
structure RdcLine where
  tower  : Nat
  pline  : Nat
  data   : List Byte
  poison : List Nat
  deriving DecidableEq, Repr

/-- A line pinned to a cluster, with its bytes and the tasks that own it (10 R172, R173). -/
structure Pin where
  cluster : Nat
  pline   : Nat
  data    : List Byte
  owners  : List Nat
  deriving DecidableEq, Repr

/-- What a request in flight does at its place (10 R174; 11 R185). A store's bytes are those of one piece, none where a mask leaves
a byte unwritten (08 R129). -/
inductive ReqOp where
  | store (data : List (Option Byte))
  | red (op : BitVec 4) (wide : Bool) (x : Word)
  deriving DecidableEq, Repr

/-- Where a request stands: in the slot's write buffer, on its way to the slice, at the remote-data cache, at its home,
stalled on the clock gap, applied in a pin store and still to be performed at its home when the pin ends, or performed with its
acknowledgement on the way (09 R143, 10 R163, R165, R170, R172). -/
inductive ReqStage where
  | buffer | slice | rdc | home | gap | pinned | response
  deriving DecidableEq, Repr

/-- A store or reduction of a slot that is not yet acknowledged. -/
structure Req where
  id     : Nat
  key    : SlotKey
  tid    : Nat
  asid   : Nat
  va     : Nat
  cls    : Bool
  pa     : Nat
  op     : ReqOp
  scope  : BitVec 2
  sig    : Bool
  stage  : ReqStage
  /-- Its charge was taken with the read of the same piece (12 R193). -/
  paid   : Bool
  /-- Stalled by a migration, and to be translated again (09 R157). -/
  rewalk : Bool
  clock  : Vector (BitVec 20) 4
  deriving DecidableEq, Repr

/-- An announcement from a home tower to another (10 R170); with data it carries the poison of the line's pieces, and whether its
write clears the poison of the pieces that it covers (09 R159). -/
structure Announcement where
  home   : Nat
  dst    : Nat
  pline  : Nat
  data   : Option (List Host.Cell)
  poison : List Nat
  clean  : Bool
  first  : BitVec 20
  clock  : Vector (BitVec 20) 4
  deriving DecidableEq, Repr

/-- A watch held by a home slice: the line and the cluster to wake (11 R190). -/
structure Watch where
  tower   : Nat
  slice   : Nat
  line    : Nat
  cluster : Nat
  deriving DecidableEq, Repr

/-- An entry of a cluster's monitor table; `leaving` while its withdrawn watch is not acknowledged (11 R190). -/
structure Monitor where
  cluster : Nat
  line    : Nat
  leaving : Bool
  deriving DecidableEq, Repr

/-- A shootdown in progress (09 R153), a slice being 64 × tower + index: who forwarded it to whom, which slices have dropped their
entries, which have drained, and which have acknowledged. -/
structure ShootState where
  sd      : Shootdown
  edges   : List (Nat × Nat)
  reached : List Nat
  drained : List Nat
  acked   : List Nat
  /-- The pins, by physical line, that stood in frames of entries it dropped: what was written to them under those entries is performed when they
  end (09 R155). -/
  pins    : List Nat
  deriving DecidableEq, Repr

/-! ## The net and the scheduler (13, 14) -/

/-- A rule entry (13 R205). -/
structure RuleEntry where
  code     : Addr
  kindHi   : BitVec 12
  kindLo   : BitVec 12
  stage    : BitVec 3
  prio     : BitVec 4
  regs     : Nat
  scratch  : Nat
  barriers : Nat
  nkeys    : Nat
  keys     : Vector Word 4
  deriving DecidableEq, Repr

/-- A meet record in a pigeonhole (13 R202), with the core whose instruction sent it, the stage class and priority it is queued by,
and its place in the order of enqueues. -/
structure MeetRec where
  asid  : Nat
  core  : Nat
  x     : Nat
  y     : Nat
  stage : BitVec 3
  prio  : BitVec 4
  seq   : Nat
  deriving DecidableEq, Repr

/-- What stands in a fault pigeonhole: a meet that no slot took, or a suspended task (05 R77, 13 R203). -/
inductive PigeonFault where
  | meet (asid x y : Nat) (cause : BitVec 8) (info : Word)
  | group (launch index : Nat) (cause : BitVec 8) (info : Word)
  | task (tid : Nat)
  deriving DecidableEq, Repr

/-- A unit that acquires keys and then is placed (13 R204, R211, R213). -/
inductive UnitKind where
  | meet (rec : MeetRec) (entry : RuleEntry)
  | group (launch index : Nat)
  | successor (gid : Nat)
  deriving DecidableEq, Repr

structure KeyUnit where
  id    : Nat
  tower : Nat
  kind  : UnitKind
  need  : List Nat
  held  : List Nat
  deriving DecidableEq, Repr

/-- An entry of a key table: the holder and the first-in first-out queue of waiters, both units (13 R212). -/
structure KeyEntry where
  key     : Nat
  holder  : Nat
  waiters : List Nat
  deriving DecidableEq, Repr

/-- A launch in a dispatcher (13 R209-R211). -/
structure Launch where
  id     : Nat
  asid   : Nat
  tower  : Nat
  desc   : KDesc
  ox     : Nat
  oy     : Nat
  fw     : Nat
  fh     : Nat
  count  : Nat
  next   : Nat
  walkAt : Nat
  keyarg : Word
  args   : Vector Word 6
  unit   : Option Nat
  deriving DecidableEq, Repr

/-- A group of tasks (13 R211, R213, R219). -/
structure Group where
  gid    : Nat
  asid   : Nat
  tower  : Nat
  desc   : KDesc
  ox     : Nat
  oy     : Nat
  w      : Nat
  h      : Nat
  index  : Nat
  args   : Vector Word 6
  keyarg : Word
  unit   : Nat
  live   : Nat
  held   : Nat
  broken : Bool
  succ   : Option KDesc
  slots  : List SlotKey
  deriving DecidableEq, Repr

/-- A suspended task: its context frame (05 R80), what it is suspended for, and the core and slot it was suspended in. -/
structure Suspended where
  ctx     : Ctx
  slot    : Nat
  cause   : Cause
  cleared : Bool
  core    : Nat
  bars    : Table Barrier
  tiles   : Table (BitVec 32)
  tilePoison : List Nat
  deriving DecidableEq, Repr

/-! ## Engines (16, 17, 19, 20) -/

/-- A tensor descriptor (17 R259). -/
structure TDesc where
  valid  : Bool
  rd     : Bool
  wr     : Bool
  base   : Nat
  ndim   : Nat
  fmt    : Option Fmt
  extent : Vector Nat 4
  stride : Vector Nat 4
  scale  : Nat
  span   : Nat
  deriving DecidableEq, Repr

inductive MOp where
  | mma | rg | bld | ast | aclr
  deriving DecidableEq, Repr

/-- The phases of a command (16 R246, 19 R278): `leaving` once it has passed its checks, while its slot's earlier accesses keep it (10
R176); `waiting` for an entry of its full queue; `stopped` while the bytes that a stopped copy has read are still being written. -/
inductive Phase where
  | leaving | waiting | queued | attached | detached | stopped
  deriving DecidableEq, Repr

/-- A matrix command (16 R245, R246). -/
structure MCmd where
  id      : Nat
  cluster : Nat
  queue   : Nat
  op      : MOp
  key     : SlotKey
  tid     : Nat
  asid    : Nat
  e       : EFlags
  tile    : Nat
  fmt     : Fmt
  shape   : BitVec 3
  ring    : Option QReg
  qnum    : BitVec 4
  ga      : Word
  gb      : Word
  gc      : Word
  gbReg   : BitVec 6
  tensor  : TDesc
  mode    : Bool
  rnd     : Rnd
  sr      : Word
  /-- The ring's head when the command started. -/
  head    : Nat
  /-- What the count read of the chunk gave (16 R253). -/
  count   : Option Nat
  /-- K-steps completed. -/
  step    : Nat
  /-- Bytes of the next step's reads that the port has already been paid for. -/
  paid    : Nat
  /-- The virtual lines translated in the attached phase and their physical lines. -/
  map     : List (Nat × Nat)
  /-- An AST's bytes still to be written, by virtual 32-byte piece, once it has read its window. -/
  outs    : Option (List (Nat × List (Nat × Byte × Bool)))
  /-- The 32-byte pieces that the step in progress has read so far, by virtual piece (01 R16). -/
  got     : List (Nat × List (Byte × Bool))
  /-- The clock of its writes, which every tower must have reached at system scope (10 R176). -/
  clock   : Vector (BitVec 20) 4
  phase   : Phase
  deriving DecidableEq, Repr

/-- A copy or post form (20 R298-R304), or the writes of a CSNAP that has taken its snapshot (R306). -/
inductive EOp where
  | cpy | add | mc | post | mb | postQ | tok | snap
  deriving DecidableEq, Repr

/-- One side of a copy: an address with its space, its page class and its meaning as a scratch offset (20 R298). -/
structure Side where
  addr    : Nat
  scratch : Bool
  cls     : Bool
  deriving DecidableEq, Repr

/-- A piece on the write side of a command (19 R278): its offset, and its bytes with their poison. -/
structure Piece where
  off  : Nat
  data : List (Byte × Bool)
  deriving DecidableEq, Repr

/-- A command of a copy and post engine (19 R276-R280). -/
structure ECmd where
  id       : Nat
  cluster  : Nat
  queue    : Nat
  op       : EOp
  key      : SlotKey
  tid      : Nat
  gid      : Option Nat
  asid     : Nat
  /-- The issuing core; the service port of tower 0 for the front end. -/
  core     : Nat
  e        : EFlags
  src      : Side
  dst      : Side
  srcReg   : BitVec 4
  dstReg   : BitVec 4
  len      : Nat
  /-- Bytes read. -/
  prog     : Nat
  /-- What the port has been paid of the next piece's charge (09 R160). -/
  paid     : Nat
  gbReg    : BitVec 6
  bar      : Option Nat
  dstCore  : Nat
  ring     : Nat
  expert   : Nat
  table    : Nat
  mask     : Word
  wx       : Nat
  wy       : Nat
  tag      : BitVec 16
  box      : Nat
  entry    : Word
  comp     : Nat
  status   : Nat
  phase    : Phase
  /-- Bytes read and not yet written or sent, and those of released holds, which are replayed in their original order (R279). -/
  pieces   : List Piece
  replays  : List Piece
  /-- The stopped executions of the same command, whose writes its completion follows too (R278, R280). -/
  parts    : List Nat
  /-- The clock of its engine's tower after its last write (10 R176). -/
  clock    : Vector (BitVec 20) 4
  /-- Waits for held-write room (R279). -/
  roomWait : Bool
  /-- Its message has been sent. -/
  sent     : Bool
  /-- Messages and barrier arrivals still to be applied. -/
  owed     : Nat
  /-- The link that its pieces for a peer take, by peer, and whether a peer has still to acknowledge (R294). -/
  links    : List (Nat × Nat)
  unacked  : Bool
  packet   : Option Nat
  deriving DecidableEq, Repr

/-- What a message on the post network carries to a receiving engine (19 R287, R290, R291). -/
inductive MsgKind where
  | post | record | row | box (n : Nat) (entry : Word)
  deriving DecidableEq, Repr

inductive MsgStage where
  | sent
  /-- Waiting for room in the ring, the window or the slice's rings (R287). -/
  | waiting
  /-- The slot of this number is reserved and not yet written. -/
  | reserved (slot : Nat)
  /-- The slot is written and not yet reported as filled. -/
  | written (slot : Nat)
  deriving DecidableEq, Repr

/-- A message in flight to a receiving engine. -/
structure Msg where
  id      : Nat
  kind    : MsgKind
  sender  : SlotKey
  cmd     : Nat
  asid    : Nat
  core    : Nat
  ring    : Nat
  data    : List (Byte × Bool)
  scope   : BitVec 2
  release : Bool
  bar     : Option Nat
  counter : Option Nat
  count   : Nat
  clock   : Vector (BitVec 20) 4
  tower   : Nat
  /-- The address of the slot reserved for it, and the 16-byte parts still to be written there (01 R16). -/
  va      : Nat
  left    : List Nat
  stage   : MsgStage
  /-- Its slot's write is abandoned: the slot takes zeros and poison (19 R279). -/
  dead    : Bool
  deriving DecidableEq, Repr

/-- What a held write would do (19 R279; 14 R237). -/
inductive HeldKind where
  | piece (p : Piece)
  | completion
  | reservation (msg : Nat)
  | slotWrite (msg : Nat)
  /-- The add to a done word for a task that last ran on a core; `pinned` while its line is pinned to a cluster. -/
  | doneWord (core : Option Nat) (pinned : Bool)
  /-- The publication of a released payload block that is first in its tower's order (14 R229). -/
  | freeRing
  deriving DecidableEq, Repr

structure Held where
  id      : Nat
  cluster : Nat
  cmd     : Nat
  asid    : Nat
  va      : Nat
  bytes   : Nat
  kind    : HeldKind
  deriving DecidableEq, Repr

/-- A ring whose home slice keeps a fill window, by its control block's physical address: slot numbers filled beyond tail
(19 R287). -/
structure FillWindow where
  pa     : Nat
  filled : List Nat
  deriving DecidableEq, Repr

/-! ## Address spaces (09 R146, 14 R223, 17 R259) -/

structure Space where
  root       : Nat
  tensorBase : Nat
  tenant     : Fin 4
  seed       : Word
  ruleRight  : Bool
  govRight   : Bool
  agents     : List (Nat × Nat × Nat)
  cells      : List (Nat × Nat × Nat)
  freeRing   : Addr
  shadow     : List RuleEntry
  /-- The generation that the RULEPUB of a slot has published on its first tower (14 R232). -/
  pending    : Table (List RuleEntry)
  published  : Vector (List RuleEntry) 4
  deriving DecidableEq, Repr

/-! ## Towers -/

/-- A released payload block on its way into its address space's free ring (14 R229): the core its task last ran on, the slot's two words,
the slot reserved for it and where that stands, and whether it is written. -/
structure Publication where
  asid    : Nat
  core    : Nat
  w0      : Word
  w1      : Word
  slot    : Option Nat
  va      : Nat
  written : Bool
  deriving DecidableEq, Repr

structure Tower where
  cycle    : Nat
  vc       : Vector (BitVec 20) 4
  faultq   : List FaultRec
  pigeon   : List MeetRec
  heldEnq  : List MeetRec
  /-- How often the Courier firmware has enlarged the ring of each pigeonhole, the fault pigeonhole's the last (13 R203). -/
  spills   : Vector Nat 9
  pfault   : List PigeonFault
  heldFault : List PigeonFault
  keys     : List KeyEntry
  keyWait  : List (Nat × Nat)
  high     : Vector (BitVec 16) 8
  low      : Vector (BitVec 16) 8
  phase    : BitVec 4
  /-- The publications of the tower's Sorting Office, in their order. -/
  heldPub  : List Publication
  droop    : Bool
  deriving DecidableEq, Repr

/-- A tower at reset (05 R74, 13 R215; log 3). -/
def Tower.reset : Tower where
  cycle := 0
  vc := Vector.replicate 4 0
  faultq := []
  pigeon := []
  heldEnq := []
  spills := Vector.replicate 9 0
  pfault := []
  heldFault := []
  keys := []
  keyWait := []
  high := Vector.replicate 8 0xFFFF#16
  low := Vector.replicate 8 0
  phase := 0
  heldPub := []
  droop := false

/-! ## The matrix array and the engine of a cluster -/

structure Cluster where
  weights  : Vector Nat 8
  lastQ    : Nat
  turnLeft : Nat
  runCmd   : Option Nat
  engLastQ : Nat
  deriving DecidableEq, Repr

/-- A cluster at reset (16 R247, 19 R276); the engine's highest queue counts as last served. -/
def Cluster.reset : Cluster where
  weights := Vector.replicate 8 1
  lastQ := 7
  turnLeft := 0
  runCmd := none
  engLastQ := 9

/-! ## The host front end, the links and the firmware's tables (23) -/

/-- What a packet does (23 R319). -/
inductive PKind where
  | nop | launch | launchInd | copy | copyAdd | signalWrite | signalAdd | waitNe | waitGe
  deriving DecidableEq, Repr

/-- A WAIT packet that holds its ring: the packet's number, the word's address, the value, and the deadline (23 R319). -/
structure WaitPkt where
  id       : Nat
  ge       : Bool
  addr     : Nat
  value    : Word
  deadline : Option Nat
  deriving DecidableEq, Repr

/-- A command ring's registers (23 R317). -/
structure Ring where
  loc     : Bool
  base    : Addr
  size    : BitVec 5
  asid    : BitVec 16
  head    : BitVec 32
  tail    : BitVec 32
  offset  : BitVec 32
  reason  : BitVec 8
  stopped : Bool
  /-- The head value last written for a restart. -/
  newhead : BitVec 32
  enable  : Bool
  waiting : Option WaitPkt
  deriving DecidableEq, Repr

def Ring.reset : Ring := ⟨false, 0, 12, 0, 0, 0, 0, 0, false, 0, false, none⟩

/-- A packet that has started and whose completion record is not yet written (23 R319, R321); its status and reason once it has
completed. -/
structure Packet where
  id      : Nat
  ring    : Nat
  kind    : PKind
  done    : Option (Nat × Nat)
  headVal : BitVec 32
  irq     : Bool
  cloc    : Bool
  crec    : Nat
  asid    : Nat
  deriving DecidableEq, Repr

inductive LinkState where
  | down | up | training
  deriving DecidableEq, Repr

structure Link where
  state    : LinkState
  peer     : Fin 8
  peerLink : BitVec 4
  deriving DecidableEq, Repr

/-- The enumeration table's changing part (23 R323). -/
structure EnumTable where
  gen       : BitVec 32
  deadCores : List Nat
  deadSlices : List Nat
  dies      : Vector DieState 4
  links     : Vector Link 12
  deriving DecidableEq, Repr

inductive Grade where
  | a | b | c
  deriving DecidableEq, Repr

/-- A step that an earlier one has brought about and that is still to take place (log 1); each bears the name and the
arguments of its constructor of `Instr`. -/
inductive Raised where
  | portRequestLeave (core pick : Nat)
  | sliceRequest (id : Nat)
  | remoteDataCacheRequest (id : Nat)
  | performAtHome (id : Nat)
  | responseDelivery (id : Nat)
  | announcementApply (dst home : Fin 4)
  | clockGapWriteResume (id : Nat)
  | l1LineExpiry (core asid vline : Nat)
  | accessRetry (key : Nat)
  | watchMessage (cluster line : Nat)
  | watchWithdrawal (cluster line : Nat)
  | watchWithdrawalAck (cluster line : Nat)
  | wakeWrite (cluster line : Nat)
  | waitTimeout (key : Nat)
  | sleepExpiry (key : Nat)
  | barWaitTimeout (key : Nat)
  | busySlotPoll (key : Nat)
  | busyWaitReport (key : Nat)
  | shootdownDescriptor (sd : Shootdown) (tower : Fin 4) (slice : Fin 64)
  | shootdownDrainComplete (id : Nat) (tower : Fin 4) (slice : Fin 64)
  | shootdownAck (id : Nat) (tower : Fin 4) (slice : Fin 64)
  | coreFault (core : Nat) (readable passes : Bool)
  | meetEnqueue (asid core x y : Nat)
  | heldEnqueueEntry (tower : Fin 4)
  | slotFill (key : Nat)
  | keyRequest (unit lockKey : Nat)
  | keyGrant (unit lockKey : Nat)
  /-- The unit that gives the key up stands first. -/
  | keyRelease (unit lockKey : Nat)
  | keyTableEntryFree (tower : Fin 4)
  | groupPlacement (launch : Nat)
  | groupDispatch (gid core : Nat)
  | successorStart (gid : Nat)
  | governorEvaluation (tower : Fin 4)
  | governorSetting (tower : Fin 4) (key : Nat) (ga gb : BitVec 64)
  | rulePublicationFlip (tower : Fin 4) (asid key : Nat)
  | taskSuspension (key : Nat)
  | taskRestore (tid : Nat)
  | matrixArbiterSelect (cluster : Nat)
  | mmaKStep (cluster : Nat)
  | mmaRgChunkStart (cluster : Nat)
  | matrixCommandStop (cluster : Nat)
  | matrixCommandComplete (cluster : Nat)
  | engineCommandStart (cluster pieces : Nat)
  | enginePieceWrite (id : Nat)
  | heldWriteRelease (id : Nat)
  | heldWriteRoomFree (id : Nat)
  | completionWordWrite (id : Nat)
  | multicastReplicate (id : Nat)
  | postDelivery (id : Nat)
  | ringReservationResume (id : Nat)
  | fillReport (id : Nat)
  | postQRecordSend (id : Nat)
  | tokenRowArrival (id : Nat)
  | mailboxArrival (id : Nat)
  | barrierArrival (arr : Arrival)
  | frameBarrierArrival (tid : Nat) (arr : Arrival)
  | freeRingHeldPublish (tower : Fin 4)
  | peerAcknowledge (id : Nat)
  | packetNop (ring : Fin 16)
  | packetLaunch (ring : Fin 16)
  | packetLaunchInd (ring : Fin 16)
  | packetCopy (ring : Fin 16)
  | packetCopyAdd (ring : Fin 16)
  | packetSignalWrite (ring : Fin 16)
  | packetSignalAdd (ring : Fin 16)
  | packetWaitNe (ring : Fin 16)
  | packetWaitGe (ring : Fin 16)
  | packetWaitTimeout (ring : Fin 16)
  | enumerationUpdate
  | bar2Read (addr len : Nat)
  | destroyAs (asid : Nat)
  deriving DecidableEq, Repr

/-- What moves next when the outside world or the interleaving decides (log 1). -/
inductive Turn where
  /-- The slot of this key issues. -/
  | slot (key : SlotKey)
  /-- A step of the device, the Courier firmware, the host or the outside world takes place. -/
  | event (i : Instr)
  /-- The raised step at this place of `State.raised` takes place. -/
  | deliver (n : Nat)
  deriving DecidableEq, Repr

structure State where
  me         : Ctx
  cur        : SlotKey
  slots      : Table Ctx
  cores      : Table Core
  clusters   : Table Cluster
  towers     : Vector Tower 4
  spaces     : Table Space
  mem        : List Host.Cell
  poison     : List Nat
  tlb        : List TlbEntry
  l2         : List L2Line
  rdc        : List RdcLine
  /-- The physical lines that stand in the memory-side caches; their bytes are those of their home (09 R141). -/
  msc        : List Nat
  /-- The lines that each slice has missed: the slice, the address space and the line (09 R156). -/
  misses     : List (Nat × Nat × Nat)
  pins       : List Pin
  reqs       : List Req
  anns       : List Announcement
  watches    : List Watch
  monitors   : List Monitor
  stallFrames : List (Nat × Nat)
  shoots     : List ShootState
  gated      : List Nat
  stale      : List Nat
  /-- The cycle of the last traffic at each router, 64 × tower + index (01 R14). -/
  routed     : Table Nat
  deadSlices : List Nat
  courier    : List CourierRec
  alloc      : List Nat
  bars       : Table Barrier
  boxes      : Table Mailbox
  counters   : Table (BitVec 32)
  profile    : Table (BitVec 32)
  acc        : Table (BitVec 32)
  accPoison  : List Nat
  tileOwner  : Table Nat
  bstore     : List Host.Cell
  bstorePoison : List Nat
  mcmds      : List MCmd
  ecmds      : List ECmd
  msgs       : List Msg
  held       : List Held
  windows    : List FillWindow
  units      : List KeyUnit
  launches   : List Launch
  /-- Handler launches whose launch block is still to be read: the address space, core, barrier and block (19 R285). -/
  triggers   : List (Nat × Nat × Nat × Nat)
  /-- The 32-byte pieces that a dispatcher or the front end has read so far of what it reads: the reader, the address and the bytes (01 R16). -/
  partials   : List (Nat × Nat × List Byte)
  groups     : List Group
  reserved   : List (SlotKey × Nat)
  suspended  : List Suspended
  /-- The backing frames in use, 2^26 × tower + the frame's number in its tower's pool (09 R152; log 7). -/
  backing    : List Nat
  rings      : Vector Ring 16
  packets    : List Packet
  phase      : BitVec 4
  failCode   : BitVec 8
  stretch    : BitVec 32
  mbox       : List Byte
  mboxBusy   : Bool
  /-- The shootdown whose completion a TENSOR_SET awaits (23 R327). -/
  mboxSd     : Option Nat
  msix       : BitVec 18
  /-- The pending bits of the vectors raised while their table entries mask them (23 R315). -/
  msixPending : BitVec 18
  /-- The device pages that BAR2 reaches, by their number in the aperture: an address space and a page mapped in it (09 R329, 23
  R315). -/
  aperture   : Table (Nat × Nat)
  /-- The ring that started a packet last (23 R319). -/
  lastRing   : Fin 16
  enumTab    : EnumTable
  dies       : Vector DieState 4
  links      : Vector Link 12
  grade      : Grade
  bar0       : List Host.Cell
  hostIn     : List Byte
  raised     : List Raised
  turns      : List Turn
  ticks      : Nat
  nextId     : Nat
  free       : Nat
  boots      : Nat
  deriving DecidableEq, Repr

/-- The machine right after reset (23 R325, R326): the device's registers at their reset values, no task placed, no address
space, phase 0. -/
def State.reset : State where
  me := .empty
  cur := 0
  slots := []
  cores := []
  clusters := []
  towers := Vector.replicate 4 .reset
  spaces := []
  mem := []
  poison := []
  tlb := []
  l2 := []
  rdc := []
  msc := []
  misses := []
  pins := []
  reqs := []
  anns := []
  watches := []
  monitors := []
  stallFrames := []
  shoots := []
  gated := []
  stale := []
  routed := []
  deadSlices := []
  courier := []
  alloc := []
  bars := []
  boxes := []
  counters := []
  profile := []
  acc := []
  accPoison := []
  tileOwner := []
  bstore := []
  bstorePoison := []
  mcmds := []
  ecmds := []
  msgs := []
  held := []
  windows := []
  units := []
  launches := []
  triggers := []
  partials := []
  groups := []
  reserved := []
  suspended := []
  backing := []
  rings := Vector.replicate 16 .reset
  packets := []
  phase := 0
  failCode := 0
  stretch := 0
  mbox := List.replicate 256 0
  mboxBusy := false
  mboxSd := none
  msix := 0
  msixPending := 0
  aperture := []
  lastRing := 15
  enumTab := ⟨2, [], [], Vector.replicate 4 .full, Vector.replicate 12 ⟨.down, 0, 0⟩⟩
  dies := Vector.replicate 4 .full
  links := Vector.replicate 12 ⟨.down, 0, 0⟩
  grade := .a
  bar0 := []
  hostIn := []
  raised := []
  turns := []
  ticks := 0
  nextId := 1
  free := 0
  boots := 0

end Sys2Proof.Machine
end

