-- ==== Sys2Proof/Machine/Bits.lean ====
section
/-! DEFINITION. Byte order, tables, sets and sparse memory: the small operations every other file of the machine uses. -/

namespace Sys2Proof.Machine

/-! ## Little-endian bytes (00 R5) -/

/-- The number that bytes stand for, the first byte holding bits [7:0]. -/
def leNat : List Byte → Nat
  | [] => 0
  | b :: t => b.toNat + 256 * leNat t

/-- The low `n` bytes of a number, lowest first. -/
def leBytes : Nat → Nat → List Byte
  | 0, _ => []
  | n + 1, v => BitVec.ofNat 8 v :: leBytes n (v / 256)

/-- Bits [hi:lo] of a number (00 R9). -/
def bitsNat (x hi lo : Nat) : Nat := x / 2 ^ lo % 2 ^ (hi + 1 - lo)

/-- A number with bits [hi:lo] replaced by `v`. -/
def putBits (x hi lo v : Nat) : Nat :=
  x / 2 ^ (hi + 1) * 2 ^ (hi + 1) + v % 2 ^ (hi + 1 - lo) * 2 ^ lo + x % 2 ^ lo

def boolNat (b : Bool) : Nat := if b then 1 else 0

/-- Ceiling division. -/
def ceilDiv (a b : Nat) : Nat := (a + b - 1) / b

/-- A value taken as an n-bit two's-complement number and extended to 64 bits (00 R9). -/
def sextN (n v : Nat) : Word := BitVec.ofInt 64 ((BitVec.ofNat n v).toInt)

/-! ## Tables with rising keys -/

/-- The value at a key, or `d` where the table lists none. -/
def tget (d : α) : Table α → Nat → α
  | [], _ => d
  | (j, v) :: t, k => if k = j then v else if k < j then d else tget d t k

/-- The value at a key, if listed. -/
def tfind : Table α → Nat → Option α
  | [], _ => none
  | (j, v) :: t, k => if k = j then some v else if k < j then none else tfind t k

/-- The table with a key's value replaced. -/
def tset : Table α → Nat → α → Table α
  | [], k, x => [(k, x)]
  | (j, v) :: t, k, x =>
    if k = j then (k, x) :: t else if k < j then (k, x) :: (j, v) :: t else (j, v) :: tset t k x

/-- The table without a key. -/
def tdel : Table α → Nat → Table α
  | [], _ => []
  | (j, v) :: t, k =>
    if k = j then t.dropWhile (fun p => p.1 ≤ k) else if k < j then (j, v) :: t else (j, v) :: tdel t k

/-! ## Sets of numbers, rising -/

def smem : List Nat → Nat → Bool
  | [], _ => false
  | j :: t, k => if k = j then true else if k < j then false else smem t k

def sins : List Nat → Nat → List Nat
  | [], k => [k]
  | j :: t, k => if k = j then j :: t else if k < j then k :: j :: t else j :: sins t k

def sdel : List Nat → Nat → List Nat
  | [], _ => []
  | j :: t, k => if k = j then t.dropWhile (· ≤ k) else if k < j then j :: t else j :: sdel t k

/-! ## Sparse memory in canonical form -/

/-- What a byte that nothing has written reads as: the spec gives no contents (log 4). -/
def unlisted : Byte := 0

/-- Reading one byte. -/
def mget : List Host.Cell → Nat → Byte
  | [], _ => unlisted
  | (j, v) :: t, a => if a = j then v else if a < j then unlisted else mget t a

/-- Writing one byte; writing what an unlisted byte reads as removes the entry. -/
def mset : List Host.Cell → Nat → Byte → List Host.Cell
  | [], a, b => if b = unlisted then [] else [(a, b)]
  | (j, v) :: t, a, b =>
    if a = j then (if b = unlisted then t.dropWhile (fun p => p.1 ≤ a) else (a, b) :: t)
    else if a < j then (if b = unlisted then (j, v) :: t else (a, b) :: (j, v) :: t)
    else (j, v) :: mset t a b

/-- Every address of a memory lies above `lo`, addresses rise, and no entry holds what an unlisted byte reads as. -/
def wfAbove : Nat → List Host.Cell → Bool
  | _, [] => true
  | lo, (a, b) :: t => decide (lo ≤ a) && decide (b ≠ unlisted) && wfAbove (a + 1) t

/-- The canonical form of a memory. -/
def Memory.wf (m : List Host.Cell) : Bool := wfAbove 0 m

/-- Reading `n` bytes upward from an address. -/
def mgets (m : List Host.Cell) (a : Nat) : Nat → List Byte
  | 0 => []
  | n + 1 => mget m a :: mgets m (a + 1) n

/-- Writing bytes upward from an address. -/
def msets (m : List Host.Cell) (a : Nat) : List Byte → List Host.Cell
  | [] => m
  | b :: t => msets (mset m a b) (a + 1) t

/-- Writing bytes to the addresses of a list, one each. -/
def mputs (m : List Host.Cell) : List (Nat × Byte) → List Host.Cell
  | [] => m
  | (a, b) :: t => mputs (mset m a b) t

/-- Numbers from `a` upward. -/
def upFrom (a : Nat) : Nat → List Nat
  | 0 => []
  | n + 1 => a :: upFrom (a + 1) n

/-- The item at a place of a list, and the list without it. -/
def takeAt : List α → Nat → Option (α × List α)
  | [], _ => none
  | x :: t, 0 => some (x, t)
  | x :: t, n + 1 => (takeAt t n).map fun p => (p.1, x :: p.2)

/-- Takes one element of a list, which one being free (01 R16, 10 R176; log 79). -/
def takeAny (n : Nat) (l : List α) : Option (α × List α) :=
  match l[Config.pieceOrder n % l.length]? with
  | some x => some (x, l.eraseIdx (Config.pieceOrder n % l.length))
  | none => none

/-- A list's items that satisfy a test, replaced by a function. -/
def mapIf (p : α → Bool) (f : α → α) (l : List α) : List α := l.map fun x => if p x then f x else x

end Sys2Proof.Machine
end

