-- ==== Sys2Proof/Machine/Numbers.lean ====
section
/-! DEFINITION. Number formats, rounding, stochastic rounding and exact sums (07 R106-R121). Every value is computed exactly,
as a whole number times a power of two, and narrowed once. -/

namespace Sys2Proof

open Machine

/-- A value of a format (R106, R108): NaN, an infinity, or ± man × 2^exp, where a zero keeps its sign. -/
inductive Val where
  | nan
  | inf (neg : Bool)
  | fin (neg : Bool) (man : Nat) (exp : Int)
  deriving DecidableEq, Repr

/-! ## Exact arithmetic -/

/-- m × 2^e. -/
structure Dy where
  m : Int
  e : Int
  deriving DecidableEq, Repr

/-- The whole number m × 2^(e − b) for b no greater than e. -/
def Dy.at (x : Dy) (b : Int) : Int := x.m * 2 ^ (x.e - b).toNat

def Dy.add (x y : Dy) : Dy :=
  let b := min x.e y.e
  ⟨x.at b + y.at b, b⟩

def Dy.mul (x y : Dy) : Dy := ⟨x.m * y.m, x.e + y.e⟩

def Dy.cmp (x y : Dy) : Ordering :=
  let b := min x.e y.e
  compare (x.at b) (y.at b)

def Val.dy (neg : Bool) (man : Nat) (exp : Int) : Dy := ⟨if neg then -(man : Int) else man, exp⟩

/-- A nonzero exact result as a value. -/
def Dy.val (x : Dy) : Val := .fin (decide (x.m < 0)) x.m.natAbs x.e

def Val.isNegZero : Val → Bool
  | .fin true 0 _ => true
  | _ => false

/-- An exact product: a zero product's sign is the exclusive OR of the signs (R108, R111). -/
def Val.mul : Val → Val → Val
  | .nan, _ => .nan
  | _, .nan => .nan
  | .inf s, .inf t => .inf (s ^^ t)
  | .inf s, .fin t m _ => if m = 0 then .nan else .inf (s ^^ t)
  | .fin s m _, .inf t => if m = 0 then .nan else .inf (s ^^ t)
  | .fin s m e, .fin t n f => .fin (s ^^ t) (m * n) (e + f)

/-- An exact sum of a list: infinities of both signs are invalid, and an exact zero is +0 unless every addend is −0
(R108, R111, R121). -/
def Val.sum (l : List Val) : Val :=
  if l.contains .nan then .nan
  else if l.contains (.inf false) && l.contains (.inf true) then .nan
  else if l.contains (.inf false) then .inf false
  else if l.contains (.inf true) then .inf true
  else
    let d := l.foldl (fun (acc : Dy) v => match v with | .fin s m e => acc.add (Val.dy s m e) | _ => acc) (⟨0, 0⟩ : Dy)
    if d.m = 0 then .fin (!l.isEmpty && l.all Val.isNegZero) 0 0 else d.val

def Val.add (a b : Val) : Val := Val.sum [a, b]

def Val.neg : Val → Val
  | .nan => .nan
  | .inf s => .inf (!s)
  | .fin s m e => .fin (!s) m e

/-- Order of two values that are not NaN; the zeros are equal. -/
def Val.cmp : Val → Val → Ordering
  | .fin s m e, .fin t n f => (Val.dy s m e).cmp (Val.dy t n f)
  | .inf true, .inf true => .eq
  | .inf false, .inf false => .eq
  | .inf true, _ => .lt
  | _, .inf true => .gt
  | .inf false, _ => .gt
  | _, .inf false => .lt
  | _, _ => .eq

/-! ## The formats (R106) -/

/-- Element width in bits (R34). -/
def Fmt.width : Fmt → Nat
  | .fp32 => 32 | .bf16 => 16 | .fp16 => 16 | .e4m3 => 8 | .e5m2 => 8 | .mk8 => 8 | .int8 => 8 | .uint8 => 8 | .int32 => 32

/-- Element size in bytes. -/
def Fmt.bytes (f : Fmt) : Nat := Fmt.width f / 8

/-- A floating format with a field of exponent bits: fraction bits, bias, the code of the largest finite magnitude and of
the canonical NaN, and whether the code above the largest is infinity (R106). -/
structure FPar where
  frac   : Nat
  bias   : Int
  maxMag : Nat
  nan    : Nat
  hasInf : Bool

def FPar.fp32 : FPar := ⟨23, 127, 0x7F7FFFFF, 0x7FC00000, true⟩
def FPar.bf16 : FPar := ⟨7, 127, 0x7F7F, 0x7FC0, true⟩
def FPar.fp16 : FPar := ⟨10, 15, 0x7BFF, 0x7E00, true⟩
def FPar.e4m3 : FPar := ⟨3, 7, 0x7E, 0x7F, false⟩
def FPar.e5m2 : FPar := ⟨2, 15, 0x7B, 0x7E, true⟩

/-- The magnitude that a magnitude code stands for, the code above the largest included (R106, R115). -/
def FPar.mag (p : FPar) (c : Nat) : Dy :=
  let e := c / 2 ^ p.frac
  let f := c % 2 ^ p.frac
  if e = 0 then ⟨f, 1 - p.bias - p.frac⟩ else ⟨2 ^ p.frac + f, (e : Int) - p.bias - p.frac⟩

def FPar.decode (p : FPar) (w bits : Nat) : Val :=
  let neg := decide (bits / 2 ^ (w - 1) % 2 = 1)
  let c := bits % 2 ^ (w - 1)
  if c ≤ p.maxMag then .fin neg (p.mag c).m.natAbs (p.mag c).e
  else if p.hasInf && c == p.maxMag + 1 then .inf neg
  else .nan

/-- The magnitude of an MK8 code F, and the value 128 above the largest (R109, R110, R115). -/
def mk8Mag (c : Nat) : Dy :=
  if c = 0 then ⟨0, 0⟩
  else if c ≥ 128 then ⟨1, 7⟩
  else
    let n := Nat.log2 c
    let z : Int := 6 - n
    if n = 0 then ⟨1, -6⟩
    else
      let e : Int := (c / 2 ^ (n - 1)) % 2
      let f := c % 2 ^ (n - 1)
      ⟨2 ^ (n - 1) + f, 5 - 2 * z + e - ((n : Int) - 1)⟩

def mk8Decode (bits : Nat) : Val :=
  let neg := decide (bits / 128 % 2 = 1)
  let c := bits % 128
  if c = 0 then (if neg then .nan else .fin false 0 0) else .fin neg (mk8Mag c).m.natAbs (mk8Mag c).e

def intDecode (w bits : Nat) : Val :=
  let v := (BitVec.ofNat w bits).toInt
  .fin (decide (v < 0)) v.natAbs 0

/-- The value of an element's bits (R106, R109). -/
def Fmt.decode (f : Fmt) (bits : Nat) : Val :=
  match f with
  | .fp32 => FPar.fp32.decode 32 bits
  | .bf16 => FPar.bf16.decode 16 bits
  | .fp16 => FPar.fp16.decode 16 bits
  | .e4m3 => FPar.e4m3.decode 8 bits
  | .e5m2 => FPar.e5m2.decode 8 bits
  | .mk8 => mk8Decode bits
  | .int8 => intDecode 8 bits
  | .uint8 => .fin false (bits % 256) 0
  | .int32 => intDecode 32 bits

/-! ## Rounding (R111, R112, R115) -/

/-- The grid of magnitudes of a format: the greatest code not above a magnitude (unbounded), each code's magnitude, the code
of the largest. Codes rise with magnitudes by steps of one. -/
structure Grid where
  floor  : Nat → Int → Nat
  mag    : Nat → Dy
  maxMag : Nat

/-- The greatest code of a floating format not above man × 2^exp. -/
def FPar.floor (p : FPar) (man : Nat) (exp : Int) : Nat :=
  let l : Int := (Nat.log2 man : Int) + exp
  let emin := 1 - p.bias
  let q := max l emin - p.frac
  let n := if exp ≥ q then man * 2 ^ (exp - q).toNat else man / 2 ^ (q - exp).toNat
  if l < emin then n else (l + p.bias).toNat * 2 ^ p.frac + (n - 2 ^ p.frac)

/-- The greatest MK8 code not above man × 2^exp; 128 stands for every magnitude beyond the grid (R110). -/
def mk8Floor (man : Nat) (exp : Int) : Nat :=
  (List.range 128).foldl (fun best c => if (mk8Mag c).cmp ⟨man, exp⟩ ≠ .gt then c else best) 0
    + (if (⟨1, 7⟩ : Dy).cmp ⟨man, exp⟩ ≠ .gt then 1 else 0)

def intFloor (man : Nat) (exp : Int) : Nat :=
  if exp ≥ 0 then man * 2 ^ exp.toNat else man / 2 ^ (-exp).toNat

def FPar.grid (p : FPar) : Grid := ⟨p.floor, p.mag, p.maxMag⟩
def mk8Grid : Grid := ⟨mk8Floor, mk8Mag, 127⟩
def intGrid (maxMag : Nat) : Grid := ⟨intFloor, fun c => ⟨c, 0⟩, maxMag⟩

/-- The code a nonzero magnitude rounds to, possibly one beyond the largest; `t` is the 24-bit draw of SR (R111, R115). -/
def Grid.round (g : Grid) (mode : Rnd) (neg : Bool) (man : Nat) (exp : Int) (t : Nat) : Nat :=
  let x : Dy := ⟨man, exp⟩
  let lo := min (g.floor man exp) g.maxMag
  let hi := lo + 1
  if (g.mag lo).cmp x = .eq then lo
  else
    match mode with
    | .rz => lo
    | .ru => if neg then lo else hi
    | .rd => if neg then hi else lo
    | .rne =>
      match Dy.cmp ⟨2 * x.m, x.e⟩ ((g.mag lo).add (g.mag hi)) with
      | .lt => lo
      | .gt => hi
      | .eq => if lo % 2 = 0 then lo else hi
    | .sr =>
      -- t < floor(d × 2^24) with d = (x − lo) ÷ (hi − lo), as t + 1 ≤ d × 2^24
      let num := x.add ⟨-(g.mag lo).m, (g.mag lo).e⟩
      let den := (g.mag hi).add ⟨-(g.mag lo).m, (g.mag lo).e⟩
      if Dy.cmp ⟨(t + 1 : Nat) * den.m, den.e⟩ ⟨num.m, num.e + 24⟩ ≠ .gt then hi else lo

/-- Rounding into a floating format of `w` bits (R111, R112). -/
def FPar.round (p : FPar) (w : Nat) (mode : Rnd) (v : Val) (t : Nat) : Nat :=
  match v with
  | .nan => p.nan
  | .inf neg => boolNat neg * 2 ^ (w - 1) + (if p.hasInf then p.maxMag + 1 else p.maxMag)
  | .fin neg man exp =>
    let c := if man = 0 then 0 else p.grid.round mode neg man exp t
    boolNat neg * 2 ^ (w - 1) + (if p.hasInf then c else min c p.maxMag)

def mk8Round (mode : Rnd) (v : Val) (t : Nat) : Nat :=
  match v with
  | .nan => 0x80
  | .inf neg => boolNat neg * 128 + 127
  | .fin neg man exp =>
    let c := if man = 0 then 0 else min (mk8Grid.round mode neg man exp t) 127
    if c = 0 then 0 else boolNat neg * 128 + c

/-- Rounding to an integer and limiting it to [−low, high] (R112). -/
def intRound (w low high : Nat) (mode : Rnd) (v : Val) (t : Nat) : Nat :=
  match v with
  | .nan => 0
  | .inf neg => if neg then (2 ^ w - low) % 2 ^ w else high
  | .fin neg man exp =>
    let c := if man = 0 then 0 else (intGrid (2 ^ 400)).round mode neg man exp t
    if neg then (2 ^ w - min c low) % 2 ^ w else min c high

/-- Round(x, format, mode) with the overflow rules, the draw `t` used under SR alone (R111, R112, R115). -/
def Fmt.round (f : Fmt) (mode : Rnd) (v : Val) (t : Nat) : Nat :=
  match f with
  | .fp32 => FPar.fp32.round 32 mode v t
  | .bf16 => FPar.bf16.round 16 mode v t
  | .fp16 => FPar.fp16.round 16 mode v t
  | .e4m3 => FPar.e4m3.round 8 mode v t
  | .e5m2 => FPar.e5m2.round 8 mode v t
  | .mk8 => mk8Round mode v t
  | .int8 => intRound 8 128 127 mode v t
  | .uint8 => intRound 8 0 255 mode v t
  | .int32 => intRound 32 (2 ^ 31) (2 ^ 31 - 1) mode v t

/-- Rounding to the nearest, ties to even (R114). -/
def Fmt.rne (f : Fmt) (v : Val) : Nat := f.round .rne v 0

def Fmt.isFloat : Fmt → Bool
  | .fp32 | .bf16 | .fp16 | .e4m3 | .e5m2 | .mk8 => true
  | .int8 | .uint8 | .int32 => false

def Fmt.canonNan (f : Fmt) : Nat := f.rne .nan

/-- The conversions that are exact (R113; a format into itself by its first sentence, log 16). -/
def exactConv (src dst : Fmt) : Bool :=
  src == dst ||
  match dst with
  | .fp32 => src != .int32
  | .bf16 | .fp16 => src == .e4m3 || src == .e5m2 || src == .mk8 || src == .int8 || src == .uint8
  | .int32 => src == .int8 || src == .uint8
  | _ => false

/-! ## The stochastic-rounding generator (R115-R117) -/

/-- One step of the generator. -/
def srNext (s : Word) : Word :=
  let s := s ^^^ (s <<< 13)
  let s := s ^^^ (s >>> 7)
  s ^^^ (s <<< 17)

/-- The draw of a state: bits [63:40]. -/
def srDraw (s : Word) : Nat := (s >>> 40).toNat

/-- The generator after `n` steps. -/
def srSteps (s : Word) : Nat → Word
  | 0 => s
  | n + 1 => srSteps (srNext s) n

/-- The state at first placement (R116). -/
def srSeed (seed : Word) (firstCore : Nat) : Word :=
  let s := seed ^^^ (0x9E3779B97F4A7C15#64 * BitVec.ofNat 64 (firstCore + 1))
  if s = 0 then 1 else s

/-! ## Correctly rounded functions (R137) -/

/-- The code of FP32 nearest to a positive target, ties to even; `cmp d` compares the dyadic `d` with the target. -/
def searchCode (cmp : Dy → Ordering) : Nat → Nat → Nat
  | 0, acc => acc
  | n + 1, acc =>
    let c := acc + 2 ^ n
    if c ≤ FPar.fp32.maxMag + 1 && (cmp (FPar.fp32.mag c)).isLE then searchCode cmp n c else searchCode cmp n acc

/-- Rounds a positive target to FP32 by RNE; the code above the largest finite is infinity. -/
def roundTarget (cmp : Dy → Ordering) : Nat :=
  let lo := searchCode cmp 31 0
  if lo > FPar.fp32.maxMag then FPar.fp32.maxMag + 1
  else if cmp (FPar.fp32.mag lo) = .eq then lo
  else
    let mid := (FPar.fp32.mag lo).add (FPar.fp32.mag (lo + 1))
    match cmp ⟨mid.m, mid.e - 1⟩ with
    | .gt => lo
    | .lt => lo + 1
    | .eq => if lo % 2 = 0 then lo else lo + 1

def fpSign (neg : Bool) (c : Nat) : Nat := boolNat neg * 2 ^ 31 + c

/-- 1 ÷ x: a dyadic d compares with 1 ÷ x as d × x with 1. -/
def vrcp (v : Val) : Nat :=
  match v with
  | .nan => Fmt.canonNan .fp32
  | .inf s => fpSign s 0
  | .fin s m e => if m = 0 then fpSign s 0x7F800000 else fpSign s (roundTarget fun d => (d.mul ⟨m, e⟩).cmp ⟨1, 0⟩)

/-- 1 ÷ √x: d compares with 1 ÷ √x as d² × x with 1. -/
def vrsq (v : Val) : Nat :=
  match v with
  | .nan => Fmt.canonNan .fp32
  | .inf false => 0
  | .inf true => Fmt.canonNan .fp32
  | .fin s m e =>
    if m = 0 then fpSign s 0x7F800000
    else if s then Fmt.canonNan .fp32
    else roundTarget fun d => ((d.mul d).mul ⟨m, e⟩).cmp ⟨1, 0⟩

/-- d compared with 2^x for x = a × 2^b: as d^(2^−b) with 2^a when b is negative. -/
def exp2Cmp (x d : Dy) : Ordering :=
  if d.m ≤ 0 then .lt
  else if x.e ≥ 0 then d.cmp ⟨1, x.at 0⟩
  else
    let n : Nat := 2 ^ (-x.e).toNat
    Dy.cmp ⟨d.m ^ n, d.e * (n : Int)⟩ ⟨1, x.m⟩

/-- 2^x. Below 2^−25 in magnitude 2^x lies within a quarter of a unit of 1; below −160 it lies below half the least
subnormal. -/
def vexp2 (v : Val) : Nat :=
  match v with
  | .nan => Fmt.canonNan .fp32
  | .inf true => 0
  | .inf false => 0x7F800000
  | .fin s m e =>
    let x := Val.dy s m e
    if x.cmp ⟨128, 0⟩ ≠ .lt then 0x7F800000
    else if x.cmp ⟨-160, 0⟩ = .lt then 0
    else if (⟨m, e⟩ : Dy).cmp ⟨1, -25⟩ = .lt then 0x3F800000
    else roundTarget (exp2Cmp x)

/-- d compared with |log2 x|, as 2^d with x (or with 1 ÷ x below 1); every |log2 x| of FP32 lies below 256. -/
def log2Cmp (m : Nat) (e : Int) (below : Bool) (d : Dy) : Ordering :=
  if d.cmp ⟨256, 0⟩ ≠ .lt then .gt
  else
    let n : Nat := 2 ^ (-d.e).toNat
    let k : Int := if d.e ≥ 0 then d.at 0 else d.m
    let p : Dy := ⟨(m : Int) ^ n, e * (n : Int)⟩
    if below then (p.mul ⟨1, k⟩).cmp ⟨1, 0⟩ else (⟨1, k⟩ : Dy).cmp p

/-- log2 x. -/
def vlog2 (v : Val) : Nat :=
  match v with
  | .nan => Fmt.canonNan .fp32
  | .inf false => 0x7F800000
  | .inf true => Fmt.canonNan .fp32
  | .fin s m e =>
    if m = 0 then fpSign true 0x7F800000
    else if s then Fmt.canonNan .fp32
    else
      let x : Dy := ⟨m, e⟩
      match x.cmp ⟨1, 0⟩ with
      | .eq => 0
      | .lt => fpSign true (roundTarget (log2Cmp m e true))
      | .gt => roundTarget (log2Cmp m e false)

/-! ## Block scales (R119) -/

/-- The value an E8M0 byte stands for. -/
def scaleVal (c : Byte) : Val := if c = 0xFF#8 then .nan else .fin false 1 ((c.toNat : Int) - 127)

/-- Formats that may carry block scales. -/
def Fmt.scalable : Fmt → Bool
  | .e4m3 | .e5m2 | .mk8 | .int8 => true
  | .fp32 | .bf16 | .fp16 | .uint8 | .int32 => false

/-! ## Sums (R120, R121) -/

def f32 (bits : Nat) : Val := Fmt.decode .fp32 bits

/-- A K-step's contribution rounded into FP32 and added (R121): `acc` and the result are FP32 bits. -/
def kStep (acc : Nat) (products : List Val) (scaleA scaleB : Val) : Nat :=
  let p := ((Val.sum products).mul scaleA).mul scaleB
  Fmt.rne .fp32 ((f32 acc).add (f32 (Fmt.rne .fp32 p)))

/-- One level of the tree of R120 over positions that may be absent. -/
def treeLevel (add : Nat → Nat → Nat) : List (Option Nat) → List (Option Nat)
  | some a :: some b :: t => some (add a b) :: treeLevel add t
  | some a :: none :: t => some a :: treeLevel add t
  | none :: b :: t => b :: treeLevel add t
  | [a] => [a]
  | [] => []

/-- The root of the tree after enough levels (seven for up to 128 lanes). -/
def treeSum (add : Nat → Nat → Nat) : Nat → List (Option Nat) → Option Nat
  | 0, l => l.head?.join
  | n + 1, l => treeSum add n (treeLevel add l)

end Sys2Proof
end

