-- ==== Sys2Proof/Machine/Ops.lean ====
section
/-! DEFINITION. The named operations on the issuing slot and on the device's tables: registers, the program counter, taking a
trap and returning from one (05 R76), stalls and parks (05 R66), coordinates (00 R2, 01 R21). -/

namespace Sys2Proof.Machine

/-! ## Coordinates (00 R1, R2; 01 R21; 09 R142) -/

/-- Rows of cores per tower (R2). -/
def State.rows (s : State) : Nat :=
  match s.grade with
  | .a => 16
  | .b => 14
  | .c => 12

/-- Live cores of the grade (R1). -/
def State.liveCores (s : State) : Nat := 64 * s.rows

def isSup (core : Nat) : Bool := decide (1024 ≤ core)
def coreX (core : Nat) : Nat := core % 32
def coreY (core : Nat) : Nat := core / 32

/-- The tower of a core; core 1024 + t is the supervisor core of tower t. -/
def State.towerOf (s : State) (core : Nat) : Nat :=
  if isSup core then (core - 1024) % 4 else (coreY core / s.rows * 2 + coreX core / 16) % 4

/-- Cluster numbers (R21). -/
def clusterOf (core : Nat) : Nat := coreY core / 2 * 8 + coreX core / 4
/-- The index of a core in its cluster (R21). -/
def indexOf (core : Nat) : Nat := coreY core % 2 * 4 + coreX core % 4
/-- The core of an index in a cluster. -/
def coreAt (cluster index : Nat) : Nat := (cluster / 8 * 2 + index / 4) * 32 + cluster % 8 * 4 + index % 4
def State.towerOfCluster (s : State) (cluster : Nat) : Nat := s.towerOf (coreAt cluster 0)
/-- The first cluster of a tower, whose engine has the service queues (R277). -/
def State.firstCluster (s : State) (t : Nat) : Nat := s.rows * (t / 2) / 2 * 8 + t % 2 * 4

/-- The router of a core on its tower's 8 × 8 grid (R21), as ry × 8 + rx, which is also the number of its slice (R142). -/
def State.routerOf (s : State) (core : Nat) : Nat :=
  if isSup core then 0
  else coreY core % s.rows / 2 * 8 + coreX core % 16 / 2

/-- Exists and is not marked dead (R2, 13 R221). -/
def State.coreLive (s : State) (core : Nat) : Bool :=
  if isSup core then decide (core < 1028)
  else decide (core < s.liveCores) && !(tget Core.reset s.cores core).dead

/-! ## Reading and writing the tables -/

def coreOfKey (k : SlotKey) : Nat := k / 4
def slotOfKey (k : SlotKey) : Nat := k % 4

def State.tower (s : State) (t : Nat) : Tower := s.towers[t % 4]'(Nat.mod_lt _ (by decide))
def State.setTower (s : State) (t : Nat) (x : Tower) : State :=
  { s with towers := s.towers.set (t % 4) x (Nat.mod_lt _ (by decide)) }

def State.core (s : State) (c : Nat) : Core := tget Core.reset s.cores c
def State.setCore (s : State) (c : Nat) (x : Core) : State := { s with cores := tset s.cores c x }

def State.cluster (s : State) (c : Nat) : Cluster := tget Cluster.reset s.clusters c
def State.setCluster (s : State) (c : Nat) (x : Cluster) : State := { s with clusters := tset s.clusters c x }

/-- The context of any slot. -/
def State.ctx (s : State) (k : SlotKey) : Ctx := if k = s.cur then s.me else tget .empty s.slots k
def State.setCtx (s : State) (k : SlotKey) (c : Ctx) : State :=
  if k = s.cur then { s with me := c } else { s with slots := tset s.slots k c }

/-- Makes another slot the unpacked one. -/
def State.switch (s : State) (k : SlotKey) : State :=
  if k = s.cur then s
  else { s with slots := tset (tdel s.slots k) s.cur s.me, me := tget .empty s.slots k, cur := k }

/-- The keys of every slot that may hold a task. -/
def State.keys (s : State) : List SlotKey := sins (s.slots.map Prod.fst) s.cur

def Ctx.occupied (c : Ctx) : Bool := match c.run with | .empty => false | _ => true

/-- The slot that holds a task. -/
def State.keyOf (s : State) (tid : Nat) : Option SlotKey :=
  s.keys.find? fun k => (s.ctx k).occupied && (s.ctx k).tid == tid

/-- The suspended task of an id. -/
def State.suspendedOf (s : State) (tid : Nat) : Option Suspended := s.suspended.find? (·.ctx.tid == tid)

def State.space (s : State) (asid : Nat) : Option Space := tfind s.spaces asid
def State.setSpace (s : State) (asid : Nat) (x : Space) : State := { s with spaces := tset s.spaces asid x }

/-- The tenant class of an address space (09 R160). -/
def State.tenantOf (s : State) (asid : Nat) : Nat :=
  match s.space asid with
  | some sp => sp.tenant.val
  | none => 0

/-- The issuing slot's core, tower and cluster. -/
def State.myCore (s : State) : Nat := coreOfKey s.cur
def State.myTower (s : State) : Nat := s.towerOf s.myCore
/-- The cluster of a core; supervisor cores have none (R21). -/
def clusterOpt (core : Nat) : Option Nat := if isSup core then none else some (clusterOf core)
def State.myCluster (s : State) : Option Nat := clusterOpt s.myCore

/-- A step that is to take place, added behind those already raised. -/
def State.raise (s : State) (i : Raised) : State := { s with raised := s.raised ++ [i] }
def State.raises (s : State) (l : List Raised) : State := { s with raised := s.raised ++ l }
def State.report (s : State) (r : CourierRec) : State := { s with courier := s.courier ++ [r] }

/-- What firmware does: nothing once bring-up has failed (23 R325). -/
def State.byFirmware (s : State) (f : State → State) : State := if s.phase = 0xF then s else f s

/-! ## Registers of the issuing slot -/

/-- A general register; g0 reads zero (02 R29). -/
def Ctx.getG (c : Ctx) (n : BitVec 6) : Word := if n = 0 then 0 else c.g[n.toNat]
/-- Writing a general register; a write to g0 is discarded (02 R29). -/
def Ctx.setG (c : Ctx) (n : BitVec 6) (v : Word) : Ctx :=
  if n = 0 then c else { c with g := c.g.set n.toNat v }

def Ctx.getA (c : Ctx) (n : BitVec 4) : AReg := c.a[n.toNat]
def Ctx.setA (c : Ctx) (n : BitVec 4) (v : AReg) : Ctx := { c with a := c.a.set n.toNat v }

def Ctx.getQ (c : Ctx) (n : BitVec 4) : QReg := c.q[n.toNat]
def Ctx.setQ (c : Ctx) (n : BitVec 4) (v : QReg) : Ctx := { c with q := c.q.set n.toNat v }

/-- A mask register; k0 reads as all ones (05 R71). -/
def Ctx.getK (c : Ctx) (n : BitVec 3) : KWord := if n = 0 then BitVec.allOnes 128 else c.k[n.toNat]
/-- Writing a mask register; writes to k0 are discarded (05 R71). -/
def Ctx.setK (c : Ctx) (n : BitVec 3) (v : KWord) : Ctx :=
  if n = 0 then c else { c with k := c.k.set n.toNat v }

def Ctx.getV (c : Ctx) (n : BitVec 5) : VWord := c.v[n.toNat]
def Ctx.setV (c : Ctx) (n : BitVec 5) (v : VWord) : Ctx := { c with v := c.v.set n.toNat v }

def State.getG (s : State) (n : BitVec 6) : Word := s.me.getG n
def State.setG (s : State) (n : BitVec 6) (v : Word) : State := { s with me := s.me.setG n v }
def State.setA (s : State) (n : BitVec 4) (v : AReg) : State := { s with me := s.me.setA n v }
def State.setQ (s : State) (n : BitVec 4) (v : QReg) : State := { s with me := s.me.setQ n v }
def State.setK (s : State) (n : BitVec 3) (v : KWord) : State := { s with me := s.me.setK n v }
def State.setV (s : State) (n : BitVec 5) (v : VWord) : State := { s with me := s.me.setV n v }

/-- Registers of the system state as words (05 R71, R73). -/
def AReg.flags (a : AReg) : Word :=
  BitVec.ofNat 64 (32 * boolNat a.cls + 16 * boolNat a.scratch + 4 * boolNat a.e + 2 * boolNat a.w + boolNat a.r)

/-! ## Completing an instruction -/

/-- The address a trap or suspension reports: the REP's while a repetition executes (06 R93). -/
def Ctx.at (c : Ctx) : Addr :=
  match c.rep with
  | some (p, _) => p
  | none => c.pc

/-- Nothing is left over of an instruction that has ended. -/
def Ctx.ended (c : Ctx) : Ctx :=
  { c with
    cont := none, paid := false, nth := 0, wide := false, movb := [], issued := false, got := []
    succ := none }

/-- Completion of an instruction of `len` bytes. Under REP the count falls by one, applied to the value it holds after the
repetition, and the program counter moves on when it reaches 0 (06 R93). -/
def Ctx.advance (c : Ctx) (len : Nat) : Ctx :=
  match c.rep with
  | none => { c.ended with pc := c.pc + BitVec.ofNat 56 len }
  | some (_, n) =>
    let left := c.getG n - 1
    let c := c.setG n left
    if n = 0 ∨ left = 0 then { c.ended with pc := c.pc + BitVec.ofNat 56 len, rep := none } else c.ended

def State.advance (s : State) (len : Nat) : State := { s with me := s.me.advance len }

/-- A completed instruction that writes a general register. -/
def State.retG (s : State) (d : BitVec 6) (v : Word) (len : Nat) : State := (s.setG d v).advance len

/-- A control transfer. -/
def State.jump (s : State) (target : Addr) : State := { s with me := { s.me with pc := target, rep := none, paid := false } }

/-! ## Exceptions (05 R76-R79) -/

/-- Suspends a slot's task for a cause: the slot is halted with pc at its instruction, and the Sorting Office takes over
(R79). -/
def State.beginSuspendKey (s : State) (k : SlotKey) (cause : Cause) : State :=
  let c := s.ctx k
  let rest : Ctx := { c with run := .suspending cause, pc := c.at, rep := none, paid := false, fetchPaid := false }
  (s.setCtx k { rest with nth := 0, wide := false, movb := [], issued := false, got := [], succ := none }).raise (.taskSuspension k)

def State.beginSuspend (s : State) (cause : Cause) : State := s.beginSuspendKey s.cur cause

/-- Delivery of a trap with cause `code`, information `info` and return address `ret`, raised at the address `Ctx.at` (R76). -/
def State.trapTo (s : State) (code : BitVec 8) (info : Word) (ret : Addr) : State :=
  let c := s.me
  if c.inh = false ∧ c.tvec ≠ 0 then
    { s with me := { c.ended with epc := ret, cause := code, tinfo := info, inh := true, pc := c.tvec, rep := none } }
  else ({ s with me := { c with cont := none } }).beginSuspend (.fault code info c.at)

/-- Every trap but TRAP's returns to the address that raised it. -/
def State.trap (s : State) (code : BitVec 8) (info : Word) : State := s.trapTo code info s.me.at

/-- Illegal instruction, with the words of the instruction being executed (R41, R77). -/
def State.illegal (s : State) : State := s.trap 0x01 s.me.insn

/-- The information word of R330: address, source code, number. -/
def accessInfo (src num va : Nat) : Word := BitVec.ofNat 64 (va % 2 ^ 56 * 256 + src % 16 * 16 + num % 16)

def State.limitTrap (s : State) (num va : Nat) : State := s.trap 0x02 (accessInfo 0 num va)
def State.permTrap (s : State) (src num va : Nat) : State := s.trap 0x03 (accessInfo src num va)
def State.misaligned (s : State) (va : Nat) : State := s.trap 0x04 (BitVec.ofNat 64 va)
def State.ringMisuse (s : State) (q : BitVec 4) : State := s.trap 0x07 (q.setWidth 64)
def State.poisonTrap (s : State) (va : Nat) : State := s.trap 0x0A (BitVec.ofNat 64 va)

/-- Return from a trap handler; outside one it is illegal (R76). -/
def State.eret (s : State) : State :=
  if s.me.inh then { s with me := { s.me with pc := s.me.epc, inh := false, rep := none } } else s.illegal

/-! ## Waiting (05 R66, R90) -/

/-- The slot stalls and its access is tried again by an ACCESS_RETRY. -/
def State.stall (s : State) (y : Stall) : State :=
  ({ s with me := { s.me with run := .stalled y } }).raise (.accessRetry s.cur)

/-- The slot stalls until the step it waits for takes place. -/
def State.hold (s : State) (y : Stall) : State := { s with me := { s.me with run := .stalled y } }

def State.park (s : State) (p : Park) : State := { s with me := { s.me with run := .parked p } }

/-- The core is active now (13 R221). -/
def State.touch (s : State) (core : Nat) : State :=
  s.setCore core { s.core core with activeAt := (s.tower (s.towerOf core)).cycle }

/-- Makes a slot run on, at the instruction it waited at. -/
def State.wakeSlot (s : State) (k : SlotKey) : State := (s.setCtx k { s.ctx k with run := .running }).touch (coreOfKey k)

/-- Completes the instruction a parked or stalled slot waits at, after a change of its registers. -/
def State.completeSlot (s : State) (k : SlotKey) (f : Ctx → Ctx) (len : Nat) : State :=
  let c := s.ctx k
  (s.setCtx k (({ f c with run := .running } : Ctx).advance len)).touch (coreOfKey k)

/-! ## Sequencing of accesses that may trap or wait -/

/-- The outcome of a part of an instruction: a value and the state so far, or the state in which the instruction ended early
(a trap, a stall, a suspension). -/
inductive Res (α : Type) where
  | ok (a : α) (s : State)
  | done (s : State)

def Res.andThen (r : Res α) (f : α → State → State) : State :=
  match r with
  | .ok a s => f a s
  | .done s => s

def Res.bind (r : Res α) (f : α → State → Res β) : Res β :=
  match r with
  | .ok a s => f a s
  | .done s => .done s

end Sys2Proof.Machine
end

