-- ==== Sys2Proof/Machine/Memory.lean ====
section
/-! DEFINITION. Memory as the slices, towers and cores hold it: homes, translation, the port, reads, writes, pins, announcements
and signals (09 R141-R160; 10 R163-R175; 11 R190). -/

namespace Sys2Proof.Machine

def firstSome (f : α → Option β) : List α → Option β
  | [] => none
  | x :: t => match f x with | some b => some b | none => firstSome f t

/-! ## The physical map (09 R144, 23 R316) -/

inductive Home where
  | tower (t : Nat)
  | host
  | peer (p : Nat)
  deriving DecidableEq, Repr

/-- Where a physical byte has its home; none for an unmapped address. -/
def homeOf (pa : Nat) : Option Home :=
  if pa < 0x8000000000000 then
    if pa / 2 ^ 38 < 4 ∧ pa % 2 ^ 38 < 0x3000000000 then some (.tower (pa / 2 ^ 38)) else none
  else if pa < 0xC000000000000 then some .host
  else if pa < 2 ^ 52 then some (.peer ((pa - 0xC000000000000) / 2 ^ 47))
  else none

/-- A peer with a live link, at a position that is not the device's own (R316). -/
def State.peerLive (s : State) (p : Nat) : Bool :=
  p ≠ Config.boardPosition.toNat && s.links.toList.any fun l => l.state == .up && l.peer.val == p

/-- What the walker treats as mapped (R146 last line, R316). -/
def State.mapped (s : State) (pa : Nat) : Bool :=
  match homeOf pa with
  | some (.tower _) => true
  | some .host => true
  | some (.peer p) => s.peerLive p
  | none => false

/-- The slice index of an address (R142). -/
def sliceHash (va : Nat) : Nat := (bitsNat va 12 7 ^^^ bitsNat va 18 13) ^^^ bitsNat va 20 19

/-- The slice that serves an index on a tower: a dead slice's index is served by its neighbour (R142). -/
def State.sliceOf (s : State) (t va : Nat) : Nat :=
  let h := sliceHash va
  if smem s.deadSlices (t * 64 + h) then h ^^^ 1 else h

/-! ## Routers and slices that sleep (01 R14, 09 R154) -/

/-- Traffic reaches a router, which wakes for it; the slice that a shootdown skipped flushes its translations before it takes a
request. -/
def State.wakeRouter (s : State) (t h : Nat) : State :=
  let n := t * 64 + h
  let s := { s with routed := tset s.routed n (s.tower t).cycle }
  if smem s.gated n then
    let s := { s with gated := sdel s.gated n }
    if smem s.stale n then
      { s with
        stale := sdel s.stale n,
        tlb := s.tlb.filter fun e => !(e.tower == t && e.slice == h),
        l2 := mapIf (fun l => l.tower == t && l.slice == h) (fun l => { l with r := false, w := false, x := false, d := false }) s.l2 }
    else s
  else s

/-- Traffic reaches a core. -/
def State.wakeCore (s : State) (core : Nat) : State := s.wakeRouter (s.towerOf core) (s.routerOf core)

/-- Traffic reaches the slice at the home of an address. -/
def State.wakeHome (s : State) (pa : Nat) : State :=
  match homeOf pa with
  | some (.tower h) => s.wakeRouter h (s.sliceOf h pa)
  | _ => s

/-- Cycles of the core clock in a number of network cycles, at the nominal clocks (00 R3). -/
def coreCycles (network : Nat) : Nat := network * 7 / 8

/-! ## Vector clocks (10 R170) -/

def cget (v : Vector (BitVec 20) 4) (i : Nat) : BitVec 20 := v[i % 4]'(Nat.mod_lt _ (by decide))
def cset (v : Vector (BitVec 20) 4) (i : Nat) (x : BitVec 20) : Vector (BitVec 20) 4 :=
  v.set (i % 4) x (Nat.mod_lt _ (by decide))

/-- a ≥ b, counters compared modulo 2^20. -/
def clockGe (a b : BitVec 20) : Bool := (a - b).toNat < 2 ^ 19

/-- Every counter of `a` but those of the listed towers has reached `b`'s. -/
def clockCovers (a b : Vector (BitVec 20) 4) (skip : List Nat) : Bool :=
  [0, 1, 2, 3].all fun k => skip.contains k || clockGe (cget a k) (cget b k)

def State.vc (s : State) (t : Nat) : Vector (BitVec 20) 4 := (s.tower t).vc

/-- A clock that covers every write performed at any home so far. -/
def State.frontier (s : State) : Vector (BitVec 20) 4 := #v[cget (s.vc 0) 0, cget (s.vc 1) 1, cget (s.vc 2) 2, cget (s.vc 3) 3]

/-- Every tower has applied the writes that a clock covers (10 R163). -/
def State.allApplied (s : State) (c : Vector (BitVec 20) 4) : Bool := [0, 1, 2, 3].all fun u => clockCovers (s.vc u) c []

/-- The home may take a write without running more than 2^18 ahead of a tower. -/
def State.gapOpen (s : State) (h : Nat) : Bool :=
  [0, 1, 2, 3].all fun u => u == h || decide ((cget (s.vc h) h + 1 - cget (s.vc u) h).toNat ≤ 2 ^ 18)

/-! ## Performing a write at its home -/

/-- Poison after a write of `n` bytes: a piece written whole is clean (R159). -/
def clearPoison (p : List Nat) (pa n : Nat) : List Nat :=
  (upFrom ((pa + 31) / 32) ((pa + n) / 32 - (pa + 31) / 32)).foldl sdel p

/-- Cells of consecutive bytes. -/
def cells (pa : Nat) (data : List Byte) : List Host.Cell := (upFrom pa data.length).zip data

def RdcLine.put (l : RdcLine) (c : Host.Cell) : RdcLine :=
  if c.1 / 128 = l.pline then { l with data := l.data.set (c.1 % 128) c.2 } else l

/-- The 32-byte pieces that some cells lie in. -/
def piecesOfCells (cs : List Host.Cell) : List Nat := (cs.map (·.1 / 32)).foldl sins []

/-- A remote-data cache line with an announcement's bytes, and the poison of the pieces they lie in: a `clean` write clears that of the
pieces it covers, a narrower one leaves it in place (R159, R170). -/
def RdcLine.apply (l : RdcLine) (cs : List Host.Cell) (clean : Bool) (bad : List Nat) : RdcLine :=
  let l := cs.foldl RdcLine.put l
  let whole := fun (p : Nat) => clean && decide ((cs.filter fun c => c.1 / 32 == p).length = 32)
  { l with poison := (bad.filter fun p => p / 4 == l.pline).foldl sins (l.poison.filter fun p => !whole p) }

/-- The announcement next in line from `home` may be applied at `dst` (R170). -/
def State.annReady (s : State) (a : Announcement) : Bool :=
  a.first == cget (s.vc a.dst) a.home + 1 && clockCovers (s.vc a.dst) a.clock [a.home, a.dst]

/-- Applies an announcement: the lines it carries are updated, the clock moves on (R170). -/
def State.applyAnn (s : State) (a : Announcement) : State :=
  let t := s.tower a.dst
  let s := s.setTower a.dst { t with vc := cset t.vc a.home (cget a.clock a.home) }
  let rdc := match a.data with
    | none => s.rdc
    | some d => mapIf (·.tower == a.dst) (fun l => l.apply d a.clean a.poison) s.rdc
  { s with anns := s.anns.filter (· ≠ a), rdc := rdc }

/-- The oldest announcement in flight from a home to a tower. -/
def State.nextAnn (s : State) (dst home : Nat) : Option Announcement := s.anns.find? fun a => a.home == home && a.dst == dst

/-- An announcement that a tower may apply now. -/
def State.readyAnn (s : State) (t : Nat) : Option Announcement := firstSome (fun h => (s.nextAnn t h).filter s.annReady) [0, 1, 2, 3]

/-- Applies announcements to a tower until its clock covers another. -/
def State.bringUp (s : State) (t : Nat) (need : Vector (BitVec 20) 4) : Nat → State
  | 0 => s
  | n + 1 =>
    if clockCovers (s.vc t) need [t] then s
    else
      match s.readyAnn t with
      | some a => (s.applyAnn a).bringUp t need n
      | none => s

/-- A tower can come to apply everything that is on its way to it. -/
def State.canApply (s : State) (t : Nat) : Bool := clockCovers ((s.bringUp t s.frontier s.anns.length).vc t) s.frontier [t]

/-- Announces a write homed on `h` to tower `u` (R170): with data where the tower's remote-data cache has the line; else merged with a
preceding announcement without data, under the clock of the last, unless the tower could then never apply the two (log 28). -/
def State.announceTo (s : State) (h pa : Nat) (data : List Byte) (clean : Bool) (u : Nat) : State :=
  let v := s.vc h
  let pl := pa / 128
  let withData := s.rdc.any fun l => l.tower == u && l.pline == pl
  let cs := cells pa data
  let a : Announcement := ⟨h, u, pl, if withData then some cs else none, (piecesOfCells cs).filter (smem s.poison ·), clean, cget v h, v⟩
  let apart := ({ s with anns := s.anns ++ [a] }).raise (.announcementApply (Fin.ofNat 4 u) (Fin.ofNat 4 h))
  match s.anns.reverse.find? fun x => x.home == h && x.dst == u with
  | some last =>
    let merged := { s with anns := mapIf (· == last) (fun x => { x with clock := v, pline := pl }) s.anns }
    if last.data.isNone && !withData && merged.canApply u then merged else apart
  | none => apart

/-- Counts a performed write of home tower `h` and announces it (R170). -/
def State.announce (s : State) (h pa : Nat) (data : List Byte) (clean : Bool) : State :=
  let t := s.tower h
  let s := s.setTower h { t with vc := cset t.vc h (cget t.vc h + 1) }
  ([0, 1, 2, 3].filter (· ≠ h)).foldl (fun s u => s.announceTo h pa data clean u) s

/-- Poison after a write of `n` bytes: a `clean` write clears the pieces it covers, and `bad` pieces are poisoned (R159). -/
def poisonAfter (p : List Nat) (pa n : Nat) (clean : Bool) (bad : List Nat) : List Nat :=
  bad.foldl sins (if clean then clearPoison p pa n else p)

/-- The bytes of a write put in place. -/
def State.putBytes (s : State) (pa : Nat) (data : List Byte) (clean : Bool) (bad : List Nat := []) : State :=
  { s with mem := msets s.mem pa data, poison := poisonAfter s.poison pa data.length clean bad }

/-- A line of a tower's HBM stands in its memory-side cache (R141: 384 MiB per tower), a victim leaving where it is full (log 10). -/
def State.mscAdd (s : State) (pline : Nat) : State :=
  let mine := s.msc.filter fun l => l / 2 ^ 31 == pline / 2 ^ 31
  if smem s.msc pline then s
  else if mine.length < 3145728 then { s with msc := sins s.msc pline }
  else { s with msc := sins (sdel s.msc (mine.getD (Config.victim s.free % mine.length) 0)) pline, free := s.free + 1 }

/-- Performs a write inside one line at its home, whose router has traffic (10 R163, R170). -/
def State.performAt (s : State) (pa : Nat) (data : List Byte) (clean : Bool) (bad : List Nat := []) : State :=
  match homeOf pa with
  | some (.tower h) => (((s.wakeRouter h (s.sliceOf h pa)).putBytes pa data clean bad).mscAdd (pa / 128)).announce h pa data clean
  | some .host => s.putBytes pa data clean bad
  | some (.peer p) => if s.peerLive p then s.putBytes pa data clean bad else s.report (.portDropped pa)
  | none => s

/-- After tower `u` has applied an announcement, whatever waited for its clock is taken up again (R170). -/
def State.clockMoved (s : State) (u : Nat) : State :=
  let s := [0, 1, 2, 3].foldl (fun s k =>
    match s.nextAnn u k with
    | some a => if s.annReady a then s.raise (.announcementApply (Fin.ofNat 4 u) (Fin.ofNat 4 k)) else s
    | none => s) s
  s.reqs.foldl (fun s r =>
    match r.stage with
    | .response => if s.towerOf (coreOfKey r.key) = u ∨ r.scope = 0b11 then s.raise (.responseDelivery r.id) else s
    | .home => if homeOf r.pa = some (Home.tower u) then s.raise (.performAtHome r.id) else s
    | .gap => s.raise (.clockGapWriteResume r.id)
    | .buffer | .slice | .rdc | .pinned => s) s

/-- What must wait until a tower's clock covers another, and has no stall or queue of its own, waits inside the step: the
announcements it waits for are applied at once (R170; log 64). -/
def State.reach (s : State) (t : Nat) (need : Vector (BitVec 20) 4) : State :=
  if clockCovers (s.vc t) need [t] then s else (s.bringUp t need s.anns.length).clockMoved t

/-- A write that must wait for a home's clock gap (R170): every tower applies what that home has announced. -/
def State.openGap (s : State) (h : Nat) : State :=
  if s.gapOpen h then s else [0, 1, 2, 3].foldl (fun s u => s.reach u s.frontier) s

/-- A write made for an agent on tower `w` by an engine, a walker, the Sorting Office or the front end: its home has what the
tower knows, and the tower has applied the write when the home answers (R170, R171). -/
def State.performFrom (s : State) (w pa : Nat) (data : List Byte) (clean : Bool) (bad : List Nat := []) : State :=
  match homeOf pa with
  | some (.tower h) =>
    let s := ((s.openGap h).reach h (s.vc w)).performAt pa data clean bad
    if h = w then s else s.reach w (s.vc h)
  | _ => s.performAt pa data clean bad

/-! ## Watches of the home slices (11 R190) -/

/-- The slice that keeps watches on a line; lines outside HBM are watched at the port, numbered tower 4. -/
def State.watchHome (s : State) (line : Nat) : Nat × Nat :=
  match homeOf (line * 128) with
  | some (.tower h) => (h, s.sliceOf h (line * 128))
  | _ => (4, 0)

/-- A watch reaches the line's home: 256 to a slice, the oldest evicted by a spurious wake (R190); those of host and peer lines, of which the rule
gives no number, are 256 at one port (DESIGN CHOICE, log 105). -/
def State.addWatch (s : State) (cl line : Nat) : State :=
  let s := s.wakeHome (line * 128)
  if s.watches.any fun w => w.line == line && w.cluster == cl then s
  else
    let (t, h) := s.watchHome line
    let mine := s.watches.filter fun w => w.tower == t && w.slice == h
    let s :=
      match mine with
      | oldest :: _ =>
        if 256 ≤ mine.length then ({ s with watches := s.watches.erase oldest }).raise (.wakeWrite oldest.cluster oldest.line) else s
      | [] => s
    { s with watches := s.watches ++ [⟨t, h, line, cl⟩] }

/-! ## Pins (10 R172, R173) -/

def State.pinOf (s : State) (pline : Nat) : Option Pin := s.pins.find? (·.pline == pline)

/-- Pinned to a cluster other than that of the access. -/
def State.pinnedAway (s : State) (cl : Option Nat) (pline : Nat) : Bool :=
  match s.pinOf pline with
  | some p => cl ≠ some p.cluster
  | none => false

/-- Bytes written to a pinned line at the cluster atomic unit. -/
def State.putPin (s : State) (pa : Nat) (data : List Byte) (clean : Bool := true) (bad : List Nat := []) : State :=
  { s with
    pins := mapIf (·.pline == pa / 128) (fun p => { p with data := (cells pa data).foldl (fun d c => d.set (c.1 % 128) c.2) p.data }) s.pins,
    poison := poisonAfter s.poison pa data.length clean bad }

/-- Pins a line with its home's bytes, as its tower gets them (R170), or makes the task one more owner of it. Every tower's
remote-data cache gives the line up, so that after the pin no agent that has seen what a reader of the pin store did finds an older value
there (R166, R171). -/
def State.pinLine (s : State) (cl pline tid : Nat) : State :=
  match s.pinOf pline with
  | some _ => { s with pins := mapIf (·.pline == pline) (fun p => { p with owners := sins p.owners tid }) s.pins }
  | none =>
    let t := s.towerOfCluster cl
    let s := (match homeOf (pline * 128) with | some (.tower h) => s.reach t (s.vc h) | _ => s).wakeHome (pline * 128)
    { s with
      rdc := s.rdc.filter (·.pline ≠ pline)
      pins := s.pins ++ [⟨cl, pline, mgets s.mem (pline * 128) 128, [tid]⟩] }

/-- The Sorting Office's adds to done words that wait for a pin or a migration are made again (10 R173, 09 R157). -/
def State.retryDones (s : State) : State :=
  s.held.foldl (fun s h => match h.kind with | .doneWord _ true => s.raise (.heldWriteRelease h.id) | _ => s) s

/-- Ends a pin: the line is performed at its home with its latest value, and with it what the pin store took of plain stores and
reductions (R172); an entry its cluster's monitor table holds on it is watched there from now on (11 R190), and refused requests are
taken up again, those of the Sorting Office among them. -/
def State.endPin (s : State) (p : Pin) : State :=
  let s := { s with pins := s.pins.filter (·.pline ≠ p.pline) }
  let s := s.performFrom (s.towerOfCluster p.cluster) (p.pline * 128) p.data false
  let s : State := { s with reqs := s.reqs.filter fun r => !(r.stage == .pinned && r.pa / 128 == p.pline) }
  let s := if s.monitors.any fun m => m.cluster == p.cluster && m.line == p.pline && !m.leaving then s.addWatch p.cluster p.pline else s
  ((s.reqs.filter fun r => r.pa / 128 == p.pline && r.stage == .home).foldl (fun s r => s.raise (.performAtHome r.id)) s).retryDones

/-- Applies a plain write at its place for an agent on tower `w`: the pin store of a pinned line, else the home (10 R172). -/
def State.place (s : State) (w pa : Nat) (data : List Byte) (clean : Bool := true) (bad : List Nat := []) : State :=
  match s.pinOf (pa / 128) with
  | some _ => s.putPin pa data clean bad
  | none => s.performFrom w pa data clean bad

/-- A release at device or system scope of a task ends every pin the task owns (R173). -/
def State.unpinTask (s : State) (tid : Nat) : State :=
  (s.pins.filter fun p => smem p.owners tid).foldl State.endPin s

/-! ## Signals and wakes (10 R175, 11 R190) -/

/-- Presents a performed .SIG write to the monitor tables: the home drops its watches on the line and sends a wake to each
cluster; a cluster that pins the line wakes itself. The home's watches of other clusters are woken by a write at the pin store too,
at once and not when the pin ends: the spec names no moment for them (DESIGN CHOICE, log 65). -/
def State.signal (s : State) (pa : Nat) : State :=
  let l := pa / 128
  let pinned := match s.pinOf l with | some p => [p.cluster] | none => []
  let watchers := (s.watches.filter (·.line == l)).map (·.cluster)
  let s := { s with watches := s.watches.filter (·.line ≠ l) }
  s.raises ((pinned ++ watchers.filter (fun c => !pinned.contains c)).map fun c => Raised.wakeWrite c l)

/-! ## Region registers (09 R146, R150) -/

/-- An enabled register covers the address. -/
def regionCovers (r : Word) (va : Nat) : Bool :=
  r.getLsbD 63 &&
    decide (bitsNat r.toNat 55 21 ≤ va / 2 ^ 21 ∧ va / 2 ^ 21 ≤ bitsNat r.toNat 55 21 + bitsNat r.toNat 7 0)

/-- The page class a core's region registers give an address. -/
def State.classAt (s : State) (core va : Nat) : Bool := (s.core core).region.toList.any fun r => regionCovers r va

/-! ## The walk (09 R146-R149) -/

/-- A page-table entry, at its home. The bytes of a poisoned one are taken as they stand (DESIGN CHOICE, log 103). -/
def State.entry (s : State) (pa : Nat) : Nat := leNat (mgets s.mem pa 8)

/-- The reason for which a walk stops at an entry that is to name a table. -/
def tableStop (e : Nat) : Option Nat :=
  if bitsNat e 0 0 = 0 then some 1
  else if bitsNat e 9 8 ≠ 0 ∨ bitsNat e 11 10 ≠ 0 ∨ bitsNat e 55 52 ≠ 0 then some 4
  else none

/-- Where the next level's entry stands in the table that an entry names. -/
def nextEntry (e va hi lo : Nat) : Nat := bitsNat e 51 10 * 2 ^ 10 + 8 * bitsNat va hi lo

/-- Where an address's entry stands in the table of sub-pages that a level-0 entry names. -/
def subEntry (e va : Nat) : Nat := bitsNat e 51 14 * 2 ^ 14 + 8 * bitsNat va 20 10

/-- Reads through the tables named by the root, level-2 and level-1 entries; the answer is the level-0 entry. -/
def State.walkTables (s : State) (va : Nat) : List (Nat × Nat) → Nat → Nat → Except Nat (Nat × Nat)
  | [], at_, e => .ok (at_, e)
  | (hi, lo) :: t, _, e =>
    match tableStop e with
    | some r => .error r
    | none => s.walkTables va t (nextEntry e va hi lo) (s.entry (nextEntry e va hi lo))

/-- Where the entries stand that a walk reads, from the one at `p` on. -/
def State.walkReads (s : State) (va : Nat) (cls : Bool) : List (Nat × Nat) → Nat → List Nat
  | [], p => if cls && bitsNat (s.entry p) 0 0 == 1 && bitsNat (s.entry p) 9 8 == 2 then [p, subEntry (s.entry p) va] else [p]
  | (hi, lo) :: t, p => if (tableStop (s.entry p)).isSome then [p] else p :: s.walkReads va cls t (nextEntry (s.entry p) va hi lo)

/-- The bits of an address that index the tables below the root's. -/
def walkLevels : List (Nat × Nat) := [(47, 39), (38, 30), (29, 21)]

def rootEntry (root va : Nat) : Nat := root + 8 * bitsNat va 55 48

/-- A walk's reads are traffic at the homes of the entries (01 R14). -/
def State.walkWake (s : State) (root va : Nat) (cls : Bool) : State :=
  (s.walkReads va cls walkLevels (rootEntry root va)).foldl State.wakeHome s

/-- A leaf found: where the entry stands, the entry, and the page's physical address. -/
structure Leaf where
  slot  : Nat
  entry : Nat
  frame : Nat

/-- The walk of R147. At a level-0 entry whose bits [55:52] are not zero and whose type is of the other page class, reason 4 stands before
reason 2: the spec names no order (DESIGN CHOICE, log 91). -/
def State.walk (s : State) (root va : Nat) (cls : Bool) : Except Nat Leaf := do
  let (p, e) ← s.walkTables va walkLevels (rootEntry root va) (s.entry (rootEntry root va))
  if bitsNat e 0 0 = 0 then .error 1
  if bitsNat e 9 8 = 3 ∨ bitsNat e 55 52 ≠ 0 then .error 4
  let leaf ←
    if cls then do
      if bitsNat e 9 8 ≠ 2 then .error 2
      if bitsNat e 13 10 ≠ 0 then .error 4
      let p := subEntry e va
      let e := s.entry p
      if bitsNat e 0 0 = 0 then .error 1
      if bitsNat e 9 8 ≠ 1 ∨ bitsNat e 55 52 ≠ 0 then .error 4
      if bitsNat e 20 10 ≠ bitsNat va 20 10 then .error 3
      .ok (⟨p, e, bitsNat e 51 10 * 2 ^ 10⟩ : Leaf)
    else do
      if bitsNat e 9 8 ≠ 1 then .error 2
      if bitsNat e 20 10 ≠ 0 then .error 4
      .ok (⟨p, e, bitsNat e 51 21 * 2 ^ 21⟩ : Leaf)
  if s.mapped leaf.frame then .ok leaf else .error 5

/-- Bytes of a page. -/
def pageBytes (cls : Bool) : Nat := if cls then 2 ^ 10 else 2 ^ 21

/-- Sets A, and D for a write, in the leaf by an atomic OR at its home (R149), for a walker on tower `w`. Where a cluster pins the entry's line the walk
reads and ORs the home's bytes at once, and the pin's end writes its own over them (DESIGN CHOICE, log 104). -/
def State.setAD (s : State) (w : Nat) (l : Leaf) (write : Bool) : State :=
  let e := l.entry ||| (if write then 0x30 else 0x10)
  if e = l.entry then s else s.performFrom w l.slot (leBytes 8 e) true

def accWrite : Acc → Bool
  | .write | .engWrite => true
  | .read | .fetch | .engRead => false

/-- The right an access needs of a leaf. -/
def accAllowed (a : Acc) (r w x : Bool) : Bool :=
  match a with
  | .read | .engRead => r
  | .write | .engWrite => w
  | .fetch => x

/-- Adds to a cache of `cap` entries, a victim of the model's free choice leaving where it is full (log 10). -/
def insertCap (cap n : Nat) (x : α) (l : List α) : List α :=
  if l.length < cap then l ++ [x] else l.eraseIdx (Config.victim n % l.length) ++ [x]

/-! ## A slice's lookup and translation (09 R143, R146, R151) -/

/-- Who asks: the tower of the slice, and what a fault record names. -/
structure Who where
  tower  : Nat
  asid   : Nat
  core   : Nat
  slot   : Nat
  origin : Nat

inductive Look where
  | ok (pa : Nat) (s : State)
  /-- A page fault, its record written. -/
  | fault (s : State)
  /-- The leaf or the line's stored rights lack the right. -/
  | denied (s : State)

def State.faultRecord (s : State) (t : Nat) (r : FaultRec) : State :=
  let x := s.tower t
  s.setTower t { x with faultq := x.faultq ++ [r] }

/-- The translation cache of a slice gains an entry (R146: 1024 entries). -/
def State.addTlb (s : State) (e : TlbEntry) : State :=
  let same := fun (x : TlbEntry) => x.tower == e.tower && x.slice == e.slice && x.asid == e.asid && x.cls == e.cls && x.vpage == e.vpage
  let rest := s.tlb.filter fun x => !same x
  let mine := rest.filter fun x => x.tower == e.tower && x.slice == e.slice
  let others := rest.filter fun x => !(x.tower == e.tower && x.slice == e.slice)
  let n := s.free
  let s := { s with free := s.free + 1 }
  { s with tlb := others ++ insertCap 1024 n e mine }

/-- A line of the tower's own HBM enters its slice under the rights of its leaf, at most one copy of it (R143). -/
def State.addL2 (s : State) (l : L2Line) : State :=
  let rest := s.l2.filter fun x => !(x.tower == l.tower && (x.pline == l.pline || (x.slice == l.slice && x.asid == l.asid && x.vline == l.vline)))
  let mine := rest.filter fun x => x.tower == l.tower && x.slice == l.slice
  let others := rest.filter fun x => !(x.tower == l.tower && x.slice == l.slice)
  let n := s.free
  let s := { s with free := s.free + 1 }
  ({ s with l2 := others ++ insertCap 98304 n l mine }).mscAdd l.pline

/-- The slice walks: a fault writes its record on the slice's tower; a completed walk sets A and D and fills the translation
cache. -/
def State.walkSlice (s : State) (w : Who) (h va : Nat) (cls : Bool) (acc : Acc) : Except State (TlbEntry × State) :=
  match s.space w.asid with
  | none => .error (s.faultRecord w.tower ⟨va, w.asid, 1, acc, w.core, w.slot, cls, w.origin⟩)
  | some sp =>
    let s := s.walkWake sp.root va cls
    match s.walk sp.root va cls with
    | .error reason => .error (s.faultRecord w.tower ⟨va, w.asid, reason, acc, w.core, w.slot, cls, w.origin⟩)
    | .ok leaf =>
      let s := s.setAD w.tower leaf (accWrite acc)
      let e := leaf.entry
      let ent : TlbEntry := ⟨w.tower, h, w.asid, cls, va / pageBytes cls, leaf.frame, decide (bitsNat e 1 1 = 1),
        decide (bitsNat e 2 2 = 1), decide (bitsNat e 6 6 = 1), accWrite acc || decide (bitsNat e 5 5 = 1)⟩
      .ok (ent, s.addTlb ent)

/-- The translation a slice's cache holds for an address. -/
def State.cached (s : State) (t h asid va : Nat) (cls : Bool) : Option TlbEntry :=
  s.tlb.find? fun e => e.tower == t && e.slice == h && e.asid == asid && e.cls == cls && e.vpage == va / pageBytes cls

/-- The line of an address under a translation enters its slice, where its home is the slice's tower. -/
def State.fillL2 (s : State) (e : TlbEntry) (va : Nat) : State :=
  let pa := e.frame + va % pageBytes e.cls
  if homeOf pa = some (Home.tower e.tower) then s.addL2 ⟨e.tower, e.slice, e.asid, va / 128, pa / 128, e.r, e.w, e.x, e.d⟩ else s

/-- A slice's misses to two consecutive lines of a page make it prefetch lines of the page that it serves, under the translation it
has; without any right they are dropped (R156). Which of the lines, and how many, is free (log 62). -/
def State.prefetch (s : State) (e : TlbEntry) (va : Nat) : State :=
  let n := e.tower * 64 + e.slice
  let l := va / 128
  let samePage := fun k => decide (k * 128 / pageBytes e.cls = va / pageBytes e.cls)
  let missed := fun k => s.misses.contains (n, e.asid, k) && samePage k
  let s := if s.misses.contains (n, e.asid, l) then s else { s with misses := (n, e.asid, l) :: s.misses }
  if (missed (l - 1) && decide (0 < l) || missed (l + 1)) && (e.r || e.w || e.x) then
    let page := fun k => samePage k && s.sliceOf e.tower (k * 128) == e.slice
    (((upFrom (l + 1) 256).filter page).take (Config.ahead s.free % 5)).foldl (fun s l => s.fillL2 e (l * 128)) { s with free := s.free + 1 }
  else s

/-- A request's lookup at the slice its address selects (R143): a hit is checked against the line's stored rights; a miss is
translated. A write that meets a clear D walks again (R149). -/
def State.translate (s : State) (w : Who) (va : Nat) (cls : Bool) (acc : Acc) : Look :=
  let h := s.sliceOf w.tower va
  let s := (if w.core < 1028 then s.wakeCore w.core else s).wakeRouter w.tower h
  let hit := s.l2.find? fun l => l.tower == w.tower && l.slice == h && l.asid == w.asid && l.vline == va / 128 && (l.r || l.w || l.x)
  match hit.filter (fun l => !(accWrite acc && !l.d)) with
  | some l => if accAllowed acc l.r l.w l.x then .ok (l.pline * 128 + va % 128) s else .denied s
  | none =>
    let got : Except State (TlbEntry × State) :=
      match (s.cached w.tower h w.asid va cls).filter (fun e => !(accWrite acc && !e.d)) with
      | some e => .ok (e, s)
      | none => s.walkSlice w h va cls acc
    match got with
    | .error s => .fault s
    | .ok (e, s) =>
      if accAllowed acc e.r e.w e.x then .ok (e.frame + va % pageBytes cls) ((s.prefetch e va).fillL2 e va) else .denied s

/-! ## The core's port (09 R160, 12 R193-R195) -/

def nget (v : Vector Nat 4) (i : Nat) : Nat := v[i % 4]'(Nat.mod_lt _ (by decide))
def nset (v : Vector Nat 4) (i x : Nat) : Vector Nat 4 := v.set (i % 4) x (Nat.mod_lt _ (by decide))

def round32 (n : Nat) : Nat := ceilDiv n 32 * 32

/-- The head of some tenant's queue at the port has the tokens to leave. -/
def Core.headReady (c : Core) : Bool :=
  [0, 1, 2, 3].any fun i => (c.portq.find? (·.tenant == i)).any fun w => decide (w.cost ≤ nget c.bucket i)

/-- A request of a tenant has come to the port in this period (R162). -/
def Core.busyBy (c : Core) (i : Nat) : Core := { c with busy := c.busy.set (i % 4) true (Nat.mod_lt _ (by decide)) }

/-- The port has sent nothing in the cycle `now`: one request leaves in a cycle (12 R194). -/
def Core.portFree (c : Core) (now : Nat) : Bool := decide (c.sentAt ≤ now)

/-- A request of a tenant leaves at once: nothing of its tenant waits, and no other tenant's head could leave before it (12 R194). -/
def Core.passes (c : Core) (now i cost : Nat) : Bool :=
  c.portFree now && c.portq.all (·.tenant ≠ i) && !c.headReady && decide (cost ≤ nget c.bucket i)

/-- The port sends a request of a tenant, in the cycle `now`. -/
def Core.pay (c : Core) (now i cost : Nat) : Core :=
  { c with bucket := nset c.bucket i (nget c.bucket i - cost), lastCls := i, sentAt := now + 1 }

/-- The cycle count of a core's tower. -/
def State.cycleAt (s : State) (core : Nat) : Nat := (s.tower (s.towerOf core)).cycle

/-- The charge of an instruction's access, or of its fetch, has been paid. -/
def Ctx.paidFor (c : Ctx) (item : PortItem) : Ctx :=
  match item with
  | .access => { c with paid := true }
  | .fetch => { c with fetchPaid := true }
  | .store _ | .engine _ | .ahead .. => c

def Ctx.isPaid (c : Ctx) (item : PortItem) : Bool :=
  match item with
  | .access => c.paid
  | .fetch => c.fetchPaid
  | .store _ | .engine _ | .ahead .. => true

/-- An access or fetch of the issuing slot is charged once, or waits at the port behind earlier requests of its tenant. -/
def State.chargeFor (s : State) (item : PortItem) (cost : Nat) : Res Unit :=
  if cost = 0 ∨ s.me.isPaid item then .ok () s
  else
    let i := s.tenantOf s.me.asid
    let c := (s.core s.myCore).busyBy i
    let now := s.cycleAt s.myCore
    if c.passes now i cost then
      let s := s.setCore s.myCore (c.pay now i cost)
      .ok () { s with me := s.me.paidFor item }
    else
      .done (((s.setCore s.myCore { c with portq := c.portq ++ [⟨i, cost, s.cur, item⟩] }).hold (.port cost)).raise
        (.portRequestLeave s.myCore 0))

def State.charge (s : State) (cost : Nat) : Res Unit := s.chargeFor .access cost

/-! ## A slot's view of memory -/

/-- The key under which the host's writes through BAR2 stand: the front end, at the service port of tower 0 (23 R332). -/
def feKey : SlotKey := 4 * 1028

/-- How an access reaches memory: through an address register or otherwise, and what a permission trap names (R330). -/
structure Opnd where
  scratch : Bool
  va      : Nat
  cls     : Bool
  src     : Nat
  num     : Nat
  /-- Addresses read for inactive lanes, whose poison raises nothing (08 R128). -/
  skip    : List Nat := []

/-- The parts of an access between multiples of a size. -/
def splitAtSize (size : Nat) : Nat → Nat → Nat → List (Nat × Nat)
  | 0, _, _ => []
  | f + 1, va, len =>
    if len = 0 then []
    else
      let n := min len (size - va % size)
      (va, n) :: splitAtSize size f (va + n) (len - n)

/-- The parts of an access in each 128-byte line. -/
def linesOf (va len : Nat) : List (Nat × Nat) := splitAtSize 128 (len / 128 + 2) va len
/-- The 32-byte pieces of an access, each single-copy atomic (01 R16). -/
def piecesOf (va len : Nat) : List (Nat × Nat) := splitAtSize 32 (len / 32 + 2) va len

/-- The byte a store leaves at a physical address, if it writes it. -/
def Req.byteAt (r : Req) (pa : Nat) : Option Byte :=
  match r.op with
  | .store d => if r.pa ≤ pa ∧ pa < r.pa + d.length then (d[pa - r.pa]?).join else none
  | .red .. => none

/-- The newest store of the chosen requests to a byte. -/
def pendingByte (rs : List Req) (pa : Nat) : Option Byte :=
  rs.foldl (fun acc r => match r.byteAt pa with | some b => some b | none => acc) none

/-- Not yet applied at its place, the pin store among the places (R163). -/
def Req.unperformed (r : Req) : Bool := r.stage ≠ .response && r.stage ≠ .pinned

def Req.isRed (r : Req) : Bool :=
  match r.op with
  | .red .. => true
  | .store _ => false

/-- A request whose effect a read on the writer's tower might miss: one not yet performed, a reduction not yet answered, a store
whose home has performed it at a clock that the tower has not reached (10 R164, R166, R170). -/
def State.unseen (s : State) (r : Req) : Bool :=
  let t := s.towerOf (coreOfKey r.key)
  r.unperformed || r.stage ≠ .pinned && (r.isRed || !clockCovers (s.vc t) r.clock [t])

/-- A byte at its place: the pin store of a pinned line, else the home. -/
def State.placeByte (s : State) (pa : Nat) : Byte :=
  match s.pinOf (pa / 128) with
  | some p => p.data.getD (pa % 128) unlisted
  | none => mget s.mem pa

/-- The copy of another tower's line that a tower reads instead of the home: none of a pinned line. -/
def State.rdcOf (s : State) (t pa : Nat) : Option RdcLine :=
  if (s.pinOf (pa / 128)).isSome || homeOf pa == some (Home.tower t) then none
  else s.rdc.find? fun l => l.tower == t && l.pline == pa / 128

/-- A byte as the home, the pin store or the tower's remote-data cache gives it. -/
def State.sharedByte (s : State) (t pa : Nat) : Byte :=
  match s.rdcOf t pa with
  | some l => l.data.getD (pa % 128) unlisted
  | none => s.placeByte pa

/-- A byte as a reader of the chosen stores sees it: the newest of them, else the shared value (10 R164). -/
def State.viewByte (s : State) (mine : List Req) (t pa : Nat) : Byte :=
  match pendingByte mine pa with
  | some b => b
  | none => s.sharedByte t pa

def State.slotReqs (s : State) (k : SlotKey) : List Req := s.reqs.filter fun r => r.key == k && s.unseen r
/-- Another slot of a core than `k` has a store on its way to a line that the tower does not show yet. The core's L1 copy of the line, which
has the store already (10 R165), then serves no slot but that one: the store is visible to no other agent before it is performed (R164,
R171). -/
def State.siblingOn (s : State) (core : Nat) (k : SlotKey) (pline : Nat) : Bool :=
  s.reqs.any fun r => coreOfKey r.key == core && r.key ≠ k && r.pa / 128 == pline && !r.isRed && s.unseen r

def State.isPoison (s : State) (pa : Nat) : Bool := smem s.poison (pa / 32)

/-- A byte of a peer that no live link reaches reads as poison (23 R316). -/
def State.lostByte (s : State) (pa : Nat) : Bool :=
  match homeOf pa with
  | some (.peer p) => !s.peerLive p
  | _ => false

/-- Poison of the piece of a byte at its place. -/
def State.placePoison (s : State) (pa : Nat) : Bool := s.isPoison pa || s.lostByte pa

/-- Poison of the piece of a byte in the copy that a tower reads (R159). -/
def State.sharedPoison (s : State) (t pa : Nat) : Bool :=
  match s.rdcOf t pa with
  | some l => l.poison.contains (pa / 32)
  | none => s.placePoison pa

/-- Every byte of a 32-byte piece is written. -/
def wholePiece (d : List (Option Byte)) : Bool := d.length == 32 && d.all Option.isSome

/-- A store that will write all of a 32-byte piece, and so clear its poison (R159). -/
def Req.cleans (r : Req) (piece : Nat) : Bool :=
  match r.op with
  | .store d => r.pa == 32 * piece && wholePiece d
  | .red .. => false

/-- Poison as a reader of the chosen stores sees it, in the copy that a tower reads or, `home`, at its place. -/
def State.viewPoison (s : State) (mine : List Req) (t : Nat) (home : Bool) (pa : Nat) : Bool :=
  (if home then s.placePoison pa else s.sharedPoison t pa) && !mine.any (·.cleans (pa / 32))

/-! ## L1 lines (09 R141, 10 R165) -/

def l1Cap (c : Core) : Nat := (c.poolend - c.scrend) * 32

/-- A line of a core's L1 region that gives a right to the issuing slot; none serves 16384 cycles after its fill (R165). -/
def State.l1FindAt (s : State) (core asid vline : Nat) (exec : Bool) : Option L1Line :=
  (s.core core).l1.find? fun l =>
    l.asid == asid && l.vline == vline && (if exec then l.exec else l.read) && decide ((s.tower (s.towerOf core)).cycle < l.filled + 16384) &&
      !s.siblingOn core s.cur l.pline

def State.l1Find (s : State) (asid vline : Nat) (exec : Bool) : Option L1Line := s.l1FindAt s.myCore asid vline exec

/-- Fills a line with what its core's tower shows of it, and the stores `mine` of the slot that fills it. -/
def State.l1Line (s : State) (core : Nat) (mine : List Req) (asid va pa : Nat) (r x : Bool) : L1Line :=
  let t := s.towerOf core
  let at0 := pa / 128 * 128
  ⟨asid, va / 128, pa / 128, (upFrom at0 128).map (s.viewByte mine t),
    ((upFrom (at0 / 32) 4).filter fun p => s.viewPoison mine t false (32 * p)), r, x, (s.tower t).cycle⟩

/-- A line enters a core's L1 region, as the core's only copy of its physical line: a copy under an alias would be older (10 R166). -/
def State.l1Add (s : State) (core : Nat) (l : L1Line) : State :=
  let c := s.core core
  if l1Cap c = 0 then s
  else
    let n := s.free
    let s := { s with free := s.free + 1 }
    s.setCore core { c with l1 := insertCap (l1Cap c) n l (c.l1.filter fun x => !((x.asid == l.asid && x.vline == l.vline) || x.pline == l.pline)) }

def Core.l1Flush (c : Core) : Core := { c with l1 := [] }
/-- Invalidates every L1 line of a core (R165). -/
def State.l1Flush (s : State) (core : Nat) : State := s.setCore core (s.core core).l1Flush
/-- Drops a core's copies of a physical line. -/
def State.l1Drop (s : State) (core pline : Nat) : State :=
  let c := s.core core
  s.setCore core { c with l1 := c.l1.filter (·.pline ≠ pline) }

/-- A slot fills a line of the L1 region; of one that another slot of the core has a store on its way to, the core's older copy goes (10 R166). -/
def State.l1Fill (s : State) (core : Nat) (k : SlotKey) (l : L1Line) : State :=
  if s.siblingOn core k l.pline then s.l1Drop core l.pline else s.l1Add core l

/-- The bytes that a masked piece writes. -/
def maskCells (pa : Nat) (d : List (Option Byte)) : List Host.Cell :=
  ((upFrom pa d.length).zip d).filterMap fun c => c.2.map fun b => (c.1, b)

/-- A line with a store's piece in it. -/
def L1Line.put (l : L1Line) (pa : Nat) (d : List (Option Byte)) : L1Line :=
  { l with
    data := (maskCells pa d).foldl (fun bs c => bs.set (c.1 % 128) c.2) l.data,
    poison := if wholePiece d then l.poison.filter (· ≠ pa / 32) else l.poison }

/-- A store's piece updates the core's L1 copies of its line (R165). Where another slot of the core has a store on its way to the line, the
copies go: their order at the home is open (R174). -/
def State.l1Store (s : State) (pa : Nat) (d : List (Option Byte)) : State :=
  let c := s.core s.myCore
  if s.siblingOn s.myCore s.cur (pa / 128) then s.l1Drop s.myCore (pa / 128)
  else s.setCore s.myCore { c with l1 := mapIf (·.pline == pa / 128) (·.put pa d) c.l1 }

/-! ## Reading -/

/-- The issuing slot as a fault record names it; a supervisor core's number there is 1024 + its tower (DESIGN CHOICE, log 102). -/
def State.meWho (s : State) : Who := ⟨s.myTower, s.me.asid, s.myCore, slotOfKey s.cur, 0⟩

/-- Translation of a part of a slot's access: a page fault suspends the task and a missing right traps, both with the access's address
(R88 check 5). -/
def State.xlate (s : State) (o : Opnd) (va : Nat) (acc : Acc) : Res Nat :=
  match s.translate s.meWho va o.cls acc with
  | .ok pa s => .ok pa s
  | .fault s => .done (s.beginSuspend (.pageFault o.va))
  | .denied s => .done (s.permTrap o.src o.num o.va)

/-- A reduction of the slot's own to a line is pending: its reads of the line wait for it (10 R164). -/
def State.redPending (s : State) (pline : Nat) : Bool := (s.slotReqs s.cur).any fun r => r.pa / 128 == pline && r.isRed

/-- What a read past L1 must wait for at a physical line (R88, 10 R164, R170, R173): a reduction of its own to the line, another
cluster's pin, the clock of a home on another tower. -/
def State.readBar (s : State) (pa : Nat) (home : Bool) : Option Stall :=
  let t := s.myTower
  let l := pa / 128
  if s.redPending l then some .drain
  else if s.pinnedAway s.myCluster l then some (.refused l)
  else if (s.pinOf l).isSome then none
  else
    match homeOf pa with
    | some (.tower h) =>
      if h = t then none
      else if !home && s.rdc.any (fun x => x.tower == t && x.pline == l) then none
      else if clockCovers (s.vc t) (s.vc h) [t] then none else some .clock
    | _ => none

/-- A remote line enters the tower's remote-data cache (R143: 96 MiB), with its poison. -/
def State.rdcAdd (s : State) (t pa : Nat) : State :=
  let l := pa / 128
  match homeOf pa with
  | some (.tower h) =>
    if h = t || (s.pinOf l).isSome || s.rdc.any (fun x => x.tower == t && x.pline == l) then s
    else
      let mine := s.rdc.filter (·.tower == t)
      let others := s.rdc.filter (·.tower ≠ t)
      let n := s.free
      let new : RdcLine := ⟨t, l, mgets s.mem (l * 128) 128, (upFrom (4 * l) 4).filter (smem s.poison ·)⟩
      let s := { s with free := s.free + 1 }
      ({ s with rdc := others ++ insertCap 786432 n new mine }).mscAdd l
  | _ => s

/-- Where a part of a read is served: an L1 line, or past it at a physical address. -/
inductive ReadAt where
  | l1 (l : L1Line)
  | mem (pa : Nat)

/-- Finds the parts of a read, in the L1 region unless it goes past that, else by translation (R88 check 5). -/
def State.findParts (s : State) (o : Opnd) (home : Bool) : List (Nat × Nat) → Res (List (Nat × Nat × ReadAt))
  | [] => .ok [] s
  | (va, n) :: t =>
    let first : Res ReadAt :=
      match (if home then none else s.l1Find s.me.asid (va / 128) false) with
      | some l => .ok (.l1 l) s
      | none => (s.xlate o va .read).bind fun pa s => .ok (.mem pa) s
    first.bind fun x s => (s.findParts o home t).bind fun rest s => .ok ((va, n, x) :: rest) s

/-- A store of the slot's own to some of `n` bytes is not yet to be seen at its place: a read there waits for it (10 R164). -/
def State.ownStore (s : State) (pa n : Nat) : Bool :=
  (s.slotReqs s.cur).any fun r =>
    match r.op with
    | .store d => decide (r.pa < pa + n ∧ pa < r.pa + d.length)
    | .red .. => false

/-- What a part of a read must wait for. -/
def State.partBar (s : State) (home : Bool) (p : Nat × Nat × ReadAt) : Option Stall :=
  match p.2.2 with
  | .l1 l => if s.redPending l.pline then some .drain else none
  | .mem pa => if home && s.ownStore pa p.2.1 then some .drain else s.readBar pa home

/-- A part of a read carries poison that an active lane of it takes (R88 check 6, 08 R128). -/
def State.partPoison (s : State) (o : Opnd) (home : Bool) (p : Nat × Nat × ReadAt) : Bool :=
  (upFrom 0 p.2.1).any fun i => !o.skip.contains (p.1 + i) &&
    match p.2.2 with
    | .l1 l => l.poison.contains ((l.pline * 128 + p.1 % 128 + i) / 32)
    | .mem pa => if home then s.placePoison (pa + i) else s.viewPoison (s.slotReqs s.cur) s.myTower false (pa + i)

/-- The bytes of a part of a read: at the home or the pin store, or as the slot sees them. -/
def State.partBytes (s : State) (home : Bool) (p : Nat × Nat × ReadAt) : List Byte :=
  match p.2.2 with
  | .l1 l => l.data.drop (p.1 % 128) |>.take p.2.1
  | .mem pa => (upFrom pa p.2.1).map fun a => if home then s.placeByte a else s.viewByte (s.slotReqs s.cur) s.myTower a

/-- What a part of a read leaves in the caches: a plain one fills the remote-data cache and the L1 region, one past L1 drops the
core's older copy of its line (10 R166). -/
def State.partFill (s : State) (home : Bool) (p : Nat × Nat × ReadAt) : State :=
  match p.2.2 with
  | .l1 _ => s
  | .mem pa =>
    let s := s.wakeHome pa
    if home then s.l1Drop s.myCore (pa / 128)
    else
      let s := s.rdcAdd s.myTower pa
      s.l1Fill s.myCore s.cur (s.l1Line s.myCore (s.slotReqs s.cur) s.me.asid p.1 pa true false)

/-- Reads parts that have been found: the waits, then the poison of every part (R88 check 6), then the bytes. -/
def State.readFound (s : State) (o : Opnd) (home : Bool) (ps : List (Nat × Nat × ReadAt)) : Res (List Byte) :=
  match firstSome (s.partBar home) ps with
  | some y => .done (s.stall y)
  | none =>
    if ps.any (s.partPoison o home) then .done (s.poisonTrap o.va)
    else .ok (ps.flatMap (s.partBytes home)) (ps.foldl (fun s p => s.partFill home p) s)

/-- A read of the parts of an access: checks 5 and 6 of R88. -/
def State.readParts (s : State) (o : Opnd) (home : Bool) (l : List (Nat × Nat)) : Res (List Byte) :=
  (s.findParts o home l).bind fun ps s => s.readFound o home ps

/-- The bytes a plain load asks the line network for: none that the L1 region holds (R160). -/
def State.readCost (s : State) (va len : Nat) : Nat :=
  ((linesOf va len).map fun (a, n) => if (s.l1Find s.me.asid (a / 128) false).isSome then 0 else round32 n).sum

/-- Scratch bytes, unless one is poisoned. -/
def State.readScratch (s : State) (o : Opnd) (len : Nat) : Res (List Byte) :=
  if (upFrom o.va len).any fun a => smem s.me.poison (a / 32) && !o.skip.contains a then .done (s.poisonTrap o.va)
  else .ok (mgets s.me.mem o.va len) s

/-- The name of a piece that an instruction has read: its address, and which of the instruction's reads it belongs to. -/
def gotKey (n va : Nat) : Nat := n * 2 ^ 57 + va

/-- The bytes of an instruction's `n`-th read, whose pieces have been read. -/
def gotBytes (n : Nat) (ps : List (Nat × Nat × ReadAt)) (got : List (Nat × List Byte)) : List Byte :=
  ps.flatMap fun p => ((got.find? (·.1 == gotKey n p.1)).map (·.2)).getD []

/-- A read of several pieces, the instruction's `n`-th, reads one of those left, which of them is free; each is single-copy atomic, and other agents
move between them (01 R16, 08 R129; log 80). The caches take the lines with the last piece. -/
def State.readPiecewise (s : State) (n : Nat) (o : Opnd) (home : Bool) (ps : List (Nat × Nat × ReadAt)) : Res (List Byte) :=
  let left := ps.filter fun p => s.me.got.all (·.1 ≠ gotKey n p.1)
  match firstSome (s.partBar home) left with
  | some y => .done (s.stall y)
  | none =>
    if left.any (s.partPoison o home) then .done (s.poisonTrap o.va)
    else
      match left[if left.length = 1 then 0 else Config.loadOrder s.free % left.length]? with
      | none => .ok (gotBytes n ps s.me.got) s
      | some p =>
        let got := s.me.got ++ [(gotKey n p.1, s.partBytes home p)]
        let s := { s with free := s.free + 1, me := { s.me with got := got } }
        if left.length = 1 then .ok (gotBytes n ps got) (ps.foldl (fun s p => s.partFill home p) s)
        else .done (match p.2.2 with | .l1 _ => s | .mem pa => s.wakeHome pa)

/-- A plain read of the issuing slot: checks 5 and 6 of R88. -/
def State.read (s : State) (o : Opnd) (len : Nat) : Res (List Byte) :=
  if o.scratch then s.readScratch o len
  else
    (s.charge (s.readCost o.va len)).bind fun _ s =>
      match piecesOf o.va len with
      | [p] => s.readParts o false [p]
      | l => (s.findParts o false l).bind fun ps s => s.readPiecewise 0 o false ps

/-- An access at system scope to a line that the issuing cluster pins goes to the home, which a pin store does not reach (11 R178: a
place narrower than the scope is never used): the task ends the pin where it owns it, and waits for the owner else (DESIGN CHOICE,
log 32). -/
def State.leavePin (s : State) (scope : BitVec 2) (pa : Nat) : Res Unit :=
  match s.pinOf (pa / 128) with
  | some p =>
    if scope = 0b11 ∧ s.myCluster = some p.cluster then
      (if smem p.owners s.me.tid then .ok () (s.endPin p) else .done (s.stall (.refused (pa / 128))))
    else .ok () s
  | none => .ok () s

/-- A read at the home or the pin store, never from L1 (10 R168, 11 R178, R187, R189), of bytes inside one line; the answer is the
physical address with the bytes. -/
def State.readHome (s : State) (o : Opnd) (len : Nat) (scope : BitVec 2) : Res (Nat × List Byte) :=
  (s.charge (round32 len)).bind fun _ s =>
    (s.xlate o o.va .read).bind fun pa s =>
      (s.leavePin scope pa).bind fun _ s =>
        (s.readFound o true [(o.va, len, .mem pa)]).bind fun bs s => .ok (pa, bs) s

/-! ## Writing -/

/-- Translates the parts of a write. -/
def State.xlateParts (s : State) (o : Opnd) (acc : Acc) : List (Nat × Nat) → Res (List (Nat × Nat × Nat))
  | [] => .ok [] s
  | (va, n) :: t =>
    (s.xlate o va acc).bind fun pa s => (s.xlateParts o acc t).bind fun rest s => .ok ((va, pa, n) :: rest) s

/-- A frame whose writes migration stalls (R157). -/
def State.frameStalled (s : State) (pa : Nat) : Bool := s.stallFrames.any fun f => decide (f.1 ≤ pa ∧ pa < f.1 + f.2)

/-- What a write must wait for at a line. -/
def State.writeBar (s : State) (pa : Nat) : Option Stall :=
  if s.frameStalled pa then some .migration
  else if s.pinnedAway s.myCluster (pa / 128) then some (.refused (pa / 128)) else none

/-- The lines a slot's write buffer holds (R165). -/
def State.bufferLines (s : State) (k : SlotKey) : List Nat :=
  ((s.reqs.filter fun r => r.key == k && r.stage == .buffer).map (·.pa / 128)).foldl sins []

/-- Adds one request of the issuing slot to its write buffer; one whose charge is paid already leaves the port at once, and its class is the
last to send (12 R193, R194). -/
def State.pushReq (s : State) (va : Nat) (cls : Bool) (pa : Nat) (op : ReqOp) (scope : BitVec 2) (sig paid : Bool) : State :=
  let s := if paid then s.setCore s.myCore ((s.core s.myCore).pay (s.cycleAt s.myCore) (s.tenantOf s.me.asid) 0) else s
  let r : Req := ⟨s.nextId, s.cur, s.me.tid, s.me.asid, va, cls, pa, op, scope, sig, if paid then .slice else .buffer, paid, false,
    Vector.replicate 4 0⟩
  ({ s with reqs := s.reqs ++ [r], nextId := s.nextId + 1 }).raise (if paid then .sliceRequest s.nextId else .portRequestLeave s.myCore 0)

/-- Puts one piece of a store into the write buffer, and into the core's L1 copies. A piece with no byte to write is none. -/
def State.pushStore (s : State) (o : Opnd) (va pa : Nat) (d : List (Option Byte)) (sig paid : Bool) : State :=
  if d.all Option.isNone then s else (s.l1Store pa d).pushReq va o.cls pa (.store d) 0b10 sig paid

/-- Puts a store's part of one line into the write buffer, piece by piece. -/
def State.pushLine (s : State) (o : Opnd) (va pa : Nat) (data : List (Option Byte)) (sig paid : Bool) : State :=
  (piecesOf pa data.length).foldl (fun s (a, n) => s.pushStore o (va + (a - pa)) a ((data.drop (a - pa)).take n) sig paid) s

/-- Puts the parts of a store into the write buffer. -/
def State.pushStores (s : State) (o : Opnd) (sig paid : Bool) : List (Nat × Nat × Nat) → List (Option Byte) → State
  | [], _ => s
  | (va, pa, n) :: t, data => (s.pushLine o va pa (data.take n) sig paid).pushStores o sig paid t (data.drop n)

/-- Scratch bytes written; a piece written whole is clean. -/
def State.writeScratch (s : State) (va : Nat) (data : List Byte) : State :=
  { s with me := { s.me with mem := msets s.me.mem va data, poison := clearPoison s.me.poison va data.length } }

/-- Scratch bytes written under a mask; a piece written whole is clean. -/
def State.maskScratch (s : State) (va : Nat) (data : List (Option Byte)) : State :=
  let whole := (piecesOf va data.length).filter fun p => wholePiece ((data.drop (p.1 - va)).take p.2)
  { s with me := { s.me with mem := mputs s.me.mem (maskCells va data), poison := (whole.map (·.1 / 32)).foldl sdel s.me.poison } }

/-- A write's translation and its waits at the slices, with nothing changed yet but caches (R88 check 5). -/
def State.writeParts (s : State) (o : Opnd) (len : Nat) : Res (List (Nat × Nat × Nat)) :=
  if o.scratch then .ok [] s
  else
    (s.xlateParts o .write (linesOf o.va len)).bind fun ps s =>
      match firstSome (fun (p : Nat × Nat × Nat) => s.writeBar p.2.1) ps with
      | some y => .done (s.stall y)
      | none => .ok ps s

/-- A store's translation and waits, room in the write buffer of eight lines among them (10 R165). -/
def State.writeReady (s : State) (o : Opnd) (len : Nat) : Res (List (Nat × Nat × Nat)) :=
  (s.writeParts o len).bind fun ps s =>
    if o.scratch || decide (((ps.map (·.2.1 / 128)).foldl sins (s.bufferLines s.cur)).length ≤ 8) then .ok ps s else .done (s.stall .drain)

/-- The store itself, of the bytes that a mask lets through. -/
def State.writeMask (s : State) (o : Opnd) (ps : List (Nat × Nat × Nat)) (data : List (Option Byte)) (sig paid : Bool) : State :=
  if o.scratch then s.maskScratch o.va data else s.pushStores o sig paid ps data

/-- The store itself. -/
def State.writeNow (s : State) (o : Opnd) (ps : List (Nat × Nat × Nat)) (data : List Byte) (sig paid : Bool) : State :=
  if o.scratch then s.writeScratch o.va data else s.pushStores o sig paid ps (data.map some)

/-- A plain store of the issuing slot. -/
def State.write (s : State) (o : Opnd) (data : List Byte) (sig : Bool) : Res Unit :=
  (s.writeReady o data.length).bind fun ps s => .ok () (s.writeNow o ps data sig false)

/-! ## Fetch (02 R27, R31-R33; 09 R156, R159) -/

/-- The translation to code that a tower's slice holds already, if it gives the right to fetch; no walk is made for it. -/
def State.peekCode (s : State) (t core asid va : Nat) : Option Nat :=
  let h := s.sliceOf t va
  let cls := s.classAt core va
  match s.l2.find? fun l => l.tower == t && l.slice == h && l.asid == asid && l.vline == va / 128 && l.x with
  | some l => some (l.pline * 128 + va % 128)
  | none => ((s.cached t h asid va cls).filter (·.x)).map fun e => e.frame + va % pageBytes cls

/-- A line that fetch has run ahead to enters the core's L1 region; it is dropped where a walk, a right or another cluster's pin
stands against it, or a store of the core is on its way to it (R156; log 62). -/
def State.aheadFill (s : State) (core asid vline : Nat) : State :=
  let t := s.towerOf core
  let s := (s.wakeCore core).wakeRouter t (s.sliceOf t (vline * 128))
  match s.peekCode t core asid (vline * 128) with
  | none => s
  | some pa =>
    if s.pinnedAway (clusterOpt core) (pa / 128) || l1Cap (s.core core) == 0 || s.siblingOn core feKey (pa / 128) then s
    else
      let s := match homeOf pa with | some (.tower h) => s.reach t (s.vc h) | _ => s
      let s := (s.wakeHome pa).rdcAdd t pa
      s.l1Add core (s.l1Line core [] asid (vline * 128) pa false true)

/-- Fetch runs ahead to one line: charged like a demand fetch, it comes to the port behind the one it follows, whatever its slice then finds
(R156, 12 R194). -/
def State.aheadLine (s : State) (core vline : Nat) : State :=
  let asid := s.me.asid
  if (s.l1FindAt core asid vline true).isSome || l1Cap (s.core core) == 0 then s
  else
    let i := s.tenantOf asid
    let c := (s.core core).busyBy i
    (s.setCore core { c with portq := c.portq ++ [⟨i, 128, s.cur, .ahead asid vline⟩] }).raise (.portRequestLeave core 0)

/-- After a demand fetch, fetch runs up to four lines ahead of the program counter, in ascending order; how many is free (R156;
log 62). -/
def State.runAhead (s : State) (va : Nat) : State :=
  (upFrom (va / 128 + 1) (Config.ahead s.free % 5)).foldl (fun s l => if l < 2 ^ 49 then s.aheadLine s.myCore l else s) { s with free := s.free + 1 }

/-- The line of an address as code: from the L1 region, or the slot's line buffer where the region is empty (05 R69). -/
def State.fetchLine (s : State) (va : Nat) : Res L1Line :=
  let held :=
    match s.l1Find s.me.asid (va / 128) true with
    | some l => some l
    | none => s.me.lineBuf.filter fun l => l.asid == s.me.asid && l.vline == va / 128
  match held with
  | some l => .ok l s
  | none =>
    let o : Opnd := ⟨false, va, s.classAt s.myCore va, 0xE, 0, []⟩
    (s.chargeFor .fetch 128).bind fun _ s =>
      (s.xlate o va .fetch).bind fun pa s =>
        match s.readBar pa false with
        | some y => .done (s.stall y)
        | none =>
          let s := ({ s with me := { s.me with fetchPaid := false } }).runAhead va
          let s := (s.wakeHome pa).rdcAdd s.myTower pa
          let l := s.l1Line s.myCore (s.slotReqs s.cur) s.me.asid va pa false true
          .ok l (if l1Cap (s.core s.myCore) = 0 then { s with me := { s.me with lineBuf := some l } } else s.l1Fill s.myCore s.cur l)

/-- One instruction word; a poisoned piece traps (R159). -/
def State.fetchWord (s : State) (va : Nat) : Res IWord :=
  (s.fetchLine va).bind fun l s =>
    if l.poison.contains ((l.pline * 128 + va % 128) / 32) then .done (s.poisonTrap va)
    else .ok (BitVec.ofNat 32 (leNat (l.data.drop (va % 128) |>.take 4))) s

/-! ## Acquire and release (10 R168, R171-R173) -/

/-- An acquire at cluster scope or wider invalidates the core's L1 lines. -/
def State.acquire (s : State) (scope : BitVec 2) : State := if scope = 0 then s else s.l1Flush s.myCore

/-- An acquire at device scope of a core for what no access of its slots names: it has what every home has performed (R169, R170, R176,
R177; log 64). -/
def State.acquireAll (s : State) (core : Nat) : State := (s.reach (s.towerOf core) s.frontier).l1Flush core

def narrow (scope : BitVec 2) : Bool := scope == 0b00 || scope == 0b01

/-- Every earlier store and reduction of the slot is acknowledged, as performed at its home. -/
def State.drained (s : State) (k : SlotKey) : Bool := s.reqs.all (·.key ≠ k)
/-- Every earlier store and reduction of the slot is performed at a scope: at core or cluster scope what stands in a pin store is (R163). -/
def State.drainedAt (s : State) (k : SlotKey) (scope : BitVec 2) : Bool := s.reqs.all fun r => r.key ≠ k || (narrow scope && r.stage == .pinned)

/-- A release with no write of its own: at device or system scope it ends the task's pins; it waits for the slot's earlier accesses to be
performed at its scope; at system scope every tower must then have applied what the slot's tower has (R168, R171, R173). -/
def State.release (s : State) (scope : BitVec 2) : Res Unit :=
  let s := if narrow scope then s else s.unpinTask s.me.tid
  if !s.drainedAt s.cur scope then .done (s.stall .drain)
  else if scope = 0b11 ∧ !s.allApplied (s.vc s.myTower) then .done (s.stall .clock) else .ok () s

/-- The buffered stores that a release at core or cluster scope carries to the pin store (R172). -/
def State.buffered (s : State) : List Req := s.reqs.filter fun r => r.key == s.cur && r.stage == .buffer

/-- The place of an AMO, CAS form or STL (R172, 11 R178): the pin store, whose line the task comes to own; the atomic unit of the
cluster that pins the line already, with no owner added (DESIGN CHOICE, log 66); the home. -/
inductive Place where
  | pin (cluster : Nat)
  | unit
  | home
  deriving DecidableEq, Repr

/-- The lines of a narrow release: its own and those still in the write buffer. -/
def State.releaseLines (s : State) (pline : Nat) : List Nat := sins (s.bufferLines s.cur) pline

/-- Room in the cluster's pin store for the lines not yet there. -/
def State.pinsFit (s : State) (cl : Nat) (lines : List Nat) : Bool :=
  decide ((s.pins.filter (·.cluster == cl)).length + (lines.filter fun l => (s.pinOf l).isNone).length ≤ 512)

def inHbm (pa : Nat) : Bool := match homeOf pa with | some (.tower _) => true | _ => false

/-- A narrow release that pins: of an HBM line, by a slot of a cluster (a supervisor core has none and releases at the home: DESIGN
CHOICE, log 66), whose lines fit and did fit when it began (R172). -/
def State.pinsAt (s : State) (scope : BitVec 2) (pa : Nat) : Option Nat :=
  if inHbm pa && narrow scope && !s.me.wide then s.myCluster.filter fun cl => s.pinsFit cl (s.releaseLines (pa / 128)) else none

/-- Where an AMO, CAS form or STL on a global line is performed (R178). -/
def State.placeOf (s : State) (scope : BitVec 2) (pa : Nat) : Place :=
  match s.pinsAt scope pa with
  | some cl => .pin cl
  | none => if (s.pinOf (pa / 128)).isSome && scope != 0b11 then .unit else .home

/-- A masked piece with the bytes its place holds where it writes none. -/
def State.fillBytes (s : State) (pa : Nat) (d : List (Option Byte)) : List Byte :=
  ((upFrom pa d.length).zip d).map fun c => c.2.getD (s.placeByte c.1)

/-- Moves the slot's buffered stores into the pin store, owned by its task, where they stand until the pin ends. -/
def State.pinBuffered (s : State) (cl : Nat) : State :=
  let rs := s.buffered
  let mine : Req → Bool := fun r => r.key == s.cur && r.stage == .buffer
  let s := rs.foldl (fun s r => s.pinLine cl (r.pa / 128) r.tid) s
  let s := rs.foldl (fun s r =>
    match r.op with
    | .store d =>
      let s := s.putPin r.pa (s.fillBytes r.pa d) (wholePiece d)
      if r.sig then s.signal r.pa else s
    | .red .. => s) s
  { s with reqs := mapIf mine (fun r => { r with stage := .pinned }) s.reqs }

/-- A store to a line on another tower's home may be performed only once the home has what the writer's tower knows (R170). -/
def State.homeReady (s : State) (t pa : Nat) : Bool :=
  match homeOf pa with
  | some (.tower h) => s.gapOpen h && (h = t || (clockCovers (s.vc h) (s.vc t) [h] && clockCovers (s.vc t) (s.vc h) [t]))
  | _ => true

/-- A write that the issuing slot has made in a pin store, where the pin keeps it from its home (R163, R173; 09 R155); one like it that stands there
already counts for both. -/
def State.standsPinned (s : State) (va : Nat) (cls : Bool) (pa : Nat) : State :=
  if s.reqs.any fun r => r.key == s.cur && r.tid == s.me.tid && r.stage == .pinned && r.va == va && r.cls == cls && r.pa == pa then s
  else
    { s with
      nextId := s.nextId + 1
      reqs := s.reqs ++ [⟨s.nextId, s.cur, s.me.tid, s.me.asid, va, cls, pa, .store [], 0b10, false, .pinned, true, false, Vector.replicate 4 0⟩] }

/-- Performs bytes of the issuing slot at once at their place, and updates the core's own copies (R165). -/
def State.performNow (s : State) (o : Opnd) (pl : Place) (pa : Nat) (data : List Byte) (sig : Bool) : State :=
  let s :=
    match pl with
    | .pin cl => ((s.pinLine cl (pa / 128) s.me.tid).putPin pa data).standsPinned o.va o.cls pa
    | .unit => (s.putPin pa data).standsPinned o.va o.cls pa
    | .home => s.performFrom s.myTower pa data true
  let s := s.l1Store pa (data.map some)
  if sig then s.signal pa else s

/-- A buffered store to device memory that does not wait at the port, which a narrow release may carry to the pin store (R172, 12
R195). -/
def State.pinnable (s : State) (r : Req) : Bool :=
  r.stage == .buffer && !r.isRed && inHbm r.pa && (s.core s.myCore).portq.all (·.item ≠ .store r.id)

/-- The waits of a release that writes to a line (R168, R172, R173): at the pin store for requests that have left the buffer
(those in it move with the release), at the home for a pin, the clocks and the gap. A wide release has waited for more already. -/
def State.releaseWait (s : State) (pl : Place) (pa : Nat) : Option Stall :=
  let l := pa / 128
  if s.frameStalled pa then some .migration
  else
    match pl with
    | .pin _ =>
      if s.reqs.any fun r => r.key == s.cur && r.stage ≠ .pinned && !s.pinnable r then some .drain
      else firstSome (fun l => if s.frameStalled (l * 128) then some Stall.migration else if s.pinnedAway s.myCluster l then some (.refused l) else none)
        (s.releaseLines l)
    | .unit => if !s.drainedAt s.cur 0b01 then some .drain else if s.pinnedAway s.myCluster l then some (.refused l) else none
    | .home =>
      if !s.drainedAt s.cur 0b01 then some .drain
      else if (s.pinOf l).isSome then some (.refused l)
      else if !s.homeReady s.myTower pa then some .clock else none

/-- The scope at which a release is performed: device scope for a narrow one whose lines do not fit (R172). -/
def State.widen (s : State) (scope : BitVec 2) (pa : Nat) : BitVec 2 × State :=
  if narrow scope && inHbm pa && s.myCluster.isSome && (s.pinsAt scope pa).isNone then (0b10, { s with me := { s.me with wide := true } })
  else (scope, s)

/-- What a release does of itself before the place of its own access is looked up: at device and system scope it waits and
ends the task's pins. -/
def State.releaseStart (s : State) (scope : BitVec 2) : Res Unit := if narrow scope then .ok () s else s.release scope

/-- What a release that writes does before its write: a narrow one pins the buffered lines. -/
def State.releaseFirst (s : State) (pl : Place) : State :=
  match pl with
  | .pin cl => s.pinBuffered cl
  | .unit | .home => s

/-- The release of an access that writes to a line: its waits, at the scope it is performed at, and its place. -/
def State.releaseAt (s : State) (scope : BitVec 2) (pa : Nat) : Res Place :=
  let (scope, s) := s.widen scope pa
  (s.releaseStart scope).bind fun _ s =>
    let pl := s.placeOf scope pa
    match s.releaseWait pl pa with
    | some y => .done (s.stall y)
    | none => .ok pl s

/-- An access at system scope that has been performed is complete once every tower has applied it (10 R163, 11 R178). -/
def State.untilApplied (s : State) (scope : BitVec 2) : State :=
  if scope = 0b11 ∧ !s.allApplied (s.vc s.myTower) then s.stall (.applied (s.vc s.myTower)) else s

end Sys2Proof.Machine
end

