-- ==== Sys2Proof/Machine/Backing.lean ====
section
/-! DEFINITION. The backing of scratch pages: the frames that the Sorting Office takes for them in HBM, their refill on the first access
after a restore and their write-back at a suspension (09 R152). -/

namespace Sys2Proof.Machine

/-- A tower has what the home of a line has performed (10 R170); what asks for it is traffic at the home (01 R14). -/
def State.reachHome (s : State) (t pa : Nat) : State :=
  match homeOf pa with
  | some (.tower h) => (if h = t then s else s.reach t (s.vc h)).wakeHome pa
  | _ => s

/-- Brings a line of another tower to a tower's remote-data cache, as a plain read at device scope does (10 R170). -/
def State.fetchRemote (s : State) (t pa : Nat) : State := if (s.rdcOf t pa).isSome then s else (s.reachHome t pa).rdcAdd t pa

/-- Where a backing frame stands: frame `n` of tower `t`, numbered 2^26 × t + n, counts down from the top of the tower's HBM (DESIGN
CHOICE, log 7). -/
def framePa (f : Nat) : Nat := f / 2 ^ 26 * 2 ^ 38 + 0x3000000000 - 4096 * (f % 2 ^ 26 + 1)

/-- The lowest frames of a tower's pool that are not in use. -/
def State.frameChoice (s : State) (t n : Nat) : List Nat :=
  ((upFrom (t * 2 ^ 26) (s.backing.length + n)).filter fun f => !smem s.backing f).take n

/-- Frames come into use, or go back to the pool. -/
def State.useFrames (s : State) (fs : List Nat) : State := { s with backing := fs.foldl sins s.backing }
def State.dropFrames (s : State) (fs : List Nat) : State := { s with backing := fs.foldl sdel s.backing }

/-- The physical address of a scratch byte in its task's backing, where its page has a frame. -/
def Ctx.backingPa (c : Ctx) (a : Nat) : Option Nat := (c.frames[a / 4096]?).map fun f => framePa f + a % 4096

/-- Writes a line of a task's scratch back to its frame, for a core of tower `w`: only one that differs from what stands there, as a dirty
line does (log 7). -/
def State.writeBackLine (s : State) (w : Nat) (c : Ctx) (line : Nat) : State :=
  let a := 128 * line
  match c.backingPa a with
  | none => s
  | some pa =>
    let data := mgets c.mem a 128
    let bad := ((upFrom 0 4).filter fun i => smem c.poison (a / 32 + i)).map (pa / 32 + ·)
    if data = mgets s.mem pa 128 ∧ (upFrom (pa / 32) 4).filter (smem s.poison ·) = bad then s else s.performFrom w pa data true bad

/-- Writes the pages of a slot's task back; one that has not come back since the last restore stands in its frame already. -/
def State.writeBack (s : State) (k : SlotKey) : State :=
  let c := s.ctx k
  let pages := (List.range c.scratch).filter fun p => !smem c.absent p
  (pages.flatMap fun p => upFrom (32 * p) 32).foldl (fun s l => s.writeBackLine (s.towerOf (coreOfKey k)) c l) s

/-- A page comes back from its frame, through the remote-data cache where that stands on another tower. -/
def State.refillPage (s : State) (k : SlotKey) (p : Nat) : State :=
  let c := s.ctx k
  let t := s.towerOf (coreOfKey k)
  match c.backingPa (4096 * p) with
  | none => s
  | some pa =>
    let s := (upFrom (pa / 128) 32).foldl (fun s l => s.fetchRemote t (l * 128)) s
    let bad := (upFrom 0 128).filter fun i => s.sharedPoison t (pa + 32 * i)
    s.setCtx k { c with
      mem := msets c.mem (4096 * p) ((upFrom pa 4096).map (s.sharedByte t))
      poison := (bad.map (128 * p + ·)).foldl sins c.poison
      absent := sdel c.absent p }

/-- The pages of a task that `n` bytes of its scratch lie in, of those not back since its restore. -/
def Ctx.absentIn (c : Ctx) (va n : Nat) : List Nat := c.absent.filter fun p => decide (va < 4096 * (p + 1) ∧ 4096 * p < va + n)

/-- The first access to a page after a restore brings it back. -/
def State.bringPages (s : State) (k : SlotKey) (va n : Nat) : State := ((s.ctx k).absentIn va n).foldl (fun s p => s.refillPage k p) s

end Sys2Proof.Machine
end

