-- ==== Sys2Proof/Machine/Flags.lean ====
section
/-! DEFINITION. Conditions. The KV-RL8 has no flag register: integer instructions set no flags (06 R81), a branch tests a
register (R99), and a vector compare writes a mask (08 R132). The conditions that instructions compute stand here. -/

namespace Sys2Proof.Machine

/-- The conditions of major 0x18 on a register (R99). -/
inductive Cond where
  | eqz | nez | ltz | gez | gtz | lez
  deriving DecidableEq, Repr

def Cond.holds (c : Cond) (x : Word) : Bool :=
  match c with
  | .eqz => x == 0
  | .nez => x != 0
  | .ltz => decide (x.toInt < 0)
  | .gez => decide (0 ≤ x.toInt)
  | .gtz => decide (0 < x.toInt)
  | .lez => decide (x.toInt ≤ 0)

/-- A condition as a register value. -/
def truth (b : Bool) : Word := if b then 1 else 0

def signedLt (a b : Word) : Bool := decide (a.toInt < b.toInt)
def unsignedLt (a b : Word) : Bool := decide (a.toNat < b.toNat)

/-- Vector compares (08 R132). -/
inductive Rel where
  | eq | ne | lt | le | gt | ge
  deriving DecidableEq, Repr

/-- A NaN makes every relation but "not equal" false (R132). -/
def Rel.holds (r : Rel) (a b : Val) : Bool :=
  if a = .nan ∨ b = .nan then r == .ne
  else
    match r, a.cmp b with
    | .eq, .eq => true
    | .ne, .lt => true
    | .ne, .gt => true
    | .lt, .lt => true
    | .le, .lt => true
    | .le, .eq => true
    | .gt, .gt => true
    | .ge, .gt => true
    | .ge, .eq => true
    | _, _ => false

end Sys2Proof.Machine
end

