-- ==== Sys2Proof/Machine/Operands.lean ====
section
/-! DEFINITION. Operand forms: immediates (02 R30, R31), an access through an address register with checks 1 to 4 of R88 (06),
a ring's control block (05 R72, R73), and the lanes of a vector register (08 R124). -/

namespace Sys2Proof.Machine

/-! ## Immediates (02 R30, R31) -/

/-- imm14 sign-extended. -/
def imm14s (i : BitVec 14) : Word := i.signExtend 64
/-- imm14 zero-extended. -/
def imm14z (i : BitVec 14) : Word := i.setWidth 64
/-- The extended immediate of majors 0x01, 0x06, 0x07 and 0x0A. -/
def imm40s (ext : BitVec 26) (i : BitVec 14) : Word := (ext ++ i).signExtend 64
/-- The extended immediate of majors 0x02, 0x03 and 0x04. -/
def imm40z (ext : BitVec 26) (i : BitVec 14) : Word := (ext ++ i).setWidth 64
/-- LUI's value. -/
def lui20 (i : BitVec 20) : Word := i.signExtend 64 <<< 14
def lui46 (ext : BitVec 26) (i : BitVec 20) : Word := (ext ++ i).signExtend 64 <<< 14
/-- A displacement in bytes. -/
def disp11 (d : BitVec 11) (size : Nat) : Int := d.toInt * size
def disp37 (ext : BitVec 26) (d : BitVec 11) (size : Nat) : Int := (ext ++ d).toInt * size
/-- A branch or call offset in bytes. -/
def off16 (o : BitVec 16) : Int := 4 * o.toInt
def off42 (ext : BitVec 26) (o : BitVec 16) : Int := 4 * (ext ++ o).toInt
def off20 (o : BitVec 20) : Int := 4 * o.toInt
def off46 (ext : BitVec 26) (o : BitVec 20) : Int := 4 * (ext ++ o).toInt

/-! ## Access through an address register (06 R88, checks 1 to 4) -/

/-- The address an information word reports for an effective address. -/
def eaBits (ea : Int) : Nat := (ea % 2 ^ 56).toNat

/-- Checks 1 to 4 of R88 on aN, for an access of `n` bytes at `ea` that reads, writes or both, with alignment `align` (0 for none). The first
access to a scratch page after a restore brings the page back (09 R152). -/
def State.check (s : State) (num : BitVec 4) (ea : Int) (n : Nat) (rd wr : Bool) (align : Nat) : Res Opnd :=
  let a := s.me.getA num
  if ¬ ((a.base.toNat : Int) ≤ ea ∧ ea + n ≤ a.limit.toNat) then .done (s.limitTrap num.toNat (eaBits ea))
  else if (rd && !a.r) || (wr && !a.w) then .done (s.permTrap 0 num.toNat (eaBits ea))
  else if align ≠ 0 ∧ ea % align ≠ 0 then .done (s.misaligned (eaBits ea))
  else if a.scratch && decide (4096 * (s.me.scratch : Int) < ea + n) then .done (s.limitTrap num.toNat (eaBits ea))
  else .ok ⟨a.scratch, ea.toNat, a.cls, 0, num.toNat, []⟩ (if a.scratch then s.bringPages s.cur ea.toNat n else s)

/-- The pointer of aN. -/
def State.ptr (s : State) (num : BitVec 4) : Int := (s.me.getA num).ptr.toNat

/-! ## Ring control blocks (05 R72, R73) -/

/-- The control block of qN as an operand (R146: class of the region registers; R330: source 0xD). -/
def State.ctrlOpnd (s : State) (q : BitVec 4) : Opnd :=
  let va := (s.me.getQ q).ctrl.toNat
  ⟨false, va, s.classAt s.myCore va, 0xD, q.toNat, []⟩

/-- The three counters of a control block (R72). -/
structure RingCounts where
  tail : BitVec 32
  resv : BitVec 32
  head : BitVec 32
  deriving DecidableEq, Repr

def ringCounts (bs : List Byte) : RingCounts :=
  ⟨BitVec.ofNat 32 (leNat (bs.take 4)), BitVec.ofNat 32 (leNat ((bs.drop 4).take 4)), BitVec.ofNat 32 (leNat ((bs.drop 8).take 4))⟩

/-- Filled slots: tail − head. -/
def RingCounts.filled (c : RingCounts) : BitVec 32 := c.tail - c.head
/-- Free slots: 2^m − (resv − head), below 0 on a ring with more slots reserved than it has (00 R9). -/
def RingCounts.free (c : RingCounts) (m : Nat) : Int := 2 ^ m - ((c.resv - c.head).toNat : Int)

def QReg.consumer (q : QReg) : Bool := q.role.getLsbD 0
def QReg.producer (q : QReg) : Bool := q.role.getLsbD 1

/-! ## Lanes (08 R124, R126) -/

/-- Lanes of a vector register in a format. -/
def lanesOf (f : Fmt) : Nat := 1024 / f.width

/-- The bits of lane `i`. -/
def laneGet (f : Fmt) (v : VWord) (i : Nat) : Nat := (v.extractLsb' (i * f.width) f.width).toNat

/-- A register from the bits of its lanes, lane 0 first. -/
def laneJoin (f : Fmt) (l : List Nat) : VWord :=
  BitVec.ofNat 1024 (l.foldr (fun x acc => x % 2 ^ f.width + 2 ^ f.width * acc) 0)

def laneList (f : Fmt) (v : VWord) : List Nat := (List.range (lanesOf f)).map (laneGet f v)

/-- A vector register as its 128 bytes, lane 0 lowest. -/
def vBytes (v : VWord) : List Byte := leBytes 128 v.toNat
def vOfBytes (l : List Byte) : VWord := BitVec.ofNat 1024 (leNat l)

/-- The task owns a vector register (05 R68). -/
def Ctx.ownsV (c : Ctx) (n : BitVec 5) : Bool := decide (n.toNat < c.regs)

end Sys2Proof.Machine
end

