-- ==== Sys2Proof/Machine/Scalar.lean ====
section
/-! DEFINITION. Integer arithmetic and logic (06 R81-R85). -/

namespace Sys2Proof.Machine

/-- What every meaning answers. -/
abbrev Out := Host.Outcome State Fault Refusal

/-! ## Results (R82, R83) -/

def shiftOf (b : Word) : Nat := bitsNat b.toNat 5 0

def valSll (a b : Word) : Word := a <<< shiftOf b
def valSrl (a b : Word) : Word := a >>> shiftOf b
def valSra (a b : Word) : Word := a.sshiftRight (shiftOf b)
def valMulh (a b : Word) : Word := BitVec.ofInt 64 (a.toInt * b.toInt / 2 ^ 64)
def valMulhu (a b : Word) : Word := BitVec.ofNat 64 (a.toNat * b.toNat / 2 ^ 64)

/-- A zero divisor gives all ones; division truncates toward zero (R83). -/
def valDiv (a b : Word) : Word := if b = 0 then BitVec.allOnes 64 else BitVec.ofInt 64 (a.toInt.tdiv b.toInt)
def valDivu (a b : Word) : Word := if b = 0 then BitVec.allOnes 64 else BitVec.ofNat 64 (a.toNat / b.toNat)
def valRem (a b : Word) : Word :=
  if b = 0 then BitVec.allOnes 64 else BitVec.ofInt 64 (a.toInt - a.toInt.tdiv b.toInt * b.toInt)
def valRemu (a b : Word) : Word :=
  if b = 0 then BitVec.allOnes 64 else BitVec.ofNat 64 (a.toNat - a.toNat / b.toNat * b.toNat)

def valMin (a b : Word) : Word := if signedLt a b then a else b
def valMax (a b : Word) : Word := if signedLt b a then a else b
def valMinu (a b : Word) : Word := if unsignedLt a b then a else b
def valMaxu (a b : Word) : Word := if unsignedLt b a then a else b

/-- Zero bits above the highest set bit. -/
def valClz (a : Word) : Word := if a = 0 then 64 else BitVec.ofNat 64 (63 - Nat.log2 a.toNat)

/-- Zero bits below the lowest set bit, of `n` bits. -/
def ctzNat : Nat → Nat → Nat
  | 0, _ => 0
  | n + 1, x => if x % 2 = 1 then 0 else 1 + ctzNat n (x / 2)
def valCtz (a : Word) : Word := BitVec.ofNat 64 (ctzNat 64 a.toNat)

/-- Set bits, of `n` bits. -/
def popNat : Nat → Nat → Nat
  | 0, _ => 0
  | n + 1, x => x % 2 + popNat n (x / 2)
def valPopc (a : Word) : Word := BitVec.ofNat 64 (popNat 64 a.toNat)

/-! ## The shapes of the instructions -/

/-- OP gd, ga, gb. -/
def opReg (f : Word → Word → Word) (d a b : BitVec 6) (s : State) : State := s.retG d (f (s.getG a) (s.getG b)) 4

/-- OP gd, ga. -/
def opOne (f : Word → Word) (d a : BitVec 6) (s : State) : State := s.retG d (f (s.getG a)) 4

/-- OP gd, ga, imm, of 4 bytes or of 8 under a prefix. -/
def opImm (f : Word → Word → Word) (d a : BitVec 6) (imm : Word) (len : Nat) (s : State) : State :=
  s.retG d (f (s.getG a) imm) len

/-! ## Major 0x00 (R82, R83) -/

def execAdd (d a b : BitVec 6) (s : State) : Out := .next (opReg (fun a b => a + b) d a b s)
def execSub (d a b : BitVec 6) (s : State) : Out := .next (opReg (fun a b => a - b) d a b s)
def execAnd (d a b : BitVec 6) (s : State) : Out := .next (opReg (fun a b => a &&& b) d a b s)
def execOr (d a b : BitVec 6) (s : State) : Out := .next (opReg (fun a b => a ||| b) d a b s)
def execXor (d a b : BitVec 6) (s : State) : Out := .next (opReg (fun a b => a ^^^ b) d a b s)
def execSll (d a b : BitVec 6) (s : State) : Out := .next (opReg valSll d a b s)
def execSrl (d a b : BitVec 6) (s : State) : Out := .next (opReg valSrl d a b s)
def execSra (d a b : BitVec 6) (s : State) : Out := .next (opReg valSra d a b s)
def execMul (d a b : BitVec 6) (s : State) : Out := .next (opReg (fun a b => a * b) d a b s)
def execMulh (d a b : BitVec 6) (s : State) : Out := .next (opReg valMulh d a b s)
def execMulhu (d a b : BitVec 6) (s : State) : Out := .next (opReg valMulhu d a b s)
def execDiv (d a b : BitVec 6) (s : State) : Out := .next (opReg valDiv d a b s)
def execDivu (d a b : BitVec 6) (s : State) : Out := .next (opReg valDivu d a b s)
def execRem (d a b : BitVec 6) (s : State) : Out := .next (opReg valRem d a b s)
def execRemu (d a b : BitVec 6) (s : State) : Out := .next (opReg valRemu d a b s)
def execMin (d a b : BitVec 6) (s : State) : Out := .next (opReg valMin d a b s)
def execMax (d a b : BitVec 6) (s : State) : Out := .next (opReg valMax d a b s)
def execMinu (d a b : BitVec 6) (s : State) : Out := .next (opReg valMinu d a b s)
def execMaxu (d a b : BitVec 6) (s : State) : Out := .next (opReg valMaxu d a b s)
def execSeq (d a b : BitVec 6) (s : State) : Out := .next (opReg (fun a b => truth (a == b)) d a b s)
def execSne (d a b : BitVec 6) (s : State) : Out := .next (opReg (fun a b => truth (a != b)) d a b s)
def execSlt (d a b : BitVec 6) (s : State) : Out := .next (opReg (fun a b => truth (signedLt a b)) d a b s)
def execSltu (d a b : BitVec 6) (s : State) : Out := .next (opReg (fun a b => truth (unsignedLt a b)) d a b s)
def execClz (d a : BitVec 6) (s : State) : Out := .next (opOne valClz d a s)
def execCtz (d a : BitVec 6) (s : State) : Out := .next (opOne valCtz d a s)
def execPopc (d a : BitVec 6) (s : State) : Out := .next (opOne valPopc d a s)

/-! ## Immediate forms (R84, R85) -/

def execAddi (d a : BitVec 6) (imm : BitVec 14) (s : State) : Out :=
  .next (opImm (fun a b => a + b) d a (imm14s imm) 4 s)
def execAndi (d a : BitVec 6) (imm : BitVec 14) (s : State) : Out :=
  .next (opImm (fun a b => a &&& b) d a (imm14z imm) 4 s)
def execOri (d a : BitVec 6) (imm : BitVec 14) (s : State) : Out :=
  .next (opImm (fun a b => a ||| b) d a (imm14z imm) 4 s)
def execXori (d a : BitVec 6) (imm : BitVec 14) (s : State) : Out :=
  .next (opImm (fun a b => a ^^^ b) d a (imm14z imm) 4 s)
def execSlti (d a : BitVec 6) (imm : BitVec 14) (s : State) : Out :=
  .next (opImm (fun a b => truth (signedLt a b)) d a (imm14s imm) 4 s)
def execSltiu (d a : BitVec 6) (imm : BitVec 14) (s : State) : Out :=
  .next (opImm (fun a b => truth (unsignedLt a b)) d a (imm14s imm) 4 s)
def execSlli (d a sh : BitVec 6) (s : State) : Out := .next (opImm valSll d a (sh.setWidth 64) 4 s)
def execSrli (d a sh : BitVec 6) (s : State) : Out := .next (opImm valSrl d a (sh.setWidth 64) 4 s)
def execSrai (d a sh : BitVec 6) (s : State) : Out := .next (opImm valSra d a (sh.setWidth 64) 4 s)
def execLui (d : BitVec 6) (imm : BitVec 20) (s : State) : Out := .next (s.retG d (lui20 imm) 4)

end Sys2Proof.Machine
end

