-- ==== Sys2Proof/Machine/Address.lean ====
section
/-! DEFINITION. Address registers (06 R86, R87). -/

namespace Sys2Proof.Machine

/-- The trap of a failed range check: the register's number and the value that failed. -/
def State.rangeTrap (s : State) (ad : BitVec 4) (v : Int) : State := s.limitTrap ad.toNat (eaBits v)

def execAmov (ad aa : BitVec 4) (s : State) : Out := .next ((s.setA ad (s.me.getA aa)).advance 4)

/-- Sets a range with every right; the sum must not leave 56 bits (R87). -/
def opAset (ad : BitVec 4) (ga gb : BitVec 6) (s : State) : State :=
  let x := (s.getG ga).toNat
  let l := x + (s.getG gb).toNat
  if 2 ^ 56 ≤ x ∨ 2 ^ 56 ≤ l then s.rangeTrap ad l
  else
    (s.setA ad ⟨BitVec.ofNat 56 x, BitVec.ofNat 56 x, BitVec.ofNat 56 l, s.classAt s.myCore x, false, true, true, true⟩).advance 4
def execAset (ad : BitVec 4) (ga gb : BitVec 6) (s : State) : Out := .next (opAset ad ga gb s)

def opAsetl (ad : BitVec 4) (ga : BitVec 6) (s : State) : State :=
  let x := (s.getG ga).toNat
  let a := s.me.getA ad
  if x < a.base.toNat ∨ 2 ^ 56 ≤ x then s.rangeTrap ad x else (s.setA ad { a with limit := BitVec.ofNat 56 x }).advance 4
def execAsetl (ad : BitVec 4) (ga : BitVec 6) (s : State) : Out := .next (opAsetl ad ga s)

def execAperm (ad : BitVec 4) (ga : BitVec 6) (s : State) : Out :=
  let x := s.getG ga
  .next ((s.setA ad { s.me.getA ad with scratch := x.getLsbD 4, e := x.getLsbD 2, w := x.getLsbD 1, r := x.getLsbD 0 }).advance 4)

/-- ad := aa with a moved pointer, which must stay within [base, limit] (R87). -/
def opMove (ad aa : BitVec 4) (by_ : Int) (len : Nat) (s : State) : State :=
  let a := s.me.getA aa
  let p : Int := a.ptr.toNat + by_
  if (a.base.toNat : Int) ≤ p ∧ p ≤ a.limit.toNat then (s.setA ad { a with ptr := BitVec.ofInt 56 p }).advance len
  else s.rangeTrap ad p

def execAadv (ad : BitVec 4) (ga : BitVec 6) (s : State) : Out := .next (opMove ad ad (s.getG ga).toInt 4 s)
def execAaddi (ad aa : BitVec 4) (imm : BitVec 14) (s : State) : Out := .next (opMove ad aa imm.toInt 4 s)

def execAget (gd : BitVec 6) (aa : BitVec 4) (s : State) : Out := .next (s.retG gd ((s.me.getA aa).ptr.setWidth 64) 4)
def execAgetb (gd : BitVec 6) (aa : BitVec 4) (s : State) : Out := .next (s.retG gd ((s.me.getA aa).base.setWidth 64) 4)
def execAgetl (gd : BitVec 6) (aa : BitVec 4) (s : State) : Out := .next (s.retG gd ((s.me.getA aa).limit.setWidth 64) 4)
def execAgetp (gd : BitVec 6) (aa : BitVec 4) (s : State) : Out := .next (s.retG gd (s.me.getA aa).flags 4)

end Sys2Proof.Machine
end

