-- ==== Sys2Proof/Machine/LoadStore.lean ====
section
/-! DEFINITION. Plain loads and stores (06 R88-R90) and block moves (R91, R92; 12 R193). -/

namespace Sys2Proof.Machine

/-- A load of `n` bytes at aN + disp, sign- or zero-extended. -/
def opLoad (n : Nat) (signed : Bool) (d : BitVec 6) (a : BitVec 4) (disp : Int) (len : Nat) (s : State) : State :=
  (s.check a (s.ptr a + disp) n true false n).andThen fun o s =>
    (s.read o n).andThen fun bs s =>
      s.retG d (if signed then sextN (8 * n) (leNat bs) else BitVec.ofNat 64 (leNat bs)) len

/-- A store of the low `n` bytes of a register at aN + disp. -/
def opStore (n : Nat) (sig : Bool) (d : BitVec 6) (a : BitVec 4) (disp : Int) (len : Nat) (s : State) : State :=
  (s.check a (s.ptr a + disp) n false true n).andThen fun o s =>
    (s.write o (leBytes n (s.getG d).toNat) sig).andThen fun _ s => s.advance len

def execLdB (d : BitVec 6) (a : BitVec 4) (disp : BitVec 11) (s : State) : Out := .next (opLoad 1 true d a (disp11 disp 1) 4 s)
def execLdH (d : BitVec 6) (a : BitVec 4) (disp : BitVec 11) (s : State) : Out := .next (opLoad 2 true d a (disp11 disp 2) 4 s)
def execLdW (d : BitVec 6) (a : BitVec 4) (disp : BitVec 11) (s : State) : Out := .next (opLoad 4 true d a (disp11 disp 4) 4 s)
def execLdD (d : BitVec 6) (a : BitVec 4) (disp : BitVec 11) (s : State) : Out := .next (opLoad 8 false d a (disp11 disp 8) 4 s)
def execLdBu (d : BitVec 6) (a : BitVec 4) (disp : BitVec 11) (s : State) : Out := .next (opLoad 1 false d a (disp11 disp 1) 4 s)
def execLdHu (d : BitVec 6) (a : BitVec 4) (disp : BitVec 11) (s : State) : Out := .next (opLoad 2 false d a (disp11 disp 2) 4 s)
def execLdWu (d : BitVec 6) (a : BitVec 4) (disp : BitVec 11) (s : State) : Out := .next (opLoad 4 false d a (disp11 disp 4) 4 s)

def execStB (sig : Bool) (d : BitVec 6) (a : BitVec 4) (disp : BitVec 11) (s : State) : Out := .next (opStore 1 sig d a (disp11 disp 1) 4 s)
def execStH (sig : Bool) (d : BitVec 6) (a : BitVec 4) (disp : BitVec 11) (s : State) : Out := .next (opStore 2 sig d a (disp11 disp 2) 4 s)
def execStW (sig : Bool) (d : BitVec 6) (a : BitVec 4) (disp : BitVec 11) (s : State) : Out := .next (opStore 4 sig d a (disp11 disp 4) 4 s)
def execStD (sig : Bool) (d : BitVec 6) (a : BitVec 4) (disp : BitVec 11) (s : State) : Out := .next (opStore 8 sig d a (disp11 disp 8) 4 s)

/-! ## MOVB -/

/-- The piece to read next, as its distance from the progress point and its size: none where the rest is in flight or sixteen pieces
are (12 R193). -/
def State.movbNext (s : State) (gn : BitVec 6) : Option (Nat × Nat) :=
  let off := 32 * s.me.movb.length
  let left := (s.getG gn).toNat
  if s.me.movb.length < 16 ∧ off < left then some (off, min 32 (left - off)) else none

/-- The ranges that found parts of a read cover. -/
def partRanges (ps : List (Nat × Nat × ReadAt)) : List (Nat × Nat) :=
  ps.map fun p => match p.2.2 with | .l1 l => (l.pline * 128 + p.1 % 128, p.2.1) | .mem pa => (pa, p.2.1)

def MovPiece.meets (m : MovPiece) (scratch : Bool) (rs : List (Nat × Nat)) : Bool :=
  m.scratch == scratch && m.ranges.any fun a => rs.any fun b => decide (a.1 < b.1 + b.2 ∧ b.1 < a.1 + a.2)

/-- The port's charge for a piece: 32 bytes for each side at a global address (12 R193). -/
def State.pieceCost (s : State) (ad sa : BitVec 4) : Nat :=
  (if (s.me.getA sa).scratch then 0 else 32) + (if (s.me.getA ad).scratch then 0 else 32)

/-- Reads the source of a piece: one that covers bytes an earlier piece still has to write waits for that (R92). One that is not aligned is read
as the two pieces of memory that it lies in (01 R16). -/
def State.movbSource (s : State) (o : Opnd) (n : Nat) : Res (List Byte) :=
  if o.scratch then
    if s.me.movb.any (·.meets true [(o.va, n)]) then .done (s.stall .drain) else s.readScratch o n
  else
    (s.findParts o false (piecesOf o.va n)).bind fun ps s =>
      if s.me.movb.any (·.meets false (partRanges ps)) then .done (s.stall .drain) else s.readPiecewise 0 o false ps

/-- Reads a piece `off` bytes beyond the progress point, with the checks of both sides (R91); it is then in flight. -/
def State.movbRead (s : State) (ad sa : BitVec 4) (off n : Nat) : Res Unit :=
  (s.check sa (s.ptr sa + off) n true false 0).bind fun src s =>
    (s.charge (s.pieceCost ad sa)).bind fun _ s =>
      (s.movbSource src n).bind fun bs s =>
        (s.check ad (s.ptr ad + off) n false true 0).bind fun dst s =>
          (s.writeParts dst n).bind fun ps s =>
            let ranges := if dst.scratch then [(dst.va, n)] else ps.map (·.2)
            .ok () { s with me := { s.me with paid := false, got := [], movb := s.me.movb ++ [⟨dst.scratch, ranges, bs⟩] } }

/-- Progress after a piece of `n` bytes: both pointers advance, the count falls, and at 0 the instruction completes (R91). -/
def State.movbDone (s : State) (ad sa : BitVec 4) (gn : BitVec 6) (n : Nat) : State :=
  let src := s.me.getA sa
  let dst := s.me.getA ad
  let left := s.getG gn - BitVec.ofNat 64 n
  let s := (s.setA sa { src with ptr := src.ptr + BitVec.ofNat 56 n }).setA ad { dst with ptr := dst.ptr + BitVec.ofNat 56 n }
  let s := s.setG gn left
  if left = 0 then s.advance 4 else { s with me := { s.me with movb := s.me.movb.drop 1 } }

/-- The write of the oldest piece in flight leaves the port, already paid for, as one request, also where it has bytes of two pieces of memory; the
registers then count it (12 R193). One request leaves in a cycle (R194): a write stays where another has left in this step. -/
def State.movbWrite (s : State) (ad sa : BitVec 4) (gn : BitVec 6) (m : MovPiece) : State :=
  let n := m.data.length
  (s.check ad (s.ptr ad) n false true 0).andThen fun dst s =>
    if !dst.scratch && !(s.core s.myCore).portFree (s.cycleAt s.myCore) then s
    else (s.writeParts dst n).andThen fun ps s => (s.writeNow dst ps m.data false true).movbDone ad sa gn n

/-- One step of MOVB (R91, R193): the slot stays at the instruction until the count is 0. Reads run ahead of writes, by how many
pieces of the sixteen is free (log 63). With pieces in flight a read that would wait or trap gives way to a write, so that a trap
leaves every earlier piece moved. -/
def opMovb (ad sa : BitVec 4) (gn : BitVec 6) (s : State) : State :=
  if ad = sa then s.illegal
  else if s.getG gn = 0 then s.advance 4
  else
    match s.me.movb, s.movbNext gn with
    | [], none => s
    | [], some (off, n) => (s.movbRead ad sa off n).andThen fun _ s => s
    | m :: _, none => s.movbWrite ad sa gn m
    | m :: _, some (off, n) =>
      if Config.movbReads s.free then
        match s.movbRead ad sa off n with
        | .ok _ t => { t with free := t.free + 1 }
        | .done t => if t.me.run = .running ∧ t.me.got ≠ s.me.got ∧ t.me.got ≠ [] then t else s.movbWrite ad sa gn m
      else { s with free := s.free + 1 }.movbWrite ad sa gn m
def execMovb (ad sa : BitVec 4) (n : BitVec 6) (s : State) : Out := .next (opMovb ad sa n s)

end Sys2Proof.Machine
end

