-- ==== Sys2Proof/Machine/Control.lean ====
section
/-! DEFINITION. Control flow (06 R99-R101), REP (R93, R94), traps, system registers and sleep (R102-R104; 05 R74, R75). -/

namespace Sys2Proof.Machine

/-! ## Branches, calls and jumps -/

/-- A branch of `len` bytes: the offset counts from its own address (02 R30). -/
def opBranch (taken : Bool) (off : Int) (len : Nat) (s : State) : State :=
  if taken then s.jump (s.me.pc + BitVec.ofInt 56 off) else s.advance len

def execBra (off : BitVec 16) (s : State) : Out := .next (opBranch true (off16 off) 4 s)
def execBeqz (a : BitVec 6) (off : BitVec 16) (s : State) : Out := .next (opBranch (Cond.eqz.holds (s.getG a)) (off16 off) 4 s)
def execBnez (a : BitVec 6) (off : BitVec 16) (s : State) : Out := .next (opBranch (Cond.nez.holds (s.getG a)) (off16 off) 4 s)
def execBltz (a : BitVec 6) (off : BitVec 16) (s : State) : Out := .next (opBranch (Cond.ltz.holds (s.getG a)) (off16 off) 4 s)
def execBgez (a : BitVec 6) (off : BitVec 16) (s : State) : Out := .next (opBranch (Cond.gez.holds (s.getG a)) (off16 off) 4 s)
def execBgtz (a : BitVec 6) (off : BitVec 16) (s : State) : Out := .next (opBranch (Cond.gtz.holds (s.getG a)) (off16 off) 4 s)
def execBlez (a : BitVec 6) (off : BitVec 16) (s : State) : Out := .next (opBranch (Cond.lez.holds (s.getG a)) (off16 off) 4 s)
def execBkany (k : BitVec 3) (off : BitVec 16) (s : State) : Out := .next (opBranch (s.me.getK k != 0) (off16 off) 4 s)
def execBknone (k : BitVec 3) (off : BitVec 16) (s : State) : Out := .next (opBranch (s.me.getK k == 0) (off16 off) 4 s)

/-- The link is the address after the whole instruction (R101). -/
def opCall (d : BitVec 6) (off : Int) (len : Nat) (s : State) : State :=
  let target := s.me.pc + BitVec.ofInt 56 off
  (s.setG d ((s.me.pc + BitVec.ofNat 56 len).setWidth 64)).jump target
def execCall (d : BitVec 6) (imm : BitVec 20) (s : State) : Out := .next (opCall d (off20 imm) 4 s)

/-- A jump to bits [55:0] of ga, with the link in `link` if there is one; a misaligned target traps first. -/
def opJump (link : Option (BitVec 6)) (a : BitVec 6) (s : State) : State :=
  let target : Addr := (s.getG a).setWidth 56
  if target.extractLsb' 0 2 ≠ 0 then s.misaligned target.toNat
  else
    match link with
    | none => s.jump target
    | some d => (s.setG d ((s.me.pc + 4).setWidth 64)).jump target
def execJmp (a : BitVec 6) (s : State) : Out := .next (opJump none a s)
def execCallr (d a : BitVec 6) (s : State) : Out := .next (opJump (some d) a s)

/-! ## REP (R93, R94) -/

/-- The majors that REP refuses. -/
def notRepeatable (m : BitVec 6) : Bool :=
  m == 0x18#6 || m == 0x19#6 || m == 0x1A#6 || m == 0x1E#6 || m == 0x31#6 || m == 0x32#6 || m == 0x33#6

/-- The word whose major decides, and the length of the repeated instruction. -/
def State.repWord (s : State) : Res (IWord × Nat) :=
  (s.fetchWord (s.me.pc + 4).toNat).bind fun w s =>
    if fMajor w = 0x3D#6 then (s.fetchWord (s.me.pc + 8).toNat).bind fun w1 s => .ok (w1, 8) s
    else .ok (w, insnBytes w) s

/-- REP. What its decoding refuses is what R94 lists, by the major alone: an unassigned word of a listed major is refused here too, also with a count of
zero (DESIGN CHOICE, log 99). The information is the word whose major decides, of an E-format instruction its first word alone (DESIGN CHOICE, log
100). -/
def opRep (n : BitVec 6) (s : State) : State :=
  s.repWord.andThen fun (w, len) s =>
    if notRepeatable (fMajor w) then s.trap 0x01 (w.setWidth 64)
    else if s.getG n = 0 then s.jump (s.me.pc + BitVec.ofNat 56 (4 + len))
    else { s with me := { s.me with rep := some (s.me.pc, n), pc := s.me.pc + 4, paid := false } }
def execRep (n : BitVec 6) (s : State) : Out := .next (opRep n s)

/-! ## Traps and sleep (R103, R104) -/

/-- TRAP returns to the next instruction. -/
def execTrap (imm : BitVec 18) (s : State) : Out := .next (s.trapTo 0x0B (imm.setWidth 64) (s.me.pc + 4))

def execEret (s : State) : Out := .next s.eret

/-- Parks until the count of cycles has passed; 0 completes at once. -/
def opSleep (a : BitVec 6) (s : State) : State :=
  let n := bitsNat (s.getG a).toNat 31 0
  if n = 0 then s.advance 4 else s.park (.sleep ((s.tower s.myTower).cycle + n))
def execSleep (a : BitVec 6) (s : State) : Out := .next (opSleep a s)

/-! ## System registers (R102; 05 R74, R75, R67; 01 R17; 09 R150, R161) -/

def Ctx.status (c : Ctx) (slot : Nat) : Word :=
  BitVec.ofNat 64 (c.asid % 2 ^ 16 * 2 ^ 16 + c.stage.toNat * 2 ^ 9 + boolNat c.group * 2 ^ 8 + boolNat c.inh * 2 ^ 3 + slot % 4)

def State.sCore (s : State) : Word :=
  BitVec.ofNat 64 (boolNat (isSup s.myCore) * 2 ^ 31 + s.me.firstCore % 1024 * 2 ^ 16 + s.myCore % 1024)

def Ctx.taskWord (c : Ctx) : Word :=
  BitVec.ofNat 64 (c.bars.length % 256 * 2 ^ 32 + c.scratch % 256 * 2 ^ 24 + c.regs % 64 * 2 ^ 16 + c.tiles.toNat)

def Core.poolWord (c : Core) : Word := BitVec.ofNat 64 (c.poolend % 128 * 2 ^ 16 + c.scrend % 128 * 2 ^ 8 + c.regend % 128)

/-- s.netcap (01 R17). -/
def netcap : Word := 0x14081020

def Core.shaperWord (c : Core) : Word :=
  BitVec.ofNat 64 (nget c.shares 3 * 2 ^ 24 + nget c.shares 2 * 2 ^ 16 + nget c.shares 1 * 2 ^ 8 + nget c.shares 0)

/-- The four shares of a value written to s.shaper. -/
def sharesOf (v : Word) : List Nat := [bitsNat v.toNat 6 0, bitsNat v.toNat 14 8, bitsNat v.toNat 22 16, bitsNat v.toNat 30 24]

/-- Shares whose sum is above 64 are ignored (R161). -/
def Core.setShaper (c : Core) (v : Word) : Core :=
  if (sharesOf v).sum ≤ 64 then
    { c with shares := #v[bitsNat v.toNat 6 0, bitsNat v.toNat 14 8, bitsNat v.toNat 22 16, bitsNat v.toNat 30 24] }
  else c

/-- The bits a region register holds (R150). -/
def regionMask : Word := 0x80FFFFFFFFE000FF

/-- Regions are registers 0x040 to 0x047. -/
def regionIndex (num : BitVec 12) : Option (Fin 8) :=
  if h : 0x040 ≤ num.toNat ∧ num.toNat < 0x048 then some ⟨num.toNat - 0x040, by omega⟩ else none

def isCourierReg (num : BitVec 12) : Bool := (regionIndex num).isSome || num == 0x050#12 || num == 0x060#12

def isReadOnlyReg (num : BitVec 12) : Bool :=
  [0x000#12, 0x001#12, 0x003#12, 0x005#12, 0x006#12, 0x007#12, 0x008#12, 0x010#12].contains num

/-- The core record s.target names, the service port of tower t being record 1028 + t; none for no live target (R75). -/
def State.targetOf (s : State) (v : Word) : Option Nat :=
  if v.getLsbD 15 then some (1028 + bitsNat v.toNat 17 16)
  else
    let c := bitsNat v.toNat 9 0
    if s.coreLive c then some c else none

/-- Sets the error bit of a supervisor core's s.target. -/
def State.targetErr (s : State) (sup : Nat) : State :=
  let c := s.core sup
  s.setCore sup { c with target := c.target ||| 0x80000000 }

/-- A remote read by a supervisor core: the value, or zero with the error bit set (R75). DESIGN CHOICE, unsafe (log 69): of a
region register of a service port, of which R75 names the write alone, the record's stored value, with the error bit clear. -/
def State.remoteRead (s : State) (sup : Nat) (num : BitVec 12) : Word × State :=
  match s.targetOf (s.core sup).target with
  | none => (0, s.targetErr sup)
  | some t =>
    match regionIndex num with
    | some i => ((s.core t).region[i], s)
    | none => ((s.core t).shaperWord, s)

/-- A remote write by a supervisor core (R75). -/
def State.remoteWrite (s : State) (sup : Nat) (num : BitVec 12) (v : Word) : State :=
  match s.targetOf (s.core sup).target with
  | none => s.targetErr sup
  | some t =>
    match regionIndex num with
    | some i =>
      if 1028 ≤ t then s.targetErr sup
      else s.setCore t { s.core t with region := (s.core t).region.set i.val (v &&& regionMask) }
    | none => s.setCore t ((s.core t).setShaper v)

/-- The value SYSRD gives, or none for a number that names no register. -/
def State.sysRead (s : State) (num : BitVec 12) : Option (Word × State) :=
  let c := s.core s.myCore
  match num with
  | 0x000#12 => some (s.me.status (slotOfKey s.cur), s)
  | 0x001#12 => some (s.me.cause.setWidth 64, s)
  | 0x002#12 => some (s.me.epc.setWidth 64, s)
  | 0x003#12 => some (s.me.tinfo, s)
  | 0x004#12 => some (s.me.tvec.setWidth 64, s)
  | 0x005#12 => some (s.sCore, s)
  | 0x006#12 => some (s.me.taskWord, s)
  | 0x007#12 => some (c.poolWord, s)
  | 0x008#12 => some (BitVec.ofNat 64 (s.tower s.myTower).cycle, s)
  | 0x010#12 => some (netcap, s)
  | 0x020#12 => some (s.me.srstate, s)
  | 0x060#12 => some (if isSup s.myCore then c.target else 0, s)
  | _ =>
    if isCourierReg num then
      if isSup s.myCore then some (s.remoteRead s.myCore num)
      else
        match regionIndex num with
        | some i => some (c.region[i], s)
        | none => some (c.shaperWord, s)
    else none

def opSysrd (d : BitVec 6) (num : BitVec 12) (s : State) : State :=
  match s.sysRead num with
  | some (v, s) => s.retG d v 4
  | none => s.illegal
def execSysrd (d : BitVec 6) (num : BitVec 12) (s : State) : Out := .next (opSysrd d num s)

/-- s.epc and s.tvec keep bits [55:2] (R102). -/
def codeAddr (v : Word) : Addr := v.setWidth 56 &&& 0xFFFFFFFFFFFFFC

/-- SYSWR: read-only registers ignore it, Courier registers are a supervisor core's alone, other numbers are illegal. -/
def opSyswr (num : BitVec 12) (a : BitVec 6) (s : State) : State :=
  let v := s.getG a
  match num with
  | 0x002#12 => { s with me := { s.me with epc := codeAddr v } }.advance 4
  | 0x004#12 => { s with me := { s.me with tvec := codeAddr v } }.advance 4
  | 0x020#12 => { s with me := { s.me with srstate := if v = 0 then 1 else v } }.advance 4
  | _ =>
    if isReadOnlyReg num then s.advance 4
    else if isCourierReg num then
      if isSup s.myCore then
        if num = 0x060#12 then (s.setCore s.myCore { s.core s.myCore with target := v &&& 0x383FF }).advance 4
        else (s.remoteWrite s.myCore num v).advance 4
      else s.trap 0x03 (num.setWidth 64)
    else s.illegal
def execSyswr (num : BitVec 12) (a : BitVec 6) (s : State) : Out := .next (opSyswr num a s)

end Sys2Proof.Machine
end

