-- ==== Sys2Proof/Machine/Waiting.lean ====
section
/-! DEFINITION. The monitor tables of the clusters and the watches of the home slices (11 R189-R191), and the read-modify-write
at its place (11 R178-R182) that atomics and ring instructions share. -/

namespace Sys2Proof.Machine

/-! ## Watches -/

/-- The monitor table a core uses: its cluster's; a supervisor core, which has no cluster, has one of its own (log 17). -/
def monitorOf (core : Nat) : Nat := if isSup core then core else clusterOf core

def State.myMonitor (s : State) : Nat := monitorOf s.myCore

/-- Slots of a cluster parked on a line of the monitor table. -/
def Ctx.waitsOn (c : Ctx) (line : Nat) : Bool :=
  match c.run with
  | .parked (.wait l ..) => l == line
  | .parked (.rwait l) => l == line
  | _ => false

def Ctx.isParked (c : Ctx) : Bool := match c.run with | .parked _ => true | _ => false

/-- Wakes one slot: a WAIT completes with status 1, an RWAIT looks again (R189; 06 R96); a slot parked on something else (05 R66)
looks again and finds that its wait goes on (DESIGN CHOICE, log 67). Every wake invalidates the L1 lines of the woken core (10
R175). -/
def State.wakeOne (s : State) (k : SlotKey) : State :=
  let c := s.ctx k
  match c.run with
  | .parked (.wait _ gt _) => (s.l1Flush (coreOfKey k)).completeSlot k (fun c => c.setG gt 1) 4
  | .parked (.rwait _) => (s.l1Flush (coreOfKey k)).wakeSlot k
  | .parked (.barWait ..) | .parked .mxwait | .parked (.sleep _) => s.l1Flush (coreOfKey k)
  | .empty | .running | .stalled _ | .suspending _ | .held => s

/-- The tower of a monitor table. -/
def State.monitorTower (s : State) (cl : Nat) : Nat := if isSup cl then s.towerOf cl else s.towerOfCluster cl

/-- A wake write reaches a cluster (R190), whose tower has the signal write by then (10 R175). -/
def State.wakeLine (s : State) (cl line : Nat) : State :=
  let s := match homeOf (line * 128) with | some (.tower h) => s.reach (s.monitorTower cl) (s.vc h) | _ => s
  let s := { s with monitors := s.monitors.filter fun m => !(m.cluster == cl && m.line == line) }
  (s.keys.filter fun k => monitorOf (coreOfKey k) == cl && (s.ctx k).waitsOn line).foldl State.wakeOne s

/-- An arm that finds all 64 entries in use wakes every slot parked in the cluster, whatever it waits for, and frees every entry
(R190, 03 R56). The watches of the freed entries stay at their homes, and count there (DESIGN CHOICE, log 106). -/
def State.monitorOverflow (s : State) (cl : Nat) : State :=
  let s := { s with monitors := s.monitors.filter (·.cluster ≠ cl) }
  (s.keys.filter fun k => monitorOf (coreOfKey k) == cl && (s.ctx k).isParked).foldl State.wakeOne s

/-- Arms a watch of the issuing slot's cluster on a physical line (R190). A line the cluster pins is watched by its own atomic
unit. -/
def State.arm (s : State) (line : Nat) : State :=
  let cl := s.myMonitor
  let s := if s.monitors.any (fun m => m.cluster == cl && m.line == line) then
      { s with monitors := mapIf (fun m => m.cluster == cl && m.line == line) (fun m => { m with leaving := false }) s.monitors }
    else
      let s := if 64 ≤ (s.monitors.filter (·.cluster == cl)).length then s.monitorOverflow cl else s
      { s with monitors := s.monitors ++ [⟨cl, line, false⟩] }
  match s.pinOf line with
  | some _ => s
  | none => s.addWatch cl line

/-- Releases a watch of a cluster that no parked slot needs any more: the watch is withdrawn, and the entry stays in use until
the home acknowledges (R190). -/
def State.disarm (s : State) (cl line : Nat) : State :=
  if s.keys.any fun k => monitorOf (coreOfKey k) == cl && (s.ctx k).waitsOn line then s
  else
    ({ s with monitors := mapIf (fun m => m.cluster == cl && m.line == line) (fun m => { m with leaving := true }) s.monitors }).raise
      (.watchWithdrawal cl line)

/-- A parked slot stops waiting: its watch is released. -/
def State.unparkWatch (s : State) (k : SlotKey) : State :=
  match (s.ctx k).run with
  | .parked (.wait line ..) => (s.setCtx k { s.ctx k with run := .running }).disarm (monitorOf (coreOfKey k)) line
  | .parked (.rwait line) => (s.setCtx k { s.ctx k with run := .running }).disarm (monitorOf (coreOfKey k)) line
  | _ => s

/-! ## Read-modify-write -/

/-- A byte at its place of execution as the slot's own program order has it. -/
def State.homeView (s : State) (pa : Nat) : Byte := (pendingByte (s.slotReqs s.cur) pa).getD (s.placeByte pa)

/-- Check 6 of R88 on bytes read at their place. -/
def State.placeBad (s : State) (pa n : Nat) : Bool := (upFrom pa n).any fun b => s.viewPoison (s.slotReqs s.cur) s.myTower true b

/-- The host may complete an AtomicOp with Unsupported Request or Completer Abort, which is a permission trap (R179); whether it does
is free (log 37). -/
def State.hostAnswer (s : State) (o : Opnd) (pa : Nat) : Res Unit :=
  if homeOf pa = some .host then
    let refused := Config.hostRefuses s.free
    let s := { s with free := s.free + 1 }
    if refused then .done (s.permTrap o.src o.num o.va) else .ok () s
  else .ok () s

/-- The access of an AMO or CAS form after its checks: `f` answers, of the old bytes, the bytes to write or none; the value is the
old bytes. Translation and poison come before the release has any effect (R183, 05 R76). A form that does not write releases at its scope and
pins nothing (R182); what it has read at its place makes the core's L1 copy of the line old (10 R166). `host` says whether the PCI Express
port has the operation (R179). -/
def State.rmw (s : State) (o : Opnd) (n : Nat) (scope : BitVec 2) (sig host : Bool) (f : List Byte → Option (List Byte)) :
    Res (List Byte) :=
  if o.scratch then
    (s.readScratch o n).bind fun old s =>
      match f old with
      | some new => .ok old (s.writeScratch o.va new)
      | none => .ok old s
  else
    (s.charge (round32 n)).bind fun _ s =>
      (s.xlate o o.va .write).bind fun pa s =>
        if homeOf pa = some .host ∧ host = false then .done (s.permTrap o.src o.num o.va)
        else
          match s.readBar pa true with
          | some y => .done (s.stall y)
          | none =>
            if s.placeBad pa n then .done (s.poisonTrap o.va)
            else
              let old := (upFrom pa n).map s.homeView
              match f old with
              | some new =>
                (s.releaseAt scope pa).bind fun pl s =>
                  (s.hostAnswer o pa).bind fun _ s => .ok old (((s.releaseFirst pl).performNow o pl pa new sig).acquire scope)
              | none =>
                (s.release scope).bind fun _ s =>
                  (s.hostAnswer o pa).bind fun _ s => .ok old (((s.wakeHome pa).l1Drop s.myCore (pa / 128)).acquire scope)

/-! ## Ring blocks -/

/-- What waits on room in a ring is taken up again once a RADV.H has been performed (01 R331); it looks at its own ring, by whatever
address it names that. -/
def State.ringFreed (s : State) : State :=
  let s := (s.msgs.filter fun m => m.stage == .waiting).foldl (fun s m => s.raise (.ringReservationResume m.id)) s
  [0, 1, 2, 3].foldl (fun s t => if (s.tower t).heldPub = [] then s else s.raise (.freeRingHeldPublish (Fin.ofNat 4 t))) s

end Sys2Proof.Machine
end

