-- ==== Sys2Proof/Machine/Rings.lean ====
section
/-! DEFINITION. Ring instructions (06 R95-R98). -/

namespace Sys2Proof.Machine

/-- RBIND: binds a handle to the ring whose words 0 to 2 stand at aM's pointer (R95). -/
def opRbind (q a : BitVec 4) (s : State) : State :=
  (s.check a (s.ptr a) 24 true false 0).andThen fun o s =>
    (s.read o 24).andThen fun bs s =>
      let w0 := leNat (bs.take 8)
      let w1 := leNat ((bs.drop 8).take 8)
      let w2 := leNat (bs.drop 16)
      let ctrl := bitsNat w0 55 0
      let base := bitsNat w1 55 0
      let m := bitsNat w2 4 0
      let sz := bitsNat w2 12 8
      let role := bitsNat w2 17 16
      let h : QReg := ⟨BitVec.ofNat 56 ctrl, BitVec.ofNat 56 base, BitVec.ofNat 5 m, BitVec.ofNat 5 sz, BitVec.ofNat 2 role, 0, 0⟩
      if role = 0 then (s.setQ q h).advance 4
      else if ctrl % 32 ≠ 0 ∨ m = 0 ∨ 16 < m ∨ sz < 4 ∨ 13 < sz ∨ base % 2 ^ sz ≠ 0 then s.ringMisuse q
      else (s.setQ q h).advance 4
def execRbind (q : BitVec 4) (a : BitVec 4) (s : State) : Out := .next (opRbind q a s)

/-- Reads the counters of qN's control block at its home, as an acquire at device scope. -/
def State.readCounts (s : State) (q : BitVec 4) : Res (Nat × RingCounts) :=
  (s.readHome (s.ctrlOpnd q) 16 0b10).bind fun (pa, bs) s => .ok (pa, ringCounts bs) (s.acquire 0b10)

/-- RWAIT.H (`head`) and RWAIT.T: completes with the count observed, or parks on the control block's line (R96). With gn = 0 it completes after
its one read also where an overfull ring makes the count of free slots negative: the rule's closing sentence says so without a condition, while
its loop would wait (DEDUCED, log 89). tail-seen is then that negative number, cut to 32 bits. -/
def opRwait (head : Bool) (q : BitVec 4) (b : BitVec 6) (s : State) : State :=
  let h := s.me.getQ q
  let n := (s.getG b).toNat
  if (if head then h.consumer else h.producer) = false ∨ 2 ^ h.m.toNat < n then s.ringMisuse q
  else
    (s.readCounts q).andThen fun (pa, c) s =>
      let count : Int := if head then c.filled.toNat else c.free h.m.toNat
      if n = 0 ∨ n ≤ count then
        let s := (s.arm (pa / 128)).disarm s.myMonitor (pa / 128)
        let seen := BitVec.ofInt 32 (max (-(2 ^ 31)) count)
        (s.setQ q (if head then { h with headSeen := seen } else { h with tailSeen := seen })).advance 4
      else (s.arm (pa / 128)).park (.rwait (pa / 128))
def execRwaitH (q : BitVec 4) (b : BitVec 6) (s : State) : Out := .next (opRwait true q b s)
def execRwaitT (q : BitVec 4) (b : BitVec 6) (s : State) : Out := .next (opRwait false q b s)

/-- The control block's first 16 bytes with its counters replaced. -/
def putCounts (old : List Byte) (c : RingCounts) : List Byte :=
  leBytes 4 c.tail.toNat ++ leBytes 4 c.resv.toNat ++ leBytes 4 c.head.toNat ++ old.drop 12

/-- RADV.H returns slots: one atomic add at the home, a release at device scope with signal (R97). -/
def opRadvH (q : BitVec 4) (b : BitVec 6) (s : State) : State :=
  let h := s.me.getQ q
  let n := s.getG b
  if h.consumer = false ∨ h.headSeen.toNat < n.toNat then s.ringMisuse q
  else
    (s.rmw (s.ctrlOpnd q) 16 0b10 true true fun old =>
      let c := ringCounts old
      some (putCounts old { c with head := c.head + n.setWidth 32 })).andThen fun _ s =>
        ((s.setQ q { h with headSeen := h.headSeen - n.setWidth 32 }).ringFreed).advance 4
def execRadvH (q : BitVec 4) (b : BitVec 6) (s : State) : Out := .next (opRadvH q b s)

/-- RADV.T publishes filled slots, no more than the free ones seen, of which a negative count has none (03 R54); on a ring fed by token rows it faults
and leaves the block unchanged (R97). -/
def opRadvT (q : BitVec 4) (b : BitVec 6) (s : State) : State :=
  let h := s.me.getQ q
  let n := s.getG b
  if h.producer = false ∨ max 0 h.tailSeen.toInt < n.toNat then s.ringMisuse q
  else
    (s.rmw (s.ctrlOpnd q) 16 0b10 true true fun old =>
      let c := ringCounts old
      if c.resv = c.tail then some (putCounts old { c with tail := c.tail + n.setWidth 32, resv := c.tail + n.setWidth 32 })
      else none).andThen fun old s =>
        let c := ringCounts old
        if c.resv = c.tail then (s.setQ q { h with tailSeen := h.tailSeen - n.setWidth 32 }).advance 4 else s.ringMisuse q
def execRadvT (q : BitVec 4) (b : BitVec 6) (s : State) : Out := .next (opRadvT q b s)

/-- RFILL and RFREE read the counts; an unbound handle is ring misuse (R98). -/
def opRcount (filled : Bool) (d : BitVec 6) (q : BitVec 4) (s : State) : State :=
  let h := s.me.getQ q
  if h.role = 0 then s.ringMisuse q
  else
    (s.readCounts q).andThen fun (_, c) s =>
      s.retG d (BitVec.ofInt 64 (if filled then c.filled.toNat else c.free h.m.toNat)) 4
def execRfill (d : BitVec 6) (q : BitVec 4) (s : State) : Out := .next (opRcount true d q s)
def execRfree (d : BitVec 6) (q : BitVec 4) (s : State) : Out := .next (opRcount false d q s)

end Sys2Proof.Machine
end

