-- ==== Sys2Proof/Machine/Atomics.lean ====
section
/-! DEFINITION. Atomics, reductions, acquire loads, release stores, fences and waiting (11 R178-R189). -/

namespace Sys2Proof.Machine

/-- The operations of major 0x12 (R181), the first eight also those of major 0x13. -/
inductive AOp where
  | add | and | or | xor | min | max | minu | maxu | swap | cas | casGt | casVer | casPtag
  deriving DecidableEq, Repr

/-- Integer updates on `8n`-bit values (R181). -/
def AOp.value (op : AOp) (n old x : Nat) : Nat :=
  let sv (y : Nat) : Int := (BitVec.ofNat (8 * n) y).toInt
  match op with
  | .add => (old + x) % 2 ^ (8 * n)
  | .and => old &&& x
  | .or => old ||| x
  | .xor => old ^^^ x
  | .min => if sv old ≤ sv x then old else x
  | .max => if sv old ≥ sv x then old else x
  | .minu => if old ≤ x then old else x
  | .maxu => if old ≥ x then old else x
  | .swap | .cas | .casGt | .casVer => x
  | .casPtag => x / 2 ^ 16 * 2 ^ 16 + (old % 2 ^ 16 + 1) % 2 ^ 16

/-- Whether the operation writes (R181): `e` the expected value, `m` the mask of CAS.VER. -/
def AOp.writes (op : AOp) (n old x e m : Nat) : Bool :=
  let sv (y : Nat) : Int := (BitVec.ofNat (8 * n) y).toInt
  match op with
  | .cas | .casPtag => old == e
  | .casGt => decide (sv x > sv old)
  | .casVer => (old &&& m) == (e &&& m)
  | .add | .and | .or | .xor | .min | .max | .minu | .maxu | .swap => true

/-- The operations the PCI Express port performs (R179). -/
def AOp.onHost (op : AOp) : Bool :=
  match op with
  | .add | .swap | .cas => true
  | .and | .or | .xor | .min | .max | .minu | .maxu | .casGt | .casVer | .casPtag => false

/-- An instruction of major 0x12 (R180-R183). -/
def opAmo (op : AOp) (sc : BitVec 2) (sig w : Bool) (d : BitVec 6) (a : BitVec 4) (b : BitVec 6) (s : State) : State :=
  let n := if w then 4 else 8
  let cut (v : Word) : Nat := v.toNat % 2 ^ (8 * n)
  let x := cut (s.getG b)
  let e := cut (s.getG d)
  let m := cut (s.getG (b ^^^ 1))
  (s.check a (s.ptr a) n false true n).andThen fun o s =>
    (s.rmw o n sc sig op.onHost fun bs =>
      let old := leNat bs
      if op.writes n old x e m then some (leBytes n (op.value n old x)) else none).andThen fun bs s =>
        let s := s.retG d (sextN (8 * n) (leNat bs)) 4
        if o.scratch then s else s.untilApplied sc

/-! ## Reductions (R184-R186) -/

/-- The value a reduction leaves (R185); `op` is the code of R39. -/
def redValue (op : BitVec 4) (n old x : Nat) : Nat :=
  match op with
  | 0#4 => AOp.add.value n old x
  | 1#4 => AOp.and.value n old x
  | 2#4 => AOp.or.value n old x
  | 3#4 => AOp.xor.value n old x
  | 4#4 => AOp.min.value n old x
  | 5#4 => AOp.max.value n old x
  | 6#4 => AOp.minu.value n old x
  | 7#4 => AOp.maxu.value n old x
  | _ => Fmt.rne .fp32 ((f32 old).add (f32 x))

/-- A reduction on scratch, applied at once; a poisoned piece discards it with a record (R178, R186). -/
def State.redScratch (s : State) (o : Opnd) (n : Nat) (op : BitVec 4) (x : Nat) : State :=
  if (upFrom o.va n).any fun a => smem s.me.poison (a / 32) then s.report (.redPoison o.va)
  else s.writeScratch o.va (leBytes n (redValue op n (leNat (mgets s.me.mem o.va n)) x))

/-- A RED: the checks of a store, then a pending reduction, of which a slot holds at most 16 (R185, R186). -/
def opRed (op : BitVec 4) (sc : BitVec 2) (sig w : Bool) (a : BitVec 4) (b : BitVec 6) (s : State) : State :=
  let n := if w then 4 else 8
  let x := (s.getG b).toNat % 2 ^ (8 * n)
  (s.check a (s.ptr a) n false true n).andThen fun o s =>
    if o.scratch then (s.redScratch o n op x).advance 4
    else
      (s.xlate o o.va .write).andThen fun pa s =>
        if homeOf pa = some .host ∧ op ≠ 0 then s.permTrap o.src o.num o.va
        else
          match s.writeBar pa with
          | some y => s.stall y
          | none =>
            if 16 ≤ (s.reqs.filter fun r => r.key == s.cur && r.isRed && r.unperformed).length then s.stall .reductions
            else
              (s.leavePin sc pa).andThen fun _ s =>
                (s.hostAnswer o pa).andThen fun _ s =>
                  ((s.l1Drop s.myCore (pa / 128)).pushReq o.va o.cls pa (.red op (!w) (BitVec.ofNat 64 x)) sc sig false).advance 4

/-! ## Acquire loads, release stores, fences (R187, R188) -/

/-- Access size of LDA and STL. -/
def sizeOf2 (size : BitVec 2) : Nat := 2 ^ size.toNat

def opLda (sc size : BitVec 2) (d : BitVec 6) (a : BitVec 4) (s : State) : State :=
  let n := sizeOf2 size
  (s.check a (s.ptr a) n true false n).andThen fun o s =>
    if o.scratch then (s.readScratch o n).andThen fun bs s => s.retG d (BitVec.ofNat 64 (leNat bs)) 4
    else (s.readHome o n sc).andThen fun p s => (s.acquire sc).retG d (BitVec.ofNat 64 (leNat p.2)) 4
def execLda (sc size : BitVec 2) (d : BitVec 6) (a : BitVec 4) (s : State) : Out := .next (opLda sc size d a s)

/-- The write of STL after its checks: a release at the scope, performed at the place of R178. -/
def State.stlWrite (s : State) (o : Opnd) (scope : BitVec 2) (sig : Bool) (data : List Byte) : Res Unit :=
  if o.scratch then .ok () (s.writeScratch o.va data)
  else
    (s.charge (round32 data.length)).bind fun _ s =>
      (s.xlate o o.va .write).bind fun pa s =>
        (s.releaseAt scope pa).bind fun pl s => .ok () ((s.releaseFirst pl).performNow o pl pa data sig)

def opStl (sc : BitVec 2) (sig : Bool) (size : BitVec 2) (d : BitVec 6) (a : BitVec 4) (s : State) : State :=
  let n := sizeOf2 size
  (s.check a (s.ptr a) n false true n).andThen fun o s =>
    (s.stlWrite o sc sig (leBytes n (s.getG d).toNat)).andThen fun _ s =>
      let s := s.advance 4
      if o.scratch then s else s.untilApplied sc
def execStl (sc : BitVec 2) (sig : Bool) (size : BitVec 2) (d : BitVec 6) (a : BitVec 4) (s : State) : Out :=
  .next (opStl sc sig size d a s)

def execFence (sc : BitVec 2) (s : State) : Out := .next ((s.release sc).andThen fun _ s => (s.acquire sc).advance 4)

/-! ## WAIT (R189, R191) -/

/-- Deadline of a timeout in cycles, 0 meaning none. -/
def State.deadline (s : State) (gt : BitVec 6) : Option Nat :=
  let t := bitsNat (s.getG gt).toNat 31 0
  if t = 0 then none else some ((s.tower s.myTower).cycle + t)

def opWait (n : Nat) (gt : BitVec 6) (a : BitVec 4) (b : BitVec 6) (s : State) : State :=
  (s.check a (s.ptr a) n true false n).andThen fun o s =>
    if o.scratch then (s.readScratch o n).andThen fun _ s => s.permTrap 0 a.toNat o.va
    else
      (s.readHome o n 0b10).andThen fun (pa, bs) s =>
        let s := s.arm (pa / 128)
        if leNat bs ≠ (s.getG b).toNat % 2 ^ (8 * n) then (s.disarm s.myMonitor (pa / 128)).retG gt 0 4
        else s.park (.wait (pa / 128) gt (s.deadline gt))
def execWaitW (gt : BitVec 6) (a : BitVec 4) (b : BitVec 6) (s : State) : Out := .next (opWait 4 gt a b s)
def execWaitD (gt : BitVec 6) (a : BitVec 4) (b : BitVec 6) (s : State) : Out := .next (opWait 8 gt a b s)

/-! ## One meaning per instruction -/

def execAmoAdd (sc : BitVec 2) (sig w : Bool) (d : BitVec 6) (a : BitVec 4) (b : BitVec 6) (s : State) : Out :=
  .next (opAmo .add sc sig w d a b s)
def execAmoAnd (sc : BitVec 2) (sig w : Bool) (d : BitVec 6) (a : BitVec 4) (b : BitVec 6) (s : State) : Out :=
  .next (opAmo .and sc sig w d a b s)
def execAmoOr (sc : BitVec 2) (sig w : Bool) (d : BitVec 6) (a : BitVec 4) (b : BitVec 6) (s : State) : Out :=
  .next (opAmo .or sc sig w d a b s)
def execAmoXor (sc : BitVec 2) (sig w : Bool) (d : BitVec 6) (a : BitVec 4) (b : BitVec 6) (s : State) : Out :=
  .next (opAmo .xor sc sig w d a b s)
def execAmoMin (sc : BitVec 2) (sig w : Bool) (d : BitVec 6) (a : BitVec 4) (b : BitVec 6) (s : State) : Out :=
  .next (opAmo .min sc sig w d a b s)
def execAmoMax (sc : BitVec 2) (sig w : Bool) (d : BitVec 6) (a : BitVec 4) (b : BitVec 6) (s : State) : Out :=
  .next (opAmo .max sc sig w d a b s)
def execAmoMinu (sc : BitVec 2) (sig w : Bool) (d : BitVec 6) (a : BitVec 4) (b : BitVec 6) (s : State) : Out :=
  .next (opAmo .minu sc sig w d a b s)
def execAmoMaxu (sc : BitVec 2) (sig w : Bool) (d : BitVec 6) (a : BitVec 4) (b : BitVec 6) (s : State) : Out :=
  .next (opAmo .maxu sc sig w d a b s)
def execAmoSwap (sc : BitVec 2) (sig w : Bool) (d : BitVec 6) (a : BitVec 4) (b : BitVec 6) (s : State) : Out :=
  .next (opAmo .swap sc sig w d a b s)
def execCas (sc : BitVec 2) (sig w : Bool) (d : BitVec 6) (a : BitVec 4) (b : BitVec 6) (s : State) : Out :=
  .next (opAmo .cas sc sig w d a b s)
def execCasGt (sc : BitVec 2) (sig w : Bool) (d : BitVec 6) (a : BitVec 4) (b : BitVec 6) (s : State) : Out :=
  .next (opAmo .casGt sc sig w d a b s)
def execCasVer (sc : BitVec 2) (sig w : Bool) (d : BitVec 6) (a : BitVec 4) (b : BitVec 6) (s : State) : Out :=
  .next (opAmo .casVer sc sig w d a b s)
def execCasPtag (sc : BitVec 2) (sig w : Bool) (d : BitVec 6) (a : BitVec 4) (b : BitVec 6) (s : State) : Out :=
  .next (opAmo .casPtag sc sig w d a b s)
def execRedAdd (sc : BitVec 2) (sig w : Bool) (a : BitVec 4) (b : BitVec 6) (s : State) : Out :=
  .next (opRed 0 sc sig w a b s)
def execRedAnd (sc : BitVec 2) (sig w : Bool) (a : BitVec 4) (b : BitVec 6) (s : State) : Out :=
  .next (opRed 1 sc sig w a b s)
def execRedOr (sc : BitVec 2) (sig w : Bool) (a : BitVec 4) (b : BitVec 6) (s : State) : Out :=
  .next (opRed 2 sc sig w a b s)
def execRedXor (sc : BitVec 2) (sig w : Bool) (a : BitVec 4) (b : BitVec 6) (s : State) : Out :=
  .next (opRed 3 sc sig w a b s)
def execRedMin (sc : BitVec 2) (sig w : Bool) (a : BitVec 4) (b : BitVec 6) (s : State) : Out :=
  .next (opRed 4 sc sig w a b s)
def execRedMax (sc : BitVec 2) (sig w : Bool) (a : BitVec 4) (b : BitVec 6) (s : State) : Out :=
  .next (opRed 5 sc sig w a b s)
def execRedMinu (sc : BitVec 2) (sig w : Bool) (a : BitVec 4) (b : BitVec 6) (s : State) : Out :=
  .next (opRed 6 sc sig w a b s)
def execRedMaxu (sc : BitVec 2) (sig w : Bool) (a : BitVec 4) (b : BitVec 6) (s : State) : Out :=
  .next (opRed 7 sc sig w a b s)
def execRedFadd (sc : BitVec 2) (sig : Bool) (a : BitVec 4) (b : BitVec 6) (s : State) : Out := .next (opRed 8 sc sig true a b s)

end Sys2Proof.Machine
end

