-- ==== Sys2Proof/Machine/Vector.lean ====
section
/-! DEFINITION. Vector and mask instructions (08 R123-R139) over the number formats of 07. -/

namespace Sys2Proof.Machine

/-! ## Lanes under a mask (R124) -/

def active (m : KWord) (i : Nat) : Bool := m.getLsbD i

/-- Writes `f i` to each active lane `i` of a register, the others kept. -/
def laneWrite (fmt : Fmt) (m : KWord) (old : VWord) (f : Nat → Nat) : VWord :=
  laneJoin fmt ((List.range (lanesOf fmt)).map fun i => if active m i then f i else laneGet fmt old i)

/-- Every vector register a form uses must be owned (R125). -/
def State.vCheck (s : State) (l : List (BitVec 5)) (f : State → State) : State :=
  if l.all s.me.ownsV then f s else s.illegal

/-- A lane operation of two sources and the old destination. -/
def opLanes (fmt : Fmt) (f : Nat → Nat → Nat → Nat) (vd va vb : BitVec 5) (k : BitVec 3) (s : State) : State :=
  s.vCheck [vd, va, vb] fun s =>
    let a := s.me.getV va
    let b := s.me.getV vb
    let c := s.me.getV vd
    (s.setV vd (laneWrite fmt (s.me.getK k) c fun i => f (laneGet fmt a i) (laneGet fmt b i) (laneGet fmt c i))).advance 4

/-- A lane operation of one source. -/
def opLane1 (fmt : Fmt) (f : Nat → Nat) (vd va : BitVec 5) (k : BitVec 3) (s : State) : State :=
  s.vCheck [vd, va] fun s =>
    let a := s.me.getV va
    (s.setV vd (laneWrite fmt (s.me.getK k) (s.me.getV vd) fun i => f (laneGet fmt a i))).advance 4

/-! ## Lane arithmetic (R130) -/

def isNan (v : Val) : Bool := v == .nan

/-- a is below b, with −0 below +0. -/
def belowZ (a b : Val) : Bool :=
  match a.cmp b with
  | .lt => true
  | .gt => false
  | .eq => a.isNegZero && !b.isNegZero

def wrap (fmt : Fmt) (x : Int) : Nat := (x % 2 ^ fmt.width).toNat

/-- The integer value of a lane in an integer format. -/
def intVal (fmt : Fmt) (x : Nat) : Int :=
  match fmt with
  | .uint8 => x % 256
  | .fp32 | .bf16 | .fp16 | .e4m3 | .e5m2 | .mk8 | .int8 | .int32 => (BitVec.ofNat fmt.width x).toInt

/-- Two-operand lane arithmetic: exact, then rounded once by RNE; integers wrap. -/
def laneBin (fmt : Fmt) (fv : Val → Val → Val) (fi : Int → Int → Int) (a b : Nat) : Nat :=
  if fmt.isFloat then fmt.rne (fv (fmt.decode a) (fmt.decode b)) else wrap fmt (fi (intVal fmt a) (intVal fmt b))

def laneMin (fmt : Fmt) (a b : Nat) : Nat :=
  if fmt.isFloat then
    let x := fmt.decode a
    let y := fmt.decode b
    if isNan x || isNan y then fmt.canonNan else if belowZ x y then a else b
  else if intVal fmt a ≤ intVal fmt b then a else b

def laneMax (fmt : Fmt) (a b : Nat) : Nat :=
  if fmt.isFloat then
    let x := fmt.decode a
    let y := fmt.decode b
    if isNan x || isNan y then fmt.canonNan else if belowZ x y then b else a
  else if intVal fmt a ≤ intVal fmt b then b else a

/-- The sign bit of a lane. -/
def signBit (fmt : Fmt) : Nat := 2 ^ (fmt.width - 1)

def laneAbs (fmt : Fmt) (a : Nat) : Nat :=
  if fmt.isFloat then (if isNan (fmt.decode a) then fmt.canonNan else a % signBit fmt) else wrap fmt (intVal fmt a).natAbs

def laneNeg (fmt : Fmt) (a : Nat) : Nat :=
  if fmt.isFloat then (if isNan (fmt.decode a) then fmt.canonNan else a ^^^ signBit fmt) else wrap fmt (-(intVal fmt a))

def laneAdd (f : Fmt) (a b : Nat) : Nat := laneBin f Val.add (· + ·) a b
def laneSub (f : Fmt) (a b : Nat) : Nat := laneBin f (fun x y => x.add y.neg) (· - ·) a b
def laneMul (f : Fmt) (a b : Nat) : Nat := laneBin f Val.mul (· * ·) a b

def execVadd (f : Fmt) (vd va vb : BitVec 5) (k : BitVec 3) (s : State) : Out := .next (opLanes f (fun a b _ => laneAdd f a b) vd va vb k s)
def execVsub (f : Fmt) (vd va vb : BitVec 5) (k : BitVec 3) (s : State) : Out := .next (opLanes f (fun a b _ => laneSub f a b) vd va vb k s)
def execVmul (f : Fmt) (vd va vb : BitVec 5) (k : BitVec 3) (s : State) : Out := .next (opLanes f (fun a b _ => laneMul f a b) vd va vb k s)
def execVmin (f : Fmt) (vd va vb : BitVec 5) (k : BitVec 3) (s : State) : Out := .next (opLanes f (fun a b _ => laneMin f a b) vd va vb k s)
def execVmax (f : Fmt) (vd va vb : BitVec 5) (k : BitVec 3) (s : State) : Out := .next (opLanes f (fun a b _ => laneMax f a b) vd va vb k s)
def execVabs (f : Fmt) (vd va : BitVec 5) (k : BitVec 3) (s : State) : Out := .next (opLane1 f (laneAbs f) vd va k s)
def execVneg (f : Fmt) (vd va : BitVec 5) (k : BitVec 3) (s : State) : Out := .next (opLane1 f (laneNeg f) vd va k s)

/-! ## Fused multiply-add (R131) -/

/-- Round(±(a × b) ± c), formed exactly and rounded once. -/
def laneFma (f : Fmt) (negP negC : Bool) (a b c : Nat) : Nat :=
  let p := (f.decode a).mul (f.decode b)
  let v := f.decode c
  f.rne ((if negP then p.neg else p).add (if negC then v.neg else v))

def execVfma (f : Fmt) (vd va vb : BitVec 5) (k : BitVec 3) (s : State) : Out := .next (opLanes f (laneFma f false false) vd va vb k s)
def execVfms (f : Fmt) (vd va vb : BitVec 5) (k : BitVec 3) (s : State) : Out := .next (opLanes f (laneFma f false true) vd va vb k s)
def execVfnma (f : Fmt) (vd va vb : BitVec 5) (k : BitVec 3) (s : State) : Out := .next (opLanes f (laneFma f true false) vd va vb k s)

/-! ## Comparisons (R132) -/

/-- A mask from a test of each position. -/
def maskOf (f : Nat → Bool) : KWord := BitVec.ofNat 128 ((List.range 128).foldr (fun i acc => boolNat (f i) + 2 * acc) 0)

def opCmp (r : Rel) (f : Fmt) (kd : BitVec 3) (va vb : BitVec 5) (k : BitVec 3) (s : State) : State :=
  s.vCheck [va, vb] fun s =>
    let a := s.me.getV va
    let b := s.me.getV vb
    let m := s.me.getK k
    (s.setK kd (maskOf fun i => decide (i < lanesOf f) && active m i && r.holds (f.decode (laneGet f a i)) (f.decode (laneGet f b i)))).advance 4

def execVceq (f : Fmt) (kd : BitVec 3) (va vb : BitVec 5) (k : BitVec 3) (s : State) : Out := .next (opCmp .eq f kd va vb k s)
def execVcne (f : Fmt) (kd : BitVec 3) (va vb : BitVec 5) (k : BitVec 3) (s : State) : Out := .next (opCmp .ne f kd va vb k s)
def execVclt (f : Fmt) (kd : BitVec 3) (va vb : BitVec 5) (k : BitVec 3) (s : State) : Out := .next (opCmp .lt f kd va vb k s)
def execVcle (f : Fmt) (kd : BitVec 3) (va vb : BitVec 5) (k : BitVec 3) (s : State) : Out := .next (opCmp .le f kd va vb k s)
def execVcgt (f : Fmt) (kd : BitVec 3) (va vb : BitVec 5) (k : BitVec 3) (s : State) : Out := .next (opCmp .gt f kd va vb k s)
def execVcge (f : Fmt) (kd : BitVec 3) (va vb : BitVec 5) (k : BitVec 3) (s : State) : Out := .next (opCmp .ge f kd va vb k s)

/-! ## Reductions (R133; 07 R120) -/

/-- The active lanes of a register; an inactive position is absent. -/
def activeLanes (f : Fmt) (m : KWord) (v : VWord) : List (Option Nat) :=
  (List.range (lanesOf f)).map fun i => if active m i then some (laneGet f v i) else none

/-- An addition of VRSUM's tree, rounded to FP32. -/
def add32 (a b : Nat) : Nat := Fmt.rne .fp32 ((f32 a).add (f32 b))

def redSum (f : Fmt) (l : List (Option Nat)) : Nat :=
  if f.isFloat then
    match treeSum add32 7 (l.map (Option.map fun x => Fmt.rne .fp32 (f.decode x))) with
    | some r => f.rne (f32 r)
    | none => 0
  else ((l.filterMap id).map (· % 2 ^ f.width)).sum % 2 ^ f.width

/-- The value of a reduction with no active lane: −∞ or the least integer for the largest, +∞ or the greatest for the least. -/
def redEmpty (f : Fmt) (largest : Bool) : Nat :=
  if f.isFloat then f.rne (.inf largest) else if largest then 2 ^ (f.width - 1) else 2 ^ (f.width - 1) - 1

def redExt (f : Fmt) (largest : Bool) (l : List (Option Nat)) : Nat :=
  match l.filterMap id with
  | [] => redEmpty f largest
  | [x] => if f.isFloat && isNan (f.decode x) then f.canonNan else x
  | x :: t => t.foldl (if largest then laneMax f else laneMin f) x

def opReduce (g : List (Option Nat) → Nat) (f : Fmt) (vd va : BitVec 5) (k : BitVec 3) (s : State) : State :=
  s.vCheck [vd, va] fun s => (s.setV vd (laneJoin f [g (activeLanes f (s.me.getK k) (s.me.getV va))])).advance 4

def execVrsum (f : Fmt) (vd va : BitVec 5) (k : BitVec 3) (s : State) : Out := .next (opReduce (redSum f) f vd va k s)
def execVrmax (f : Fmt) (vd va : BitVec 5) (k : BitVec 3) (s : State) : Out := .next (opReduce (redExt f true) f vd va k s)
def execVrmin (f : Fmt) (vd va : BitVec 5) (k : BitVec 3) (s : State) : Out := .next (opReduce (redExt f false) f vd va k s)

/-! ## Moves of lanes (R134) -/

def opVperm (f : Fmt) (vd va vb : BitVec 5) (k : BitVec 3) (s : State) : State :=
  s.vCheck [vd, va, vb] fun s =>
    let a := s.me.getV va
    let b := s.me.getV vb
    (s.setV vd (laneWrite f (s.me.getK k) (s.me.getV vd) fun i => laneGet f a (laneGet f b i % lanesOf f))).advance 4
def execVperm (f : Fmt) (vd va vb : BitVec 5) (k : BitVec 3) (s : State) : Out := .next (opVperm f vd va vb k s)

/-- A move governed by a count from a general register g0 to g31: `src c i old` is the new lane `i`. -/
def opVmove (f : Fmt) (src : Nat → Nat → (Nat → Nat) → Nat → Nat) (vd va gb : BitVec 5) (k : BitVec 3) (s : State) : State :=
  s.vCheck [vd, va] fun s =>
    let a := s.me.getV va
    let old := s.me.getV vd
    let c := (s.getG (gb.setWidth 6)).toNat
    (s.setV vd (laneWrite f (s.me.getK k) old fun i => src c i (laneGet f a) (laneGet f old i))).advance 4

def execVbcast (f : Fmt) (vd va gb : BitVec 5) (k : BitVec 3) (s : State) : Out :=
  .next (opVmove f (fun c _ a _ => a (c % lanesOf f)) vd va gb k s)
def execVslideup (f : Fmt) (vd va gb : BitVec 5) (k : BitVec 3) (s : State) : Out :=
  .next (opVmove f (fun c i a old => if c ≤ i then a (i - c) else old) vd va gb k s)
def execVslidedn (f : Fmt) (vd va gb : BitVec 5) (k : BitVec 3) (s : State) : Out :=
  .next (opVmove f (fun c i a _ => if i + c < lanesOf f then a (i + c) else 0) vd va gb k s)

/-! ## Conversions (R136; 07 R113, R115, R118) -/

/-- Converts elements upward, each active inexact one under SR taking a draw first. -/
def cvtLanes (dst src : Fmt) (mode : Rnd) (m : KWord) (a old : VWord) : Nat → Nat → Word → List Nat × Word
  | 0, _, sr => ([], sr)
  | n + 1, i, sr =>
    if active m i then
      let draws := mode == .sr && !exactConv src dst
      let sr := if draws then srNext sr else sr
      let x := dst.round (if exactConv src dst then .rne else mode) (src.decode (laneGet src a i)) (if draws then srDraw sr else 0)
      let (t, sr) := cvtLanes dst src mode m a old n (i + 1) sr
      (x :: t, sr)
    else
      let (t, sr) := cvtLanes dst src mode m a old n (i + 1) sr
      (laneGet dst old i :: t, sr)

def opVcvt (dst src : Fmt) (mode : Rnd) (vd va : BitVec 5) (k : BitVec 3) (s : State) : State :=
  s.vCheck [vd, va] fun s =>
    let n := 1024 / max src.width dst.width
    let (l, sr) := cvtLanes dst src mode (s.me.getK k) (s.me.getV va) (s.me.getV vd) n 0 s.me.srstate
    ({ s with me := { s.me with srstate := sr } }.setV vd (laneJoin dst l)).advance 4
def execVcvt (dst src : Fmt) (rnd : Rnd) (vd va : BitVec 5) (k : BitVec 3) (s : State) : Out := .next (opVcvt dst src rnd vd va k s)

/-! ## Correctly rounded functions (R137) -/

def execVrcp (vd va : BitVec 5) (k : BitVec 3) (s : State) : Out := .next (opLane1 .fp32 (fun x => vrcp (f32 x)) vd va k s)
def execVrsq (vd va : BitVec 5) (k : BitVec 3) (s : State) : Out := .next (opLane1 .fp32 (fun x => vrsq (f32 x)) vd va k s)
def execVexp2 (vd va : BitVec 5) (k : BitVec 3) (s : State) : Out := .next (opLane1 .fp32 (fun x => vexp2 (f32 x)) vd va k s)
def execVlog2 (vd va : BitVec 5) (k : BitVec 3) (s : State) : Out := .next (opLane1 .fp32 (fun x => vlog2 (f32 x)) vd va k s)

/-! ## Loads and stores (R127-R129) -/

/-- The address of a vector memory form: the pointer plus 128 × the field. -/
def State.vea (s : State) (a : BitVec 4) (disp : BitVec 5) : Int := s.ptr a + 128 * disp.toNat

/-- Addresses of the bytes whose mask bit is clear. -/
def skipped (m : KWord) (va : Nat) : List Nat := ((List.range 128).filter fun i => !active m i).map (va + ·)

/-- The byte lanes of a register replaced where the mask has them. -/
def byteMerge (m : KWord) (old : VWord) (bs : List Byte) : VWord :=
  vOfBytes ((List.range 128).map fun i => if active m i then bs.getD i 0 else (vBytes old).getD i 0)

/-- A vector access is issued: from here on it completes or traps (R126). -/
def State.issued (s : State) : State := { s with me := { s.me with issued := true } }

def opVld (vd : BitVec 5) (a : BitVec 4) (disp : BitVec 5) (k : BitVec 3) (s : State) : State :=
  s.vCheck [vd] fun s =>
    (s.check a (s.vea a disp) 128 true false 128).andThen fun o s =>
      let m := s.me.getK k
      if m = 0 then s.advance 4
      else
        (s.issued.read { o with skip := skipped m o.va } 128).andThen fun bs s =>
          (s.setV vd (byteMerge m (s.me.getV vd) bs)).advance 4
def execVld (vd : BitVec 5) (a : BitVec 4) (disp : BitVec 5) (k : BitVec 3) (s : State) : Out := .next (opVld vd a disp k s)

/-- The bytes of a masked store: those of active byte lanes (R129). -/
def maskBytes (m : KWord) (bs : List Byte) : List (Option Byte) := (List.range 128).map fun i => if active m i then some (bs.getD i 0) else none

def opVst (vs : BitVec 5) (a : BitVec 4) (disp : BitVec 5) (k : BitVec 3) (s : State) : State :=
  s.vCheck [vs] fun s =>
    (s.check a (s.vea a disp) 128 false true 128).andThen fun o s =>
      let m := s.me.getK k
      if m = 0 then s.advance 4
      else
        (s.issued.writeReady o 128).andThen fun ps s => (s.writeMask o ps (maskBytes m (vBytes (s.me.getV vs))) false false).advance 4
def execVst (vd : BitVec 5) (a : BitVec 4) (disp : BitVec 5) (k : BitVec 3) (s : State) : Out := .next (opVst vd a disp k s)

/-- A lane of the format is active under the mask. -/
def anyActive (f : Fmt) (m : KWord) : Bool := (List.range (lanesOf f)).any (active m)

def opVldBc (f : Fmt) (vd : BitVec 5) (a : BitVec 4) (disp : BitVec 5) (k : BitVec 3) (s : State) : State :=
  s.vCheck [vd] fun s =>
    (s.check a (s.vea a disp) f.bytes true false f.bytes).andThen fun o s =>
      let m := s.me.getK k
      if !anyActive f m then s.advance 4
      else
        (s.issued.read o f.bytes).andThen fun bs s => (s.setV vd (laneWrite f m (s.me.getV vd) fun _ => leNat bs)).advance 4
def execVldBc (f : Fmt) (vd : BitVec 5) (a : BitVec 4) (disp : BitVec 5) (k : BitVec 3) (s : State) : Out := .next (opVldBc f vd a disp k s)

/-! ## Masks (R138) and single values (R135) -/

def opMask (f : KWord → KWord → KWord) (kd ka kb : BitVec 3) (s : State) : State := (s.setK kd (f (s.me.getK ka) (s.me.getK kb))).advance 4

def execKand (kd ka kb : BitVec 3) (s : State) : Out := .next (opMask (· &&& ·) kd ka kb s)
def execKor (kd ka kb : BitVec 3) (s : State) : Out := .next (opMask (· ||| ·) kd ka kb s)
def execKxor (kd ka kb : BitVec 3) (s : State) : Out := .next (opMask (· ^^^ ·) kd ka kb s)
def execKnot (kd ka : BitVec 3) (s : State) : Out := .next (opMask (fun a _ => ~~~a) kd ka ka s)
def execKmov (kd ka : BitVec 3) (s : State) : Out := .next (opMask (fun a _ => a) kd ka ka s)

/-- An index from a general register. -/
def State.laneIndex (s : State) (f : Fmt) (gb : BitVec 6) : Nat := (s.getG gb).toNat % lanesOf f

def execVmovg (f : Fmt) (vd : BitVec 5) (ga gb : BitVec 6) (s : State) : Out :=
  .next (s.vCheck [vd] fun s =>
    let i := s.laneIndex f gb
    (s.setV vd (laneJoin f ((laneList f (s.me.getV vd)).set i ((s.getG ga).toNat % 2 ^ f.width)))).advance 4)

def extLane (f : Fmt) (x : Nat) : Word :=
  match f with
  | .int8 | .int32 => sextN f.width x
  | .fp32 | .bf16 | .fp16 | .e4m3 | .e5m2 | .mk8 | .uint8 => BitVec.ofNat 64 x

def execVext (f : Fmt) (gd : BitVec 6) (va : BitVec 5) (gb : BitVec 6) (s : State) : Out :=
  .next (s.vCheck [va] fun s => s.retG gd (extLane f (laneGet f (s.me.getV va) (s.laneIndex f gb))) 4)

/-- A mask cut to the lanes of a format. -/
def cutMask (f : Fmt) (m : KWord) : KWord := BitVec.ofNat 128 (m.toNat % 2 ^ lanesOf f)

def execKsetg (f : Fmt) (kd : BitVec 3) (ga gb : BitVec 6) (s : State) : Out :=
  .next ((s.setK kd (cutMask f (s.getG gb ++ s.getG ga))).advance 4)

def execKgetg (f : Fmt) (gd : BitVec 6) (ka : BitVec 3) (gb : BitVec 6) (s : State) : Out :=
  let m := cutMask f (s.me.getK ka)
  .next (s.retG gd (if (s.getG gb).getLsbD 0 then m.extractLsb' 64 64 else m.extractLsb' 0 64) 4)

/-! ## Bitwise operations and shifts (R139) -/

/-- The shift count: the low bits of b, as many as name a bit of the lane. -/
def laneShift (f : Fmt) (b : Nat) : Nat := b % f.width

def execVand (f : Fmt) (vd va vb : BitVec 5) (k : BitVec 3) (s : State) : Out := .next (opLanes f (fun a b _ => a &&& b) vd va vb k s)
def execVor (f : Fmt) (vd va vb : BitVec 5) (k : BitVec 3) (s : State) : Out := .next (opLanes f (fun a b _ => a ||| b) vd va vb k s)
def execVxor (f : Fmt) (vd va vb : BitVec 5) (k : BitVec 3) (s : State) : Out := .next (opLanes f (fun a b _ => a ^^^ b) vd va vb k s)
def execVshl (f : Fmt) (vd va vb : BitVec 5) (k : BitVec 3) (s : State) : Out := .next (opLanes f (fun a b _ => a * 2 ^ laneShift f b % 2 ^ f.width) vd va vb k s)
def execVshr (f : Fmt) (vd va vb : BitVec 5) (k : BitVec 3) (s : State) : Out := .next (opLanes f (fun a b _ => a / 2 ^ laneShift f b) vd va vb k s)
def execVsra (f : Fmt) (vd va vb : BitVec 5) (k : BitVec 3) (s : State) : Out :=
  .next (opLanes f (fun a b _ => wrap f ((BitVec.ofNat f.width a).toInt / 2 ^ laneShift f b)) vd va vb k s)

end Sys2Proof.Machine
end

