-- ==== Sys2Proof/Machine/Prefix.lean ====
section
/-! DEFINITION. The extension prefix (02 R31), hints (R42) and words that are no instruction (R41). -/

namespace Sys2Proof.Machine

/-- A prefixed instruction: the word `i` with its immediate extended; anything a prefix does not take is illegal, with that
word as information (R31). -/
def opExtended (ext : BitVec 26) (next : IWord) (i : Instr) (s : State) : State :=
  match i with
  | .addi d a imm => opImm (fun a b => a + b) d a (imm40s ext imm) 8 s
  | .andi d a imm => opImm (fun a b => a &&& b) d a (imm40z ext imm) 8 s
  | .ori d a imm => opImm (fun a b => a ||| b) d a (imm40z ext imm) 8 s
  | .xori d a imm => opImm (fun a b => a ^^^ b) d a (imm40z ext imm) 8 s
  | .slti d a imm => opImm (fun a b => truth (signedLt a b)) d a (imm40s ext imm) 8 s
  | .sltiu d a imm => opImm (fun a b => truth (unsignedLt a b)) d a (imm40s ext imm) 8 s
  | .lui d imm => s.retG d (lui46 ext imm) 8
  | .aaddi ad aa imm => opMove ad aa (imm40s ext imm).toInt 8 s
  | .ldB d a x => opLoad 1 true d a (disp37 ext x 1) 8 s
  | .ldH d a x => opLoad 2 true d a (disp37 ext x 2) 8 s
  | .ldW d a x => opLoad 4 true d a (disp37 ext x 4) 8 s
  | .ldD d a x => opLoad 8 false d a (disp37 ext x 8) 8 s
  | .ldBu d a x => opLoad 1 false d a (disp37 ext x 1) 8 s
  | .ldHu d a x => opLoad 2 false d a (disp37 ext x 2) 8 s
  | .ldWu d a x => opLoad 4 false d a (disp37 ext x 4) 8 s
  | .stB sig d a x => opStore 1 sig d a (disp37 ext x 1) 8 s
  | .stH sig d a x => opStore 2 sig d a (disp37 ext x 2) 8 s
  | .stW sig d a x => opStore 4 sig d a (disp37 ext x 4) 8 s
  | .stD sig d a x => opStore 8 sig d a (disp37 ext x 8) 8 s
  | .bra off => opBranch true (off42 ext off) 8 s
  | .beqz a off => opBranch (Cond.eqz.holds (s.getG a)) (off42 ext off) 8 s
  | .bnez a off => opBranch (Cond.nez.holds (s.getG a)) (off42 ext off) 8 s
  | .bltz a off => opBranch (Cond.ltz.holds (s.getG a)) (off42 ext off) 8 s
  | .bgez a off => opBranch (Cond.gez.holds (s.getG a)) (off42 ext off) 8 s
  | .bgtz a off => opBranch (Cond.gtz.holds (s.getG a)) (off42 ext off) 8 s
  | .blez a off => opBranch (Cond.lez.holds (s.getG a)) (off42 ext off) 8 s
  | .bkany k off => opBranch (s.me.getK k != 0) (off42 ext off) 8 s
  | .bknone k off => opBranch (s.me.getK k == 0) (off42 ext off) 8 s
  | .call d imm => opCall d (off46 ext imm) 8 s
  | _ => s.trap 0x01 (next.setWidth 64)

/-- The majors whose immediates a prefix extends (R31). -/
def extendable (m : BitVec 6) : Bool :=
  [0x01#6, 0x02#6, 0x03#6, 0x04#6, 0x06#6, 0x07#6, 0x08#6, 0x0A#6, 0x10#6, 0x11#6, 0x18#6, 0x19#6].contains m

def opPrefix (ext : BitVec 26) (next : IWord) (s : State) : State :=
  let s := { s with me := { s.me with insn := next.setWidth 64 } }
  if extendable (fMajor next) then
    match decode next 0 with
    | .ok i => opExtended ext next i s
    | .error r => s.trap 0x01 r.info
  else s.trap 0x01 (next.setWidth 64)
def execExtensionPrefix (ext : BitVec 26) (next : BitVec 32) (s : State) : Out := .next (opPrefix ext next s)

/-- A hint changes nothing but the program counter (R42). -/
def execHint (_bits : BitVec 26) (s : State) : Out := .next (s.advance 4)

/-- A word that is no instruction raises the illegal-instruction trap, with the information of R41. -/
def execIllegalInstruction (info : BitVec 64) (s : State) : Out := .next (s.trap 0x01 info)

end Sys2Proof.Machine
end

