-- ==== Sys2Proof/Machine/Sched.lean ====
section
/-! DEFINITION. The Sorting Office's shared operations: a core's pool, placing a task, freeing a slot, keys, rule entries, reads
and signals of the Sorting Office (05 R67-R70, R80; 13 R202-R220; 14 R236, R237). -/

namespace Sys2Proof.Machine

/-! ## A core's pool (05 R67-R69) -/

/-- The slots of a core. -/
def slotKeys (core : Nat) : List SlotKey := [4 * core, 4 * core + 1, 4 * core + 2, 4 * core + 3]

def State.residents (s : State) (core : Nat) : List Ctx := ((slotKeys core).map s.ctx).filter Ctx.occupied

/-- What a task takes of a core's pool. -/
structure Shape where
  regs     : Nat
  scratch  : Nat
  barriers : Nat
  stage    : BitVec 3
  deriving DecidableEq, Repr

def KDesc.shape (d : KDesc) : Shape := ⟨d.regs, d.scratch, d.barriers, d.stage⟩
def RuleEntry.shape (e : RuleEntry) : Shape := ⟨e.regs, e.scratch, e.barriers, e.stage⟩

/-- Pages of the register region for a total of register bytes, counted in units of 128. -/
def regPages (units : Nat) : Nat := ceilDiv (units * 128) 4096

/-- The shapes of groups whose dispatch to the core is on its way. -/
def State.coming (s : State) (core : Nat) : List Shape :=
  (s.reserved.filter fun r => coreOfKey r.1 = core).filterMap fun r => (s.groups.find? (·.gid == r.2)).map (·.desc.shape)

/-- The barrier numbers of a core that no task holds. -/
def State.freeBars (s : State) (core : Nat) : List Nat :=
  (List.range 128).filter fun b => (tget Barrier.zero s.bars (core * 128 + b)).owner.isNone

/-- What a resident task keeps of the pool: its own shape or, where a RETIRE.S has passed its checks, room for its successor's as
well (R219); the barrier objects are those beyond the ones it has. -/
def Ctx.keeps (c : Ctx) : Shape :=
  match c.succ with
  | some d => ⟨max c.regs d.regs, max c.scratch d.scratch, d.barriers - c.bars.length, c.stage⟩
  | none => ⟨c.regs, c.scratch, 0, c.stage⟩

/-- A shape fits a core (R69), `without` being a resident task counted as gone. -/
def State.fits (s : State) (core : Nat) (sh : Shape) (without : Option SlotKey) : Bool :=
  let rs := ((slotKeys core).filter fun k => some k ≠ without && (s.ctx k).occupied).map fun k => (s.ctx k).keeps
  let all := sh :: rs ++ s.coming core
  let bars := (s.freeBars core).length + (match without with | some k => (s.ctx k).bars.length | none => 0)
  decide (regPages (all.map (·.regs)).sum + (all.map (·.scratch)).sum ≤ (s.core core).poolend) && decide ((all.map (·.barriers)).sum ≤ bars)

/-- Sets the pool's boundaries to what the resident tasks hold; lines of pages the L1 region loses are invalidated (R67). -/
def State.repool (s : State) (core : Nat) : State :=
  let rs := s.residents core
  let c := s.core core
  let e := regPages (rs.map (·.regs)).sum
  let sc := e + (rs.map (·.scratch)).sum
  s.setCore core { c with regend := e, scrend := sc, l1 := if sc ≤ c.scrend then c.l1 else [] }

/-- A free slot: no task, no dispatch on its way. -/
def State.slotFree (s : State) (k : SlotKey) : Bool := !(s.ctx k).occupied && s.reserved.all (·.1 ≠ k)

/-- The core serves a stage class (13 R215). -/
def Core.serves (c : Core) (stage : BitVec 3) : Bool := c.mask.getLsbD stage.toNat

/-- A core takes tasks: it is live and not stopped (13 R221). -/
def State.coreOpen (s : State) (core : Nat) : Bool := s.coreLive core && !(s.core core).stopped

/-- A core can take a task of a shape: open, serving its stage class, with room. -/
def State.coreFits (s : State) (core : Nat) (sh : Shape) : Bool := s.coreOpen core && (s.core core).serves sh.stage && s.fits core sh none

/-- The lowest free slot of a core for a shape (log 19). -/
def State.slotFor (s : State) (core : Nat) (sh : Shape) : Option SlotKey :=
  if s.coreFits core sh then (slotKeys core).find? s.slotFree else none

/-- The cores of a tower. -/
def State.coresOf (s : State) (t : Nat) : List Nat := (List.range s.liveCores).filter fun c => s.towerOf c = t

/-! ## The phase profile (13 R216) -/

def profKey (core phase : Nat) (busy : Bool) : Nat := (core * 16 + phase) * 2 + boolNat busy

/-- Counts the cycles since a core was last counted, busy or idle, into its tower's current phase. -/
def State.account (s : State) (core : Nat) : State :=
  let c := s.core core
  let t := s.tower (s.towerOf core)
  let k := profKey core t.phase.toNat (!(s.residents core).isEmpty)
  let v := min (2 ^ 32 - 1) ((tget 0#32 s.profile k).toNat + (t.cycle - c.profAt))
  ({ s with profile := tset s.profile k (BitVec.ofNat 32 v) }).setCore core { c with profAt := t.cycle }

/-! ## Placing a task (05 R70; 07 R116; 10 R168; 13 R204; 14 R236) -/

/-- A new task's context: every register zero, the seed of its generator, its shape. A task first placed on a supervisor core, which has no logical
core number (00 R2), is seeded with 1024 + its tower (DESIGN CHOICE, log 90). -/
def State.newCtx (s : State) (asid core tid : Nat) (gid : Option Nat) (sh : Shape) (pc : Addr) (bars keys : List Nat) : Ctx :=
  let seed := match s.space asid with | some sp => sp.seed | none => 0
  { Ctx.empty with
    run := .running, pc := pc, srstate := srSeed seed core, group := gid.isSome, stage := sh.stage, asid := asid,
    firstCore := core, tid := tid, gid := gid, homeTower := s.towerOf core, regs := sh.regs, scratch := sh.scratch,
    bars := bars, keys := keys }

/-- Gives barrier objects to a task, zeroed (19 R283). -/
def State.takeBars (s : State) (core tid : Nat) (bars : List Nat) : State :=
  { s with bars := bars.foldl (fun t b => tset t (core * 128 + b) { Barrier.zero with owner := some tid }) s.bars }

/-- Puts a context into a slot: the pool's boundaries move, and the placement is an acquire at device scope, which invalidates
the core's L1 lines and has what every home has performed (10 R165, R168, R169, R177). -/
def State.placeCtx (s : State) (k : SlotKey) (c : Ctx) : State :=
  let core := coreOfKey k
  let s := s.account core
  let s := (s.setCtx k c).repool core
  let s := ((s.acquireAll core).touch core).wakeCore core
  { s with reserved := s.reserved.filter (·.1 ≠ k) }

/-- Places a new task with the lowest free barrier numbers (R311), its scratch pages backed on its core's tower (09 R152). -/
def State.placeNew (s : State) (k : SlotKey) (asid tid : Nat) (gid : Option Nat) (sh : Shape) (pc : Addr) (keys : List Nat)
    (f : Ctx → Ctx) : State :=
  let core := coreOfKey k
  let bars := (s.freeBars core).take sh.barriers
  let frames := s.frameChoice (s.towerOf core) sh.scratch
  let s := (s.takeBars core tid bars).useFrames frames
  s.placeCtx k { f (s.newCtx asid core tid gid sh pc bars keys) with frames := frames }

/-! ## Accumulator tiles (16 R252) -/

def tileOf (core acc : Nat) : Nat := clusterOf core * 32 + indexOf core * 4 + acc

/-- Zeroes a tile, its poison with it. -/
def State.zeroTile (s : State) (t : Nat) : State :=
  { s with acc := s.acc.filter (fun p => p.1 / 32768 ≠ t), accPoison := s.accPoison.filter (fun p => p / 4096 ≠ t) }

/-- A tile loses its owner and is zeroed. -/
def State.dropTile (s : State) (t : Nat) : State :=
  let s := s.zeroTile t
  { s with tileOwner := tdel s.tileOwner t }

/-- The tile numbers a task owns, as acc0 to acc3. -/
def ownedAccs (c : Ctx) : List Nat := (List.range 4).filter fun i => c.tiles.getLsbD i

/-! ## Freeing a slot (05 R79, 13 R26) -/

/-- Requests leave the port unserved; their tenants have been busy in this period (09 R162). -/
def Core.dropWaits (c : Core) (gone : PortWait → Bool) : Core :=
  (c.portq.filter gone).foldl (fun c w => c.busyBy w.tenant) { c with portq := c.portq.filter fun w => !gone w }

/-- The suspended tasks whose cause has cleared are looked at again, wherever on the device something has become free for them (13 R220). -/
def State.lookAgain (s : State) : State := s.raises ((s.suspended.filter (·.cleared)).map fun x => Raised.taskRestore x.ctx.tid)

/-- Returns a slot and what its task held: pool, barrier objects and tiles (zeroed); with the core's last task gone, its matrix
queue's weight returns to 1 (16 R247). -/
def State.freeSlot (s : State) (k : SlotKey) : State :=
  let core := coreOfKey k
  let c := s.ctx k
  let s := s.account core
  let s := { s with bars := c.bars.foldl (fun t b => tdel t (core * 128 + b)) s.bars }
  let s := (ownedAccs c).foldl (fun s i => s.dropTile (tileOf core i)) s
  let s := (s.setCtx k Ctx.empty).repool core
  let s :=
    if (s.residents core).isEmpty && !isSup core then
      let cl := s.cluster (clusterOf core)
      s.setCluster (clusterOf core) { cl with weights := cl.weights.set (indexOf core % 8) 1 (Nat.mod_lt _ (by decide)) }
    else s
  ((s.setCore core ((s.core core).dropWaits (·.key == k))).raise (.slotFill k)).lookAgain

/-- A task is gone from its slot for good: its pins end (10 R173), its backing frames go back to the pool. -/
def State.endSlot (s : State) (k : SlotKey) : State := ((s.unpinTask (s.ctx k).tid).freeSlot k).dropFrames (s.ctx k).frames

/-- Nothing of an engine's command is left to write or to be applied. -/
def State.quietE (s : State) (c : ECmd) : Bool :=
  c.pieces.isEmpty && c.replays.isEmpty && decide (c.owed = 0) && !c.roomWait && s.held.all (·.cmd ≠ c.id)

/-- A task is gone: what its stopped commands have left behind goes with it. -/
def State.dropParts (s : State) (tid : Nat) : State :=
  { s with ecmds := s.ecmds.filter fun c => !(c.tid == tid && c.phase == .stopped && s.quietE c) }

/-! ## Keys (13 R206, R212-R214) -/

/-- The home tower of a key. -/
def keyHome (k : Nat) : Nat := bitsNat k 1 0 ^^^ bitsNat k 9 8

/-- A key word's value over the payload word (R206). -/
def keyValue (w : Word) (p : Word) : Nat :=
  let base := bitsNat w.toNat 47 0
  if w.getLsbD 63 then (base + bitsNat p.toNat (bitsNat w.toNat 62 57) (bitsNat w.toNat 56 51)) % 2 ^ 48 else base

/-- The recipe's keys over a payload word, without duplicates, ascending (R213). -/
def recipeKeys (n : Nat) (keys : Vector Word 4) (p : Word) : List Nat :=
  ((keys.toList.take n).map fun w => keyValue w p).foldl sins []

/-- Some word of the recipe reads the payload. -/
def recipePays (n : Nat) (keys : Vector Word 4) : Bool := (keys.toList.take n).any fun w => w.getLsbD 63

def State.unitOf (s : State) (id : Nat) : Option KeyUnit := s.units.find? (·.id == id)

/-- Starts a unit that is to acquire keys, the lowest first. -/
def State.startUnit (s : State) (t : Nat) (kind : UnitKind) (need : List Nat) : State :=
  let id := s.nextId
  let s := { s with nextId := id + 1, units := s.units ++ [⟨id, t, kind, need, []⟩] }
  match need with
  | k :: _ => s.raise (.keyRequest id k)
  | [] => s

/-- The unit that holds a task's keys: the group's, or the meet's own. -/
def State.holderOf (s : State) (c : Ctx) : Nat :=
  match c.gid with
  | some g => match s.groups.find? (·.gid == g) with | some gr => gr.unit | none => c.tid
  | none => c.tid

/-- The holder of a key, if any. -/
def State.keyHolder (s : State) (k : Nat) : Option Nat :=
  ((s.tower (keyHome k)).keys.find? (·.key == k)).map (·.holder)

/-- The keys a unit holds. -/
def State.unitKeys (s : State) (id : Nat) : List Nat :=
  [0, 1, 2, 3].flatMap fun t => ((s.tower t).keys.filter (·.holder == id)).map (·.key)

/-- Releases every key a unit holds. -/
def State.releaseKeys (s : State) (id : Nat) : State := s.raises ((s.unitKeys id).map (Raised.keyRelease id))

/-! ## The Sorting Office's own accesses (09 R146, R151) -/

/-- The Sorting Office of a tower as a fault record names it (R151): `origin` is 2 for its writes, zero for its reads. -/
def soWho (t asid : Nat) : Who := ⟨t, asid, 0xFFFF, 0xFF, 2⟩
def soReader (t asid : Nat) : Who := ⟨t, asid, 0xFFFF, 0xFF, 0⟩

/-- The page class of an address for the Sorting Office: from the region registers of the core that the task concerned last ran on
(R146), a meet's being the task whose link formed it. What concerns no task has class 0 (DESIGN CHOICE, log 78). -/
def State.soClass (s : State) (core : Option Nat) (va : Nat) : Bool := core.any fun c => s.classAt c va

/-- What an access of the device itself comes to: a value; a wait, for a line that a cluster pins (10 R173); or nothing, where its
translation, its right or a poisoned piece stands against it. -/
inductive Got (α : Type) where
  | ok (a : α) (s : State)
  | wait (s : State)
  | none (s : State)

def Got.bind (g : Got α) (f : α → State → Got β) : Got β :=
  match g with
  | .ok a s => f a s
  | .wait s => .wait s
  | .none s => .none s

/-- Reads bytes inside one line at their home, for the device, under a page class. -/
def State.devRead (s : State) (w : Who) (cls : Bool) (va n : Nat) : Got (List Byte) :=
  match s.translate w va cls .read with
  | .ok pa s =>
    if (s.pinOf (pa / 128)).isSome then .wait s
    else if (upFrom pa n).any s.placePoison then .none s
    else
      let s := s.reachHome w.tower pa
      .ok ((upFrom pa n).map s.placeByte) s
  | .fault s => .none s
  | .denied s => .none s

/-- Reads bytes inside one line for the Sorting Office of a tower. -/
def State.soRead (s : State) (t asid : Nat) (core : Option Nat) (va n : Nat) : Got (List Byte) :=
  s.devRead (soReader t asid) (s.soClass core va) va n

/-- A piece that a reader of the device has read, by the reader's number and the piece's name; and the reader without its pieces, once what it reads
them for has ended. -/
def State.partialOf (s : State) (reader key : Nat) : Option (List Byte) := (s.partials.find? fun p => p.1 == reader && p.2.1 == key).map (·.2.2)
def State.dropPartials (s : State) (reader : Nat) : State := { s with partials := s.partials.filter (·.1 ≠ reader) }

/-- One of the pieces left to read, which of them being free. -/
def State.pickPiece (s : State) (left : List (Nat × Nat)) : Nat × Nat :=
  left.getD (if left.length = 1 then 0 else Config.loadOrder s.free % left.length) (0, 0)

/-- A reader's `n`-th read, piece by piece: a step reads one, and answers `wait` while more are left, so that other agents move between two pieces (01
R16; log 47). `cls` gives the page class of an address. -/
def State.devReads (s : State) (w : Who) (cls : Nat → Bool) (reader n va len : Nat) : Got (List Byte) :=
  let ps := piecesOf va len
  let bytes := fun (s : State) => ps.flatMap fun p => (s.partialOf reader (gotKey n p.1)).getD []
  let left := ps.filter fun p => (s.partialOf reader (gotKey n p.1)).isNone
  if left = [] then .ok (bytes s) s
  else
    let p := s.pickPiece left
    (s.devRead w (cls p.1) p.1 p.2).bind fun bs s =>
      let s := { s with free := s.free + 1, partials := s.partials ++ [(reader, gotKey n p.1, bs)] }
      if left.length = 1 then .ok (bytes s) s else .wait s

/-- Adds 1 to a done word as RED.ADD.W.DEV.SIG would (14 R237), for a task that last ran on a core: a pinned line, a frame whose writes a
migration stalls (09 R157) and a fault hold it, the fault recorded as R279 states; a poisoned piece takes no add, and the record of R186 is made. -/
def State.addDone (s : State) (t asid : Nat) (core : Option Nat) (va : Nat) : State :=
  let hold (waits : Bool) (s : State) : State :=
    { s with nextId := s.nextId + 1, held := s.held ++ [⟨s.nextId, 1024 + t, 0, asid, va, 4, .doneWord core waits⟩] }
  match s.translate (soWho t asid) va (s.soClass core va) .engWrite with
  | .fault s => hold false s
  | .denied s => hold false (s.faultRecord t ⟨va, asid, 6, .engWrite, 0xFFFF, 0xFF, s.soClass core va, 2⟩)
  | .ok pa s =>
    if (s.pinOf (pa / 128)).isSome || s.frameStalled pa then hold true s
    else if s.placePoison pa then s.report (.redPoison pa)
    else (s.performFrom t pa (leBytes 4 (leNat ((upFrom pa 4).map s.placeByte) + 1)) true).signal pa

/-! ## Meets (13 R202-R205; 14 R231) -/

/-- The entry for an unordered pair of kinds. -/
def findRule (l : List RuleEntry) (k1 k2 : BitVec 12) : Option RuleEntry :=
  l.find? fun e => (e.kindLo == k1 && e.kindHi == k2) || (e.kindLo == k2 && e.kindHi == k1)

def State.published (s : State) (t asid : Nat) : List RuleEntry :=
  match s.space asid with
  | some sp => sp.published[t % 4]'(Nat.mod_lt _ (by decide))
  | none => []

/-- The kind of an agent, read by the Sorting Office; an agent that cannot be read counts as of kind 0 (log 41). -/
def State.kindOf (s : State) (t asid : Nat) (core : Option Nat) (va : Nat) : Got (BitVec 12) :=
  match s.soRead t asid core va 8 with
  | .ok bs s => .ok (BitVec.ofNat 12 (leNat bs)) s
  | .wait s => .wait s
  | .none s => .ok 0 s

/-- The kinds of a pair of agents. -/
def State.kindsOf (s : State) (t asid core x y : Nat) : Got (BitVec 12 × BitVec 12) :=
  (s.kindOf t asid (some core) x).bind fun a s => (s.kindOf t asid (some core) y).bind fun b s => .ok (a, b) s

/-- The two kinds in an information word: the lower agent's in [11:0], the other's in [27:16] (05 R77). -/
def kindsInfo (a b : BitVec 12) : Word := BitVec.ofNat 64 (a.toNat + b.toNat * 2 ^ 16)

/-- The records a pigeonhole holds: 4096 on chip and those of the ring that the Courier firmware supplies and enlarges (R203; how
much a ring gains is free, log 76). -/
def Tower.pigeonCap (x : Tower) (i : Nat) : Nat :=
  let n := x.spills[i % 9]'(Nat.mod_lt _ (by decide))
  4096 + n + ((upFrom 0 (n + 1)).map Config.spillRing).sum

/-- A ring at 7/8 of its capacity, or full, has the Courier firmware enlarge it (R203). -/
def Tower.spillDue (x : Tower) (i occ : Nat) : Bool := decide (4096 + ceilDiv (7 * (x.pigeonCap i - 4096)) 8 ≤ occ)

/-- The overflow record of a pigeonhole, once until the Courier firmware has answered it. -/
def State.overflow (s : State) (t i : Nat) : State :=
  let r := CourierRec.pigeonOverflow (t % 4) i
  if s.courier.contains r then s else (s.report r).raise (.heldEnqueueEntry (Fin.ofNat 4 t))

/-- Puts a record into the fault pigeonhole of a tower; one that finds its ring full is held, in order (R203). -/
def State.pigeonFault (s : State) (t : Nat) (f : PigeonFault) : State :=
  let x := s.tower t
  if x.heldFault = [] ∧ x.pfault.length < x.pigeonCap 8 then
    let s := s.setTower t { x with pfault := x.pfault ++ [f] }
    if x.spillDue 8 (x.pfault.length + 1) then s.overflow t 8 else s
  else (s.setTower t { x with heldFault := x.heldFault ++ [f] }).overflow t 8

/-- Places a meet in a slot: g8 and g9 name its agents (03 R49). -/
def State.placeMeet (s : State) (k : SlotKey) (unit : Nat) (m : MeetRec) (e : RuleEntry) (keys : List Nat) : State :=
  s.placeNew k m.asid unit none e.shape e.code keys fun c =>
    (c.setG 8 (BitVec.ofNat 64 m.x)).setG 9 (BitVec.ofNat 64 m.y)

/-! ## Groups (13 R211, R219; 14 R236) -/

def State.groupOf (s : State) (gid : Nat) : Option Group := s.groups.find? (·.gid == gid)
def State.setGroup (s : State) (g : Group) : State := { s with groups := mapIf (·.gid == g.gid) (fun _ => g) s.groups }

/-- g3 to g10 of a task of a group at offset (dx, dy) of its rectangle. -/
def launchRegs (args : Vector Word 6) (index dx dy : Nat) (c : Ctx) : Ctx :=
  let c := ((((((c.setG 3 args[0]).setG 4 args[1]).setG 5 args[2]).setG 6 args[3]).setG 7 args[4]).setG 8 args[5])
  (c.setG 9 (BitVec.ofNat 64 index)).setG 10 (BitVec.ofNat 64 (dx % 32 + dy % 32 * 2 ^ 8))

/-- A unit that is no more leaves every queue for a key (13 R214). -/
def State.leaveQueues (s : State) (id : Nat) : State :=
  [0, 1, 2, 3].foldl (fun s t =>
    let x := s.tower t
    s.setTower t { x with keys := x.keys.map (fun e => { e with waiters := e.waiters.filter (· ≠ id) }), keyWait := x.keyWait.filter (·.1 ≠ id) }) s

/-- Ends a group whose last task, which last ran on a core, is gone: its keys are released, the done word is signalled where it
retired. -/
def State.endGroup (s : State) (g : Group) (core : Nat) (signal : Bool) : State :=
  let s := (s.releaseKeys g.unit).leaveQueues g.unit
  let s := { s with groups := s.groups.filter (·.gid ≠ g.gid), units := s.units.filter (·.id ≠ g.unit) }
  if signal && decide (g.desc.done ≠ 0) then s.addDone g.tower g.asid (some core) g.desc.done.toNat else s

/-- A group that can have no successor any more: its held slots are scrubbed and freed, with a record (13 R219). -/
def State.breakGroup (s : State) (gid : Nat) : State :=
  match s.groupOf gid with
  | none => s
  | some g =>
    let heldKeys := s.keys.filter fun k => (s.ctx k).gid == some gid && decide ((s.ctx k).run = .held)
    let s := if heldKeys = [] then s else s.report (.successorAbandoned gid)
    let s := s.setGroup { g with broken := true, live := g.live - heldKeys.length, held := 0 }
    heldKeys.foldl State.endSlot s

/-- A task that last ran on a core leaves its group for good. -/
def State.leaveGroup (s : State) (gid core : Nat) (retired : Bool) : State :=
  match s.groupOf gid with
  | none => s
  | some g =>
    let s := (s.setGroup { g with live := g.live - 1 }).breakGroup gid
    match s.groupOf gid with
    | some g => if g.live = 0 then s.endGroup g core retired else s
    | none => s

/-- The end of a resident task (13 R26): its keys go back, its slot is freed. -/
def State.endTask (s : State) (k : SlotKey) (retired : Bool) : State :=
  let c := s.ctx k
  let s := (s.endSlot k).dropParts c.tid
  match c.gid with
  | some gid => s.leaveGroup gid (coreOfKey k) retired
  | none => s.releaseKeys c.tid

/-! ## Launches (13 R209, R210; 14 R233, R234) -/

def wordAt (bs : List Byte) (off : Nat) : Nat := leNat ((bs.drop off).take 8)

/-- A kernel descriptor from its 128 bytes. -/
def parseDesc (addr : Nat) (bs : List Byte) : KDesc :=
  let w0 := wordAt bs 0
  let w1 := wordAt bs 8
  let succ := wordAt bs 48
  let done := wordAt bs 56
  let inh := wordAt bs 64
  let scr := leNat ((bs.drop 72).take 16)
  let reservedClear : Bool :=
    bitsNat w0 63 56 == 0 && bitsNat w1 55 39 == 0 && bitsNat w1 31 26 == 0 && bitsNat w1 12 11 == 0 && bitsNat succ 63 56 == 0 &&
    bitsNat done 63 56 == 0 && bitsNat inh 63 13 == 0 && bitsNat scr 127 96 == 0 && leNat (bs.drop 104) == 0 &&
    [16, 24, 32, 40].all (fun o => bitsNat (wordAt bs o) 50 48 == 0)
  let aligned : Bool := w0 % 4 == 0 && succ % 64 == 0 && done % 4 == 0 && addr % 64 == 0
  let scopeOk : Bool := bitsNat w1 57 56 == 2 || bitsNat w1 57 56 == 3
  { addr := BitVec.ofNat 56 addr, code := BitVec.ofNat 56 w0, lw := bitsNat w1 63 61, lh := bitsNat w1 60 58,
    rscope := BitVec.ofNat 2 (bitsNat w1 57 56), stage := BitVec.ofNat 3 (bitsNat w1 38 36), prio := BitVec.ofNat 4 (bitsNat w1 35 32),
    regs := bitsNat w1 25 20, scratch := bitsNat w1 19 13, barriers := bitsNat w1 7 0, nkeys := bitsNat w1 10 8,
    keys := #v[BitVec.ofNat 64 (wordAt bs 16), BitVec.ofNat 64 (wordAt bs 24), BitVec.ofNat 64 (wordAt bs 32), BitVec.ofNat 64 (wordAt bs 40)],
    succ := BitVec.ofNat 56 succ, done := BitVec.ofNat 56 done, inhBanks := BitVec.ofNat 64 inh, inhScr := BitVec.ofNat 128 scr,
    inhBar := BitVec.ofNat 128 (leNat ((bs.drop 88).take 16)), bad := !(reservedClear && aligned && scopeOk) }

/-- A key word whose hi is below its lo, among the recipe's: of the words beyond its count none is looked at (R206; DESIGN CHOICE, log 111). -/
def badKeys (n : Nat) (keys : Vector Word 4) : Bool :=
  decide (4 < n) || (keys.toList.take n).any fun w => decide (bitsNat w.toNat 62 57 < bitsNat w.toNat 56 51)

/-- Reasons 0x03 to 0x06 for a shape (R210, R231). -/
def shapeReason (regs scratch barriers nkeys : Nat) (keys : Vector Word 4) : Option Nat :=
  if 32 < regs then some 0x03
  else if 96 < regPages regs + scratch then some 0x04
  else if 128 < barriers then some 0x05
  else if badKeys nkeys keys then some 0x06
  else none

def KDesc.shapeReason (d : KDesc) : Option Nat := Machine.shapeReason d.regs d.scratch d.barriers d.nkeys d.keys

/-- A launch block from its 80 bytes (R234). -/
structure LBlock where
  desc    : Nat
  count   : Nat
  ox      : Nat
  oy      : Nat
  fw      : Nat
  fh      : Nat
  cntaddr : Nat
  keyarg  : Word
  args    : Vector Word 6
  bad     : Bool

/-- A reserved field of a launch block is nonzero (14 R234). -/
def blockReserved (bs : List Byte) : Bool :=
  let w1 := wordAt bs 8
  !(bitsNat (wordAt bs 0) 63 56 == 0 && bitsNat w1 63 56 == 0 && bitsNat w1 31 29 == 0 && bitsNat w1 23 21 == 0 &&
    bitsNat w1 15 13 == 0 && bitsNat w1 7 5 == 0 && bitsNat (wordAt bs 16) 63 56 == 0)

def parseBlock (bs : List Byte) : LBlock :=
  let w0 := wordAt bs 0
  let w1 := wordAt bs 8
  let cnt := wordAt bs 16
  let arg (i : Nat) : Word := BitVec.ofNat 64 (wordAt bs (32 + 8 * i))
  ⟨bitsNat w0 55 0, bitsNat w1 55 32, bitsNat w1 4 0, bitsNat w1 12 8, bitsNat w1 20 16 + 1, bitsNat w1 28 24 + 1, bitsNat cnt 55 0,
    BitVec.ofNat 64 (wordAt bs 24), #v[arg 0, arg 1, arg 2, arg 3, arg 4, arg 5], blockReserved bs || cnt % 4 != 0⟩

/-- The cores of a rectangle, in row order. -/
def rectCores (x y w h : Nat) : List Nat := (List.range (w * h)).map fun i => (y + i / w) * 32 + (x + i % w)

/-- The position of a number in a launch's field: its rectangle's origin (R209). -/
def LBlock.position (b : LBlock) (w h n : Nat) : Nat × Nat := (b.ox + n % (b.fw / w) * w, b.oy + n / (b.fw / w) * h)

/-- The dispatcher's checks before the count, in the order of R235. -/
def State.launchReason (s : State) (b : LBlock) (d : KDesc) : Option Nat :=
  let w := 2 ^ d.lw
  let h := 2 ^ d.lh
  if b.bad || d.bad then some 0x0A
  else if 5 < d.lw ∨ 5 < d.lh then some 0x01
  else if 32 < b.ox + b.fw ∨ 2 * s.rows < b.oy + b.fh ∨ b.fw % w ≠ 0 ∨ b.fh % h ≠ 0 then some 0x02
  else d.shapeReason

/-- Some position of the field consists wholly of live cores (reason 0x07). -/
def State.somePosition (s : State) (b : LBlock) (d : KDesc) : Bool :=
  let w := 2 ^ d.lw
  let h := 2 ^ d.lh
  (List.range (b.fw / w * (b.fh / h))).any fun n =>
    let p := b.position w h n
    (rectCores p.1 p.2 w h).all s.coreLive

/-- An accepted launch goes to the dispatcher of its origin's tower. -/
def State.addLaunch (s : State) (asid : Nat) (b : LBlock) (d : KDesc) (count : Nat) : State :=
  if count = 0 then s
  else
    let id := s.nextId
    let l : Launch := ⟨id, asid, s.towerOf (b.oy * 32 + b.ox), d, b.ox, b.oy, b.fw, b.fh, count, 0, 0, b.keyarg, b.args, none⟩
    ({ s with nextId := id + 1, launches := s.launches ++ [l] }).raise (.groupPlacement id)

end Sys2Proof.Machine
end

