-- ==== Sys2Proof/Machine/Net.lean ====
section
/-! DEFINITION. Net instructions: agents, cells, links, the built-in rules and payload shares (13 R197-R201, R207, R208; 14
R222-R230). -/

namespace Sys2Proof.Machine

/-! ## References (13 R197, R198) -/

inductive Tag where
  | empty | agent | auxref | wire | busy | reserved
  deriving DecidableEq, Repr

def tagOf (w : Word) : Tag :=
  match w.extractLsb' 61 3 with
  | 0#3 => .empty
  | 1#3 => .agent
  | 2#3 => .auxref
  | 3#3 => .wire
  | 7#3 => .busy
  | _ => .reserved

def refAddr (w : Word) : Nat := bitsNat w.toNat 55 0
def agentRef (a : Nat) : Word := BitVec.ofNat 64 (0x2000000000000000 + a)
def wireRef (a : Nat) : Word := BitVec.ofNat 64 (0x6000000000000000 + a)
def busyRef : Word := 0xE000000000000000
/-- The slot a port reference names: the principal slot of an agent, or the slot itself. -/
def slotVa (w : Word) : Nat := if tagOf w = .agent then refAddr w + 8 else refAddr w
/-- A cell's second-arrival bit. -/
def isSecond (w : Word) : Bool := w.getLsbD 60

def headerKind (h : Word) : BitVec 12 := h.setWidth 12
def headerArity (h : Word) : Nat := bitsNat h.toNat 13 12
def headerPaykind (h : Word) : Nat := bitsNat h.toNat 19 16
/-- A header with its home tower set. -/
def setHome (h : Word) (t : Nat) : Word := BitVec.ofNat 64 (putBits (bitsNat h.toNat 21 0) 21 20 t)

/-! ## The slot's accesses to a net -/

def State.wireTrap (s : State) (va : Nat) : State := s.trap 0x0E (BitVec.ofNat 64 va)

def State.netOpnd (s : State) (va : Nat) : Opnd := ⟨false, va, s.classAt s.myCore va, 0xF, 0, []⟩

/-- Translation in a net region: a fault writes its record, and the Courier firmware is to end the tasks of the address space
(R223); the slot waits for that. -/
def State.netXlate (s : State) (va : Nat) (acc : Acc) : Res Nat :=
  match s.translate s.meWho va (s.classAt s.myCore va) acc with
  | .ok pa s => .ok pa s
  | .fault s => .done ((s.report (.netFault s.me.asid va)).hold .pool)
  | .denied s => .done (s.permTrap 0xF 0 va)

/-- The n-th access of a part of a net instruction is charged at the port once, whatever it waits for afterwards (09 R160). -/
def State.chargeNth (s : State) (n cost : Nat) : Res Unit :=
  if n < s.me.nth then .ok () s
  else (s.charge cost).bind fun _ s => .ok () { s with me := { s.me with nth := n + 1, paid := false } }

/-- A part of a net instruction is done; the accesses of the next are charged from the first. -/
def State.nextPart (s : State) : State := { s with me := { s.me with nth := 0, paid := false } }

/-- Reads a word of the net at its home, past L1, and so drops the core's older copy of its line (10 R166); the answer says whether its piece
is poisoned. -/
def State.netPeek (s : State) (va : Nat) : Res (Word × Bool) :=
  (s.netXlate va .read).bind fun pa s =>
    match s.readBar pa true with
    | some y => .done (s.stall y)
    | none =>
      .ok (BitVec.ofNat 64 (leNat ((upFrom pa 8).map s.homeView)), s.placeBad pa 8) ((s.wakeHome pa).l1Drop s.myCore (pa / 128))

/-- The same; `poison` says whether a poisoned piece traps. -/
def State.netGet (s : State) (va : Nat) (poison : Bool) : Res Word :=
  (s.netPeek va).bind fun (w, bad) s => if poison && bad then .done (s.poisonTrap va) else .ok w s

/-- The read as a part's n-th access. -/
def State.netRead (s : State) (n va : Nat) (poison : Bool) : Res Word := (s.chargeNth n 32).bind fun _ s => s.netGet va poison

/-- A write inside one line of the net, at its home or at the pin store of the slot's own cluster, where it stands until the pin ends (10 R163,
R168). -/
def State.netPut (s : State) (va : Nat) (data : List Byte) : Res Unit :=
  (s.netXlate va .write).bind fun pa s =>
    match s.writeBar pa with
    | some y => .done (s.stall y)
    | none =>
      let pinned := (s.pinOf (pa / 128)).isSome
      let s := (s.l1Store pa (data.map some)).place s.myTower pa data
      .ok () (if pinned then s.standsPinned va (s.classAt s.myCore va) pa else s)

/-- The write as a part's n-th access. -/
def State.netWrite (s : State) (n va : Nat) (data : List Byte) : Res Unit :=
  (s.chargeNth n (round32 data.length)).bind fun _ s => s.netPut va data

/-- A net instruction begins when the slot's earlier stores are performed, in a pin store too (log 20). -/
def State.netStart (s : State) : Res Unit := if s.drainedAt s.cur 0b00 then .ok () s else .done (s.stall .drain)

/-- The slot's earlier writes are performed at their homes, as a release at device scope asks (13 R200, R207). -/
def State.netReleased (s : State) : Res Unit := if s.drained s.cur then .ok () s else .done (s.stall .drain)

/-! ## Allocation (14 R223, R225) -/

/-- The number of an address's allocation bit. -/
def allocKey (asid va : Nat) : Nat := asid * 2 ^ 56 + va

def inRegion (l : List (Nat × Nat × Nat)) (va : Nat) : Bool := l.any fun r => decide (r.2.1 ≤ va ∧ va < r.2.1 + r.2.2)

/-- The region of a tower: base and bytes. -/
def regionOf (l : List (Nat × Nat × Nat)) (t : Nat) : Option (Nat × Nat) := (l.find? (·.1 == t)).map (·.2)

/-- Allocated items of a region of items of `size` bytes, by index, ascending. -/
def State.taken (s : State) (asid base bytes : Nat) (size : Nat) : List Nat :=
  (s.alloc.filter fun k => decide (allocKey asid base ≤ k ∧ k < allocKey asid (base + bytes))).map fun k => (k - allocKey asid base) / size

/-- The n-th index that a rising list does not take. -/
def nthFree (taken : List Nat) (n : Nat) : Nat := taken.foldl (fun c a => if a ≤ c then c + 1 else c) n

/-- Takes `n` free items of the issuing tower's region, which ones being open (R225; log 11); none when too few are free. One
eighth left free is reported. -/
def State.takeItems (s : State) (agents : Bool) (size : Nat) : Nat → Option (List Nat × State)
  | 0 => some ([], s)
  | n + 1 =>
    match s.space s.me.asid with
    | none => none
    | some sp =>
      match regionOf (if agents then sp.agents else sp.cells) s.myTower with
      | none => none
      | some (base, bytes) =>
        let tk := s.taken s.me.asid base bytes size
        let total := bytes / size
        if total ≤ tk.length then none
        else
          let free := total - tk.length
          let va := base + size * nthFree tk (Config.allocPick s.free % free)
          let s := { s with free := s.free + 1, alloc := sins s.alloc (allocKey s.me.asid va) }
          let s := { s with courier := s.courier ++ (if (free - 1) = total / 8 then [CourierRec.lowPool s.myTower s.me.asid] else []) }
          match s.takeItems agents size n with
          | none => none
          | some (l, s) => some (va :: l, s)

def State.takeAgents (s : State) (n : Nat) : Option (List Nat × State) := s.takeItems true 64 n
def State.takeCells (s : State) (n : Nat) : Option (List Nat × State) := s.takeItems false 8 n

def State.isAlloc (s : State) (va : Nat) : Bool := smem s.alloc (allocKey s.me.asid va)
def State.unalloc (s : State) (va : Nat) : State := { s with alloc := sdel s.alloc (allocKey s.me.asid va) }

/-! ## The checks of R222 -/

def State.spaceRegions (s : State) : List (Nat × Nat × Nat) × List (Nat × Nat × Nat) :=
  match s.space s.me.asid with
  | some sp => (sp.agents, sp.cells)
  | none => ([], [])

/-- An agent's address, its header read as a part's n-th access: the answer is the header. -/
def State.checkAgent (s : State) (n va : Nat) : Res Word :=
  if !inRegion s.spaceRegions.1 va then .done (s.permTrap 0xF 0 va)
  else if va % 64 ≠ 0 then .done (s.misaligned va)
  else if !s.isAlloc va then .done (s.wireTrap va)
  else s.netRead n va true

def State.checkCell (s : State) (n va : Nat) : Res Word :=
  if !inRegion s.spaceRegions.2 va then .done (s.permTrap 0xF 0 va)
  else if va % 8 ≠ 0 then .done (s.misaligned va)
  else if !s.isAlloc va then .done (s.wireTrap va)
  else s.netRead n va true

/-- An auxiliary slot's address: offset 16, 24 or 32 of an allocated record, below its arity; two accesses. Poison, of the header's piece or
the slot's, is the last check. -/
def State.checkSlot (s : State) (n va : Nat) : Res Word :=
  if !inRegion s.spaceRegions.1 va then .done (s.permTrap 0xF 0 va)
  else if va % 8 ≠ 0 then .done (s.misaligned va)
  else if !s.isAlloc (va - va % 64) ∨ va % 64 < 16 ∨ 32 < va % 64 then .done (s.wireTrap va)
  else
    ((s.chargeNth n 32).bind fun _ s => s.netPeek (va - va % 64)).bind fun (h, bad) s =>
      if headerArity h ≤ (va % 64 - 16) / 8 then .done (s.wireTrap va)
      else if bad then .done (s.poisonTrap va)
      else s.netRead (n + 1) va true

/-- Every address a reference names, by at most two accesses; a tag that names none is a wire protocol violation. -/
def State.checkRef (s : State) (n : Nat) (w : Word) : Res Word :=
  match tagOf w with
  | .agent => s.checkAgent n (refAddr w)
  | .auxref => s.checkSlot n (refAddr w)
  | .wire => s.checkCell n (refAddr w)
  | .empty | .busy | .reserved => .done (s.wireTrap (refAddr w))

/-! ## Links (13 R200; 14 R226) -/

/-- Sends the meet of two agents: the agent of lower kind, or of lower address, first (01 R23, 03 R49), once the slot's writes are performed at device
scope. -/
def State.enqueueMeet (s : State) (c : NetCont) (x y : Nat) : Res NetCont :=
  s.netReleased.bind fun _ s =>
  (s.netRead 0 x false).bind fun hx s =>
    (s.netRead 1 y false).bind fun hy s =>
      let kx := (headerKind hx).toNat
      let ky := (headerKind hy).toNat
      let lo := if kx < ky then true else if ky < kx then false else decide (x ≤ y)
      let p := if lo then (x, y) else (y, x)
      .ok { c with meet := none, meets := c.meets + 1, made := true, enq := c.enq ++ [p] }
        (s.raise (.meetEnqueue s.me.asid s.myCore p.1 p.2))

/-- A slot(y) that may not be joined: EMPTY, or of a reserved tag (R198). -/
def badSlot (w : Word) : Bool :=
  match tagOf w with
  | .empty | .reserved => true
  | .agent | .auxref | .wire | .busy => false

/-- Checks slot(x), which the link writes whatever else it holds (15 R243): EMPTY is a violation (R198), in a principal slot too (DESIGN CHOICE, log
109), whose information word is the slot's address (DESIGN CHOICE, log 73). -/
def State.checkX (s : State) (n : Nat) (x : Word) : Res Unit :=
  (s.netRead n (slotVa x) false).bind fun w s => if tagOf w = .empty then .done (s.wireTrap (slotVa x)) else .ok () s

/-- Checks the two slots of a join before anything is written. -/
def State.joinCheck (s : State) (n : Nat) (x y : Word) : Res Unit :=
  match tagOf y with
  | .agent | .auxref =>
    (s.checkX n x).bind fun _ s =>
      (s.netRead (n + 1) (slotVa y) false).bind fun w s => if badSlot w then .done (s.wireTrap (slotVa y)) else .ok () s
  | .empty | .wire | .busy | .reserved => .done (s.wireTrap (refAddr y))

def State.setCont (s : State) (c : NetCont) : State := { s with me := { s.me with cont := some c } }

/-- The join of x and y (R200), its writes to come: slot(x) first, then slot(y), which waits while it is BUSY. -/
def State.netJoin (s : State) (c : NetCont) (x y : Word) (cell : Option Nat) : Res NetCont :=
  let c := { c with join := none, cell := cell }
  if tagOf x = .auxref ∧ tagOf y = .auxref then
    match s.takeCells 1 with
    | some ([a], s) =>
      let w := leBytes 8 (wireRef a).toNat
      .ok { c with puts := [(a, leBytes 8 0), (slotVa x, w)], late := some (slotVa y, w) } s
    | _ => .done (s.stall .pool)
  else
    .ok { c with puts := [(slotVa x, leBytes 8 y.toNat)], late := some (slotVa y, leBytes 8 x.toNat),
                 meet := if tagOf x = .agent ∧ tagOf y = .agent then some (refAddr x, refAddr y) else none } s

/-- The write of slot(y): BUSY is waited for, and looked at again every 256 cycles (01 R331); the slot is checked again (R198). -/
def State.netLate (s : State) (c : NetCont) (va : Nat) (d : List Byte) : Res NetCont :=
  (s.netRead 0 va false).bind fun w s =>
    if tagOf w = .busy then
      let now := (s.tower s.myTower).cycle
      let since := c.since.getD now
      .done ((s.setCont { c with since := some since }).nextPart.hold (.busy va since now))
    else if badSlot w then .done (s.wireTrap va)
    else (s.netWrite 1 va d).bind fun _ s => .ok { c with late := none, since := none, told := false } s

/-- One link: a wire's cell is looked at and slot(x) is due to name it, or the direct join (R200). -/
def State.netLink (s : State) (c : NetCont) (x w : Word) : Res NetCont :=
  if tagOf w = .wire then
    let cell := refAddr w
    let c := { c with puts := [(slotVa x, leBytes 8 (wireRef cell).toNat)] }
    (s.checkCell 0 cell).bind fun old s =>
      if isSecond old then (s.checkX 1 x).bind fun _ s => .ok { c with trap := some cell } s
      else if tagOf old = .empty then (s.checkX 1 x).bind fun _ s => .ok { c with exch := some (x, cell) } s
      else (s.joinCheck 1 x old).bind fun _ s => .ok { c with exch := some (x, cell) } s
  else (s.joinCheck 1 x w).bind fun _ s => .ok { c with join := some (x, w, none) } s

/-- A cell that holds no reference a link can follow: of a reserved tag, which is a wire protocol violation (R198), or none that an arrival
leaves. -/
def badCell (w : Word) : Bool :=
  match tagOf w with
  | .empty | .agent | .auxref => false
  | .wire | .busy | .reserved => true

/-- The exchange at a cell, which one arrival finds EMPTY and the other HALF (R200), a release at device scope; what it holds is checked again, since
the write of slot(x) before it may have waited. A cell that holds WIRE, BUSY or a reserved tag is a violation, whose information word is the address
in what it holds (DESIGN CHOICE, log 110). -/
def State.netExchange (s : State) (c : NetCont) (x : Word) (cell : Nat) : Res NetCont :=
  s.netReleased.bind fun _ s =>
  (s.netRead 0 cell true).bind fun old s =>
    if isSecond old then .done (s.wireTrap cell)
    else if badCell old then .done (s.wireTrap (refAddr old))
    else
      (s.netPut cell (leBytes 8 (x &&& 0xE0FFFFFFFFFFFFFF ||| (if tagOf old = .empty then 0 else 0x1000000000000000)).toNat)).bind fun _ s =>
        let c := { c with exch := none, made := true }
        .ok (if tagOf old = .empty then { c with firstArr := true } else { c with join := some (x, old, some cell) }) s

/-! ## Payload blocks (14 R229) -/

/-- The physical 1 KiB chunks of a block that translate, for a task that last ran on a core. -/
def State.blockChunks (s : State) (asid core va pages : Nat) : List Nat :=
  match s.space asid with
  | none => []
  | some sp =>
    (List.range (4 * pages)).filterMap fun i =>
      let a := va + 1024 * i
      let cls := s.soClass (some core) a
      match s.walk sp.root a cls with
      | .ok leaf => some (leaf.frame + a % pageBytes cls)
      | .error _ => none

/-- The walks for a block's chunks are traffic at the homes of the entries (01 R14). -/
def State.wakeBlock (s : State) (asid core va pages : Nat) : State :=
  match s.space asid with
  | none => s
  | some sp => (List.range (4 * pages)).foldl (fun s i => s.walkWake sp.root (va + 1024 * i) (s.soClass (some core) (va + 1024 * i))) s

/-- The lines of a released block are invalidated without write-back: its bytes read as they did or as zero (log 12). -/
def State.dropBlock (s : State) (asid core va pages : Nat) : State :=
  let chunks := s.blockChunks asid core va pages
  let gone (pl : Nat) : Bool := chunks.any fun p => decide (p ≤ pl * 128 ∧ pl * 128 < p + 1024)
  let s := s.wakeBlock asid core va pages
  { s with
    l2 := s.l2.filter fun l => !gone l.pline,
    rdc := s.rdc.filter fun l => !gone l.pline,
    msc := s.msc.filter fun l => !gone l,
    mem := if Config.releasedZero s.free then chunks.foldl (fun m p => msets m p (List.replicate 1024 0)) s.mem else s.mem,
    free := s.free + 1 }

/-- Translates a write of the Sorting Office, for a task that last ran on a core; one that lacks W is recorded (19 R279), one to a pinned line or
a frame whose writes a migration stalls waits (09 R157, 10 R173). -/
def State.soXlate (s : State) (t asid core va : Nat) : Got Nat :=
  let cls := s.soClass (some core) va
  match s.translate (soWho t asid) va cls .engWrite with
  | .ok pa s =>
    if (s.pinOf (pa / 128)).isSome || s.frameStalled pa then .wait (s.raise (.freeRingHeldPublish (Fin.ofNat 4 t))) else .ok pa s
  | .fault s => .none s
  | .denied s => .none (s.faultRecord t ⟨va, asid, 6, .engWrite, 0xFFFF, 0xFF, cls, 2⟩)

/-- Releases a payload block whose count reached 0: dropped, and due to be published in order on the releasing tower (R229). -/
def State.releaseBlock (s : State) (count pages : Nat) : State :=
  let t := s.myTower
  let s := s.dropBlock s.me.asid s.myCore count pages
  let p : Publication := ⟨s.me.asid, s.myCore, BitVec.ofNat 64 count, BitVec.ofNat 64 pages, none, 0, false⟩
  (s.setTower t { s.tower t with heldPub := (s.tower t).heldPub ++ [p] }).raise (.freeRingHeldPublish (Fin.ofNat 4 t))

/-- The share step (R229): one read-modify-write at the count word's home, an acquire and a release; the answer is the new
count and the block's pages. -/
def State.shareStep (s : State) (count : Nat) (up : Bool) : Res (Nat × Nat) :=
  let o := s.netOpnd count
  if count % 8 ≠ 0 then .done (s.misaligned count)
  else
    (s.rmw o 8 0b10 false false fun old =>
      let w := leNat old
      let n := w % 2 ^ 32
      if up then (if n = 2 ^ 32 - 1 then none else some (leBytes 8 (w + 1)))
      else if n = 0 then none else some (leBytes 8 (w - 1))).bind fun old s =>
        let w := leNat old
        let n := w % 2 ^ 32
        if up then (if n = 2 ^ 32 - 1 then .done (s.wireTrap count) else .ok (n + 1, bitsNat w 47 32) s)
        else if n = 0 then .done (s.wireTrap count) else .ok (n - 1, bitsNat w 47 32) s

/-! ## Building the new agents (14 R227, R228) -/

/-- The 64 bytes of a record. -/
def recordBytes (header : Word) (ports : List Word) (payload count : Word) : List Byte :=
  leBytes 8 header.toNat ++ (ports.flatMap fun w => leBytes 8 w.toNat) ++ leBytes 8 payload.toNat ++ leBytes 8 count.toNat ++ leBytes 8 0

/-- Ports of a record whose agent has an arity: BUSY below it, EMPTY at and above. -/
def busyPorts (arity : Nat) : List Word := busyRef :: (List.range 3).map fun i => if i < arity then busyRef else 0

/-- The payload word of a copy: unique cleared, the snapshot set (R208). -/
def sharedPayload (w : Word) (count : Nat) : Word := BitVec.ofNat 64 (putBits (putBits w.toNat 56 56 0) 55 48 (min count 255))

/-- The wire ends that the links of an ADUP or AERA take, in order. -/
def NetBuild.ends (b : NetBuild) : List Word :=
  (if b.dup then [b.wd.getD 1 0, b.wd.getD 2 0] else []) ++ (b.wx.drop 1).take (headerArity b.hx)

/-- The records and cells that ADUP writes (R227): the copies X1 and X2, the agents D1 to Dn, the cells c1 to c2n. -/
def NetBuild.dupPuts (b : NetBuild) (t : Nat) (as cs : List Nat) : List (Nat × List Byte) :=
  let n := headerArity b.hx
  let pay := b.wx.getD 4 0
  let pay := if headerPaykind b.hx = 1 then sharedPayload pay b.count else pay
  let cell (i : Nat) : Word := wireRef (cs.getD i 0)
  let ports (k : Nat) : List Word := busyRef :: (List.range 3).map fun i => if i < n then cell (2 * i + k) else 0
  let copy (k : Nat) := (as.getD k 0, recordBytes (setHome b.hx t) (ports k) pay (b.wx.getD 5 0))
  let dups := (List.range n).map fun i => (as.getD (i + 2) 0, recordBytes (setHome 0x2001 t) [busyRef, cell (2 * i), cell (2 * i + 1), 0] 0 0)
  (cs.map fun c => (c, leBytes 8 0)) ++ [copy 0, copy 1] ++ dups

/-- The records that AERA writes (R228): the ERA agents E1 to En. -/
def eraPuts (t : Nat) (as : List Nat) : List (Nat × List Byte) := as.map fun a => (a, recordBytes (setHome 0 t) [busyRef, 0, 0, 0] 0 0)

/-- Allocates the new agents and cells, or stalls while too few are free (R225); their writes, the links and the freeing of the two
consumed agents are due then. -/
def State.netBuild (s : State) (c : NetCont) (b : NetBuild) : Res NetCont :=
  let n := headerArity b.hx
  match s.takeAgents (if b.dup then n + 2 else n) with
  | none => .done (s.stall .pool)
  | some (as, s1) =>
    match s1.takeCells (if b.dup then 2 * n else 0) with
    | none => .done (s.stall .pool)
    | some (cs, s) =>
      .ok { c with
        build := none, puts := if b.dup then b.dupPuts s.myTower as cs else eraPuts s.myTower as,
        links := (as.map agentRef).zip b.ends, frees := [b.d, b.x],
        release := if !b.dup && headerPaykind b.hx == 1 && b.count == 0 then some (bitsNat (b.wx.getD 5 0).toNat 55 0, b.pages) else none } s

/-! ## Carrying out the links of an instruction -/

/-- The value of gd: the one known from the start, LINK's outcome (R226), or the count of meets. -/
def NetCont.result (c : NetCont) : Word :=
  match c.value with
  | some v => v
  | none => BitVec.ofNat 64 (if c.isLink then (if c.firstArr then 0 else if c.meets = 0 then 1 else 2) else c.meets)

/-- A meet that the instruction has sent is not yet enqueued. -/
def State.meetsOwed (s : State) (c : NetCont) : Bool :=
  c.enq.any fun p => s.raised.any fun r => match r with | .meetEnqueue a _ x y => a == s.me.asid && p == (x, y) | _ => false

/-- The end of a net instruction: its meets are enqueued (R207), a block is released, gd is written. -/
def State.netFinish (s : State) (c : NetCont) : State :=
  if s.meetsOwed c then (s.setCont c).stall .drain
  else (match c.release with | some (a, p) => s.releaseBlock a p | none => s).retG c.gd c.result 4

/-- What comes after the writes that are due. -/
def State.netAfter (s : State) (c : NetCont) : Option (Res NetCont) :=
  match c.trap, c.exch, c.late, c.meet, c.cell, c.join with
  | some a, _, _, _, _, _ => some (.done (s.wireTrap a))
  | none, some (x, cell), _, _, _, _ => some (s.netExchange c x cell)
  | none, none, some (va, d), _, _, _ => some (s.netLate c va d)
  | none, none, none, some (x, y), _, _ => some (s.enqueueMeet c x y)
  | none, none, none, none, some a, _ => some (.ok { c with cell := none } (s.unalloc a))
  | none, none, none, none, none, some (x, y, cell) => some (s.netJoin c x y cell)
  | none, none, none, none, none, none =>
    match c.links, c.frees with
    | (x, w) :: t, _ => some (s.netLink { c with links := t } x w)
    | [], a :: t => some (.ok { c with puts := [(a, List.replicate 64 0)], cell := some a, frees := t } s)
    | [], [] => none

/-- A piece of a record is written: which of the two comes first is free, and other agents move between them (01 R16; log 79). -/
def State.netPiece (s : State) (c : NetCont) (va : Nat) (d : List Byte) (rest : List (Nat × List Byte)) : Res NetCont :=
  let halves := (piecesOf va d.length).map fun (a, n) => (a, (d.drop (a - va)).take n)
  match takeAny s.free halves with
  | none => .ok { c with puts := rest } s
  | some ((a, bs), left) =>
    (s.netWrite 0 a bs).bind fun _ s => .done (({ s with free := s.free + 1 }.setCont { c with puts := left ++ rest }).nextPart)

/-- Performs the next thing that is left; none when nothing is. -/
def State.netNext (s : State) (c : NetCont) : Option (Res NetCont) :=
  match c.build, c.puts with
  | some b, _ => some (s.netBuild c b)
  | none, (va, d) :: t =>
    some (if d.length ≤ 32 then (s.netWrite 0 va d).bind fun _ s => .ok { c with puts := t } s else s.netPiece c va d t)
  | none, [] => s.netAfter c

/-- Performs what is left, one thing after another; a wait keeps what is left for the retry. -/
def State.netRun : Nat → NetCont → State → State
  | 0, c, s => s.netFinish c
  | n + 1, c, s =>
    match (s.setCont c).netNext c with
    | some r => r.andThen fun c s => State.netRun n c s.nextPart
    | none => s.netFinish c

/-- Steps enough for all that is left: a link takes at most nine, a record to be freed three, and an ADUP of arity 3 builds 13 things and makes
five links. -/
def NetCont.fuel (c : NetCont) : Nat := c.puts.length + 9 * c.links.length + 3 * c.frees.length + 9 + (if c.build.isSome then 70 else 0)

/-- A net instruction with nothing left but its value. -/
def NetCont.of (gd : BitVec 6) (value : Option Word) (isLink : Bool) : NetCont :=
  ⟨none, [], none, none, none, none, none, none, none, [], [], none, 0, [], false, false, false, gd, value, isLink⟩

def State.netGo (s : State) (c : NetCont) : State := State.netRun c.fuel c s

/-- Goes on with what is left, or starts. -/
def State.netResume (s : State) (start : State → State) : State :=
  match s.me.cont with
  | some c => s.netGo c
  | none => start s

/-! ## The instructions -/

def opAgld (ad : BitVec 4) (ga : BitVec 6) (s : State) : State :=
  let a := refAddr (s.getG ga)
  (s.checkAgent 0 a).andThen fun h s =>
    if h.toNat / 2 ^ 22 ≠ 0 then s.wireTrap a
    else
      (s.setA ad ⟨BitVec.ofNat 56 a, BitVec.ofNat 56 a, BitVec.ofNat 56 (a + 64), s.classAt s.myCore a, false, false, true, true⟩).advance 4
def execAgld (ad : BitVec 4) (ga : BitVec 6) (s : State) : Out := .next (opAgld ad ga s)

/-- ANEW: the record is taken once, whatever its writes then wait for (R225). Its header's bits [15:14] are those of ga, as R225 copies them, though
13 R197 gives them 0 (DESIGN CHOICE, log 107). -/
def opAnew (gd ga : BitVec 6) (s : State) : State :=
  s.netResume fun s =>
    s.netStart.andThen fun _ s =>
      match s.takeAgents 1 with
      | some ([a], s) =>
        let h := setHome (BitVec.ofNat 64 (bitsNat (s.getG ga).toNat 19 0)) s.myTower
        s.netGo { NetCont.of gd (some (agentRef a)) false with puts := [(a, recordBytes h (busyPorts (headerArity h)) 0 0)] }
      | _ => s.stall .pool
def execAnew (gd ga : BitVec 6) (s : State) : Out := .next (opAnew gd ga s)

/-- WIRE: the cell is taken once, whatever its write then waits for. -/
def opWire (gd : BitVec 6) (s : State) : State :=
  s.netResume fun s =>
    s.netStart.andThen fun _ s =>
      match s.takeCells 1 with
      | some ([a], s) => s.netGo { NetCont.of gd (some (wireRef a)) false with puts := [(a, leBytes 8 0)] }
      | _ => s.stall .pool
def execWire (gd : BitVec 6) (s : State) : Out := .next (opWire gd s)

/-- AFREE: 64 zero bytes, then the allocation bit is cleared. -/
def opAfree (ga : BitVec 6) (s : State) : State :=
  s.netResume fun s =>
    let a := refAddr (s.getG ga)
    s.netStart.andThen fun _ s =>
      (s.checkAgent 0 a).andThen fun _ s => s.nextPart.netGo { NetCont.of 0 (some 0) false with frees := [a] }
def execAfree (ga : BitVec 6) (s : State) : Out := .next (opAfree ga s)

/-- A net instruction that links releases at device scope first (R200: each exchange is a release). -/
def State.linkStart (s : State) : Res Unit := s.netStart.bind fun _ s => s.release 0b10

def opLink (gd ga gb : BitVec 6) (s : State) : State :=
  s.netResume fun s =>
    let x := s.getG ga
    let w := s.getG gb
    if tagOf x ≠ .agent ∧ tagOf x ≠ .auxref then s.wireTrap (refAddr x)
    else if tagOf w ≠ .agent ∧ tagOf w ≠ .auxref ∧ tagOf w ≠ .wire then s.wireTrap (refAddr w)
    else
      s.linkStart.andThen fun _ s =>
        (s.checkRef 0 x).andThen fun _ s =>
          (s.checkRef 2 w).andThen fun _ s => s.nextPart.netGo { NetCont.of gd none true with links := [(x, w)] }
def execLink (gd ga gb : BitVec 6) (s : State) : Out := .next (opLink gd ga gb s)

/-- Words of a record inside one 32-byte piece, from an address on. -/
def State.pieceWords (s : State) (va count : Nat) : Res (List Byte) :=
  (upFrom 0 count).foldl (fun r i => r.bind fun l s => (s.netGet (va + 8 * i) true).bind fun w s => .ok (l ++ leBytes 8 w.toNat) s) (.ok [] s)

/-- The words of a piece of a record, if they have been read already. -/
def Ctx.gotOf (c : Ctx) (key : Nat) : Option (List Byte) := (c.got.find? (·.1 == key)).map (·.2)

/-- Reads one of the pieces of a record that are left, which of them is free. -/
def State.recordPiece (s : State) (left : List (Nat × Nat)) : Res Unit :=
  let p := left.getD (if left.length = 1 then 0 else Config.loadOrder s.free % left.length) (0, 0)
  (s.pieceWords p.1 (p.2 / 8)).bind fun bs s =>
    .ok () { s with free := s.free + 1, me := { s.me with got := s.me.got ++ [(gotKey 0 p.1, bs)] } }

/-- Reads `count` words of a record from an offset on, charged as a part's n-th access, piece by piece: other agents move between two pieces (01 R16;
log 80). -/
def State.recordWords (s : State) (n cost a off count : Nat) : Res (List Word) :=
  let ps := piecesOf (a + off) (8 * count)
  let words := fun (s : State) =>
    (List.range count).map fun i => BitVec.ofNat 64 (wordAt (ps.flatMap fun p => (s.me.gotOf (gotKey 0 p.1)).getD []) (8 * i))
  (s.chargeNth n cost).bind fun _ s =>
    let left := ps.filter fun p => (s.me.gotOf (gotKey 0 p.1)).isNone
    if left = [] then .ok (words s) s
    else (s.recordPiece left).bind fun _ s => if left.length = 1 then .ok (words s) s else .done s

/-- The checks ADUP and AERA share: both agents, the first one's kind, and that the two face each other. The answer is the
second agent's header and the words of the two records from offset 8. Both 32-byte pieces of both records are read, with their poison, before
the two are seen to face each other: the spec names no pieces (DESIGN CHOICE, log 93). -/
def State.facing (s : State) (d x : Nat) (kind : BitVec 12) : Res (Word × List Word × List Word) :=
  (s.checkAgent 0 d).bind fun hd s =>
    (s.checkAgent 1 x).bind fun hx s =>
      if d = x ∨ headerKind hd ≠ kind then .done (s.wireTrap d)
      else
        (s.recordWords 2 64 d 8 6).bind fun wd s =>
          (s.recordWords 3 64 x 8 6).bind fun wx s =>
            if wd.getD 0 0 ≠ agentRef x ∨ wx.getD 0 0 ≠ agentRef d then .done (s.wireTrap d) else .ok (hx, wd, wx) s

/-- Wire ends that no link can follow: EMPTY, a reserved tag and BUSY, for which the spec gives no outcome in a consumed agent's slot;
they raise 0x0E before anything is written (DESIGN CHOICE, log 72). -/
def badEnds (l : List Word) : Option Word :=
  l.find? fun w => match tagOf w with | .agent | .auxref | .wire => false | .empty | .busy | .reserved => true

/-- The share step of an instruction for a payload of kind 1, at the record's count address. -/
def State.shareFor (s : State) (h : Word) (words : List Word) (up : Bool) : Res (Nat × Nat) :=
  if headerPaykind h = 1 then s.shareStep (bitsNat (words.getD 5 0).toNat 55 0) up else .ok (1, 0) s

/-- ADUP and AERA after their checks (R227, R228): the share step, which may fault with nothing written yet; then the new agents are
allocated, and linked. -/
def State.commute (s : State) (dup : Bool) (gd : BitVec 6) (d x : Nat) (hx : Word) (wd wx : List Word) : State :=
  match badEnds (NetBuild.ends ⟨dup, d, x, hx, wd, wx, 0, 0⟩) with
  | some w => s.wireTrap (refAddr w)
  | none =>
    (s.shareFor hx wx dup).andThen fun (count, pages) s =>
      s.nextPart.netGo { NetCont.of gd none false with build := some ⟨dup, d, x, hx, wd, wx, count, pages⟩ }

def opAdup (gd ga gb : BitVec 6) (s : State) : State :=
  s.netResume fun s =>
    let d := refAddr (s.getG ga)
    let x := refAddr (s.getG gb)
    s.linkStart.andThen fun _ s =>
      (s.facing d x 1).andThen fun (hx, wd, wx) s => s.commute true gd d x hx wd wx
def execAdup (gd ga gb : BitVec 6) (s : State) : Out := .next (opAdup gd ga gb s)

def opAera (gd ga gb : BitVec 6) (s : State) : State :=
  s.netResume fun s =>
    let e := refAddr (s.getG ga)
    let x := refAddr (s.getG gb)
    s.linkStart.andThen fun _ s =>
      (s.facing e x 0).andThen fun (hx, wd, wx) s => s.commute false gd e x hx wd wx
def execAera (gd ga gb : BitVec 6) (s : State) : Out := .next (opAera gd ga gb s)

/-- PAYSHARE and PAYDROP (R230): the share step, then the agent's own record; at 0 the block is released. -/
def opPay (up : Bool) (gd ga : BitVec 6) (s : State) : State :=
  s.netResume fun s =>
    let a := refAddr (s.getG ga)
    s.netStart.andThen fun _ s =>
      (s.checkAgent 0 a).andThen fun h s =>
        if headerPaykind h ≠ 1 then s.retG gd 0 4
        else
          (s.recordWords 1 32 a 40 2).andThen fun ws s =>
            let count := bitsNat (ws.getD 1 0).toNat 55 0
            (s.shareStep count up).andThen fun (n, pages) s =>
              let puts :=
                if up then [(a + 40, leBytes 8 (sharedPayload (ws.getD 0 0) n).toNat)]
                else [(a, leBytes 8 (putBits h.toNat 19 16 0)), (a + 40, List.replicate 16 0)]
              s.nextPart.netGo { NetCont.of gd (some (BitVec.ofNat 64 n)) false with
                puts := puts, release := if up || n ≠ 0 then none else some (count, pages) }
def execPayshare (gd ga : BitVec 6) (s : State) : Out := .next (opPay true gd ga s)
def execPaydrop (gd ga : BitVec 6) (s : State) : Out := .next (opPay false gd ga s)

end Sys2Proof.Machine
end

