-- ==== Sys2Proof/Machine/Office.lean ====
section
/-! DEFINITION. The rule table, launches, the end of a task, keys, the governor and the profile, as instructions (14 R231-R241). -/

namespace Sys2Proof.Machine

/-! ## Rights (R223, R330) -/

def State.hasRule (s : State) : Bool := match s.space s.me.asid with | some sp => sp.ruleRight | none => false
def State.hasGov (s : State) : Bool := match s.space s.me.asid with | some sp => sp.govRight | none => false

def State.launchFault (s : State) (reason : Nat) : State := s.trap 0x09 (BitVec.ofNat 64 reason)

/-! ## The rule table (R231, R232) -/

/-- A rule entry from its 64 bytes, with its valid bit. -/
def parseRule (bs : List Byte) : RuleEntry × Bool :=
  let w0 := wordAt bs 0
  let w1 := wordAt bs 8
  (⟨BitVec.ofNat 56 w0, BitVec.ofNat 12 (bitsNat w1 63 52), BitVec.ofNat 12 (bitsNat w1 51 40), BitVec.ofNat 3 (bitsNat w1 38 36),
    BitVec.ofNat 4 (bitsNat w1 35 32), bitsNat w1 25 20, bitsNat w1 19 13, bitsNat w1 7 0, bitsNat w1 10 8,
    #v[BitVec.ofNat 64 (wordAt bs 16), BitVec.ofNat 64 (wordAt bs 24), BitVec.ofNat 64 (wordAt bs 32), BitVec.ofNat 64 (wordAt bs 40)]⟩,
    decide (bitsNat w1 39 39 = 1))

/-- The reason an image is refused, in the order of R231's table. -/
def ruleReason (bs : List Byte) : Option Nat :=
  let w0 := wordAt bs 0
  let w1 := wordAt bs 8
  let e := (parseRule bs).1
  if bitsNat w1 63 52 < bitsNat w1 51 40 ∨ w0 % 4 ≠ 0 ∨ bitsNat w0 63 56 ≠ 0 ∨ bitsNat w1 31 26 ≠ 0 ∨ bitsNat w1 12 11 ≠ 0 ∨
      leNat (bs.drop 48) ≠ 0 ∨ [16, 24, 32, 40].any (fun o => bitsNat (wordAt bs o) 50 48 ≠ 0) then some 0x0A
  else shapeReason e.regs e.scratch e.barriers e.nkeys e.keys

/-- The table with a pair's entry replaced, or removed. -/
def putRule (l : List RuleEntry) (e : RuleEntry) (valid : Bool) : List RuleEntry :=
  let rest := l.filter fun x => !(x.kindLo == e.kindLo && x.kindHi == e.kindHi)
  if valid then rest ++ [e] else rest

/-- An entry reaches the shadow; one more pair than the table's storage has room for stalls the slot, with a record (R231). Whether it
has room is free (log 77). -/
def State.storeRule (s : State) (sp : Space) (e : RuleEntry) (valid : Bool) : State :=
  let full := valid && (sp.shadow.all fun x => !(x.kindLo == e.kindLo && x.kindHi == e.kindHi)) && Config.ruleFull s.free
  let s := { s with free := s.free + 1 }
  if full then (if s.courier.contains (.ruleTableFull s.me.asid) then s else s.report (.ruleTableFull s.me.asid)).stall .pool
  else (s.setSpace s.me.asid { sp with shadow := putRule sp.shadow e valid }).advance 4

def opRuleset (a : BitVec 4) (s : State) : State :=
  if !s.hasRule then s.permTrap 0xA 0 0
  else
    (s.check a (s.ptr a) 64 true false 64).andThen fun o s =>
      (s.read o 64).andThen fun bs s =>
        match ruleReason bs with
        | some r => s.launchFault r
        | none =>
          match s.space s.me.asid with
          | some sp =>
            let (e, valid) := parseRule bs
            s.storeRule sp e valid
          | none => s.permTrap 0xA 0 0
def execRuleset (a : BitVec 4) (s : State) : Out := .next (opRuleset a s)

/-- One of the four towers answers the GOVSET or RULEPUB of a slot; the last answer completes it. -/
def State.towerAnswer (s : State) (k : SlotKey) : State :=
  match (s.ctx k).run with
  | .stalled (.towers n) =>
    if n ≤ 1 then s.completeSlot k id 4 else s.setCtx k { s.ctx k with run := .stalled (.towers (n - 1)) }
  | _ => s

/-- The setting itself, on one tower. -/
def State.setGovernor (s : State) (t : Nat) (ga gb : Word) : State :=
  let x := s.tower t
  if bitsNat ga.toNat 9 8 = 0 then
    let c := bitsNat ga.toNat 2 0
    let high : BitVec 16 := gb.extractLsb' 0 16
    let low : BitVec 16 := gb.extractLsb' 16 16
    if high < low then s
    else s.setTower t { x with high := x.high.set (c % 8) high (Nat.mod_lt _ (by decide)), low := x.low.set (c % 8) low (Nat.mod_lt _ (by decide)) }
  else if bitsNat ga.toNat 9 8 = 1 then
    let s := (s.coresOf t).foldl State.account s
    s.setTower t { s.tower t with phase := gb.setWidth 4 }
  else s

/-- The tower's published generation becomes the shadow as it stood at the first flip of the same RULEPUB, `n` of which are still to come
(R232). -/
def State.flipRules (s : State) (t : Fin 4) (asid key n : Nat) : State :=
  match s.space asid with
  | some sp =>
    let gen := (tfind sp.pending key).getD sp.shadow
    s.setSpace asid { sp with
      published := sp.published.set t.val gen t.isLt,
      pending := if n ≤ 1 then tdel sp.pending key else tset sp.pending key gen }
  | none => s

/-- A step that a GOVSET or RULEPUB of a slot has sent to a tower. -/
def Raised.towersOf (k : SlotKey) (r : Raised) : Bool :=
  match r with
  | .rulePublicationFlip _ _ key | .governorSetting _ key _ _ => key == k
  | _ => false

/-- A slot halts with its GOVSET or RULEPUB on its way to the towers: what it has sent reaches them, and it completes. -/
def State.settleTowers (s : State) (k : SlotKey) : State :=
  let mine := s.raised.filter (·.towersOf k)
  mine.foldl (fun s r =>
    match (s.ctx k).run, r with
    | .stalled (.towers n), .rulePublicationFlip t asid _ => (s.flipRules t asid k n).towerAnswer k
    | .stalled (.towers _), .governorSetting t _ ga gb => (s.setGovernor t.val ga gb).towerAnswer k
    | _, _ => s) { s with raised := s.raised.filter (!·.towersOf k) }

/-- RULEPUB: the shadow generation, as it stands at the first flip, goes to each tower's Sorting Office, and the slot waits until all
four have flipped. -/
def opRulepub (s : State) : State :=
  if !s.hasRule then s.permTrap 0xA 0 0
  else (s.hold (.towers 4)).raises ([0, 1, 2, 3].map fun t => Raised.rulePublicationFlip t s.me.asid s.cur)
def execRulepub (s : State) : Out := .next (opRulepub s)

/-! ## Launches (R235) -/

/-- What the Sorting Office reads for the slot: source code 0xB (R330). -/
def State.officeOpnd (s : State) (va : Nat) : Opnd := ⟨false, va, s.classAt s.myCore va, 0xB, 0, []⟩

/-- A read of the Sorting Office for the slot, at its home, piece by piece; it does not pass the core's port. -/
def State.officeRead (s : State) (va len : Nat) : Res (List Byte) :=
  (s.findParts (s.officeOpnd va) true (piecesOf va len)).bind fun ps s => s.readPiecewise 1 (s.officeOpnd va) true ps

/-- The count of LAUNCH.IND: an acquire read at the scope. -/
def State.indCount (s : State) (b : LBlock) (scope : BitVec 2) : Res Nat :=
  let o := s.officeOpnd b.cntaddr
  (s.xlate o o.va .read).bind fun pa s =>
    (s.leavePin scope pa).bind fun _ s =>
      (s.readParts o true (linesOf o.va 4)).bind fun bs s => .ok (leNat bs) (s.acquire scope)

def opLaunch (ind : Bool) (e : EFlags) (gd : BitVec 6) (a : BitVec 4) (s : State) : State :=
  (s.check a (s.ptr a) 80 true false 16).andThen fun o s =>
    (s.read o 80).andThen fun bs s =>
      let b := parseBlock bs
      (s.release e.scope).andThen fun _ s =>
        (s.officeRead b.desc 128).andThen fun ds s =>
          let d := parseDesc b.desc ds
          match s.launchReason b d with
          | some r => s.launchFault r
          | none =>
            (if ind then s.indCount b e.scope else .ok b.count s).andThen fun c s =>
              if 2 ^ 24 - 1 < c then s.launchFault 0x0B
              else if 0 < c ∧ s.somePosition b d = false then s.launchFault 0x07
              else (s.addLaunch s.me.asid b d c).retG gd (BitVec.ofNat 64 c) 8
def execLaunch (e : EFlags) (gd : BitVec 6) (a : BitVec 4) (s : State) : Out := .next (opLaunch false e gd a s)
def execLaunchInd (e : EFlags) (gd : BitVec 6) (a : BitVec 4) (s : State) : Out := .next (opLaunch true e gd a s)

/-! ## Ending and yielding (R238) -/

/-- The task has commands at an engine. -/
def State.engineBusy (s : State) (tid : Nat) : Bool := s.mcmds.any (·.tid == tid) || s.ecmds.any fun c => c.tid == tid && !(c.phase == .stopped && s.quietE c)

def opRetire (s : State) : State :=
  if s.engineBusy s.me.tid then s.stall (.engine 0)
  else (s.release 0b10).andThen fun _ s => s.endTask s.cur true
def execRetire (s : State) : Out := .next (opRetire s)

/-- YIELD: the task is suspended with pc at the next instruction (R79). -/
def execYieldSlot (s : State) : Out := .next ((s.advance 4).beginSuspend .yield)

/-! ## RETIRE.S (13 R217-R219) -/

/-- Accumulator tiles, register banks, pages and barriers that the mask of a descriptor naming a successor lets pass (13 R217). -/
def KDesc.accBits (d : KDesc) : BitVec 4 := d.inhBanks.extractLsb' 9 4
def KDesc.vBank (d : KDesc) (i : Nat) : Bool := d.inhBanks.getLsbD (4 + i)
def KDesc.gBank (d : KDesc) (i : Nat) : Bool := d.inhBanks.getLsbD i
def KDesc.aRegs (d : KDesc) : Bool := d.inhBanks.getLsbD 8
def KDesc.page (d : KDesc) (i : Nat) : Bool := d.inhScr.getLsbD i
def KDesc.bar (d : KDesc) (i : Nat) : Bool := d.inhBar.getLsbD i

/-- The items that the mask of the retiring task's descriptor `m` names fall within the successor's shape, and the shape fits
the core with this task gone (R218, 3). -/
def State.inheritFits (s : State) (m d : KDesc) : Bool :=
  ((List.range 4).all fun i => !m.vBank i || decide (8 * (i + 1) ≤ d.regs)) &&
  ((List.range 96).all fun i => !m.page i || decide (i < d.scratch)) &&
  ((List.range 128).all fun i => !m.bar i || decide (i < d.barriers)) &&
  decide (m.accBits &&& ~~~s.me.tiles = 0) &&
  s.fits s.myCore d.shape (some s.cur)

/-- The successor's keys. -/
def Group.succKeys (g : Group) (d : KDesc) : List Nat := recipeKeys d.nkeys d.keys (g.keyarg + BitVec.ofNat 64 g.index)

/-- A key the successor adds below the highest it keeps (reason 0x0D). -/
def keyOrderBad (held want : List Nat) : Bool :=
  let top := ((want.filter held.contains).foldl max 0)
  (want.filter held.contains) ≠ [] && (want.filter (fun k => !held.contains k)).any (· < top)

/-- The checks of R218 in their order. -/
def State.succReason (s : State) (g : Group) (d : KDesc) : Option Nat :=
  if d.bad then some 0x0A
  else
    match d.shapeReason with
    | some r => some r
    | none =>
      if d.lw ≠ g.desc.lw ∨ d.lh ≠ g.desc.lh then some 0x08
      else if !s.inheritFits g.desc d then some 0x09
      else if keyOrderBad (s.unitKeys g.unit) (g.succKeys d) then some 0x0D
      else none

/-- A copy command whose every target of the task's is inherited, and which has one: its destination pages and its barrier (R219, 2). -/
def ECmd.inherited (c : ECmd) (m : KDesc) : Bool :=
  let pages := !c.dst.scratch || (List.range 96).all fun i =>
    m.page i || decide (c.dst.addr + c.len ≤ 4096 * i ∨ 4096 * (i + 1) ≤ c.dst.addr)
  (match c.op with | .cpy | .add | .mc => (c.dst.scratch || c.bar.isSome) && pages | .post | .mb | .postQ | .tok | .snap => false) &&
    (match c.bar with | some b => m.bar (b % 128) | none => true)

/-- A matrix command on an inherited tile. -/
def MCmd.inherited (c : MCmd) (m : KDesc) : Bool :=
  match c.op with
  | .mma | .rg | .ast | .aclr => m.accBits.getLsbD (c.tile % 4)
  | .bld => false

/-- Every command of the task that targets state the successor does not inherit has ended. -/
def State.succQuiet (s : State) (tid : Nat) (m : KDesc) : Bool :=
  s.mcmds.all (fun c => c.tid ≠ tid || c.inherited m) && s.ecmds.all (fun c => c.tid ≠ tid || c.inherited m || (c.phase == .stopped && s.quietE c))

/-- The last task of a group has passed its RETIRE.S: keys the successor does not declare go back, further ones are acquired, unless they are being
acquired already, and then the successor starts. -/
def State.handOver (s : State) (g : Group) (d : KDesc) : State :=
  let heldK := s.unitKeys g.unit
  let want := g.succKeys d
  let s := s.raises ((heldK.filter fun k => !want.contains k).map (Raised.keyRelease g.unit))
  match want.filter (fun k => !heldK.contains k) with
  | [] => s.raise (.successorStart g.gid)
  | k :: t =>
    if (s.unitOf g.unit).isSome then s
    else ({ s with units := s.units ++ [(⟨g.unit, g.tower, .successor g.gid, k :: t, want.filter heldK.contains⟩ : KeyUnit)] }).raise (.keyRequest g.unit k)

/-- A slot is held for the successor; in a group that can have none it is freed at once. -/
def State.holdKey (s : State) (key : SlotKey) (g : Group) (d : KDesc) : State :=
  let s := s.setCtx key { s.ctx key with run := .held }
  if g.broken then
    let s := (s.report (.successorAbandoned g.gid)).endSlot key
    let g := { g with live := g.live - 1 }
    let s := s.setGroup g
    if g.live = 0 then s.endGroup g (coreOfKey key) false else s
  else
    let g := { g with held := g.held + 1, succ := some d }
    let s := s.setGroup g
    if g.held = g.live then s.handOver g d else s

def State.holdSlot (s : State) (g : Group) (d : KDesc) : State := s.holdKey s.cur g d

/-- A RETIRE.S that has passed its checks (R219): its release, its engine commands, the hold of its slot. The core keeps room for the
successor from here on. -/
def State.retirePassed (s : State) (g : Group) (d : KDesc) : State :=
  (s.release d.rscope).andThen fun _ s => if s.succQuiet s.me.tid g.desc then s.holdSlot g d else s.stall (.engine 0)

/-- RETIRE.S makes its checks once; a retry goes on from where it waited (R219). -/
def opRetireS (s : State) : State :=
  match s.me.gid.bind s.groupOf with
  | none => s.illegal
  | some g =>
    match s.me.succ with
    | some d => s.retirePassed g d
    | none =>
      if g.desc.succ = 0 then s.launchFault 0x0A
      else
        (s.officeRead g.desc.succ.toNat 128).andThen fun ds s =>
          let d := parseDesc g.desc.succ.toNat ds
          match s.succReason g d with
          | some r => s.launchFault r
          | none => ({ s with me := { s.me with succ := some d } } : State).retirePassed g d
def execRetireS (s : State) : Out := .next (opRetireS s)

/-! ## Keys (R239) -/

/-- A key goes to the head of its queue, or becomes free (13 R214). -/
def State.releaseKey (s : State) (k : Nat) : State :=
  let t := keyHome k
  let x := s.tower t
  match x.keys.find? (·.key == k) with
  | none => s
  | some e =>
    match e.waiters with
    | [] =>
      let s := s.setTower t { x with keys := x.keys.filter (·.key ≠ k) }
      if x.keyWait = [] then s else s.raise (.keyTableEntryFree (Fin.ofNat 4 t))
    | w :: ws =>
      (s.setTower t { x with keys := mapIf (·.key == k) (fun e => { e with holder := w, waiters := ws }) x.keys }).raise (.keyGrant w k)

def opKrel (gd ga : BitVec 6) (s : State) : State :=
  let k := bitsNat (s.getG ga).toNat 47 0
  if s.keyHolder k = some (s.holderOf s.me) then (s.release 0b10).andThen fun _ s => (s.releaseKey k).retG gd 1 4
  else s.retG gd 0 4
def execKrel (gd ga : BitVec 6) (s : State) : Out := .next (opKrel gd ga s)

/-! ## The governor and the profile (R240, R241) -/

def opGovset (ga gb : BitVec 6) (s : State) : State :=
  if !s.hasGov then s.permTrap 0xA 1 0
  else
    let a := s.getG ga
    let b := s.getG gb
    if a.getLsbD 9 then s.advance 4
    else (s.hold (.towers 4)).raises ([0, 1, 2, 3].map fun t => Raised.governorSetting t s.cur a b)
def execGovset (ga gb : BitVec 6) (s : State) : Out := .next (opGovset ga gb s)

def opProfrd (gd ga : BitVec 6) (s : State) : State :=
  if !s.hasGov then s.permTrap 0xA 1 0
  else
    let a := s.getG ga
    let core := bitsNat a.toNat 9 0
    if !s.coreLive core then s.retG gd 0 4
    else
      let s := s.account core
      let k := profKey core (bitsNat a.toNat 19 16) (a.getLsbD 24)
      let v := tget 0#32 s.profile k
      let s := if a.getLsbD 31 then { s with profile := tset s.profile k 0 } else s
      s.retG gd (v.setWidth 64) 4
def execProfrd (gd ga : BitVec 6) (s : State) : Out := .next (opProfrd gd ga s)

end Sys2Proof.Machine
end

