-- ==== Sys2Proof/Machine/OfficeSteps.lean ====
section
/-! DEFINITION. What the Sorting Office does on its own: meets, keys, groups, successors, the governor, publication and restore
(01 R22-R26; 13 R202-R220; 14 R232, R236, R240). A step whose argument no longer names anything changes nothing (log 21). -/

namespace Sys2Proof.Machine

/-! ## Pigeonholes (R202, R203) -/

/-- The tower whose HBM homes an agent's record: the tower of its region. -/
def State.agentTower (s : State) (asid va : Nat) : Nat :=
  match s.space asid with
  | some sp =>
    match sp.agents.find? fun r => decide (r.2.1 ≤ va ∧ va < r.2.1 + r.2.2) with
    | some r => r.1
    | none => 0
  | none => 0

def Tower.occupancy (x : Tower) (stage : BitVec 3) : Nat := (x.pigeon.filter (·.stage == stage)).length

def Tower.hasRoom (x : Tower) (stage : BitVec 3) : Bool := decide (x.occupancy stage < x.pigeonCap stage.toNat)

/-- Puts a record into its pigeonhole; at 7/8 of the ring an overflow record is raised. -/
def State.pigeonPut (s : State) (t : Nat) (m : MeetRec) : State :=
  let x := s.tower t
  let s := s.setTower t { x with pigeon := x.pigeon ++ [m] }
  if x.spillDue m.stage.toNat (x.occupancy m.stage + 1) then s.overflow t m.stage.toNat else s

/-- A free slot of a tower for a shape, of a core that has no offer to look at yet (which core is not promised; log 19). -/
def State.towerSlot (s : State) (t : Nat) (sh : Shape) : Option SlotKey :=
  let offered := s.raised.filterMap fun r => match r with | .slotFill k => some (coreOfKey k) | _ => none
  firstSome (fun c => if offered.contains c then none else s.slotFor c sh) (s.coresOf t)

/-- The slot is offered work, if there is one. -/
def State.offer (s : State) (k : Option SlotKey) : State :=
  match k with
  | some k => s.raise (.slotFill k)
  | none => s

/-- MEET_ENQUEUE: x names the agent of lower kind, or of lower address (R23). Where a cluster pins an agent's line, the Sorting Office
looks again. -/
def opMeetEnqueue (asid core x y : Nat) (s : State) : State :=
  let t := s.agentTower asid x
  match s.kindsOf t asid core x y with
  | .wait s | .none s => s.raise (.meetEnqueue asid core x y)
  | .ok (a, b) s =>
    match findRule (s.published t asid) a b with
    | none => s.pigeonFault t (.meet asid x y 0x0F (kindsInfo a b))
    | some e =>
      let m : MeetRec := ⟨asid, core, x, y, e.stage, e.prio, s.nextId⟩
      let s := { s with nextId := s.nextId + 1 }
      let w := s.tower t
      if w.hasRoom e.stage && w.heldEnq.all (·.stage ≠ e.stage) then (s.pigeonPut t m).offer (s.towerSlot t e.shape)
      else (s.setTower t { w with heldEnq := w.heldEnq ++ [m] }).overflow t e.stage.toNat

/-- The core that sent the meet of x and y, and the state without the meet on its way. -/
def State.takeMeet (s : State) (asid x y : Nat) : Option (Nat × State) :=
  firstSome (fun r => match r with
    | .meetEnqueue a core x' y' => if a = asid ∧ x' = x ∧ y' = y then some (core, { s with raised := s.raised.erase r }) else none
    | _ => none) s.raised
def execMeetEnqueue (asid x y : Nat) (s : State) : Out :=
  match s.takeMeet asid x y with
  | some (core, s) => .next (opMeetEnqueue asid core x y s)
  | none => .next s

/-- The Courier firmware answers the overflow records of a tower: it enlarges the rings they name (R203; log 76). -/
def State.enlarge (s : State) (t : Nat) : State :=
  (upFrom 0 9).foldl (fun s i =>
    let r := CourierRec.pigeonOverflow (t % 4) i
    if s.courier.contains r then
      let x := s.tower t
      let v := x.spills
      ({ s with courier := s.courier.erase r }).setTower t
        { x with spills := v.set (i % 9) ((v[i % 9]'(Nat.mod_lt _ (by decide))) + 1) (Nat.mod_lt _ (by decide)) }
    else s) s

/-- HELD_ENQUEUE_ENTRY: rings that were to be enlarged have been; the first held record whose pigeonhole has room enters it. -/
def opHeldEnqueueEntry (t : Fin 4) (s : State) : State :=
  let s := s.byFirmware (·.enlarge t.val)
  let x := s.tower t.val
  match x.heldEnq.find? fun m => x.hasRoom m.stage with
  | some m => ((s.setTower t.val { x with heldEnq := x.heldEnq.erase m }).pigeonPut t.val m).raise (.heldEnqueueEntry t)
  | none =>
    match x.heldFault with
    | f :: rest =>
      if x.pfault.length < x.pigeonCap 8 then
        (s.setTower t.val { x with heldFault := rest, pfault := x.pfault ++ [f] }).raise (.heldEnqueueEntry t)
      else s
    | [] => s
def execHeldEnqueueEntry (t : Fin 4) (s : State) : Out := .next (opHeldEnqueueEntry t s)

/-! ## Dequeue and key recipes (R204, R206, R213) -/

/-- Every key of a list is free and its home has room for the entries of those that it is home to. -/
def State.keysFree (s : State) (ks : List Nat) : Bool :=
  ks.all fun k =>
    (s.keyHolder k).isNone && decide ((s.tower (keyHome k)).keys.length + (ks.filter fun j => keyHome j == keyHome k).length ≤ 8192)

/-- Grants free keys to a unit. -/
def State.grantAll (s : State) (unit : Nat) (ks : List Nat) : State :=
  ks.foldl (fun s k =>
    let x := s.tower (keyHome k)
    s.setTower (keyHome k) { x with keys := x.keys ++ [⟨k, unit, []⟩] }) s

/-- The index of the first key word that reads the payload. -/
def payIndex (e : RuleEntry) : Nat := (List.range 4).find? (fun i => (e.keys.toList.getD i 0).getLsbD 63) |>.getD 0

/-- The payload word that a recipe reads, if it reads one. -/
def State.payload (s : State) (t : Nat) (m : MeetRec) (e : RuleEntry) : Got (List Byte) :=
  if recipePays e.nkeys e.keys then s.soRead t m.asid (some m.core) (m.y + 40) 8 else .ok [] s

/-- A slot can take a task of a shape. -/
def State.slotTakes (s : State) (k : SlotKey) (sh : Shape) : Bool := s.slotFree k && s.coreFits (coreOfKey k) sh

/-- A meet binds the published entry: no entry and an unreadable payload send it to the fault pigeonhole; with every key granted at
once it takes the slot; otherwise it waits for its keys. -/
def State.bindMeet (s : State) (k : SlotKey) (t : Nat) (m : MeetRec) (a b : BitVec 12) : State :=
  match findRule (s.published t m.asid) a b with
  | none => s.pigeonFault t (.meet m.asid m.x m.y 0x0F (kindsInfo a b))
  | some e =>
    match s.payload t m e with
    | .wait s => s.setTower t { s.tower t with pigeon := m :: (s.tower t).pigeon }
    | .none s => s.pigeonFault t (.meet m.asid m.x m.y 0x08 (BitVec.ofNat 64 (payIndex e)))
    | .ok bs s =>
      let ks := recipeKeys e.nkeys e.keys (BitVec.ofNat 64 (leNat bs))
      if s.keysFree ks && s.slotTakes k e.shape then
        let id := s.nextId
        (({ s with nextId := id + 1 }).grantAll id ks).placeMeet k id m e ks
      else
        let s := s.startUnit t (.meet m e) ks
        if ks = [] then s.offer (s.towerSlot t e.shape) else s

/-- A meet leaves its pigeonhole for a slot, unless a cluster pins what the Sorting Office reads of it. -/
def State.dequeueMeet (s : State) (k : SlotKey) (t : Nat) (m : MeetRec) : State :=
  match s.kindsOf t m.asid m.core m.x m.y with
  | .wait s | .none s => s
  | .ok (a, b) s =>
    let x := s.tower t
    let s := s.setTower t { x with pigeon := x.pigeon.erase m }
    let s := if x.heldEnq = [] then s else s.raise (.heldEnqueueEntry (Fin.ofNat 4 t))
    s.bindMeet k t m a b

/-! ## Groups (R209-R211, R213; 14 R236) -/

def Launch.positions (l : Launch) : Nat := l.fw / 2 ^ l.desc.lw * (l.fh / 2 ^ l.desc.lh)

/-- The cores of a position. -/
def Launch.cores (l : Launch) (n : Nat) : List Nat :=
  let w := 2 ^ l.desc.lw
  let h := 2 ^ l.desc.lh
  rectCores (l.ox + n % (l.fw / w) * w) (l.oy + n / (l.fw / w) * h) w h

/-- The first position, round robin from where the walk stands, in which every core has a slot and room. -/
def State.findPosition (s : State) (l : Launch) : Option Nat :=
  ((List.range l.positions).map fun i => (l.walkAt + i) % l.positions).find? fun n =>
    (l.cores n).all fun c => (s.slotFor c l.desc.shape).isSome

/-- A launch's next group holds its keys. -/
def State.groupReady (s : State) (l : Launch) : Bool :=
  match l.unit with
  | some u => (match s.unitOf u with | some x => x.need.isEmpty | none => true)
  | none => false

/-- Places a launch's next group, its keys held: slots are reserved, and dispatch messages go out. -/
def State.placeGroup (s : State) (l : Launch) (unit n : Nat) : State :=
  let cores := l.cores n
  let slots := cores.filterMap fun c => s.slotFor c l.desc.shape
  let o := cores.headD 0
  let gid := s.nextId
  let g : Group := ⟨gid, l.asid, l.tower, l.desc, coreX o, coreY o, 2 ^ l.desc.lw, 2 ^ l.desc.lh, l.next, l.args, l.keyarg, unit,
    slots.length, 0, false, none, slots⟩
  let s := { s with
    nextId := gid + 1, groups := s.groups ++ [g], reserved := s.reserved ++ slots.map (fun k => (k, gid)),
    units := s.units.filter (·.id ≠ unit),
    launches :=
      if l.next + 1 = l.count then s.launches.filter (·.id ≠ l.id)
      else mapIf (·.id == l.id) (fun l => { l with next := l.next + 1, walkAt := (n + 1) % l.positions, unit := none }) s.launches }
  let s := s.raises (cores.map fun c => Raised.groupDispatch gid c)
  if l.next + 1 = l.count then s else s.raise (.groupPlacement l.id)

/-! ## Restore (R220; 05 R80; 17 R274) -/

/-- The tiles a core's tasks may own are free under the names a suspended task owns. -/
def State.tilesFree (s : State) (core : Nat) (tiles : BitVec 4) : Bool :=
  (List.range 4).all fun i => !tiles.getLsbD i || (tfind s.tileOwner (tileOf core i)).isNone

/-- The slot of a core into which a suspended task can be restored. -/
def State.restoreSlot (s : State) (sd : Suspended) (core : Nat) : Option SlotKey :=
  let c := sd.ctx
  let sh := c.keeps
  let pinned := c.usedMatrix || c.tiles ≠ 0
  if sd.bars.all (fun b => smem (s.freeBars core) b.1) && s.tilesFree core c.tiles &&
      (!pinned || decide (clusterOpt core = clusterOpt sd.core)) then
    s.slotFor core { sh with barriers := c.bars.length + sh.barriers }
  else none

/-- Cores in the order of preference: where it was suspended, its first tower, the towers next to that, the diagonal one; a task that a
core fault suspended is restored elsewhere (R221). Of the two towers next to t the model tries t XOR 1 first, which R220 leaves open (DESIGN
CHOICE, log 87). -/
def State.restoreOrder (s : State) (sd : Suspended) : List Nat :=
  let t := sd.ctx.homeTower
  let l := sd.core :: (s.coresOf t ++ s.coresOf (t ^^^ 1) ++ s.coresOf (t ^^^ 2) ++ s.coresOf (t ^^^ 3))
  if sd.cause = .coreFault then l.filter (· ≠ sd.core) else l

/-- The tasks whose cause has cleared and that fit a core. -/
def State.restoresFor (s : State) (core : Nat) : List Suspended :=
  s.suspended.filter fun sd => sd.cleared && (sd.cause ≠ .coreFault || sd.core ≠ core) && (s.restoreSlot sd core).isSome

/-- The suspended task that a free slot of a core takes, one that holds keys first; of several of equal rank the earliest suspended
(DESIGN CHOICE, log 75). -/
def State.restoreFor (s : State) (core : Nat) : Option Suspended :=
  match (s.restoresFor core).find? fun sd => s.unitKeys (s.holderOf sd.ctx) ≠ [] with
  | some sd => some sd
  | none => (s.restoresFor core).head?

/-- Restores a task: its barrier objects under their numbers, its tiles under their names, and its context; a page of its scratch comes back on
its first access (09 R152). A restore is no placement for R274: a task that has used the matrix array since it was placed stays with its
cluster (DEDUCED, log 96). A task past the checks of a RETIRE.S is held for its successor again (R219). -/
def State.restoreAt (s : State) (sd : Suspended) (k : SlotKey) : State :=
  let core := coreOfKey k
  let tid := sd.ctx.tid
  let accs := ownedAccs sd.ctx
  let base (i : Nat) : Nat := tileOf core (i / 32768) * 32768 + i % 32768
  let s := { s with
    suspended := s.suspended.filter (·.ctx.tid ≠ tid),
    bars := sd.bars.foldl (fun t (b : Nat × Barrier) => tset t (core * 128 + b.1) b.2) s.bars,
    acc := sd.tiles.foldl (fun t (e : Nat × BitVec 32) => tset t (base e.1) e.2) s.acc,
    accPoison := sd.tilePoison.foldl (fun l p => sins l (tileOf core (p / 4096) * 4096 + p % 4096)) s.accPoison,
    tileOwner := accs.foldl (fun t i => tset t (tileOf core i) tid) s.tileOwner }
  let s := s.placeCtx k { sd.ctx with run := .running }
  match sd.ctx.succ, sd.ctx.gid.bind s.groupOf with
  | some d, some g => s.holdKey k g d
  | _, _ => s

/-- Restores a suspended task whose cause has cleared, into the first core of its order that fits and whose free slot no other task
comes before it for (01 R25). -/
def State.restoreTask (s : State) (sd : Suspended) : State :=
  let here (core : Nat) : Option SlotKey :=
    if (s.restoreFor core).any (·.ctx.tid == sd.ctx.tid) then s.restoreSlot sd core else none
  match firstSome here (s.restoreOrder sd) with
  | some k => s.restoreAt sd k
  | none => s

/-- TASK_RESTORE. -/
def opTaskRestore (tid : Nat) (s : State) : State :=
  match s.suspendedOf tid with
  | some sd => if sd.cleared then s.restoreTask sd else s
  | none => s
def execTaskRestore (tid : Nat) (s : State) : Out := .next (opTaskRestore tid s)

/-! ## Filling a slot (01 R25) -/

/-- Work of one priority that a slot may take. -/
inductive Work where
  | group (l : Launch)
  | unit (u : KeyUnit) (m : MeetRec) (e : RuleEntry)
  | meet (m : MeetRec)

/-- A group of the priority that can be placed, its field including the core. -/
def State.groupWork (s : State) (core : Nat) (p : Nat) : Option Launch :=
  s.launches.find? fun l =>
    l.desc.prio.toNat == p && (s.core core).serves l.desc.stage && decide (l.ox ≤ coreX core ∧ coreX core < l.ox + l.fw) &&
      decide (l.oy ≤ coreY core ∧ coreY core < l.oy + l.fh) && s.groupReady l && (s.findPosition l).isSome

/-- The element of least number; the earlier among equals. -/
def leastBy (f : α → Nat) (l : List α) : Option α :=
  l.foldl (fun best x => match best with | none => some x | some b => if f x < f b then some x else best) none

/-- The meets that hold their keys and wait for a slot of the tower, that a core can take. -/
def State.unitWork (s : State) (t core : Nat) (p : Nat) : List (MeetRec × KeyUnit × RuleEntry) :=
  s.units.filterMap fun (u : KeyUnit) =>
    match u.kind with
    | .meet m e => if u.tower = t ∧ u.need = [] ∧ e.prio.toNat = p ∧ (s.slotFor core e.shape).isSome then some (m, u, e) else none
    | .group .. | .successor _ => none

/-- The meets of a pigeonhole that the core serves, whose entry, where there still is one, fits it. -/
def State.meetWork (s : State) (t core : Nat) (p : Nat) : List MeetRec :=
  (s.tower t).pigeon.filter fun m =>
    m.prio.toNat == p && (s.core core).serves m.stage &&
      (match s.kindsOf t m.asid m.core m.x m.y with
       | .ok (a, b) _ => (match findRule (s.published t m.asid) a b with | some e => s.fits core e.shape none | none => true)
       | .wait _ | .none _ => false)

/-- A meet of a pigeonhole that a core serves waits for a pinned line. -/
def State.meetPinned (s : State) (t core : Nat) : Bool :=
  (s.tower t).pigeon.any fun m =>
    (s.core core).serves m.stage && (match s.kindsOf t m.asid m.core m.x m.y with | .wait _ => true | .ok .. | .none _ => false)

/-- Groups come before meets; of the meets of a priority, already dequeued or still queued, the one enqueued first. -/
def State.workAt (s : State) (core : Nat) (p : Nat) : Option Work :=
  let t := s.towerOf core
  match s.groupWork core p with
  | some l => some (.group l)
  | none =>
    match leastBy (·.1.seq) (s.unitWork t core p), leastBy MeetRec.seq (s.meetWork t core p) with
    | some (m, u, e), some q => if m.seq < q.seq then some (.unit u m e) else some (.meet q)
    | some (m, u, e), none => some (.unit u m e)
    | none, q => q.map .meet

/-- The work of highest priority. -/
def State.bestWork (s : State) (core : Nat) : Option Work :=
  firstSome (s.workAt core) [15, 14, 13, 12, 11, 10, 9, 8, 7, 6, 5, 4, 3, 2, 1, 0]

/-- Places a meet that holds its keys. -/
def State.placeUnit (s : State) (k : SlotKey) (u : KeyUnit) (m : MeetRec) (e : RuleEntry) : State :=
  ({ s with units := s.units.filter (·.id ≠ u.id) }).placeMeet k u.id m e u.held

/-- A core whose free slot goes to something else first (01 R25): a suspended task, or work of higher rank. -/
def State.outranked (s : State) (l : Launch) (core : Nat) : Bool :=
  (s.restoreFor core).isSome || (match s.bestWork core with | some (.group l') => l'.id ≠ l.id | some _ => true | none => false)

/-- Tries to place the next group of a launch that holds its keys; free slots that go to something else first are offered to that. -/
def State.tryGroup (s : State) (l : Launch) : State :=
  match l.unit, s.findPosition l with
  | some u, some n =>
    match (l.cores n).filter (s.outranked l) with
    | [] => s.placeGroup l u n
    | cs => s.raises (cs.filterMap fun c => (s.slotFor c l.desc.shape).map Raised.slotFill)
  | _, _ => s

/-- GROUP_PLACEMENT: the next group acquires its keys, once for the whole group, and is then placed. -/
def opGroupPlacement (id : Nat) (s : State) : State :=
  match s.launches.find? (·.id == id) with
  | none => s
  | some l =>
    match l.unit with
    | some _ => if s.groupReady l then s.tryGroup l else s
    | none =>
      let u := s.nextId
      let l := { l with unit := some u }
      let s := { s with launches := mapIf (·.id == id) (fun _ => l) s.launches }
      match recipeKeys l.desc.nkeys l.desc.keys (l.keyarg + BitVec.ofNat 64 l.next) with
      | [] => ({ s with nextId := u + 1 }).tryGroup l
      | ks => s.startUnit l.tower (.group id l.next) ks
def execGroupPlacement (id : Nat) (s : State) : Out := .next (opGroupPlacement id s)

/-- A dispatch that finds its core dead, or a core's lost messages, costs the group a task. -/
def State.dropDispatch (s : State) (k : SlotKey) (gid : Nat) : State :=
  ({ s with reserved := s.reserved.filter (· ≠ (k, gid)) }).leaveGroup gid (coreOfKey k) false

/-- GROUP_DISPATCH: the group's task starts in its slot; a stopped core's channel holds the message (R221). -/
def opGroupDispatch (gid core : Nat) (s : State) : State :=
  match s.groupOf gid, s.reserved.find? (fun r => r.2 == gid && coreOfKey r.1 == core) with
  | some g, some (k, _) =>
    if (s.core core).stopped then s.raise (.groupDispatch gid core)
    else if s.coreLive core then
      let tid := s.nextId
      let keys := s.unitKeys g.unit
      ({ s with nextId := tid + 1 }).placeNew k g.asid tid (some gid) g.desc.shape g.desc.code keys
        (launchRegs g.args g.index (coreX core - g.ox) (coreY core - g.oy))
    else s.dropDispatch k gid
  | _, _ => s
def execGroupDispatch (gid core : Nat) (s : State) : Out := .next (opGroupDispatch gid core s)

/-! ## Filling a free slot (01 R25) -/

/-- A free slot of a tower, of a core that has no offer to look at yet, for which there is work. -/
def State.slotWithWork (s : State) (t : Nat) : Option SlotKey :=
  let offered := s.raised.filterMap fun r => match r with | .slotFill k => some (coreOfKey k) | _ => none
  if (s.tower t).pigeon.isEmpty && s.units.isEmpty && s.launches.isEmpty && s.suspended.isEmpty then none
  else
    firstSome (fun c =>
      if offered.contains c || !s.coreOpen c || ((s.restoreFor c).isNone && (s.bestWork c).isNone) then none
      else (slotKeys c).find? s.slotFree) (s.coresOf t)

/-- An offer that its slot cannot take goes to another free slot of its tower. -/
def State.passOn (s : State) (core : Nat) : State := s.offer (s.slotWithWork (s.towerOf core))

/-- SLOT_FILL: a free slot takes a suspended task, else the work of highest priority; what does not take it leaves it to the
next. A meet at a pinned line is looked at again. -/
def opSlotFill (k : SlotKey) (s : State) : State :=
  let core := coreOfKey k
  if !s.slotFree k || !s.coreOpen core then s.passOn core
  else
    match s.restoreFor core with
    | some sd => (s.restoreTask sd).raise (.slotFill k)
    | none =>
      match s.bestWork core with
      | none => if s.meetPinned (s.towerOf core) core then s.raise (.slotFill k) else s.passOn core
      | some (.group l) => (s.tryGroup l).raise (.slotFill k)
      | some (.unit u m e) => (if s.slotTakes k e.shape then s.placeUnit k u m e else s).raise (.slotFill k)
      | some (.meet m) => (s.dequeueMeet k (s.towerOf core) m).raise (.slotFill k)
def execSlotFill (k : Nat) (s : State) : Out := .next (opSlotFill k s)

/-! ## Keys (R212-R214) -/

/-- A request reaches the key's home: granted when the key is free, queued when it is held, waiting when the table is full. -/
def opKeyRequest (unit key : Nat) (s : State) : State :=
  let t := keyHome key
  let x := s.tower t
  match x.keys.find? (·.key == key) with
  | some _ => s.setTower t { x with keys := mapIf (·.key == key) (fun e => { e with waiters := e.waiters ++ [unit] }) x.keys }
  | none =>
    if x.keys.length < 8192 then (s.setTower t { x with keys := x.keys ++ [⟨key, unit, []⟩] }).raise (.keyGrant unit key)
    else s.setTower t { x with keyWait := x.keyWait ++ [(unit, key)] }

/-- A unit asks for the key that it needs next, and asks for it once. -/
def State.asks (s : State) (unit key : Nat) : Bool :=
  let x := s.tower (keyHome key)
  (s.unitOf unit).any (fun u => u.need.head? == some key) && !x.keyWait.contains (unit, key) &&
    x.keys.all fun e => e.key ≠ key || (e.holder ≠ unit && !e.waiters.contains unit)
def execKeyRequest (unit key : Nat) (s : State) : Out := .next (if s.asks unit key then opKeyRequest unit key s else s)

/-- A unit that holds every key it asked for is placed. -/
def State.unitReady (s : State) (u : KeyUnit) : State :=
  match u.kind with
  | .meet _ e => s.offer (s.towerSlot u.tower e.shape)
  | .group l _ => s.raise (.groupPlacement l)
  | .successor g => ({ s with units := s.units.filter (·.id ≠ u.id) }).raise (.successorStart g)

/-- KEY_GRANT, of a key that the unit has been given: the next key is requested, or the unit is placed; a unit that is no more passes the key on. -/
def opKeyGrant (unit key : Nat) (s : State) : State :=
  match s.unitOf unit with
  | none => s.raise (.keyRelease unit key)
  | some u =>
    match u.need with
    | [] => s
    | k :: ks =>
      if k ≠ key ∨ s.keyHolder key ≠ some unit then s
      else
        let u := { u with need := ks, held := u.held ++ [key] }
        let s := { s with units := mapIf (·.id == unit) (fun _ => u) s.units }
        match ks with
        | next :: _ => s.raise (.keyRequest unit next)
        | [] => s.unitReady u
def execKeyGrant (unit key : Nat) (s : State) : Out := .next (opKeyGrant unit key s)

/-- KEY_RELEASE: the unit that gives the key up loses it, where it still is the holder. -/
def opKeyRelease (unit key : Nat) (s : State) : State := if s.keyHolder key = some unit then s.releaseKey key else s

/-- The unit whose release of a key is on its way, and the state without it. -/
def State.takeRelease (s : State) (key : Nat) : Option (Nat × State) :=
  firstSome (fun r => match r with
    | .keyRelease unit k => if k = key then some (unit, { s with raised := s.raised.erase r }) else none
    | _ => none) s.raised
def execKeyRelease (key : Nat) (s : State) : Out :=
  match s.takeRelease key with
  | some (unit, s) => .next (opKeyRelease unit key s)
  | none => .next s

/-- While a home's table has room, the request that has waited longest at it proceeds; one that queues for a key which stands in the table by now
uses no entry, and the next follows. -/
def State.serveWaiting (s : State) (t : Nat) : Nat → State
  | 0 => s
  | n + 1 =>
    let x := s.tower t
    match x.keyWait with
    | [] => s
    | (u, k) :: rest => if x.keys.length < 8192 then (opKeyRequest u k (s.setTower t { x with keyWait := rest })).serveWaiting t n else s

/-- KEY_TABLE_ENTRY_FREE: requests that wait at a full table proceed, in their order. -/
def opKeyTableEntryFree (t : Fin 4) (s : State) : State := s.serveWaiting t.val (s.tower t.val).keyWait.length
def execKeyTableEntryFree (t : Fin 4) (s : State) : Out := .next (opKeyTableEntryFree t s)

/-! ## Successors (R219) -/

/-- Keeps the elements whose index is chosen; the others become `z`. -/
def keepIdx (keep : Nat → Bool) (z : α) (v : Vector α n) : Vector α n := Vector.ofFn fun i => if keep i.val then v[i] else z

/-- The successor's barrier numbers: the inherited ones, and the lowest free up to its count. -/
def succBars (m d : KDesc) (old free : List Nat) : List Nat :=
  let kept := old.filter m.bar
  kept ++ (free.filter fun b => !kept.contains b).take (d.barriers - kept.length)

/-- A held slot's context under the successor `d`: what the mask of the retiring task's descriptor `m` does not name is zero. -/
def succCtx (m d : KDesc) (g : Group) (bars keys : List Nat) (c : Ctx) : Ctx :=
  let c := { c with
    run := .running, pc := d.code, rep := none, inh := false, stage := d.stage, cause := 0, epc := 0, tinfo := 0, tvec := 0,
    g := keepIdx (fun i => m.gBank (i / 16)) 0 c.g, v := keepIdx (fun i => m.vBank (i / 8)) 0 c.v,
    a := if m.aRegs then c.a else Vector.replicate 16 .zero, k := Vector.replicate 8 0, q := Vector.replicate 16 .zero,
    regs := d.regs, scratch := d.scratch, bars := bars, keys := keys, tiles := c.tiles &&& m.accBits,
    mem := c.mem.filter (fun x => m.page (x.1 / 4096)), poison := c.poison.filter (fun p => m.page (p * 32 / 4096)),
    absent := c.absent.filter m.page,
    usedMatrix := false, lineBuf := none, succ := none }
  if m.gBank 0 then c else launchRegs g.args g.index (coreX c.firstCore - g.ox) (coreY c.firstCore - g.oy) c

/-- Starts the successor in one held slot, its scratch pages backed; its start is an acquire at device scope (10 R169). -/
def State.succSlot (s : State) (g : Group) (m d : KDesc) (keys : List Nat) (k : SlotKey) : State :=
  let core := coreOfKey k
  let c := s.ctx k
  let gone := (ownedAccs c).filter fun i => !m.accBits.getLsbD i
  let s := gone.foldl (fun s i => s.dropTile (tileOf core i)) s
  let s := { s with bars := (c.bars.filter fun b => !m.bar b).foldl (fun t b => tdel t (core * 128 + b)) s.bars }
  let bars := succBars m d c.bars (s.freeBars core)
  let s := s.takeBars core c.tid (bars.filter fun b => !(c.bars.filter m.bar).contains b)
  let more := s.frameChoice c.homeTower (d.scratch - c.frames.length)
  let frames := c.frames.take d.scratch ++ more
  let s := (s.dropFrames (c.frames.drop d.scratch)).useFrames more
  (((s.setCtx k { succCtx m d g bars keys c with frames := frames }).repool core).acquireAll core).lookAgain

/-- SUCCESSOR_START, once every task of the group is held and the group holds the keys that the successor declares, and no other (03 R53). -/
def opSuccessorStart (gid : Nat) (s : State) : State :=
  match s.groupOf gid with
  | none => s
  | some g =>
    match g.succ with
    | none => s
    | some d =>
      let hers := s.unitKeys g.unit
      let want := g.succKeys d
      if g.broken || g.held ≠ g.live || want.any (!hers.contains ·) then s
      else if hers.any (!want.contains ·) then s.raise (.successorStart gid)
      else
        let held := s.keys.filter fun k => (s.ctx k).gid == some gid && decide ((s.ctx k).run = .held)
        let keys := hers
        let s := s.setGroup { g with desc := d, held := 0, succ := none }
        held.foldl (fun s k => s.succSlot g g.desc d keys k) s
def execSuccessorStart (gid : Nat) (s : State) : Out := .next (opSuccessorStart gid s)

/-! ## The governor (R215; 14 R240) -/

/-- The core of a list moved longest ago; the lower number among equals. -/
def State.movedFirst (s : State) (l : List Nat) : Option Nat :=
  l.foldl (fun best c =>
    match best with
    | none => some c
    | some b => if (s.core c).movedAt < (s.core b).movedAt then some c else best) none

/-- The core's last move was at least 4096 cycles ago; a core never moved has `movedAt` 0. -/
def Core.rested (c : Core) (now : Nat) : Bool := c.movedAt == 0 || decide (c.movedAt + 4096 ≤ now)

/-- Offers work to the free slots of a core whose mask has changed. -/
def State.offerCore (s : State) (core : Nat) : State :=
  s.raises (((slotKeys core).filter s.slotFree).map Raised.slotFill)

/-- At most one move for a class. -/
def State.govern (s : State) (t : Nat) (cls : Nat) : State :=
  let x := s.tower t
  let stage := BitVec.ofNat 3 cls
  let occ := x.occupancy stage
  let high := (x.high[cls % 8]'(Nat.mod_lt _ (by decide))).toNat
  let low := (x.low[cls % 8]'(Nat.mod_lt _ (by decide))).toNat
  if high < occ then
    match s.movedFirst ((s.coresOf t).filter fun c => s.coreLive c && !(s.core c).serves stage && (s.core c).rested x.cycle) with
    | some c =>
      let r := s.core c
      (s.setCore c { r with saved := some r.mask, mask := 1#8 <<< cls, movedTo := cls, movedAt := x.cycle }).offerCore c
    | none => s
  else if occ < low then
    match s.movedFirst ((s.coresOf t).filter fun c => (s.core c).saved.isSome && decide ((s.core c).movedTo = cls)) with
    | some c =>
      let r := s.core c
      if r.rested x.cycle then
        (s.setCore c { r with mask := r.saved.getD r.mask, saved := none, movedAt := x.cycle }).offerCore c
      else s
    | none => s
  else s

/-- GOVERNOR_EVALUATION: the classes in rising order, so that a core taken for one is not free for the next (DESIGN CHOICE, log 74). -/
def opGovernorEvaluation (t : Fin 4) (s : State) : State := (List.range 8).foldl (fun s c => s.govern t.val c) s
def execGovernorEvaluation (t : Fin 4) (s : State) : Out := .next (opGovernorEvaluation t s)

/-- GOVERNOR_SETTING. -/
def execGovernorSetting (t : Fin 4) (key : Nat) (ga gb : Word) (s : State) : Out :=
  .next ((s.setGovernor t.val ga gb).towerAnswer key)

/-! ## Publication (R232) -/

/-- RULE_PUBLICATION_FLIP. -/
def opRulePublicationFlip (t : Fin 4) (asid key : Nat) (s : State) : State :=
  match (s.ctx key).run with
  | .stalled (.towers n) => (s.flipRules t asid key n).towerAnswer key
  | _ => s
def execRulePublicationFlip (t : Fin 4) (asid key : Nat) (s : State) : Out := .next (opRulePublicationFlip t asid key s)

/-! ## Waits on a BUSY slot (R331; 05 R79) -/

/-- BUSY_SLOT_POLL: the join reads the slot again, every 256 cycles. -/
def opBusySlotPoll (k : SlotKey) (s : State) : State :=
  match (s.ctx k).run with
  | .stalled (.busy _ _ polled) => if polled + coreCycles 256 ≤ (s.tower (s.towerOf (coreOfKey k))).cycle then s.wakeSlot k else s
  | _ => s
def execBusySlotPoll (k : Nat) (s : State) : Out := .next (opBusySlotPoll k s)

/-- A wait of an instruction that must complete is due to be reported once it has lasted 1050 cycles; each wait is reported once. -/
def State.busyDue (s : State) (k : SlotKey) : Option Nat :=
  match (s.ctx k).run with
  | .stalled (.busy va since _) =>
    if (s.ctx k).cont.any (fun c => c.made && !c.told) && decide (since + 1050 ≤ (s.tower (s.towerOf (coreOfKey k))).cycle) then some va else none
  | _ => none

/-- BUSY_WAIT_REPORT: the wait is reported to the Courier firmware. -/
def opBusyWaitReport (k : SlotKey) (s : State) : State :=
  match s.busyDue k with
  | some va =>
    let c := s.ctx k
    (s.setCtx k { c with cont := c.cont.map fun n => { n with told := true } }).report (.busyWait k va)
  | none => s
def execBusyWaitReport (k : Nat) (s : State) : Out := .next (opBusyWaitReport k s)

end Sys2Proof.Machine
end

