-- ==== Sys2Proof/Machine/Engine.lean ====
section
/-! DEFINITION. What the engines of a cluster share: their reads and writes of memory, charges at the issuing core's port, and the
stop of an attached command (09 R151, R160; 10 R173, R176; 16 R246, R254). -/

namespace Sys2Proof.Machine

/-- On whose behalf an engine works: the engine's tower and cluster, the core whose region registers give the page class, the
address space, what a fault record names (R151), and whether the command acquires. -/
structure EWho where
  tower   : Nat
  cluster : Nat
  core    : Nat
  asid    : Nat
  index   : Nat
  origin  : Nat
  acq     : Bool

/-- The outcome of an engine's access. -/
inductive Eng (α : Type) where
  | ok (a : α) (s : State)
  | fault (va : Nat) (s : State)
  | denied (va : Nat) (s : State)
  | wait (s : State)

def Eng.bind (r : Eng α) (f : α → State → Eng β) : Eng β :=
  match r with
  | .ok a s => f a s
  | .fault va s => .fault va s
  | .denied va s => .denied va s
  | .wait s => .wait s

/-- A byte and whether its piece is poisoned. -/
abbrev PByte := Byte × Bool

def pbyteNat (l : List PByte) : Nat := leNat (l.map (·.1))
def anyPoison (l : List PByte) : Bool := l.any (·.2)

/-- Translation for an engine: a fault record names the queue, or the core it delivers to (R151). -/
def State.engXlate (s : State) (w : EWho) (va : Nat) (cls : Bool) (acc : Acc) : Eng Nat :=
  match s.translate ⟨w.tower, w.asid, 0xFFFF, w.index, w.origin⟩ va cls acc with
  | .ok pa s => .ok pa s
  | .fault s => .fault va s
  | .denied s => .denied va s

/-- Bytes at a physical address as an engine reads them: at the home where it acquires, as its tower has it, else in its tower's
remote-data cache where that holds the line (10 R170, R176). -/
def State.engBytes (s : State) (w : EWho) (pa n : Nat) : List PByte × State :=
  let t := w.tower
  if w.acq then
    let s := if (s.pinOf (pa / 128)).isSome then s else s.reachHome t pa
    ((upFrom pa n).map fun b => (s.placeByte b, s.placePoison b), s)
  else
    let s := if (s.rdcOf t pa).isSome || (s.pinOf (pa / 128)).isSome then s else (s.reachHome t pa).rdcAdd t pa
    ((upFrom pa n).map fun b => (s.sharedByte t b, s.sharedPoison t b), s)

/-- Reads bytes inside one line for an engine, unless another cluster pins it. -/
def State.engLine (s : State) (w : EWho) (va n : Nat) (cls : Bool) : Eng (List PByte) :=
  (s.engXlate w va cls .engRead).bind fun pa s =>
    if s.pinnedAway (some w.cluster) (pa / 128) then .wait s else .ok (s.engBytes w pa n).1 (s.engBytes w pa n).2

/-- Reads the lines of an access, `cls` giving the page class of each. -/
def State.engLines (s : State) (w : EWho) (cls : Nat → Bool) : List (Nat × Nat) → Eng (List PByte)
  | [] => .ok [] s
  | (va, n) :: t => (s.engLine w va n (cls va)).bind fun bs s => (s.engLines w cls t).bind fun rest s => .ok (bs ++ rest) s

/-- Reads bytes for an engine with the page class the core's region registers give each line (R146). -/
def State.engRead (s : State) (w : EWho) (va n : Nat) : Eng (List PByte) := s.engLines w (s.classAt w.core) (linesOf va n)

/-! ## Charges (R160) -/

/-- The bytes of the 32-byte pieces that a list of accesses touches. -/
def engineCost (l : List (Nat × Nat)) : Nat :=
  32 * (l.foldl (fun ps (a : Nat × Nat) => (upFrom (a.1 / 32) ((a.1 + a.2 - 1) / 32 + 1 - a.1 / 32)).foldl sins ps) []).length

/-- The charge of a command's next piece, of 32 bytes, as it leaves the port of a core; the answer is what has been paid. A piece that
cannot leave waits in the port's queue, and later requests of its tenant behind it. -/
def State.payPiece (s : State) (k : SlotKey) (asid id paid : Nat) : Nat × State :=
  let core := coreOfKey k
  let i := s.tenantOf asid
  let c := (s.core core).busyBy i
  if c.passes (s.cycleAt core) i 32 then (paid + 32, s.setCore core (c.pay (s.cycleAt core) i 32))
  else (paid, (s.setCore core { c with portq := c.portq ++ [⟨i, 32, k, .engine id⟩] }).raise (.portRequestLeave core 0))

/-- Pays a command's charge: one piece leaves at a time (12 R194). -/
def State.engPay (s : State) (k : SlotKey) (asid id cost paid : Nat) : Nat × State :=
  if cost < paid + 32 || (s.core (coreOfKey k)).portq.any (·.item == .engine id) then (paid, s)
  else (s.wakeCore (coreOfKey k)).payPiece k asid id paid

/-- A command that is no more leaves the port. -/
def State.leavePortE (s : State) (k : SlotKey) (id : Nat) : State :=
  s.setCore (coreOfKey k) ((s.core (coreOfKey k)).dropWaits (·.item == .engine id))

/-! ## Writes of an engine -/

/-- What an engine's write to a line must wait for: a migration (09 R157), another cluster's pin. -/
def State.engWriteBar (s : State) (w : EWho) (pa : Nat) : Bool := s.frameStalled pa || s.pinnedAway (some w.cluster) (pa / 128)

/-- The same at a scope: at device and system scope a write is performed at its home, and so waits for its own cluster's pin too (10 R163, 11
R178; log 97). -/
def State.engWait (s : State) (w : EWho) (scope : BitVec 2) (pa : Nat) : Bool :=
  s.engWriteBar w pa || (!narrow scope && (s.pinOf (pa / 128)).isSome)

/-- Before a write at device or system scope the command's task gives up the pin of its cluster that it owns (log 97). -/
def State.engUnpin (s : State) (w : EWho) (tid : Nat) (scope : BitVec 2) (pa : Nat) : State :=
  match s.pinOf (pa / 128) with
  | some p => if !narrow scope && p.cluster == w.cluster && smem p.owners tid then s.endPin p else s
  | none => s

/-- Bytes of a 32-byte piece, those written laid over what it held, in ascending order. -/
def overlay (old : List Byte) (piece : Nat) (cs : List (Nat × PByte)) : List Byte :=
  (cs.filter fun c => c.1 / 32 == piece).foldl (fun l c => l.set (c.1 % 32) c.2.1) old

/-- Bytes of a piece that are written. -/
def covered (piece : Nat) (cs : List (Nat × PByte)) : Nat := ((cs.filter fun c => c.1 / 32 == piece).map (·.1)).foldl sins [] |>.length

/-- A piece that some byte written poisons. -/
def poisoned (piece : Nat) (cs : List (Nat × PByte)) : Bool := cs.any fun c => c.1 / 32 == piece && c.2.2

/-- Performs an engine's bytes of one 32-byte piece at its place, for an engine on tower `t`: a piece written whole is clean, a poisoned
byte poisons its piece (R159). -/
def State.putPiece (s : State) (t : Nat) (cs : List (Nat × PByte)) (p : Nat) : State :=
  s.place t (p * 32) (overlay ((upFrom (p * 32) 32).map s.placeByte) p cs) (covered p cs == 32) (if poisoned p cs then [p] else [])

/-- Performs an engine's bytes at their places, one write to each 32-byte piece. -/
def State.engPut (s : State) (t : Nat) (cs : List (Nat × PByte)) : State :=
  ((cs.map (·.1 / 32)).foldl sins []).foldl (fun s p => s.putPiece t cs p) s

/-! ## The slot of an attached command -/

/-- The slot is held by the command (R66). -/
def State.holds (s : State) (k : SlotKey) (cmd : Nat) : Bool := decide ((s.ctx k).run = .stalled (.engine cmd))

/-- A trap raised at the instruction that a slot holds. -/
def State.trapKey (s : State) (k : SlotKey) (code : BitVec 8) (info : Word) : State :=
  let s := s.switch k
  ({ s with me := { s.me with run := .running } }).trap code info

/-- The long instruction of a slot completes when its command detaches. -/
def State.detachKey (s : State) (k : SlotKey) (f : Ctx → Ctx) : State := s.completeSlot k f 8

end Sys2Proof.Machine
end

