-- ==== Sys2Proof/Machine/Matrix.lean ====
section
/-! DEFINITION. Matrix instructions at issue: shapes, the B-store operand, tensor descriptors and their checks, tile ownership
and the command queues (16 R245-R257; 17 R258-R271). -/

namespace Sys2Proof.Machine

/-! ## Shapes (02 R37) -/

structure MShape where
  m : Nat
  n : Nat
  k : Nat
  deriving DecidableEq, Repr

def shapeOf : BitVec 3 → MShape
  | 0#3 => ⟨16, 128, 64⟩
  | 1#3 => ⟨32, 128, 64⟩
  | 2#3 => ⟨64, 128, 64⟩
  | 3#3 => ⟨64, 128, 128⟩
  | 4#3 => ⟨128, 128, 128⟩
  | 5#3 => ⟨128, 256, 128⟩
  | 6#3 => ⟨8, 128, 128⟩
  | _ => ⟨128, 256, 256⟩

/-- K-steps of a shape. -/
def MShape.steps (x : MShape) : Nat := x.k / 32

/-! ## The B-store operand (R249) -/

structure BOp where
  progress : Nat
  bscale   : Bool
  c0       : Nat
  o        : Nat
  deriving DecidableEq, Repr

def bOp (w : Word) : BOp := ⟨bitsNat w.toNat 63 48, w.getLsbD 24, bitsNat w.toNat 23 16, bitsNat w.toNat 15 0⟩

/-- gb with its progress replaced. -/
def putProgress (w : Word) (n : Nat) : Word := BitVec.ofNat 64 (putBits w.toNat 63 48 n)

/-! ## Tensor descriptors (R259, R260) -/

def parseTensor (bs : List Byte) : TDesc :=
  let w0 := wordAt bs 0
  let w1 := wordAt bs 8
  let ndim := bitsNat w1 11 10
  let dim (d : Nat) : Nat := wordAt bs (16 + 8 * d)
  let sc := wordAt bs 48
  let sp := wordAt bs 56
  let fmt := Fmt.ofCode (BitVec.ofNat 4 w1)
  let clear : Bool := bitsNat w0 60 56 == 0 && bitsNat w1 63 12 == 0 && bitsNat w1 9 4 == 0 && bitsNat sc 63 56 == 0 && bitsNat sp 63 40 == 0
  let extents : Bool := (List.range (ndim + 1)).all fun d => bitsNat (dim d) 31 0 != 0
  ⟨decide (bitsNat w0 63 63 = 1) && clear && extents && fmt.isSome, decide (bitsNat w0 62 62 = 1), decide (bitsNat w0 61 61 = 1),
    bitsNat w0 55 0, ndim, fmt, #v[bitsNat (dim 0) 31 0, bitsNat (dim 1) 31 0, bitsNat (dim 2) 31 0, bitsNat (dim 3) 31 0],
    #v[bitsNat (dim 0) 63 32, bitsNat (dim 1) 63 32, bitsNat (dim 2) 63 32, bitsNat (dim 3) 63 32], bitsNat sc 55 0, bitsNat sp 39 0⟩

/-- The entry of an id in an address space's table, which no address space maps. The bytes of a poisoned entry are taken as they stand (DESIGN CHOICE,
log 95). -/
def State.tensorOf (s : State) (asid id : Nat) : TDesc :=
  match s.space asid with
  | some sp => parseTensor ((upFrom (sp.tensorBase + 64 * id) 64).map s.placeByte)
  | none => parseTensor (List.replicate 64 0)

def TDesc.extent1 (d : TDesc) : Nat := if 1 ≤ d.ndim then d.extent[1] else 1
def TDesc.extent2 (d : TDesc) : Nat := if 2 ≤ d.ndim then d.extent[2] else 1
def TDesc.extent3 (d : TDesc) : Nat := if 3 ≤ d.ndim then d.extent[3] else 1
/-- Rows. -/
def TDesc.rows (d : TDesc) : Nat := d.extent1 * d.extent2 * d.extent3

/-- The address of an element. -/
def TDesc.addr (d : TDesc) (r c : Nat) : Nat :=
  d.base + c * d.stride[0] + r % d.extent1 * d.stride[1] + r / d.extent1 % d.extent2 * d.stride[2] +
    r / d.extent1 / d.extent2 * d.stride[3]

/-- The address of the scale byte of a row's block of 32 columns (07 R119). -/
def TDesc.scaleAddr (d : TDesc) (r block : Nat) : Nat := d.scale + r * ceilDiv d.extent[0] 32 + block

/-- Every element of a block of rows and columns is within bounds. -/
def TDesc.inBounds (d : TDesc) (row0 rows col0 cols e : Nat) : Bool :=
  decide (rows = 0) || decide (cols = 0) ||
    (decide (col0 + cols ≤ d.extent[0]) && decide (row0 + rows ≤ d.rows) &&
      (List.range rows).all fun i => decide (d.addr (row0 + i) (col0 + cols - 1) + e ≤ d.base + d.span))

/-- The checks of R260 in their order. -/
def tensorReason (d : TDesc) (write : Bool) (row0 rows col0 cols : Nat) (f : Fmt) : Option Nat :=
  if !d.valid then some 0x01
  else if (if write then d.wr else d.rd) = false then some 0x02
  else if !d.inBounds row0 rows col0 cols (match d.fmt with | some g => g.bytes | none => 1) then some 0x03
  else if d.fmt ≠ some f then some 0x04
  else if d.scale ≠ 0 ∧ f.scalable = false then some 0x05
  else none

def State.tensorTrap (s : State) (id : BitVec 16) (reason : Nat) : State :=
  s.trap 0x06 (BitVec.ofNat 64 (id.toNat + reason * 2 ^ 16))

def State.matrixTrap (s : State) (reason : Nat) : State := s.trap 0x0C (BitVec.ofNat 64 reason)

/-! ## Tiles (R252) -/

/-- The tile is owned by another resident task. -/
def State.tileTaken (s : State) (tile : Nat) : Bool :=
  match tfind s.tileOwner tile with
  | some t => t ≠ s.me.tid
  | none => false

/-- The issuing task comes to own one of its core's tiles. -/
def State.ownTile (s : State) (acc : BitVec 2) : State :=
  { s with
    tileOwner := tset s.tileOwner (tileOf s.myCore acc.toNat) s.me.tid,
    me := { s.me with tiles := s.me.tiles ||| (1#4 <<< acc.toNat) } }

/-! ## The queues (R245) -/

def State.myArray (s : State) : Nat := clusterOf s.myCore
def State.myQueue (s : State) : Nat := indexOf s.myCore

/-- The command stands in its queue. -/
def MCmd.inQueue (c : MCmd) : Bool :=
  match c.phase with
  | .queued | .attached | .detached | .stopped => true
  | .leaving | .waiting => false

def State.queueLength (s : State) (cl q : Nat) : Nat := (s.mcmds.filter fun c => c.cluster == cl && c.queue == q && c.inQueue).length

/-- A queue of 16 entries has one free, and no earlier command waits for it. -/
def State.queueFree (s : State) (cl q : Nat) : Bool :=
  decide (s.queueLength cl q < 16) && s.mcmds.all fun c => !(c.cluster == cl && c.queue == q && c.phase == .waiting)

/-- With the array idle, the arbiter looks. -/
def State.wakeArray (s : State) (cl : Nat) : State := if (s.cluster cl).runCmd.isNone then s.raise (.matrixArbiterSelect cl) else s

/-- A command of the issuing slot with nothing of its own set. -/
def State.newM (s : State) (op : MOp) (e : EFlags) (f : Fmt) (acc : BitVec 2) : MCmd where
  id := s.nextId
  cluster := s.myArray
  queue := s.myQueue
  op := op
  key := s.cur
  tid := s.me.tid
  asid := s.me.asid
  e := e
  tile := tileOf s.myCore acc.toNat
  fmt := f
  shape := 0
  ring := none
  qnum := 0
  ga := 0
  gb := 0
  gc := 0
  gbReg := 0
  tensor := parseTensor []
  mode := false
  rnd := .rne
  sr := 0
  head := 0
  step := 0
  paid := 0
  count := none
  map := []
  outs := none
  got := []
  clock := Vector.replicate 4 0
  phase := .queued

/-- What an engine's flags ask of the issuing slot before the command leaves it (10 R176): a release waits for the slot's
earlier accesses and ends pins; an acquire, too, reads what the slot has stored, in a pin store of its cluster too (R256). -/
def State.engineLeave (s : State) (e : EFlags) : Res Unit :=
  if e.rel then s.release e.scope
  else if e.acq && !s.drainedAt s.cur 0b00 then .done (s.stall .drain) else .ok () s

/-- A command whose place in the queue is its instruction's completion: ACLR is never attached (R246, R269). -/
def MCmd.atOnce (c : MCmd) : Bool := c.op == .aclr

/-- The phase of a command that has entered its queue. -/
def MCmd.entered (c : MCmd) : MCmd := { c with phase := if c.atOnce then .detached else .queued }

/-- A command that has left its slot enters its queue in the order of leaving; while that is full, its slot stalls, and the command
keeps its place (R245, R258). -/
def State.enterM (s : State) (c : MCmd) : State :=
  let s := { s with mcmds := s.mcmds.filter (·.id ≠ c.id) }
  if s.queueFree c.cluster c.queue then
    let s := ({ s with mcmds := s.mcmds ++ [c.entered] }).wakeArray c.cluster
    if c.atOnce then s.advance 4 else s.hold (.engine c.id)
  else ({ s with mcmds := s.mcmds ++ [{ c with phase := .waiting }] }).hold (.engine c.id)

/-- A command that has passed its checks leaves its slot (10 R176); while the slot's earlier accesses keep it, it stands as it was checked
(17 R259). -/
def State.leaveM (s : State) (c : MCmd) : State :=
  match s.engineLeave c.e with
  | .ok _ s => s.enterM c
  | .done s => { s with mcmds := s.mcmds.filter (·.id ≠ c.id) ++ [{ c with phase := .leaving }] }

/-- A command passes its issue checks. -/
def State.issueM (s : State) (c : MCmd) : State := ({ s with nextId := c.id + 1 }).leaveM c

/-- The issuing slot's command that has passed its checks already, or the checks. -/
def State.resumeM (s : State) (start : State → State) : State :=
  match s.mcmds.find? fun c => c.key == s.cur && c.phase == .leaving with
  | some c => s.leaveM c
  | none => start s

/-- The task has issued a command that ties it to its cluster (18 R274). -/
def State.useMatrix (s : State) : State := { s with me := { s.me with usedMatrix := true } }

/-! ## MMA and MMA.RG (R261-R263) -/

/-- The ring of a handle is unusable for rows of `bytes` bytes. -/
def badRing (q : QReg) (bytes : Nat) : Bool := decide (q.role = 0) || !q.consumer || decide (2 ^ q.s.toNat < bytes)

/-- The checks on the A operand (R262). -/
def State.aCheck (s : State) (x : MShape) (f : Fmt) (src : ASrc) : Res (Option QReg × TDesc) :=
  match src with
  | .ring q => if badRing (s.me.getQ q) (x.k * f.bytes) then .done (s.matrixTrap 0x03) else .ok (some (s.me.getQ q), parseTensor []) s
  | .tensor id ga =>
    let a := (s.getG ga).toNat
    if bitsNat a 63 32 % 32 ≠ 0 then .done (s.matrixTrap 0x06)
    else
      let d := s.tensorOf s.me.asid id.toNat
      match tensorReason d false (bitsNat a 31 0) x.m (bitsNat a 63 32) x.k f with
      | some r => .done (s.tensorTrap id r)
      | none => .ok (none, d) s

/-- Every progress count of an instruction: K-steps, for MMA.RG those of all its chunks (R253; log 22). -/
def allSteps (rg : Bool) (x : MShape) : Nat := if rg then x.m / 8 * x.steps else x.steps

def qnumOf : ASrc → BitVec 4
  | .ring q => q
  | .tensor _ _ => 0

def gaOf (s : State) : ASrc → Word
  | .ring _ => 0
  | .tensor _ ga => s.getG ga

def opMma (rg : Bool) (e : EFlags) (shape : BitVec 3) (f : Fmt) (acc : BitVec 2) (src : ASrc) (gb : BitVec 6) (s : State) : State :=
  s.resumeM fun s =>
    let x := shapeOf shape
    let b := bOp (s.getG gb)
    if isSup s.myCore then s.illegal
    else if s.tileTaken (tileOf s.myCore acc.toNat) then s.matrixTrap 0x01
    else if b.c0 % x.n ≠ 0 ∨ b.o % 64 ≠ 0 ∨ 65536 < b.o + x.k * f.bytes + boolNat b.bscale * x.steps then s.matrixTrap 0x02
    else
      (s.aCheck x f src).andThen fun (ring, d) s =>
        let s := s.useMatrix
        if allSteps rg x ≤ b.progress then (s.setG gb (putProgress (s.getG gb) 0)).advance 8
        else
          (s.ownTile acc).issueM { s.newM (if rg then .rg else .mma) e f acc with
            shape := shape, ring := ring, qnum := qnumOf src, ga := gaOf s src, gb := s.getG gb, gbReg := gb, tensor := d, step := b.progress }
def execMma (e : EFlags) (shape : BitVec 3) (f : Fmt) (acc : BitVec 2) (src : ASrc) (gb : BitVec 6) (s : State) : Out :=
  .next (opMma false e shape f acc src gb s)
def execMmaRg (e : EFlags) (shape : BitVec 3) (f : Fmt) (acc : BitVec 2) (q : BitVec 4) (gb : BitVec 6) (s : State) : Out :=
  .next (opMma true e shape f acc (.ring q) gb s)

/-! ## BLD (R264) -/

/-- Rows and columns of the tensor block that BLD reads. -/
def bldBlock (tr : Bool) (k n : Nat) : Nat × Nat := if tr then (n, k) else (k, n)

def opBld (e : EFlags) (tr : Bool) (f : Fmt) (id : BitVec 16) (ga gb gc : BitVec 6) (s : State) : State :=
  s.resumeM fun s =>
    let a := (s.getG ga).toNat
    let b := bOp (s.getG gb)
    let k := bitsNat (s.getG gc).toNat 8 0
    let n := bitsNat (s.getG gc).toNat 24 16
    if isSup s.myCore then s.illegal
    else if k % 32 ≠ 0 ∨ k = 0 ∨ 256 < k ∨ n = 0 ∨ 256 < b.c0 + n ∨ b.o % 64 ≠ 0 ∨
        65536 < b.o + k * f.bytes + boolNat b.bscale * (k / 32) then s.matrixTrap 0x02
    else
      let d := s.tensorOf s.me.asid id.toNat
      let (rows, cols) := bldBlock tr k n
      match tensorReason d false (bitsNat a 31 0) rows (bitsNat a 63 32) cols f with
      | some r => s.tensorTrap id r
      | none =>
        if b.bscale && (!tr || decide (d.scale = 0) || decide (bitsNat a 63 32 % 32 ≠ 0)) then s.tensorTrap id 0x05
        else if !b.bscale && decide (d.scale ≠ 0) then s.tensorTrap id 0x05
        else
          s.useMatrix.issueM { s.newM .bld e f 0 with ga := s.getG ga, gb := s.getG gb, gc := s.getG gc, tensor := d, mode := tr }
def execBld (e : EFlags) (tr : Bool) (f : Fmt) (tid : BitVec 16) (ga gb gc : BitVec 6) (s : State) : Out :=
  .next (opBld e tr f tid ga gb gc s)

/-! ## AST (R266, R267) -/

/-- The window of AST's gb: its multiplier and its clipped extents. -/
structure AWin where
  mul   : Nat
  mulen : Bool
  tr0   : Nat
  tc0   : Nat
  rows  : Nat
  cols  : Nat
  deriving DecidableEq, Repr

def aWin (w : Word) : AWin :=
  let x := w.toNat
  let tr0 := bitsNat x 30 24
  let tc0 := bitsNat x 23 16
  ⟨bitsNat x 63 32, w.getLsbD 31, tr0, tc0, min (tr0 + bitsNat x 6 0) 127 + 1 - tr0, min (tc0 + bitsNat x 15 8) 255 + 1 - tc0⟩

/-- The draws an AST takes. -/
def astDraws (f : Fmt) (r : Rnd) (w : AWin) : Nat :=
  if f = .fp32 ∧ w.mulen = false then 0 else if r = .sr then w.rows * w.cols else 0

def opAst (e : EFlags) (z : Bool) (f : Fmt) (r : Rnd) (id : BitVec 16) (acc : BitVec 2) (ga gb : BitVec 6) (s : State) : State :=
  s.resumeM fun s =>
    let a := (s.getG ga).toNat
    let w := aWin (s.getG gb)
    if isSup s.myCore then s.illegal
    else if s.tileTaken (tileOf s.myCore acc.toNat) then s.matrixTrap 0x01
    else
      let d := s.tensorOf s.me.asid id.toNat
      match tensorReason d true (bitsNat a 31 0) w.rows (bitsNat a 63 32) w.cols f with
      | some r => s.tensorTrap id r
      | none =>
        if d.scale ≠ 0 ∧ (bitsNat a 63 32 % 32 ≠ 0 ∨ w.cols % 32 ≠ 0) then s.tensorTrap id 0x05
        else
          let s := s.ownTile acc
          let c := { s.newM .ast e f acc with ga := s.getG ga, gb := s.getG gb, tensor := d, mode := z, rnd := r, sr := s.me.srstate }
          ({ s with me := { s.me with srstate := srSteps s.me.srstate (astDraws f r w) } } : State).issueM c
def execAst (e : EFlags) (z : Bool) (f : Fmt) (rnd : Rnd) (tid : BitVec 16) (acc : BitVec 2) (ga gb : BitVec 6) (s : State) : Out :=
  .next (opAst e z f rnd tid acc ga gb s)

/-! ## ACLR, MXW, MXWAIT (R269-R271) -/

/-- ACLR is never attached: the slot goes on as soon as the command stands in its queue. -/
def opAclr (acc : BitVec 2) (s : State) : State :=
  if isSup s.myCore then s.illegal
  else if s.tileTaken (tileOf s.myCore acc.toNat) then s.matrixTrap 0x01
  else
    (s.ownTile acc).issueM (s.newM .aclr ⟨0, false, false, false⟩ .fp32 acc)
def execAclr (acc : BitVec 2) (s : State) : Out := .next (opAclr acc s)

/-- MXW: the weight of the core's queue; 0 is stored as 1. -/
def opMxw (ga : BitVec 6) (s : State) : State :=
  if isSup s.myCore then s.illegal
  else
    let w := bitsNat (s.getG ga).toNat 3 0
    let c := s.cluster s.myArray
    (s.setCluster s.myArray { c with weights := c.weights.set (s.myQueue % 8) (if w = 0 then 1 else w) (Nat.mod_lt _ (by decide)) }).advance 4
def execMxw (ga : BitVec 6) (s : State) : Out := .next (opMxw ga s)

/-- Every matrix command of a task has completed. -/
def State.matrixQuiet (s : State) (tid : Nat) : Bool := s.mcmds.all (·.tid ≠ tid)

/-- MXWAIT: an acquire at device scope once the task has no matrix command left. -/
def opMxwait (s : State) : State := if s.matrixQuiet s.me.tid then (s.acquireAll s.myCore).advance 4 else s.park .mxwait
def execMxwait (s : State) : Out := .next (opMxwait s)

end Sys2Proof.Machine
end

