-- ==== Sys2Proof/Machine/MatrixSteps.lean ====
section
/-! DEFINITION. What a matrix array does on its own: the arbiter, K-steps, chunks, stops and completion (16 R246-R257; 17
R262-R268). A step for an array that performs no such command changes nothing (log 21). -/

namespace Sys2Proof.Machine

/-! ## The running command -/

def State.runningM (s : State) (cl : Nat) : Option MCmd :=
  match (s.cluster cl).runCmd with
  | some id => s.mcmds.find? (·.id == id)
  | none => none

def State.putM (s : State) (c : MCmd) : State := { s with mcmds := mapIf (·.id == c.id) (fun _ => c) s.mcmds }

/-- The array is free: the arbiter looks at its queues again. -/
def State.arrayFree (s : State) (cl : Nat) : State :=
  let r := s.cluster cl
  let s := s.setCluster cl { r with runCmd := none }
  if s.mcmds.any (·.cluster == cl) then s.raise (.matrixArbiterSelect cl) else s

/-- A queue has a command. -/
def State.queueBusy (s : State) (cl q : Nat) : Bool := s.mcmds.any fun c => c.cluster == cl && c.queue == q && c.inQueue

/-- An entry of a queue has freed: the command that has waited longest for one takes it (R245). A queue that is empty has ended its turn
(R247). -/
def State.entryFree (s : State) (cl q : Nat) : State :=
  match s.mcmds.find? fun c => c.cluster == cl && c.queue == q && c.phase == .waiting with
  | some c =>
    if s.queueLength cl q < 16 then
      let s := ({ s with mcmds := mapIf (·.id == c.id) MCmd.entered s.mcmds }).wakeArray cl
      if c.atOnce then s.completeSlot c.key id 4 else s
    else s
  | none =>
    let r := s.cluster cl
    if !s.queueBusy cl q && r.lastQ == q then s.setCluster cl { r with turnLeft := 0 } else s

/-- A command leaves its queue, or gives up its place: its entry frees. -/
def State.dropM (s : State) (c : MCmd) : State :=
  let s := ({ s with mcmds := s.mcmds.filter (·.id ≠ c.id) }).leavePortE c.key c.id
  let s := if c.inQueue then s.entryFree c.cluster c.queue else s
  if (s.cluster c.cluster).runCmd = some c.id then s.arrayFree c.cluster else s

/-- The command's slot still holds it. -/
def State.heldM (s : State) (c : MCmd) : Bool := s.holds c.key c.id

def State.mWho (s : State) (c : MCmd) : EWho :=
  ⟨s.towerOf (coreOfKey c.key), c.cluster, coreOfKey c.key, c.asid, c.queue, 0, c.e.acq⟩

/-- Writes the steps done into gb of the slot. -/
def State.putSteps (s : State) (c : MCmd) (n : Nat) : State :=
  let x := s.ctx c.key
  s.setCtx c.key (x.setG c.gbReg (putProgress (x.getG c.gbReg) n))

/-! ## Stops (R254, R268) -/

/-- An AST that has not begun leaves the generator as it was (07 R118). -/
def State.undoDraws (s : State) (c : MCmd) : State :=
  match c.op with
  | .ast => s.setCtx c.key { s.ctx c.key with srstate := c.sr }
  | .mma | .rg | .bld | .aclr => s

/-- A translation fault stops the command and suspends the task, pc at the instruction. -/
def State.faultM (s : State) (c : MCmd) (va : Nat) : State := ((s.dropM c).undoDraws c).beginSuspendKey c.key (.pageFault va)

/-- A missing right traps (05 R330: source 0xD for a handle's control block, else 0xC; of a ring's slots, from which MMA and MMA.RG take rows of A,
the table says nothing: 0xC with number 0 is the model's DESIGN CHOICE, log 88). -/
def State.deniedM (s : State) (c : MCmd) (src num va : Nat) : State :=
  ((s.dropM c).undoDraws c).trapKey c.key 0x03 (accessInfo src num va)

def State.trapM (s : State) (c : MCmd) (reason : Nat) : State := ((s.dropM c).undoDraws c).trapKey c.key 0x0C (BitVec.ofNat 64 reason)

/-- MATRIX_COMMAND_STOP: an attached command whose slot is being halted stops at the progress point it stands at. -/
def opMatrixCommandStop (cl : Nat) (s : State) : State :=
  match s.runningM cl with
  | some c => if c.phase = .attached ∧ s.heldM c = false then (s.dropM c).undoDraws c else s
  | none => s
def execMatrixCommandStop (cluster : Nat) (s : State) : Out := .next (opMatrixCommandStop cluster s)

/-! ## The arbiter (R247) -/

/-- The queue whose command comes next, and what is left of its turn. -/
def State.nextQueue (s : State) (cl : Nat) : Option (Nat × Nat) :=
  let r := s.cluster cl
  if 0 < r.turnLeft && s.queueBusy cl r.lastQ then some (r.lastQ, r.turnLeft - 1)
  else
    match ((List.range 8).map fun i => (r.lastQ + 1 + i) % 8).find? (s.queueBusy cl) with
    | some q => some (q, (r.weights[q % 8]'(Nat.mod_lt _ (by decide))) - 1)
    | none => none

/-! ## The start of a command -/

/-- The lines an attached BLD or AST translates: those of the tensor block's elements and scales. -/
def MCmd.blockLines (c : MCmd) (rows cols : Nat) : List Nat :=
  let a := c.ga.toNat
  let r0 := bitsNat a 31 0
  let c0 := bitsNat a 63 32
  let e := c.fmt.bytes
  let add (l : List Nat) (va n : Nat) : List Nat := (upFrom (va / 128) ((va + n - 1) / 128 + 1 - va / 128)).foldl sins l
  (List.range rows).foldl (fun l i =>
    let l := (List.range cols).foldl (fun l j => add l (c.tensor.addr (r0 + i) (c0 + j)) e) l
    if c.tensor.scale = 0 then l
    else (List.range (ceilDiv cols 32)).foldl (fun l b => add l (c.tensor.scaleAddr (r0 + i) (c0 / 32 + b)) 1) l) []

/-- Translates a list of virtual lines. -/
def State.mapLines (s : State) (w : EWho) (acc : Acc) : List Nat → Eng (List (Nat × Nat))
  | [] => .ok [] s
  | l :: t =>
    (s.engXlate w (l * 128) (s.classAt w.core (l * 128)) acc).bind fun pa s =>
      (s.mapLines w acc t).bind fun rest s => .ok ((l, pa / 128) :: rest) s

/-- The block a BLD reads or an AST writes. -/
def MCmd.block (c : MCmd) : Nat × Nat :=
  match c.op with
  | .bld => bldBlock c.mode (bitsNat c.gc.toNat 8 0) (bitsNat c.gc.toNat 24 16)
  | .ast => ((aWin c.gb).rows, (aWin c.gb).cols)
  | .mma | .rg | .aclr => (0, 0)

/-- A command that has been chosen and must wait before it starts keeps its queue's turn, and the arbiter looks again. -/
def State.reselect (s : State) (c : MCmd) : State :=
  let r := s.cluster c.cluster
  (s.setCluster c.cluster { r with runCmd := none, turnLeft := r.turnLeft + 1 }).raise (.matrixArbiterSelect c.cluster)

/-- The attached phase of BLD and AST: every page is translated, then the instruction completes in its slot. -/
def State.startBlock (s : State) (c : MCmd) (acc : Acc) : State :=
  let (rows, cols) := c.block
  match s.mapLines (s.mWho c) acc (c.blockLines rows cols) with
  | .fault va s => s.faultM c va
  | .denied va s => s.deniedM c 0xC 0 va
  | .wait s => s.reselect c
  | .ok m s => ((s.putM { c with map := m, phase := .detached }).detachKey c.key id).raise (.matrixCommandComplete c.cluster)

/-- The control block, read with an acquire in every case (R256). -/
def State.ringRead (s : State) (c : MCmd) (q : QReg) : Eng (List PByte) := s.engRead { s.mWho c with acq := true } q.ctrl.toNat 16

def pringCounts (l : List PByte) : RingCounts := ringCounts (l.map (·.1))

/-- The step that follows the start of an MMA or MMA.RG. -/
def State.firstStep (s : State) (c : MCmd) : State :=
  match c.op with
  | .rg => s.raise (.mmaRgChunkStart c.cluster)
  | .mma | .bld | .ast | .aclr => s.raise (.mmaKStep c.cluster)

/-- Pays for a command's reads or writes; the port may not let them leave yet. -/
def State.payM (s : State) (c : MCmd) (cost : Nat) : MCmd × State :=
  let (n, s) := s.engPay c.key c.asid c.id cost c.paid
  let c := { c with paid := n }
  (c, s.putM c)

/-- The start of an MMA or MMA.RG: a ring's control block is read with an acquire, and MMA needs its M rows filled. The progress of an MMA.RG is that of
whole chunks (R254). -/
def State.startMma (s : State) (c : MCmd) : State :=
  match c.ring with
  | none => (s.putM { c with phase := .attached }).firstStep c
  | some q =>
    let (c, s) := s.payM c 32
    if c.paid < 32 then s.reselect c
    else
      match s.ringRead c q with
      | .fault va s => s.faultM c va
      | .denied va s => s.deniedM c 0xD c.qnum.toNat va
      | .wait s => s.reselect c
      | .ok bs s =>
        let n := pringCounts bs
        if anyPoison bs then s.trapM c 0x05
        else if c.op = .mma ∧ n.filled.toNat < (shapeOf c.shape).m then s.trapM c 0x04
        else
          let s := (s.putM { c with phase := .attached, head := n.head.toNat, paid := 0 }).firstStep c
          s.putSteps c (if c.op = .rg then c.step / (shapeOf c.shape).steps * (shapeOf c.shape).steps else c.step)

/-- The chosen command starts. -/
def State.startM (s : State) (c : MCmd) : State :=
  match c.op with
  | .mma | .rg => s.startMma c
  | .bld => s.startBlock c .engRead
  | .ast => s.startBlock c .engWrite
  | .aclr => s.raise (.matrixCommandComplete c.cluster)

/-- MATRIX_ARBITER_SELECT: an idle array takes the next command. -/
def opMatrixArbiterSelect (cl : Nat) (s : State) : State :=
  if (s.cluster cl).runCmd.isSome then s
  else
    match s.nextQueue cl with
    | none => s
    | some (q, left) =>
      match s.mcmds.find? fun c => c.cluster == cl && c.queue == q && c.inQueue with
      | none => s
      | some c => (s.setCluster cl { s.cluster cl with lastQ := q, turnLeft := left, runCmd := some c.id }).startM c
def execMatrixArbiterSelect (cluster : Nat) (s : State) : Out := .next (opMatrixArbiterSelect cluster s)

/-! ## Reads of memory, piece by piece (01 R16) -/

/-- What a list of accesses touches of each 32-byte piece of memory: an address and a number of bytes. -/
def touched (l : List (Nat × Nat)) : List (Nat × Nat) :=
  let t := (l.flatMap fun x => piecesOf x.1 x.2).foldl (fun (t : Table (Nat × Nat)) x =>
    let old := (tfind t (x.1 / 32)).getD (x.1, x.1 + x.2)
    tset t (x.1 / 32) (min old.1 x.1, max old.2 (x.1 + x.2))) []
  t.map fun e => (e.2.1, e.2.2 - e.2.1)

/-- What a command has not read yet of a list of accesses. -/
def MCmd.unread (c : MCmd) (l : List (Nat × Nat)) : List (Nat × Nat) := (touched l).filter fun p => c.got.all (·.1 ≠ p.1)

/-- Bytes that a command has read. -/
def MCmd.gotBytes (c : MCmd) (va n : Nat) : List PByte :=
  (upFrom va n).map fun a =>
    match c.got.find? fun e => e.1 / 32 == a / 32 with
    | some e => e.2.getD (a - e.1) (unlisted, false)
    | none => (unlisted, false)

def MCmd.gotElems (c : MCmd) (l : List (Nat × Nat)) : List (List PByte) := l.map fun x => c.gotBytes x.1 x.2

/-- Reads one more piece of a list of accesses, which of them being free; the answer is the command once all of them have been read. -/
def State.readOn (s : State) (c : MCmd) (l : List (Nat × Nat)) : Eng (Option MCmd) :=
  match takeAny s.free (c.unread l) with
  | none => .ok (some c) s
  | some (p, rest) =>
    (({ s with free := s.free + 1 } : State).engRead (s.mWho c) p.1 p.2).bind fun bs s =>
      let c := { c with got := c.got ++ [(p.1, bs)] }
      .ok (if rest = [] then some c else none) (s.putM c)

/-! ## Operands of a K-step (R249, R251) -/

/-- The addresses of the 32 elements of row `i` of A in K-step `j`. -/
def MCmd.aElems (c : MCmd) (i j : Nat) : List (Nat × Nat) :=
  let e := c.fmt.bytes
  match c.ring with
  | some q =>
    let row := q.slots.toNat + (c.head + i) % 2 ^ q.m.toNat * 2 ^ q.s.toNat
    (List.range 32).map fun k => (row + (32 * j + k) * e, e)
  | none =>
    let a := c.ga.toNat
    (List.range 32).map fun k => (c.tensor.addr (bitsNat a 31 0 + i) (bitsNat a 63 32 + 32 * j + k), e)

/-- The address of row i's scale in K-step j, where the descriptor carries one. -/
def MCmd.aScale (c : MCmd) (i j : Nat) : List (Nat × Nat) :=
  if c.ring.isSome || decide (c.tensor.scale = 0) then []
  else [(c.tensor.scaleAddr (bitsNat c.ga.toNat 31 0 + i) (bitsNat c.ga.toNat 63 32 / 32 + j), 1)]

/-- Bytes of the B-store: bank and offset. -/
def bAddr (cl bank off : Nat) : Nat := cl * 2 ^ 24 + bank * 65536 + off

def State.bBytes (s : State) (cl bank off n : Nat) : List PByte :=
  (upFrom (bAddr cl bank off) n).map fun a => (mget s.bstore a, smem s.bstorePoison (a / 32))

/-- The elements of column n of B in K-step j, and its scale. -/
def MCmd.bElems (c : MCmd) (s : State) (n j : Nat) : List (List PByte) :=
  let b := bOp c.gb
  let e := c.fmt.bytes
  (List.range 32).map fun k => s.bBytes c.cluster (b.c0 + n) (b.o + (32 * j + k) * e) e

def MCmd.bScale (c : MCmd) (s : State) (n j : Nat) : List (List PByte) :=
  let b := bOp c.gb
  if b.bscale then [s.bBytes c.cluster (b.c0 + n) (b.o + (shapeOf c.shape).k * c.fmt.bytes + j) 1] else []

def oneVal : Val := .fin false 1 0

/-- The scale of a step: 1 where there is none. -/
def scaleOf (l : List (List PByte)) : Val :=
  match l with
  | b :: _ => scaleVal ((b.map (·.1)).getD 0 0)
  | [] => oneVal

def valsOf (f : Fmt) (l : List (List PByte)) : List Val := l.map fun b => f.decode (pbyteNat b)

/-- What a row of A gives a K-step. -/
structure ARow where
  row   : Nat
  vals  : List Val
  scale : Val

/-- Adds K-step j to the tile rows given, for every column (07 R121). -/
def MCmd.addStep (c : MCmd) (bcols : List (List Val × Val)) (tile : Table (BitVec 32)) (a : ARow) : Table (BitVec 32) :=
  (bcols.zip (List.range bcols.length)).foldl (fun t b =>
    let key := c.tile * 32768 + a.row * 256 + b.2
    let ps := (a.vals.zip b.1.1).map fun p => p.1.mul p.2
    tset t key (BitVec.ofNat 32 (kStep (tget 0#32 t key).toNat ps a.scale b.1.2))) tile

/-- The columns of B for K-step j, or none where a piece is poisoned. -/
def MCmd.bColumns (c : MCmd) (s : State) (j : Nat) : Option (List (List Val × Val)) :=
  let cols := (List.range (shapeOf c.shape).n).map fun n => (c.bElems s n j, c.bScale s n j)
  if cols.any fun x => x.1.any anyPoison || x.2.any anyPoison then none
  else some (cols.map fun x => (valsOf c.fmt x.1, scaleOf x.2))

/-- The rows of A for K-step j, of the bytes read, or none where a piece is poisoned. -/
def MCmd.aRows (c : MCmd) (rows : List Nat) (j : Nat) : Option (List ARow) :=
  let l := rows.map fun i => (i, c.gotElems (c.aElems i j), c.gotElems (c.aScale i j))
  if l.any fun x => x.2.1.any anyPoison || x.2.2.any anyPoison then none
  else some (l.map fun x => ⟨x.1, valsOf c.fmt x.2.1, scaleOf x.2.2⟩)

/-- The accesses of the rows of A in some K-steps. -/
def MCmd.aAccesses (c : MCmd) (rows steps : List Nat) : List (Nat × Nat) :=
  rows.flatMap fun i => steps.flatMap fun j => c.aElems i j ++ c.aScale i j

/-- The instruction completes in its slot, gb's progress cleared, once the last operand piece has been read. -/
def State.finishMma (s : State) (c : MCmd) : State :=
  (((s.putSteps c 0).detachKey c.key id).putM { c with phase := .detached }).raise (.matrixCommandComplete c.cluster)

/-! ## MMA_K_STEP (R253, R262) -/

/-- The arithmetic of a K-step whose operands have been read. -/
def State.addKStep (s : State) (c : MCmd) : State :=
  let x := shapeOf c.shape
  match c.aRows (List.range x.m) c.step, c.bColumns s c.step with
  | some a, some b =>
    let s := { s with acc := a.foldl (c.addStep b) s.acc }
    let c := { c with step := c.step + 1, paid := 0, got := [] }
    let s := (s.putM c).putSteps c c.step
    if x.steps ≤ c.step then s.finishMma c else s.raise (.mmaKStep c.cluster)
  | _, _ => s.trapM c 0x05

def State.kStepM (s : State) (c : MCmd) : State :=
  let l := c.aAccesses (List.range (shapeOf c.shape).m) [c.step]
  let (c, s) := s.payM c (engineCost l)
  if c.paid < engineCost l then s.raise (.mmaKStep c.cluster)
  else
    match s.readOn c l with
    | .fault va s => s.faultM c va
    | .denied va s => s.deniedM c 0xC 0 va
    | .wait s | .ok none s => s.raise (.mmaKStep c.cluster)
    | .ok (some c) s => s.addKStep c

def opMmaKStep (cl : Nat) (s : State) : State :=
  match s.runningM cl with
  | some c => if c.op = .mma ∧ c.phase = .attached ∧ s.heldM c then s.kStepM c else s
  | none => s
def execMmaKStep (cluster : Nat) (s : State) : Out := .next (opMmaKStep cluster s)

/-! ## MMA_RG_CHUNK_START (R253, R263): the chunk's count and rows are read, and all its K-steps are added -/

/-- All the K-steps of a chunk, or nothing where a piece is poisoned. The columns of B are read for a chunk none of whose rows is filled too (DESIGN
CHOICE, log 94). -/
def MCmd.chunkSteps (c : MCmd) (s : State) (rows : List Nat) : List Nat → Table (BitVec 32) → Option (Table (BitVec 32))
  | [], t => some t
  | j :: js, t =>
    match c.aRows rows j, c.bColumns s j with
    | some a, some b => c.chunkSteps s rows js (a.foldl (c.addStep b) t)
    | _, _ => none

/-- The arithmetic of a chunk whose rows have been read. -/
def State.addChunk (s : State) (c : MCmd) (rows : List Nat) : State :=
  let x := shapeOf c.shape
  match c.chunkSteps s rows (List.range x.steps) s.acc with
  | none => s.trapM c 0x05
  | some t =>
    let c := { c with step := (c.step / x.steps + 1) * x.steps, paid := 0, count := none, got := [] }
    let s := (({ s with acc := t }).putM c).putSteps c c.step
    if allSteps true x ≤ c.step then s.finishMma c else s.raise (.mmaRgChunkStart c.cluster)

/-- The rows of a chunk that take part: those filled by its count. -/
def MCmd.chunkOf (c : MCmd) (filled : Nat) : List Nat :=
  (upFrom (8 * (c.step / (shapeOf c.shape).steps)) 8).filter fun i => decide (i < filled)

/-- The chunk once its count is known. -/
def State.chunkRows (s : State) (c : MCmd) (filled : Nat) : State :=
  let rows := c.chunkOf filled
  let l := c.aAccesses rows (List.range (shapeOf c.shape).steps)
  let (c, s) := s.payM c (32 + engineCost l)
  if c.paid < 32 + engineCost l then s.raise (.mmaRgChunkStart c.cluster)
  else
    match s.readOn c l with
    | .fault va s => s.faultM c va
    | .denied va s => s.deniedM c 0xC 0 va
    | .wait s | .ok none s => s.raise (.mmaRgChunkStart c.cluster)
    | .ok (some c) s => s.addChunk c rows

/-- A chunk starts with its count read, made once. -/
def State.chunkM (s : State) (c : MCmd) (q : QReg) : State :=
  match c.count with
  | some n => s.chunkRows c n
  | none =>
    let (c, s) := s.payM c 32
    if c.paid < 32 then s.raise (.mmaRgChunkStart c.cluster)
    else
      match s.ringRead c q with
      | .fault va s => s.faultM c va
      | .denied va s => s.deniedM c 0xD c.qnum.toNat va
      | .wait s => s.raise (.mmaRgChunkStart c.cluster)
      | .ok bs s =>
        let n := (pringCounts bs).filled.toNat
        if anyPoison bs then s.trapM c 0x05 else s.chunkRows { c with count := some n } n

def opMmaRgChunkStart (cl : Nat) (s : State) : State :=
  match s.runningM cl with
  | some c =>
    match c.ring with
    | some q => if c.op = .rg ∧ c.phase = .attached ∧ s.heldM c then s.chunkM c q else s
    | none => s
  | none => s
def execMmaRgChunkStart (cluster : Nat) (s : State) : Out := .next (opMmaRgChunkStart cluster s)

/-! ## The detached part of BLD (R264, R265) -/

/-- The physical address of a byte of a translated block; the line is looked up again where it still translates (09 R157). -/
def State.blockPa (s : State) (c : MCmd) (acc : Acc) (va : Nat) : Nat :=
  match s.engXlate (s.mWho c) va (s.classAt (coreOfKey c.key) va) acc with
  | .ok pa _ => pa
  | .fault .. | .denied .. | .wait _ =>
    (match c.map.find? (·.1 == va / 128) with | some p => p.2 | none => 0) * 128 + va % 128

/-- The tower has what the home of a line of a block has performed, where the command acquires (R256). -/
def State.reachBlock (s : State) (c : MCmd) (l : Nat) : State :=
  let t := (s.mWho c).tower
  if (s.pinOf l).isSome || (!c.e.acq && (s.rdcOf t (l * 128)).isSome) then s
  else if c.e.acq then s.reachHome t (l * 128)
  else (s.reachHome t (l * 128)).rdcAdd t (l * 128)

def State.blockBytes (s : State) (c : MCmd) (va n : Nat) : List PByte :=
  let t := (s.mWho c).tower
  (upFrom va n).map fun a =>
    let pa := s.blockPa c .engRead a
    if c.e.acq then (s.placeByte pa, s.placePoison pa) else (s.sharedByte t pa, s.sharedPoison t pa)

/-- The element and scale accesses of a BLD or AST. -/
def MCmd.blockAccesses (c : MCmd) : List (Nat × Nat) :=
  let (rows, cols) := c.block
  let r0 := bitsNat c.ga.toNat 31 0
  let c0 := bitsNat c.ga.toNat 63 32
  (List.range rows).flatMap fun i =>
    ((List.range cols).map fun j => (c.tensor.addr (r0 + i) (c0 + j), c.fmt.bytes)) ++
      (if c.tensor.scale = 0 then [] else (List.range (ceilDiv cols 32)).map fun b => (c.tensor.scaleAddr (r0 + i) (c0 / 32 + b), 1))

/-- The B-store bytes a BLD writes, of the bytes it has read. -/
def MCmd.bldCells (c : MCmd) : List (Nat × PByte) :=
  let a := c.ga.toNat
  let r0 := bitsNat a 31 0
  let c0 := bitsNat a 63 32
  let b := bOp c.gb
  let e := c.fmt.bytes
  let kk := bitsNat c.gc.toNat 8 0
  let nn := bitsNat c.gc.toNat 24 16
  let elems := (List.range kk).flatMap fun k => (List.range nn).flatMap fun n =>
    let src := if c.mode then c.tensor.addr (r0 + n) (c0 + k) else c.tensor.addr (r0 + k) (c0 + n)
    (upFrom (bAddr c.cluster (b.c0 + n) (b.o + k * e)) e).zip (c.gotBytes src e)
  let scales := if !b.bscale then [] else (List.range (kk / 32)).flatMap fun j => (List.range nn).flatMap fun n =>
    (upFrom (bAddr c.cluster (b.c0 + n) (b.o + kk * e + j)) 1).zip (c.gotBytes (c.tensor.scaleAddr (r0 + n) (c0 / 32 + j)) 1)
  elems ++ scales

/-- Writes B-store bytes: a piece written whole loses earlier poison, a poisoned source poisons the piece it fills. -/
def State.putB (s : State) (cs : List (Nat × PByte)) : State :=
  let pieces := (cs.map (·.1 / 32)).foldl sins []
  { s with
    bstore := mputs s.bstore (cs.map fun c => (c.1, c.2.1)),
    bstorePoison := pieces.foldl (fun l p =>
      if poisoned p cs then sins l p else if covered p cs = 32 then sdel l p else l) s.bstorePoison }

/-! ## The detached part of AST (R267) -/

/-- x × 2^n. -/
def valShift (v : Val) (n : Int) : Val := v.mul (.fin false 1 n)

/-- The larger of a magnitude and that of a finite value. -/
def amaxStep (m : Dy) (v : Val) : Dy :=
  match v with
  | .fin _ man exp => if (⟨man, exp⟩ : Dy).cmp m = .gt then ⟨man, exp⟩ else m
  | .inf _ | .nan => m

/-- The scale code of a block of values. -/
def scaleCode (f : Fmt) (vs : List Val) : Nat :=
  let m := vs.foldl amaxStep ⟨0, 0⟩
  let e : Int := match f with | .e4m3 => 8 | .e5m2 => 15 | _ => 6
  if m.m = 0 then 127
  else
    let fl : Int := (Nat.log2 m.m.natAbs : Int) + m.e
    (min 254 (max 0 (fl - e + 127))).toNat

/-- Rounds a row's values in order, a draw for each under SR. -/
def roundRow (f : Fmt) (r : Rnd) (draws : Bool) : List Val → Word → List Nat × Word
  | [], w => ([], w)
  | v :: t, w =>
    let w := if draws then srNext w else w
    let (l, w') := roundRow f r draws t w
    (f.round r v (srDraw w) :: l, w')

/-- A window row: its values, scale codes, and poison of each element's tile piece. -/
def MCmd.rowVals (c : MCmd) (s : State) (w : AWin) (i : Nat) : List (Val × Bool) :=
  (List.range w.cols).map fun j =>
    let key := c.tile * 32768 + (w.tr0 + i) * 256 + (w.tc0 + j)
    let v := f32 (tget 0#32 s.acc key).toNat
    (if w.mulen then v.mul (f32 w.mul) else v, smem s.accPoison (key / 8))

/-- The bytes AST writes for its window rows from `i` on, by virtual address. -/
def MCmd.astRows (c : MCmd) (s : State) (w : AWin) : List Nat → Word → List (Nat × PByte)
  | [], _ => []
  | i :: t, sr =>
    let r0 := bitsNat c.ga.toNat 31 0
    let c0 := bitsNat c.ga.toNat 63 32
    let row := c.rowVals s w i
    let scaled : Bool := c.tensor.scale != 0
    let codes := if scaled then (List.range (w.cols / 32)).map fun b => scaleCode c.fmt (((row.drop (32 * b)).take 32).map (·.1)) else []
    let vals := if scaled then (row.zip (List.range row.length)).map fun x => valShift x.1.1 (127 - ((codes.getD (x.2 / 32) 127 : Nat) : Int))
      else row.map (·.1)
    let (bits, sr) := roundRow c.fmt c.rnd (astDraws c.fmt c.rnd w != 0) vals sr
    let elems := ((bits.zip row).zip (List.range bits.length)).flatMap fun x =>
      let va := c.tensor.addr (r0 + i) (c0 + x.2)
      ((upFrom va c.fmt.bytes).zip (leBytes c.fmt.bytes x.1.1)).map fun b => (b.1, (b.2, x.1.2.2))
    let scales := (codes.zip (List.range codes.length)).map fun x =>
      (c.tensor.scaleAddr (r0 + i) (c0 / 32 + x.2), (BitVec.ofNat 8 x.1, false))
    scales ++ elems ++ c.astRows s w t sr

/-- .Z zeroes the window; a tile piece wholly inside it loses its poison. -/
def State.zeroWindow (s : State) (tile : Nat) (w : AWin) : State :=
  let inRow (key : Nat) : Bool := decide (key / 32768 = tile ∧ w.tr0 ≤ key % 32768 / 256 ∧ key % 32768 / 256 < w.tr0 + w.rows)
  let inWin (key : Nat) : Bool := inRow key && decide (w.tc0 ≤ key % 256 ∧ key % 256 < w.tc0 + w.cols)
  { s with acc := s.acc.filter (fun p => !inWin p.1), accPoison := s.accPoison.filter (fun p => !(inWin (p * 8) && inWin (p * 8 + 7))) }

/-! ## MATRIX_COMMAND_COMPLETE (R246) -/

/-- A slot parked at MXWAIT goes on once its task has no command left (R271). -/
def State.wakeMx (s : State) (tid : Nat) : State :=
  if s.matrixQuiet tid then
    match s.keyOf tid with
    | some k => if (s.ctx k).run = .parked .mxwait then (s.acquireAll (coreOfKey k)).completeSlot k id 4 else s
    | none => s
  else s

/-- The command's last write is done: its entry frees, and the arbiter looks again. -/
def State.endM (s : State) (c : MCmd) : State := (s.dropM c).wakeMx c.tid

/-- A completion is looked at again. -/
def State.againM (s : State) (c : MCmd) : State := s.raise (.matrixCommandComplete c.cluster)

/-- A BLD that has read its block writes the B-store. -/
def State.fillB (s : State) (c : MCmd) : State := (s.putB c.bldCells).endM c

/-- Reads one piece of a detached BLD's block, which of them being free, unless another cluster pins its line. -/
def State.bldPiece (s : State) (c : MCmd) : State :=
  match takeAny s.free (c.unread c.blockAccesses) with
  | none => s.fillB c
  | some ((va, n), rest) =>
    let l := s.blockPa c .engRead va / 128
    if s.pinnedAway (some c.cluster) l then ({ s with free := s.free + 1 } : State).againM c
    else
      let s := ({ s with free := s.free + 1 } : State).reachBlock c l
      let c := { c with got := c.got ++ [(va, s.blockBytes c va n)] }
      let s := s.putM c
      if rest = [] then s.fillB c else s.againM c

/-- The reads of a detached BLD, charged at the port, and then its B-store writes. -/
def State.completeBld (s : State) (c : MCmd) : State :=
  let cost := engineCost c.blockAccesses
  let (c, s) := s.payM c cost
  if c.paid < cost then s.againM c else s.bldPiece c

/-- An AST reads its window, zeroes it under .Z, and is due to write its pieces. -/
def State.astWindow (s : State) (c : MCmd) : State :=
  let w := aWin c.gb
  let cs := c.astRows s w (List.range w.rows) c.sr
  let ps := (cs.map (·.1 / 32)).foldl sins []
  let c := { c with outs := some (ps.map fun p => (p, cs.filter fun x => x.1 / 32 == p)) }
  ((if c.mode then s.zeroWindow c.tile w else s).putM c).againM c

/-- Writes one piece of an AST, which one being free; each is single-copy atomic (01 R16). -/
def State.astPiece (s : State) (c : MCmd) (l : List (Nat × List (Nat × PByte))) : State :=
  match takeAny s.free l with
  | none => s.endM c
  | some ((p, cs), rest) =>
    let s := { s with free := s.free + 1 }
    let pa := s.blockPa c .engWrite (p * 32)
    let w := s.mWho c
    let s := s.engUnpin w c.tid c.e.scope pa
    if s.engWait w c.e.scope pa then s.againM c
    else
      let s := s.putPiece w.tower (cs.map fun x => (pa + x.1 % 32, x.2)) (pa / 32)
      let c := { c with outs := some rest, clock := s.vc w.tower }
      (s.putM c).againM c

/-- A detached AST: its window, its charge at the port, its pieces; at system scope it ends once every tower has applied them (10 R176). -/
def State.completeAst (s : State) (c : MCmd) : State :=
  match c.outs with
  | none => s.astWindow c
  | some [] => if c.e.scope = 0b11 ∧ !s.allApplied c.clock then s.againM c else s.endM c
  | some l =>
    let cost := engineCost c.blockAccesses
    let (c, s) := s.payM c cost
    if c.paid < cost then s.againM c else s.astPiece c l

def State.completeM (s : State) (c : MCmd) : State :=
  match c.op with
  | .mma | .rg => s.endM c
  | .aclr => (s.zeroTile c.tile).endM c
  | .bld => s.completeBld c
  | .ast => s.completeAst c

def opMatrixCommandComplete (cl : Nat) (s : State) : State :=
  match s.runningM cl with
  | some c => if c.phase = .detached then s.completeM c else s
  | none => s
def execMatrixCommandComplete (cluster : Nat) (s : State) : Out := .next (opMatrixCommandComplete cluster s)

end Sys2Proof.Machine
end

