-- ==== Sys2Proof/Machine/Front.lean ====
section
/-! DEFINITION. What the dispatcher and the host front end share with the engines: launches submitted by the device, completion
records and vectors (13 R210; 19 R285; 23 R315, R321). -/

namespace Sys2Proof.Machine

/-! ## Launches the device submits (R235, R285) -/

/-- The dispatcher's reads and checks of a launch block; the answer is the reason of a rejection, if it is rejected. -/
def State.dispatchBlock (s : State) (w : Who) (cls : Nat → Bool) (reader : Nat) (b : LBlock) (ind : Bool) : Got (Option Nat) :=
  match s.devReads w cls reader 2 b.desc 128 with
  | .wait s => .wait s
  | .none s => .ok (some 0x0C) s
  | .ok ds s =>
    let d := parseDesc b.desc ds
    match s.launchReason b d with
    | some r => .ok (some r) s
    | none =>
      match (if ind then s.devReads w cls reader 3 b.cntaddr 4 else .ok (leBytes 4 b.count) s) with
      | .wait s => .wait s
      | .none s => .ok (some 0x0C) s
      | .ok cs s =>
        let c := leNat cs
        if 2 ^ 24 - 1 < c then .ok (some 0x0B) s
        else if 0 < c ∧ s.somePosition b d = false then .ok (some 0x07) s
        else .ok none (s.addLaunch w.asid b d c)

/-- The step that reads on for a handler launch: an arrival that counts nothing, at no barrier of a core. -/
def handlerRetry (core bar : Nat) : Arrival := ⟨core, 128 + bar, 0, none, none, Vector.replicate 4 0⟩

/-- The handler launch of a barrier, for the task that holds it on a core, is submitted to the dispatcher, which reads its block (R285). -/
def State.launchHandler (s : State) (asid core bar block : Nat) : State :=
  ({ s with triggers := s.triggers ++ [(asid, core, bar, block)] }).raise (.barrierArrival (handlerRetry core bar))

/-- The numbers under which the dispatchers and the front end read: the command rings' packets are 0 to 15, a handler launch has its barrier's, a read
through BAR2 its own. -/
def handlerReader (core bar : Nat) : Nat := 16 + core * 128 + bar
def bar2Reader (addr len : Nat) : Nat := 2 ^ 20 + addr * 2 ^ 40 + len

/-- A handler launch is over. -/
def State.handled (s : State) (x : Nat × Nat × Nat × Nat) : State :=
  ({ s with triggers := s.triggers.erase x }).dropPartials (handlerReader x.2.1 x.2.2.1)

/-- The earliest handler launch of a barrier reads on: a rejection, a fault or poison writes a record and places no group (R285); a pinned line makes
it wait (10 R173). -/
def State.retryHandler (s : State) (core bar : Nat) : State :=
  match s.triggers.find? fun x => x.2.1 == core && x.2.2.1 == bar with
  | none => s
  | some x =>
    let w := soReader (s.towerOf core) x.1
    let cls := s.soClass (some core)
    let reader := handlerReader core bar
    let got := (s.devReads w cls reader 1 (x.2.2.2 * 16) 80).bind fun bs s => s.dispatchBlock w cls reader (parseBlock bs) false
    match got with
    | .wait s => s.raise (.barrierArrival (handlerRetry core bar))
    | .none s | .ok (some _) s => (s.handled x).report (.triggerRefused core bar)
    | .ok none s => s.handled x

/-! ## The front end (23 R315, R321) -/

/-- The front end in a fault record: its queue's index (log 23). -/
def feWho (asid : Nat) : Who := ⟨0, asid, 0xFFFF, 9, 0⟩

/-- The physical address of a host bus address (R316). -/
def hostPa (bus : Nat) : Nat := 0x8000000000000 + bus % 2 ^ 50

/-- The MSI-X table holds a mask bit for each vector, in the last word of its 16-byte entry (log 83). -/
def State.vectorMasked (s : State) (v : Nat) : Bool := (mget s.bar0 (0x3000C + 16 * v)).getLsbD 0

/-- An MSI-X vector is raised; one that is masked stays pending. -/
def State.vector (s : State) (v : Nat) : State :=
  if s.vectorMasked v then { s with msixPending := s.msixPending ||| (1#18 <<< v) } else { s with msix := s.msix ||| (1#18 <<< v) }

/-- The pending vectors that are masked no more are raised. -/
def State.unmask (s : State) : State :=
  (List.range 18).foldl (fun s v =>
    if s.msixPending.getLsbD v && !s.vectorMasked v then
      { s with msix := s.msix ||| (1#18 <<< v), msixPending := s.msixPending &&& ~~~(1#18 <<< v) }
    else s) s

/-- A front-end write to a physical address inside one line, with a signal; a stalled or pinned line makes it wait (10 R173). -/
def State.fePut (s : State) (pa : Nat) (data : List Byte) : Got Unit :=
  if s.frameStalled pa || (s.pinOf (pa / 128)).isSome then .wait s else .ok () ((s.performFrom 0 pa data true).signal pa)

/-- A write of the front end inside one line, with a signal. -/
def State.feWrite (s : State) (asid va : Nat) (data : List Byte) : Got Unit :=
  match s.translate (feWho asid) va false .write with
  | .ok pa s => s.fePut pa data
  | .fault s | .denied s => .none s

/-- A packet completes: its record is still to be written. -/
def State.packetEnd (s : State) (id status reason : Nat) : State :=
  { s with packets := mapIf (·.id == id) (fun p => { p with done := some (status, reason) }) s.packets }

end Sys2Proof.Machine
end

