-- ==== Sys2Proof/Machine/Copy.lean ====
section
/-! DEFINITION. Copy and post instructions at issue: their checks and queues; mailboxes, routing counters and barriers (19
R276-R292; 20 R295-R309). -/

namespace Sys2Proof.Machine

def State.copyTrap (s : State) (reason : Nat) : State := s.trap 0x0D (BitVec.ofNat 64 reason)

/-! ## The engine of a slot (R276, R277) -/

/-- A supervisor core uses the service queue of the first cluster of its tower. -/
def State.engineOf (s : State) (core : Nat) : Nat := if isSup core then s.firstCluster (s.towerOf core) else clusterOf core
def engineQueue (core : Nat) : Nat := if isSup core then 8 else indexOf core

/-- The port at which a command's reads are charged: the service port for a supervisor core and the front end. -/
def portOf (core : Nat) : Nat := if isSup core && decide (core < 1028) then core + 4 else core

/-- The slot whose port a command's reads leave through. -/
def ECmd.port (c : ECmd) : SlotKey := if portOf c.core = c.core then c.key else 4 * portOf c.core

/-- Commands of a queue that the engine has not started. -/
def State.engineWaiting (s : State) (cl q : Nat) : List ECmd := s.ecmds.filter fun c => c.cluster == cl && c.queue == q && c.phase == .queued

/-- A queue of 16 entries has one free, and no earlier command waits for it (R276). -/
def State.engineRoom (s : State) (cl q : Nat) : Bool :=
  decide ((s.engineWaiting cl q).length < 16) && s.ecmds.all fun c => !(c.cluster == cl && c.queue == q && c.phase == .waiting)

/-- A command of the issuing slot with nothing of its own set. -/
def State.newE (s : State) (op : EOp) (e : EFlags) : ECmd where
  id := s.nextId
  cluster := s.engineOf s.myCore
  queue := engineQueue s.myCore
  op := op
  key := s.cur
  tid := s.me.tid
  gid := s.me.gid
  asid := s.me.asid
  core := s.myCore
  e := e
  src := ⟨0, false, false⟩
  dst := ⟨0, false, false⟩
  srcReg := 0
  dstReg := 0
  len := 0
  prog := 0
  paid := 0
  gbReg := 0
  bar := none
  dstCore := 0
  ring := 0
  expert := 0
  table := 0
  mask := 0
  wx := 0
  wy := 0
  tag := 0
  box := 0
  entry := 0
  comp := 0
  status := 0
  phase := .queued
  pieces := []
  replays := []
  parts := []
  clock := Vector.replicate 4 0
  roomWait := false
  sent := false
  owed := 0
  links := []
  unacked := false
  packet := none

/-- A command that has left its slot enters its queue in the order of leaving; while that is full, the slot stalls and the command
keeps its place (R276). The slot holds the instruction until the command detaches (R278). -/
def State.enterE (s : State) (c : ECmd) : State :=
  let s := { s with ecmds := s.ecmds.filter (·.id ≠ c.id) }
  if s.engineRoom c.cluster c.queue then
    (({ s with ecmds := s.ecmds ++ [{ c with phase := .queued }] }).raise (.engineCommandStart c.cluster 0)).hold (.engine c.id)
  else ({ s with ecmds := s.ecmds ++ [{ c with phase := .waiting }] }).hold (.engine c.id)

/-- A command that has passed its checks leaves its slot; while the slot's earlier accesses keep it, it stands as it was checked (10
R176). -/
def State.leaveE (s : State) (c : ECmd) : State :=
  match s.engineLeave c.e with
  | .ok _ s => s.enterE c
  | .done s => { s with ecmds := s.ecmds.filter (·.id ≠ c.id) ++ [{ c with phase := .leaving }] }

/-- The issuing slot's command that has passed its checks already, or the checks. -/
def State.resumeE (s : State) (start : State → State) : State :=
  match s.ecmds.find? fun c => c.key == s.cur && c.phase == .leaving with
  | some c => s.leaveE c
  | none => start s

/-- A stopped execution that a command takes up again where it stopped (R278): no other has taken it up. -/
def State.continues (s : State) (c x : ECmd) : Bool :=
  x.phase == .stopped && x.tid == c.tid && x.op == c.op && x.prog == c.prog && x.src == c.src && x.dst == c.dst && x.len == c.len &&
    x.bar == c.bar && x.comp == c.comp && x.mask == c.mask && s.ecmds.all fun y => !y.parts.contains x.id

/-- A re-executed command with the parts of it that earlier executions have left to the engine, and the first failure they met. -/
def State.withParts (s : State) (c : ECmd) : ECmd :=
  match s.ecmds.find? (s.continues c) with
  | some x => { c with parts := x.id :: x.parts, status := x.status }
  | none => c

/-! ## The checks of R297 -/

/-- gc names a completion word that may be written. -/
def goodComp (w : Word) : Bool := decide (w = 0) || (decide (bitsNat w.toNat 63 56 = 0) && decide (w.toNat % 4 = 0))

/-- Checks 1, 2 and 4 of R88 with E, over a whole range; a service queue, which has no scratch, takes no scratch offset (R277). -/
def State.engCheck (s : State) (num : BitVec 4) (len : Nat) (wr : Bool) : Res Side :=
  let a := s.me.getA num
  let ea := a.ptr.toNat
  if ¬ (a.base.toNat ≤ ea ∧ ea + len ≤ a.limit.toNat) then .done (s.limitTrap num.toNat ea)
  else if !(if wr then a.w else a.r) || !a.e then .done (s.permTrap 0 num.toNat ea)
  else if a.scratch && isSup s.myCore then .done (s.copyTrap 0x04)
  else if a.scratch && decide (4096 * s.me.scratch < ea + len) then .done (s.limitTrap num.toNat ea)
  else .ok ⟨ea, a.scratch, a.cls⟩ s

/-- Barrier enable and number of gb (R296). -/
def gbBar (w : Word) : Option Nat := if w.getLsbD 39 then some (bitsNat w.toNat 38 32) else none
def gbProg (w : Word) : Nat := bitsNat w.toNat 63 40
def gbCore (w : Word) : Nat := bitsNat w.toNat 25 16

/-- gc, the register beside gb. -/
def State.gc (s : State) (gb : BitVec 6) : Word := s.getG (gb ^^^ 1)

/-- A form that reads a payload, once its checks have passed: a re-executed one that has read everything does nothing. -/
def State.engIssue (s : State) (c : ECmd) : State :=
  if c.len ≤ c.prog then s.advance 8 else ({ s with nextId := c.id + 1 }).leaveE (if c.prog = 0 then c else s.withParts c)

/-- A copy of no bytes enters no queue: its completion word is written, and it completes (20 R298). -/
def State.emptyCopy (s : State) (c : ECmd) : State :=
  (({ s with ecmds := s.ecmds ++ [{ c with phase := .detached }], nextId := c.id + 1 }).raise (.completionWordWrite c.id)).advance 8

/-! ## CPY and CPY.MC (R298-R300) -/

def opCpy (add : Bool) (e : EFlags) (ad sa : BitVec 4) (gb : BitVec 6) (s : State) : State :=
  s.resumeE fun s =>
    let w := s.getG gb
    let len := bitsNat w.toNat 23 0
    if !goodComp (s.gc gb) then s.copyTrap 0x02
    else
      (s.engCheck sa len false).andThen fun src s =>
        (s.engCheck ad len true).andThen fun dst s =>
          if add && (decide (src.addr % 4 ≠ 0) || decide (dst.addr % 4 ≠ 0) || decide (len % 32 ≠ 0)) then s.copyTrap 0x03
          else if (match gbBar w with | some b => !s.me.bars.contains b | none => false) then s.copyTrap 0x06
          else
            let c := { s.newE (if add then .add else .cpy) e with
              src := src, dst := dst, srcReg := sa, dstReg := ad, len := len, prog := gbProg w, gbReg := gb, bar := gbBar w, comp := (s.gc gb).toNat }
            if len = 0 then s.emptyCopy c else s.engIssue c
def execCpy (e : EFlags) (ad sa : BitVec 4) (gb : BitVec 6) (s : State) : Out := .next (opCpy false e ad sa gb s)
def execCpyAdd (e : EFlags) (ad sa : BitVec 4) (gb : BitVec 6) (s : State) : Out := .next (opCpy true e ad sa gb s)

def opCpyMc (e : EFlags) (wx wy : BitVec 5) (gm : BitVec 6) (sa : BitVec 4) (gb : BitVec 6) (s : State) : State :=
  s.resumeE fun s =>
    let w := s.getG gb
    let len := bitsNat w.toNat 23 0
    if !goodComp (s.gc gb) then s.copyTrap 0x02
    else
      (s.engCheck sa len false).andThen fun src s =>
        if !src.scratch || isSup s.myCore then s.copyTrap 0x04
        else
          let c := { s.newE .mc e with
            src := src, dst := src, srcReg := sa, len := len, prog := gbProg w, gbReg := gb, bar := gbBar w, mask := s.getG gm,
            wx := wx.toNat, wy := wy.toNat, comp := (s.gc gb).toNat }
          if len = 0 then s.emptyCopy c else s.engIssue c
def execCpyMc (e : EFlags) (wx wy : BitVec 5) (gm : BitVec 6) (sa : BitVec 4) (gb : BitVec 6) (s : State) : Out :=
  .next (opCpyMc e wx wy gm sa gb s)

/-! ## POST, POST.MB, POST.Q, TOKSEND (R301-R304) -/

def opPost (e : EFlags) (gr : BitVec 6) (sa : BitVec 4) (gb : BitVec 6) (s : State) : State :=
  s.resumeE fun s =>
    let w := s.getG gb
    let len := bitsNat w.toNat 8 0
    if len < 16 ∨ 256 < len ∨ len % 16 ≠ 0 then s.copyTrap 0x01
    else if !goodComp (s.gc gb) then s.copyTrap 0x02
    else
      (s.engCheck sa len false).andThen fun src s =>
        if !s.coreLive (gbCore w) then s.copyTrap 0x05
        else
          s.engIssue { s.newE .post e with
            src := src, srcReg := sa, len := len, prog := gbProg w, gbReg := gb, bar := gbBar w, dstCore := gbCore w,
            ring := bitsNat (s.getG gr).toNat 55 0, comp := (s.gc gb).toNat }
def execPost (e : EFlags) (gr : BitVec 6) (sa : BitVec 4) (gb : BitVec 6) (s : State) : Out := .next (opPost e gr sa gb s)

/-- POST.MB reads no memory: it has nothing but its entry to send. -/
def opPostMb (e : EFlags) (ge gb : BitVec 6) (s : State) : State :=
  s.resumeE fun s =>
    let w := s.getG gb
    if !goodComp (s.gc gb) then s.copyTrap 0x02
    else if !s.coreLive (gbCore w) then s.copyTrap 0x05
    else
      let c := { s.newE .mb e with dstCore := gbCore w, box := bitsNat w.toNat 4 0, entry := s.getG ge, comp := (s.gc gb).toNat }
      ({ s with nextId := c.id + 1 }).leaveE c
def execPostMb (e : EFlags) (ge gb : BitVec 6) (s : State) : Out := .next (opPostMb e ge gb s)

def opPostQ (e : EFlags) (tag : BitVec 16) (ad sa : BitVec 4) (gb : BitVec 6) (s : State) : State :=
  s.resumeE fun s =>
    let w := s.getG gb
    let len := bitsNat w.toNat 13 0
    if len < 1 ∨ 8192 < len then s.copyTrap 0x01
    else if !goodComp (s.gc gb) then s.copyTrap 0x02
    else
      (s.engCheck sa len false).andThen fun src s =>
        (s.engCheck ad len true).andThen fun dst s =>
          if dst.scratch then s.copyTrap 0x04
          else if !s.coreLive (gbCore w) then s.copyTrap 0x05
          else
            s.engIssue { s.newE .postQ e with
              src := src, dst := dst, srcReg := sa, dstReg := ad, len := len, prog := gbProg w, gbReg := gb, bar := gbBar w,
              dstCore := gbCore w, ring := bitsNat (s.getG (gb ^^^ 2)).toNat 55 0, tag := tag, comp := (s.gc gb).toNat }
def execPostQ (e : EFlags) (tag : BitVec 16) (ad sa : BitVec 4) (gb : BitVec 6) (s : State) : Out := .next (opPostQ e tag ad sa gb s)

def opToksend (e : EFlags) (gt : BitVec 6) (sa : BitVec 4) (gb : BitVec 6) (s : State) : State :=
  s.resumeE fun s =>
    let w := s.getG gb
    let len := bitsNat w.toNat 13 0
    let table := bitsNat (s.getG gt).toNat 55 0
    if len < 32 ∨ 8192 < len ∨ len % 32 ≠ 0 then s.copyTrap 0x01
    else if !goodComp (s.gc gb) then s.copyTrap 0x02
    else
      (s.engCheck sa len false).andThen fun src s =>
        if table % 16 ≠ 0 then s.copyTrap 0x08
        else
          s.engIssue { s.newE .tok e with
            src := src, srcReg := sa, len := len, prog := gbProg w, gbReg := gb, expert := bitsNat w.toNat 31 16, table := table,
            comp := (s.gc gb).toNat }
def execToksend (e : EFlags) (gt : BitVec 6) (sa : BitVec 4) (gb : BitVec 6) (s : State) : Out := .next (opToksend e gt sa gb s)

/-! ## Mailboxes (R291, R305) -/

def boxKey (core n : Nat) : Nat := core * 32 + n % 32
def State.box (s : State) (core n : Nat) : Mailbox := tget Mailbox.reset s.boxes (boxKey core n)
def State.setBox (s : State) (core n : Nat) (b : Mailbox) : State := { s with boxes := tset s.boxes (boxKey core n) b }

/-- An entry's priority. -/
def entryPrio (w : Word) : Nat := bitsNat w.toNat 63 48

/-- Inserts an entry behind those of its own priority or a higher one. -/
def insertEntry (w : Word) : List Word → List Word
  | [] => [w]
  | x :: t => if entryPrio x < entryPrio w then w :: x :: t else x :: insertEntry w t

/-- An arrival: counted, then inserted or dropped by priority. -/
def Mailbox.arrive (b : Mailbox) (w : Word) : Mailbox :=
  let b := { b with count := b.count + 1 }
  if b.entries.length < b.depth then { b with entries := insertEntry w b.entries }
  else
    match b.entries.getLast? with
    | some l => if entryPrio l < entryPrio w then { b with entries := insertEntry w b.entries.dropLast } else b
    | none => b

def opMboxCfg (ga : BitVec 6) (s : State) : State :=
  let w := (s.getG ga).toNat
  let k := bitsNat w 11 8
  if k < 1 ∨ 8 < k then s.copyTrap 0x09 else (s.setBox s.myCore (bitsNat w 4 0) ⟨k, [], 0⟩).advance 4
def execMboxCfg (ga : BitVec 6) (s : State) : Out := .next (opMboxCfg ga s)

/-- What MBOX.RD reads by its selector. -/
def Mailbox.select (b : Mailbox) (sel : Nat) : Word :=
  if sel < 8 then b.entries.getD sel 0
  else if sel = 8 then BitVec.ofNat 64 (b.count.toNat + b.entries.length % 16 * 2 ^ 16 + b.depth % 16 * 2 ^ 24)
  else 0

/-- MBOX.RD is an acquire at device scope. -/
def opMboxRd (gd ga : BitVec 6) (s : State) : State :=
  let w := (s.getG ga).toNat
  (s.acquireAll s.myCore).retG gd ((s.box s.myCore (bitsNat w 4 0)).select (bitsNat w 11 8)) 4
def execMboxRd (gd ga : BitVec 6) (s : State) : Out := .next (opMboxRd gd ga s)

/-! ## Routing counters (R292, R306) -/

/-- Counters of an engine, by index. -/
def counterKey (cl i : Nat) : Nat := cl * 1024 + i % 1024
def State.counter (s : State) (cl i : Nat) : BitVec 32 := tget 0#32 s.counters (counterKey cl i)

/-- The words of a CSNAP's snapshot, by the 32-byte pieces they are written in (01 R16). -/
def snapPieces (va : Nat) (data : List Byte) : List Piece :=
  (piecesOf va data.length).map fun p => ⟨p.1 - va, ((data.drop (p.1 - va)).take p.2).map fun b => (b, false)⟩

/-- CSNAP (R306): the checks and the translation of every page; the snapshot and the clearing in one step; then the engine writes the
words, and the instruction completes once they are performed, or what of them is held is released or abandoned. -/
def opCsnap (a : BitVec 4) (ga : BitVec 6) (s : State) : State :=
  let w := (s.getG ga).toNat
  let first := bitsNat w 9 0
  let n := bitsNat w 26 16
  if n = 0 ∨ 1024 < first + n then s.copyTrap 0x0A
  else
    (s.check a (s.ptr a) (4 * n) false true 4).andThen fun o s =>
      let cl := s.engineOf s.myCore
      let data := (upFrom first n).flatMap fun i => leBytes 4 (s.counter cl i).toNat
      let clear (s : State) : State := { s with counters := (upFrom first n).foldl (fun t i => tdel t (counterKey cl i)) s.counters }
      if o.scratch then (((clear s).writeScratch o.va data).acquire 0b10).advance 4
      else
        (s.writeParts o (4 * n)).andThen fun ps s =>
          if (s.slotReqs s.cur).any fun r => ps.any fun p => r.pa / 128 == p.2.1 / 128 then s.stall .drain
          else
            let c := { s.newE .snap ⟨0b10, false, false, false⟩ with
              dst := ⟨o.va, false, o.cls⟩, dstReg := a, len := 4 * n, prog := 4 * n, pieces := snapPieces o.va data, phase := .detached }
            (({ clear s with ecmds := s.ecmds ++ [c], nextId := c.id + 1 }).raises (c.pieces.map fun _ => .enginePieceWrite c.id)).hold (.engine c.id)
def execCsnap (a : BitVec 4) (ga : BitVec 6) (s : State) : Out := .next (opCsnap a ga s)

/-! ## Barriers (R283, R307-R309) -/

def barKey (core bar : Nat) : Nat := core * 128 + bar % 128
def State.bar (s : State) (core bar : Nat) : Barrier := tget Barrier.zero s.bars (barKey core bar)
def State.setBar (s : State) (core bar : Nat) (b : Barrier) : State := { s with bars := tset s.bars (barKey core bar) b }

/-- BAR.WAIT's condition. -/
def Barrier.open (b : Barrier) : Bool := b.fired || decide (b.expected = 0)

def opBarInit (bar : BitVec 7) (ga gb : BitVec 6) (s : State) : State :=
  let n := bar.toNat
  let w := s.getG gb
  if !s.me.bars.contains n then s.copyTrap 0x06
  else if w.getLsbD 63 && decide (bitsNat w.toNat 3 0 ≠ 0) then s.copyTrap 0x0B
  else
    (s.setBar s.myCore n { s.bar s.myCore n with
      expected := (s.getG ga).setWidth 32, count := 0, fired := false, trig := w.getLsbD 63, block := w.extractLsb' 4 52 }).advance 4
def execBarInit (bar : BitVec 7) (ga gb : BitVec 6) (s : State) : Out := .next (opBarInit bar ga gb s)

/-- BAR.ARRIVE: a release at device scope, which the arrival's clock carries (10 R168, R170); it completes when the arrival leaves. -/
def opBarArrive (bar : BitVec 7) (ga gk : BitVec 6) (s : State) : State :=
  (s.release 0b10).andThen fun _ s =>
    let core := if gk = 0 then s.myCore else bitsNat (s.getG gk).toNat 9 0
    (s.raise (.barrierArrival ⟨core, bar.toNat, bitsNat (s.getG ga).toNat 31 0, none, none, s.vc s.myTower⟩)).advance 4
def execBarArrive (bar : BitVec 7) (ga gk : BitVec 6) (s : State) : Out := .next (opBarArrive bar ga gk s)

def opBarWait (bar : BitVec 7) (gt : BitVec 6) (s : State) : State :=
  let n := bar.toNat
  if !s.me.bars.contains n then s.copyTrap 0x06
  else if (s.bar s.myCore n).open then (s.acquireAll s.myCore).retG gt 0 4
  else s.park (.barWait n gt (s.deadline gt))
def execBarWait (bar : BitVec 7) (gt : BitVec 6) (s : State) : Out := .next (opBarWait bar gt s)

end Sys2Proof.Machine
end

