-- ==== Sys2Proof/Machine/CopySteps.lean ====
section
/-! DEFINITION. What the copy and post engines do on their own: starting and reading, piece writes, held writes, completion words,
deliveries, rows, mailboxes and barrier arrivals (19 R276-R294; 20 R298-R304; 14 R229). A step whose command or message is no
more changes nothing (log 21). -/

namespace Sys2Proof.Machine

/-! ## Commands -/

def State.ecmd (s : State) (id : Nat) : Option ECmd := s.ecmds.find? (·.id == id)
def State.putE (s : State) (c : ECmd) : State := { s with ecmds := mapIf (·.id == c.id) (fun _ => c) s.ecmds }

/-- The command's slot still holds it; a packet's command has none. -/
def State.heldE (s : State) (c : ECmd) : Bool := c.packet.isSome || s.holds c.key c.id

def State.eWho (s : State) (c : ECmd) : EWho := ⟨s.towerOf c.core, c.cluster, c.core, c.asid, c.queue, 0, c.e.acq⟩

/-- The first failure names the status (R280). -/
def ECmd.fail (c : ECmd) (status : Nat) : ECmd := if c.status = 0 then { c with status := status } else c

/-- A failure is met by the command of a number: it names its status, and that of one that has taken the command up again (R280). -/
def State.failE (s : State) (id status : Nat) : State :=
  { s with ecmds := mapIf (fun c => c.id == id || c.parts.contains id) (fun c => c.fail status) s.ecmds }

/-- A command that has queued work behind it lets the engine start again. -/
def State.engineGo (s : State) (cl : Nat) : State :=
  if s.ecmds.any fun c => c.cluster == cl && c.phase == .queued then s.raise (.engineCommandStart cl 0) else s

/-- An entry of a queue has freed: the command that has waited longest for one takes it (R276). -/
def State.entryFreeE (s : State) (cl q : Nat) : State :=
  match s.ecmds.find? fun c => c.cluster == cl && c.queue == q && c.phase == .waiting with
  | some c =>
    if (s.engineWaiting cl q).length < 16 then
      ({ s with ecmds := mapIf (·.id == c.id) (fun c => { c with phase := .queued }) s.ecmds }).raise (.engineCommandStart cl 0)
    else s
  | none => s

/-- The command is over, with its earlier executions: a packet's completion record follows (23 R319, R321). -/
def State.finishE (s : State) (c : ECmd) : State :=
  let s := ({ s with ecmds := s.ecmds.filter fun x => x.id ≠ c.id && !c.parts.contains x.id }).engineGo c.cluster
  match c.packet with
  | some p => s.packetEnd p (if c.status = 0 then 0 else 2) 0
  | none => s

/-- An earlier command of its queue waits where it stands for held-write room, and this one behind it (R279). -/
def State.behindStuck (s : State) (c : ECmd) : Bool :=
  (s.ecmds.takeWhile (·.id ≠ c.id)).any fun x => x.cluster == c.cluster && x.queue == c.queue && x.roomWait

/-- Nothing is left to write, to be applied or to be acknowledged of the command's earlier executions. -/
def State.partsQuiet (s : State) (c : ECmd) : Bool := s.ecmds.all fun x => !c.parts.contains x.id || (s.quietE x && !x.unacked)

/-- The task of a command is no more. -/
def State.orphan (s : State) (c : ECmd) : Bool := (s.keyOf c.tid).isNone && (s.suspendedOf c.tid).isNone

/-- What follows once a command is quiet: the peer's acknowledgement, its record, or its completion word. -/
def State.settleOne (s : State) (id : Nat) : State :=
  match s.ecmd id with
  | none => s
  | some c =>
    if !s.quietE c then s
    else if c.unacked then s.raise (.peerAcknowledge id)
    else
      match c.phase with
      | .stopped => if s.orphan c then s.finishE c else s
      | .detached =>
        if !s.partsQuiet c then s
        else if c.op = .postQ ∧ c.sent = false ∧ c.status = 0 then s.raise (.postQRecordSend id)
        else s.raise (.completionWordWrite id)
      | .leaving | .waiting | .queued | .attached => s

/-- A command has moved on: it and what has taken it up again are looked at. -/
def State.settle (s : State) (id : Nat) : State :=
  (s.ecmds.filter fun x => x.parts.contains id).foldl (fun s x => s.settleOne x.id) (s.settleOne id)

/-- One message or arrival of a command has been applied, with the status it adds. -/
def State.applied (s : State) (cmd : Option Nat) (status : Nat) : State :=
  match cmd with
  | none => s
  | some id =>
    let s := { s with ecmds := mapIf (·.id == id) (fun c => { c with owed := c.owed - 1 }) s.ecmds }
    (if status = 0 then s else s.failE id status).settle id

def State.owe (s : State) (id n : Nat) : State := { s with ecmds := mapIf (·.id == id) (fun c => { c with owed := c.owed + n }) s.ecmds }

/-- Bytes read, in the progress field of gb (20 R296). -/
def State.putBytesRead (s : State) (c : ECmd) (n : Nat) : State :=
  if c.packet.isSome then s
  else
    let x := s.ctx c.key
    s.setCtx c.key (x.setG c.gbReg (BitVec.ofNat 64 (putBits (x.getG c.gbReg).toNat 63 40 n)))

/-- The form delivers nothing before its last byte (R278). -/
def EOp.whole : EOp → Bool
  | .post | .mb | .tok => true
  | .cpy | .add | .mc | .postQ | .snap => false

/-- A command that an engine holds for its slot stops (R278): one that has not started leaves its queue; a copy's read bytes are still
written; a post or row is discarded and reads again. -/
def State.stopE (s : State) (c : ECmd) : State :=
  let s := s.leavePortE c.port c.id
  let gone := { s with ecmds := s.ecmds.filter (·.id ≠ c.id) }
  match c.phase with
  | .leaving | .waiting => gone
  | .queued => gone.entryFreeE c.cluster c.queue
  | .attached | .detached | .stopped =>
    if c.op.whole then (gone.putBytesRead c 0).engineGo c.cluster
    else ((s.putE { c with phase := .stopped, paid := 0 }).settle c.id).engineGo c.cluster

/-! ## Faults of the attached phase (R277, R278) -/

/-- A translation fault suspends the task; in queue 8 the instruction completes with the bytes read; in queue 9 the packet ends
with status 2. -/
def State.faultE (s : State) (c : ECmd) (va : Nat) : State :=
  match c.packet with
  | some _ => (s.putE (({ c with phase := .detached, comp := 0 } : ECmd).fail 1)).settle c.id
  | none =>
    if c.queue = 8 then (s.stopE c).detachKey c.key id
    else (s.stopE c).beginSuspendKey c.key (.pageFault va)

/-- A missing right traps, naming the register (05 R330). -/
def State.deniedE (s : State) (c : ECmd) (src num va : Nat) : State :=
  match c.packet with
  | some _ => (s.putE (({ c with phase := .detached, comp := 0 } : ECmd).fail 1)).settle c.id
  | none => (s.stopE c).trapKey c.key 0x03 (accessInfo src num va)

def State.trapE (s : State) (c : ECmd) (reason : Nat) : State :=
  match c.packet with
  | some _ => (s.putE (({ c with phase := .detached, comp := 0 } : ECmd).fail 1)).settle c.id
  | none => (s.stopE c).trapKey c.key 0x0D (BitVec.ofNat 64 reason)

/-! ## Sending (R18, R19, R287) -/

/-- The command sends to a receiving core. -/
def EOp.sends : EOp → Bool
  | .post | .mb | .postQ | .tok => true
  | .cpy | .add | .mc | .snap => false

/-- An earlier command of the slot still has its message for the same core to send (R18). -/
def State.mustFollow (s : State) (c : ECmd) : Bool :=
  (s.ecmds.takeWhile (·.id ≠ c.id)).any fun x =>
    x.key == c.key && x.tid == c.tid && x.op.sends && !x.sent && x.dstCore == c.dstCore && x.phase ≠ .stopped

/-- Payload bytes as flits of 16 carry them: a poisoned byte marks its flit (09 R159). -/
def flitMarks (l : List PByte) : List PByte :=
  (l.zip (List.range l.length)).map fun x => (x.1.1, anyPoison ((l.drop (x.2 / 16 * 16)).take 16))

/-- Sends a command's message to its receiving core. A record, which follows its payload, carries the clock that covers it (R288). -/
def State.sendMsg (s : State) (c : ECmd) (kind : MsgKind) (data : List PByte) (bar counter : Option Nat) (count : Nat) : State :=
  let id := s.nextId
  let t := s.towerOf c.core
  let m : Msg := ⟨id, kind, c.key, c.id, c.asid, c.dstCore, c.ring, flitMarks data, c.e.scope, c.e.rel || kind == .record, bar,
    counter, count, s.vc t, t, 0, [], .sent, false⟩
  let s := (({ s with nextId := id + 1, msgs := s.msgs ++ [m] }).putE { c with sent := true, owed := c.owed + 1, pieces := [] })
  s.raise (match kind with | .post | .record => .postDelivery id | .row => .tokenRowArrival id | .box .. => .mailboxArrival id)

/-! ## The end of the attached phase -/

/-- The instruction completes in its slot. -/
def State.releaseSlot (s : State) (c : ECmd) : State := if c.packet.isSome then s else s.detachKey c.key id

def ECmd.payload (c : ECmd) : List PByte := c.pieces.flatMap (·.data)

/-- A routing entry's fields (R289). -/
structure Route where
  ring    : Nat
  valid   : Bool
  counter : Nat
  barrier : Nat
  core    : Nat

def parseRoute (bs : List Byte) : Route :=
  let w0 := wordAt bs 0
  let w1 := wordAt bs 8
  ⟨bitsNat w0 55 0, decide (bitsNat w1 63 63 = 1), bitsNat w1 41 32, bitsNat w1 22 16, bitsNat w1 9 0⟩

/-- Pays what is left of the charge of a 32-byte read at the command's port (09 R160). -/
def State.payE (s : State) (c : ECmd) : ECmd × State :=
  let (n, s) := s.engPay c.port c.asid c.id 32 c.paid
  ({ c with paid := n }, s.putE { c with paid := n })

/-- TOKSEND reads the routing entry as an acquire, still attached (20 R304), when the row leaves its engine; it leaves behind the
messages that its slot has sent before (R287). -/
def State.sendRow (s : State) (c : ECmd) : State :=
  let (c, s) := s.payE c
  let again := s.raise (.engineCommandStart c.cluster c.id)
  if c.paid < 32 then again
  else
    match s.engRead { s.eWho c with acq := true } (c.table + 16 * c.expert) 16 with
    | .fault va s => s.faultE c va
    | .denied va s => s.deniedE c 0xC 0 va
    | .wait _ => again
    | .ok bs s =>
      let r := parseRoute (bs.map (·.1))
      let d : ECmd := { c with phase := .detached, dstCore := r.core, ring := r.ring }
      if anyPoison bs || !r.valid then ((s.putE { d.fail 5 with pieces := [] }).releaseSlot c).settle c.id
      else if !s.coreLive r.core then s.trapE c 0x05
      else if s.mustFollow d || s.behindStuck c then again
      else (s.sendMsg d .row c.payload (some r.barrier) (some r.counter) c.len).releaseSlot c

/-- The last source byte has been read: the command detaches. -/
def State.detachE (s : State) (c : ECmd) : State :=
  let d : ECmd := { c with phase := .detached }
  match c.op with
  | .cpy | .add | .mc | .postQ => ((s.putE d).releaseSlot c).settle c.id
  | .post =>
    if s.mustFollow c || s.behindStuck c then s.raise (.engineCommandStart c.cluster c.id)
    else (s.sendMsg d .post c.payload c.bar none c.len).releaseSlot c
  | .mb =>
    if s.mustFollow c || s.behindStuck c then s.raise (.engineCommandStart c.cluster c.id)
    else (s.sendMsg d (.box c.box c.entry) [] none none 0).releaseSlot c
  | .tok => s.sendRow c
  | .snap => s

/-! ## Starting and reading (R276, R278, R298, R299) -/

/-- The queues in the order in which the engine's round robin looks at them. -/
def queueOrder (last : Nat) : List Nat := (List.range 10).map fun i => (last + 1 + i) % 10

/-- A queue is held up by a command that waits for held-write room (R279). -/
def State.queueStuck (s : State) (cl q : Nat) : Bool := s.ecmds.any fun c => c.cluster == cl && c.queue == q && c.roomWait

/-- The command the engine starts next, with fewer than 16 in progress. -/
def State.nextE (s : State) (cl : Nat) : Option ECmd :=
  if 16 ≤ (s.ecmds.filter fun c => c.cluster == cl && (c.phase == .attached || c.phase == .detached)).length then none
  else
    match (queueOrder (s.cluster cl).engLastQ).find? fun q => s.engineWaiting cl q ≠ [] && !s.queueStuck cl q with
    | some q => (s.engineWaiting cl q).head?
    | none => none

/-- Translates lines for an engine; the answer is their physical addresses. -/
def State.engPages (s : State) (w : EWho) (cls : Bool) (acc : Acc) : List (Nat × Nat) → Eng (List (Nat × Nat × Nat))
  | [] => .ok [] s
  | (va, n) :: t =>
    (s.engXlate w va cls acc).bind fun pa s => (s.engPages w cls acc t).bind fun rest s => .ok ((va, pa, n) :: rest) s

/-- Beyond the system-scope port (09 R144). -/
def beyondPort (pa : Nat) : Bool := decide (0x8000000000000 ≤ pa)

/-- The command may not reach the system-scope port at its scope (20 R299). -/
def ECmd.narrow (c : ECmd) : Bool :=
  decide (c.e.scope ≠ 0b11) && (match c.op with | .cpy | .add | .postQ => true | .mc | .post | .mb | .tok | .snap => false)

/-- An add-mode copy translates its whole destination before it reads (R299). -/
def State.startAdd (s : State) (c : ECmd) : State :=
  if c.dst.scratch then s.raise (.engineCommandStart c.cluster c.id)
  else
    match s.engPages (s.eWho c) c.dst.cls .engWrite (linesOf c.dst.addr c.len) with
    | .fault va s => s.faultE c va
    | .denied va s => s.deniedE c 0 c.dstReg.toNat va
    | .wait s => s
    | .ok ps s =>
      if ps.any fun p => homeOf p.2.1 == some .host then s.trapE c 0x03
      else s.raise (.engineCommandStart c.cluster c.id)

def State.startNext (s : State) (cl : Nat) : State :=
  match s.nextE cl with
  | none => s
  | some c =>
    let s := s.setCluster cl { s.cluster cl with engLastQ := c.queue }
    let c := { c with phase := .attached }
    let s := ((s.putE c).entryFreeE cl c.queue).engineGo cl
    if c.op = .add then s.startAdd c else s.raise (.engineCommandStart cl c.id)

/-- A piece of the source: scratch bytes of the task, or a global read. -/
def State.engSource (s : State) (c : ECmd) (n : Nat) : Eng (List PByte) :=
  let va := c.src.addr + c.prog
  if c.src.scratch then
    let s := s.bringPages c.key va n
    let x := s.ctx c.key
    .ok ((upFrom va n).map fun a => (mget x.mem a, smem x.poison (a / 32))) s
  else s.engLines (s.eWho c) (fun _ => c.src.cls) (linesOf va n)

/-- The step that writes a piece. -/
def ECmd.writeStep (c : ECmd) : List Raised :=
  match c.op with
  | .cpy | .add | .postQ | .snap => [.enginePieceWrite c.id]
  | .mc => [.multicastReplicate c.id]
  | .post | .mb | .tok => []

/-- A piece has been read: it passes to the write side, and the progress moves on. -/
def State.tookPiece (s : State) (c : ECmd) (bs : List PByte) : State :=
  let c := { c with prog := c.prog + bs.length, paid := 0, pieces := c.pieces ++ [⟨c.prog, bs⟩] }
  let s := ((s.putE c).putBytesRead c c.prog).raises c.writeStep
  if c.len ≤ c.prog then s.detachE c else s.raise (.engineCommandStart c.cluster c.id)

/-- The source reaches the system-scope port under a narrower scope. -/
def State.sourceBeyond (s : State) (c : ECmd) (n : Nat) : Bool :=
  c.narrow && !c.src.scratch &&
    (match s.engPages (s.eWho c) c.src.cls .engRead (linesOf (c.src.addr + c.prog) n) with
     | .ok ps _ => ps.any fun p => beyondPort p.2.1
     | .fault .. | .denied .. | .wait _ => false)

/-- A piece is read while those read more than 16 pieces before it are written (20 R298). -/
def ECmd.inReach (c : ECmd) : Bool := c.op.whole || (c.pieces ++ c.replays).all fun p => decide (c.prog ≤ p.off + 512)

/-- Reads the next 32-byte piece of an attached command, charged once (09 R160). -/
def State.readPiece (s : State) (c : ECmd) : State :=
  let again (s : State) : State := s.raise (.engineCommandStart c.cluster c.id)
  if c.roomWait || s.behindStuck c || !c.inReach then again s
  else
    let n := min 32 (c.len - c.prog)
    let (c, s) := s.payE c
    if c.paid < 32 then again s
    else if s.sourceBeyond c n then s.trapE c 0x07
    else
      match s.engSource c n with
      | .fault va s => s.faultE c va
      | .denied va s => s.deniedE c 0 c.srcReg.toNat va
      | .wait s => again s
      | .ok bs s => s.tookPiece c bs

/-- ENGINE_COMMAND_START: with 0 the engine starts its next command, else the command of that number reads on. -/
def opEngineCommandStart (cl cmd : Nat) (s : State) : State :=
  if cmd = 0 then s.startNext cl
  else
    match s.ecmd cmd with
    | none => s
    | some c => if c.phase = .attached ∧ s.heldE c then (if c.len ≤ c.prog then s.detachE c else s.readPiece c) else s
def execEngineCommandStart (cluster pieces : Nat) (s : State) : Out := .next (opEngineCommandStart cluster pieces s)

/-! ## Scratch of any task (R281, R286) -/

/-- Bytes written with their poison: a piece written whole is clean, a poisoned byte poisons its piece. -/
def putPoison (poison : List Nat) (cs : List (Nat × PByte)) : List Nat :=
  ((cs.map (·.1 / 32)).foldl sins []).foldl (fun l p => if poisoned p cs then sins l p else if covered p cs = 32 then sdel l p else l) poison

/-- Scratch bytes of a context written by an engine. -/
def Ctx.putScratch (c : Ctx) (cs : List (Nat × PByte)) : Ctx :=
  { c with mem := mputs c.mem (cs.map fun x => (x.1, x.2.1)), poison := putPoison c.poison cs }

/-- The context of a task, resident or suspended. -/
def State.taskCtx (s : State) (tid : Nat) : Option Ctx :=
  match s.keyOf tid with
  | some k => some (s.ctx k)
  | none => (s.suspendedOf tid).map (·.ctx)

/-- Bytes written to a suspended task's backing by an engine on tower `w`, piece by piece (R286, 09 R152). -/
def State.putBacking (s : State) (w : Nat) (c : Ctx) (a : Nat) (bs : List PByte) : State :=
  (piecesOf a bs.length).foldl (fun s (x, n) =>
    let part := (bs.drop (x - a)).take n
    match c.backingPa x with
    | some pa => s.performFrom w pa (part.map (·.1)) true (if anyPoison part then [pa / 32] else [])
    | none => s) s

/-- Scratch bytes of a task written by an engine on tower `w`: in its pages, or in its backing while it is suspended (R286, 09 R152). -/
def State.putScratch (s : State) (w tid a : Nat) (bs : List PByte) : State :=
  match s.keyOf tid with
  | some k =>
    let s := s.bringPages k a bs.length
    s.setCtx k ((s.ctx k).putScratch ((upFrom a bs.length).zip bs))
  | none => match s.suspendedOf tid with | some x => s.putBacking w x.ctx a bs | none => s

/-- A scratch byte of a task, with the poison of its piece: in its page, or in its backing where the page is not back. -/
def State.scratchByte (s : State) (tid a : Nat) : PByte :=
  match s.taskCtx tid with
  | none => (unlisted, false)
  | some c =>
    if smem c.absent (a / 4096) then
      match c.backingPa a with | some pa => (s.placeByte pa, s.placePoison pa) | none => (unlisted, false)
    else (mget c.mem a, smem c.poison (a / 32))

/-- The core a task is on, or was suspended on. -/
def State.taskCore (s : State) (tid : Nat) : Nat :=
  match s.keyOf tid with
  | some k => coreOfKey k
  | none => match s.suspendedOf tid with | some x => x.core | none => 0

/-! ## Held writes (R279) -/

/-- Room for one more held write of an engine: 8, of 64 KiB in all. -/
def State.heldRoom (s : State) (cl n : Nat) : Bool :=
  let l := s.held.filter (·.cluster == cl)
  decide (l.length < 8) && decide ((l.map (·.bytes)).sum + n ≤ 65536)

def State.addHeld (s : State) (cl cmd asid va n : Nat) (k : HeldKind) : State :=
  { s with nextId := s.nextId + 1, held := s.held ++ [⟨s.nextId, cl, cmd, asid, va, n, k⟩] }

/-- The record of a write whose leaf lacks W (R279). -/
def State.deniedRecord (s : State) (w : EWho) (va : Nat) (cls : Bool) : State :=
  s.faultRecord w.tower ⟨va, w.asid, 6, .engWrite, 0xFFFF, w.index, cls, w.origin⟩

/-- A command's write that cannot land is held, or waits for room. -/
def State.holdE (s : State) (c : ECmd) (va n : Nat) (k : HeldKind) : State :=
  if s.heldRoom c.cluster n then s.addHeld c.cluster c.id c.asid va n k else s.putE { c with roomWait := true }

/-- A held write of an engine is gone: what waits for its room is taken up again, its own commands and the deliveries to it. -/
def State.roomFreed (s : State) (cl : Nat) : State :=
  (s.ecmds.filter fun c => c.roomWait && (c.cluster == cl || s.msgs.any fun m => m.cmd == c.id && clusterOf m.core == cl)).foldl (fun s c => s.raise (.heldWriteRoomFree c.id)) s

/-! ## Writing pieces (R298, R299; 19 R293) -/

/-- The sums of FP32 words and others, as RED.FADD forms them (11 R185). -/
def addFours : Nat → List Byte → List PByte → List PByte
  | 0, _, _ => []
  | n + 1, old, bs =>
    (leBytes 4 (redValue 8 4 (leNat (old.take 4)) (pbyteNat (bs.take 4)))).map (fun b => (b, anyPoison bs)) ++ addFours n (old.drop 4) (bs.drop 4)

/-- Adds a part of a piece that lies in one 32-byte piece of memory, for an engine on tower `t`; a poisoned one keeps its poison, with a
record (11 R186), a poisoned source poisons it. -/
def State.addPart (s : State) (t pa : Nat) (bs : List PByte) : State :=
  if s.placePoison pa then s.report (.redPoison pa)
  else
    let new := addFours (bs.length / 4) ((upFrom pa bs.length).map s.placeByte) bs
    s.place t pa (new.map (·.1)) false (if anyPoison bs then [pa / 32] else [])

/-- The same on a task's scratch. -/
def State.addScratch (s : State) (w tid a : Nat) (bs : List PByte) : State :=
  if (s.scratchByte tid a).2 then s.report (.redPoison a)
  else s.putScratch w tid a (addFours (bs.length / 4) ((upFrom a bs.length).map fun b => (s.scratchByte tid b).1) bs)

/-- The parts of a list of consecutive bytes, each with where it begins. -/
def partsAt (ps : List (Nat × Nat)) (bs : List α) : List (Nat × List α) :=
  match ps with
  | [] => []
  | (a, n) :: t => (a, bs.take n) :: partsAt t (bs.drop n)

/-- A piece is no more what the command has to write, `rest` of it excepted. -/
def ECmd.dropPiece (c : ECmd) (p : Piece) (rest : List Piece) : ECmd :=
  let f := fun l : List Piece => l.flatMap fun x => if x = p then rest else [x]
  { c with pieces := f c.pieces, replays := f c.replays }

/-- `n` bytes of a command's piece have been performed: they are counted into its barrier, and the command goes on. -/
def State.landed (s : State) (c : ECmd) (n : Nat) (count : Bool) : State :=
  let s := s.putE c
  match (if count && decide (c.op ≠ .postQ) then c.bar else none) with
  | some b => (s.owe c.id 1).raise (.barrierArrival ⟨s.taskCore c.tid, b, n, some c.tid, some c.id, s.vc (s.towerOf c.core)⟩)
  | none => s.settle c.id

/-- The link that a command has taken for a peer. -/
def ECmd.linkTo (c : ECmd) (p : Nat) : Option Nat := (c.links.find? (·.1 == p)).map (·.2)

/-- The link that a command's pieces for a peer take: the one that it or an earlier execution of it has taken for that peer (R294), or the lowest that is
up (log 19). -/
def State.linkFor (s : State) (c : ECmd) (p : Nat) : Option Nat :=
  match firstSome (fun (x : ECmd) => if x.id = c.id ∨ c.parts.contains x.id then x.linkTo p else none) (c :: s.ecmds) with
  | some l => some l
  | none => (List.range 12).find? fun l => match s.links.toList[l]? with | some x => x.state == .up && x.peer.val == p | none => false

/-- The link for a peer whose own has failed: the command takes no other (23 R322). -/
def lostLink : Nat := 12

/-- The peer whose memory an address lies in. -/
def peerAt (pa : Nat) : Option Nat := match homeOf pa with | some (.peer p) => some p | _ => none

/-- Marks that a peer has pieces of the command to acknowledge, and the link they take. -/
def State.toPeer (s : State) (c : ECmd) (pas : List Nat) : ECmd :=
  match pas.findSome? peerAt with
  | some p =>
    let c := { c with unacked := true }
    match c.linkTo p, s.linkFor c p with
    | none, some l => { c with links := c.links ++ [(p, l)] }
    | _, _ => c
  | none => c

/-- A command's link for the peer of an address has failed. -/
def State.cutFrom (s : State) (c : ECmd) (pa : Nat) : Bool := (peerAt pa).any fun p => s.linkFor c p == some lostLink

/-- Holds a piece whose write faulted; without room it stays with its command, which waits. -/
def State.holdPiece (s : State) (c : ECmd) (p : Piece) (va : Nat) : State :=
  if s.heldRoom c.cluster p.data.length then (s.putE (c.dropPiece p [])).addHeld c.cluster c.id c.asid va p.data.length (.piece p)
  else s.putE { c with roomWait := true }

/-- An engine's write is performed at its scope: at system scope once every tower has what the clock covers, a wait that elapses inside the
step (10 R163, R176; log 64). -/
def State.reachAll (s : State) (scope : BitVec 2) (clock : Vector (BitVec 20) 4) : State :=
  if scope = 0b11 then [0, 1, 2, 3].foldl (fun s u => s.reach u clock) s else s

/-- Performs bytes of a command at their places, presents them to the monitor tables under .SIG, and completes them at its scope. -/
def State.putPart (s : State) (c : ECmd) (cs : List (Nat × PByte)) (put : State → State) : ECmd × State :=
  let t := (s.eWho c).tower
  let s := put s
  let s := if c.e.sig then ((cs.map (·.1 / 128)).foldl sins []).foldl (fun s l => s.signal (l * 128)) s else s
  let s := s.reachAll c.e.scope (s.vc t)
  ({ c with clock := s.vc t }, s)

/-- An address in a peer's memory. -/
def toPeerPa (pa : Nat) : Bool := (peerAt pa).isSome

/-- The part of a piece that is written first: which one is free (01 R16; log 79), but the words of a CSNAP go in ascending order (20 R306), and
what goes to a peer in its own (R294). -/
def State.takePart (s : State) (c : ECmd) (parts : List (Nat × List PByte)) : Option ((Nat × List PByte) × List (Nat × List PByte)) :=
  if c.op = .snap || parts.any (toPeerPa ·.1) then
    match parts with
    | [] => none
    | x :: rest => some (x, rest)
  else takeAny s.free parts

/-- Writes a part of a piece, in one 32-byte piece of memory, to translated addresses; in add mode it is added there (R293). -/
def State.writeParts32 (s : State) (c : ECmd) (p : Piece) (ps : List (Nat × Nat)) : State :=
  let t := (s.eWho c).tower
  let parts := partsAt (ps.flatMap fun x => piecesOf x.1 x.2) p.data
  match s.takePart c parts with
  | none => s
  | some (x, rest) =>
    let off := ((parts.takeWhile (· ≠ x)).map (·.2.length)).sum
    let left : List Piece := rest.map fun y => ⟨p.off + (if off = 0 then x.2.length else 0), y.2⟩
    let cells := (upFrom x.1 x.2.length).zip x.2
    let put : State → State := fun s => if c.op = .add then s.addPart t x.1 x.2 else s.putPiece t cells (x.1 / 32)
    let (c, s) := ({ s with free := s.free + 1 }).putPart c cells put
    (s.landed (c.dropPiece p left) x.2.length true).raises (left.map fun _ => .enginePieceWrite c.id)

/-- Writes a piece of a command to global memory, once every part of it translates. -/
def State.writeGlobal (s : State) (c : ECmd) (p : Piece) : State :=
  let va := c.dst.addr + p.off
  let w := s.eWho c
  match s.engPages w c.dst.cls .engWrite (linesOf va p.data.length) with
  | .fault va s => s.holdPiece c p va
  | .denied va s => (s.deniedRecord w va c.dst.cls).holdPiece c p va
  | .wait s => s
  | .ok ps s =>
    let pas := ps.map (·.2.1)
    if c.narrow && pas.any beyondPort then ((s.putE (c.dropPiece p [])).failE c.id 1).settle c.id
    else if pas.any (s.cutFrom c) then ((s.putE (c.dropPiece p [])).failE c.id 1).settle c.id
    else
    let s := pas.foldl (fun s pa => s.engUnpin w c.tid c.e.scope pa) s
    if pas.any fun pa => s.engWait w c.e.scope pa then s.raise (.enginePieceWrite c.id)
    else s.writeParts32 (s.toPeer c pas) p (ps.map (·.2))

/-- Writes a piece of a command to its task's scratch. -/
def State.writeTask (s : State) (c : ECmd) (p : Piece) : State :=
  let a := c.dst.addr + p.off
  let w := (s.eWho c).tower
  let s :=
    if c.op = .add then (partsAt (piecesOf a p.data.length) p.data).foldl (fun s x => s.addScratch w c.tid x.1 x.2) s
    else s.putScratch w c.tid a p.data
  s.landed (c.dropPiece p []) p.data.length true

/-- The peer that a piece goes to. -/
def State.piecePeer (s : State) (c : ECmd) (p : Piece) : Option Nat :=
  if c.dst.scratch then none
  else
    match s.engPages (s.eWho c) c.dst.cls .engWrite (linesOf (c.dst.addr + p.off) p.data.length) with
    | .ok ps _ => ps.findSome? fun x => peerAt x.2.1
    | .fault .. | .denied .. | .wait _ => none

def State.peerBound (s : State) (c : ECmd) (p : Piece) : Bool := (s.piecePeer c p).isSome

/-- An earlier execution of the command has still to write for a peer: its pieces go first, in the order of the command's (R294). -/
def State.partsBound (s : State) (c : ECmd) : Bool :=
  s.ecmds.any fun x => c.parts.contains x.id && (x.pieces ++ x.replays).any (s.peerBound x)

/-- The piece a command writes next: those of released holds in their original order (R279), then those it has read, which one being
free (log 79), but the words of a CSNAP in ascending order (20 R306), and what goes to a peer in its own (R294). -/
def State.nextPiece (s : State) (c : ECmd) : Option Piece :=
  match c.replays with
  | p :: _ => some p
  | [] =>
    if c.op = .snap then c.pieces.head?
    else
      match takeAny s.free c.pieces with
      | none => none
      | some (p, _) => if s.peerBound c p then c.pieces.find? (s.peerBound c) else some p

/-- ENGINE_PIECE_WRITE: a piece that a command has read is written and counted. -/
def opEnginePieceWrite (id : Nat) (s : State) : State :=
  match s.ecmd id with
  | none => s
  | some c =>
    if c.roomWait || c.op.whole then s
    else if s.behindStuck c then s.raise (.enginePieceWrite id)
    else
      match s.nextPiece c with
      | none => s
      | some p =>
        let s := { s with free := s.free + 1 }
        if c.dst.scratch then s.writeTask c p
        else if s.peerBound c p && s.partsBound c then s.raise (.enginePieceWrite id)
        else s.writeGlobal c p
def execEnginePieceWrite (id : Nat) (s : State) : Out := .next (opEnginePieceWrite id s)

/-! ## Multicast (R281, R282, R300) -/

/-- The task of a command's group that was placed at a core. -/
def State.sibling (s : State) (c : ECmd) (core : Nat) : Option Nat :=
  match c.gid with
  | none => if core = s.taskCore c.tid then some c.tid else none
  | some g =>
    match (s.keys.find? fun k => (s.ctx k).occupied && (s.ctx k).gid == some g && (s.ctx k).firstCore == core) with
    | some k => some (s.ctx k).tid
    | none => (s.suspended.find? fun x => x.ctx.gid == some g && x.ctx.firstCore == core).map (·.ctx.tid)

/-- The cores that the window and the mask name, within the group rectangle; a meet's is its own core. -/
def State.mcCores (s : State) (c : ECmd) : List Nat :=
  let (ox, oy, w, h) :=
    match c.gid.bind s.groupOf with
    | some g => (g.ox, g.oy, g.w, g.h)
    | none => let k := s.taskCore c.tid; (coreX k, coreY k, 1, 1)
  (List.range 64).filterMap fun i =>
    if c.mask.getLsbD i && decide (c.wx + i % 8 < w) && decide (c.wy + i / 8 < h) then
      some ((oy + c.wy + i / 8) * 32 + (ox + c.wx + i % 8))
    else none

/-- A task is resident on a stopped core, whose channels take nothing (13 R221). -/
def State.onStopped (s : State) (tid : Nat) : Bool :=
  match s.keyOf tid with
  | some k => (s.core (coreOfKey k)).stopped
  | none => false

/-- One receiver of a multicast piece: a task that is gone or holds too few pages costs status 2. -/
def State.mcReceive (s : State) (c : ECmd) (p : Piece) (core : Nat) : State :=
  let a := c.dst.addr + p.off
  match s.sibling c core with
  | none => s.failE c.id 2
  | some tid =>
    match s.taskCtx tid with
    | none => s.failE c.id 2
    | some x =>
      if 4096 * x.scratch < a + p.data.length then s.failE c.id 2
      else
        let s := s.putScratch (s.eWho c).tower tid a p.data
        match c.bar with
        | some b => (s.owe c.id 1).raise (.barrierArrival ⟨s.taskCore tid, b, p.data.length, some tid, some c.id, s.vc (s.towerOf c.core)⟩)
        | none => s

/-- MULTICAST_REPLICATE: a piece, which one being free (R282), reaches every receiver; it waits behind a command that waits for held-write room
(R279) and while a receiver's core is stopped (13 R221). -/
def opMulticastReplicate (id : Nat) (s : State) : State :=
  match s.ecmd id with
  | none => s
  | some c =>
    match c.op, takeAny s.free c.pieces with
    | .mc, some (p, rest) =>
      if c.roomWait || s.behindStuck c || (s.mcCores c).any fun k => (s.sibling c k).any s.onStopped then s.raise (.multicastReplicate id)
      else ((s.mcCores c).foldl (fun (s : State) k => s.mcReceive c p k) (({ s with free := s.free + 1 } : State).putE { c with pieces := rest })).settle id
    | _, _ => s
def execMulticastReplicate (id : Nat) (s : State) : Out := .next (opMulticastReplicate id s)

/-! ## Completion (R280, R288, R294) -/

/-- Where a completion word is written: at core and cluster scope its line is pinned to the engine's cluster, while the task is resident, whose
residence the pin does not outlast (10 R172, R173). -/
def State.placeWord (s : State) (c : ECmd) (pa : Nat) (data : List Byte) : State :=
  let hbm := match homeOf pa with | some (.tower _) => true | _ => false
  if hbm && decide (c.e.scope = 0b00 ∨ c.e.scope = 0b01) && s.pinsFit c.cluster [pa / 128] && (s.keyOf c.tid).isSome then
    (s.pinLine c.cluster (pa / 128) c.tid).putPin pa data
  else s.place (s.eWho c).tower pa data

/-- What the command and its earlier executions have written is had by the engine's tower, at system scope by every tower (10 R176). -/
def State.coverParts (s : State) (c : ECmd) : State :=
  (s.ecmds.filter fun x => x.id == c.id || c.parts.contains x.id).foldl
    (fun s x => (s.reach (s.towerOf c.core) x.clock).reachAll c.e.scope x.clock) s

/-- The words of a CSNAP are performed: it completes as an acquire at device scope (22 R313). -/
def State.finishSnap (s : State) (c : ECmd) : State :=
  let s := s.finishE c
  if s.holds c.key c.id then (s.acquireAll (coreOfKey c.key)).completeSlot c.key id 4 else s

/-- COMPLETION_WORD_WRITE: a release at the command's scope, after everything else of it (R280). -/
def opCompletionWordWrite (id : Nat) (s : State) : State :=
  match s.ecmd id with
  | none => s
  | some c =>
    if c.phase ≠ .detached ∨ s.quietE c = false ∨ s.partsQuiet c = false ∨ c.unacked then s
    else if s.behindStuck c then s.raise (.completionWordWrite id)
    else if c.op = .snap then s.finishSnap c
    else if c.comp = 0 then (s.coverParts c).finishE c
    else
      let w := s.eWho c
      let cls := s.classAt c.core c.comp
      match s.engXlate w c.comp cls .engWrite with
      | .fault va s => s.holdE c va 4 .completion
      | .denied va s => (s.deniedRecord w va cls).holdE c va 4 .completion
      | .wait s => s
      | .ok pa s =>
        let s := s.engUnpin w c.tid c.e.scope pa
        if s.engWait w c.e.scope pa then s.raise (.completionWordWrite id)
        else
          let s := ((s.coverParts c).placeWord c pa (leBytes 4 (1 + c.status % 256 * 256))).signal pa
          (s.reachAll c.e.scope (s.vc w.tower)).finishE c
def execCompletionWordWrite (id : Nat) (s : State) : Out := .next (opCompletionWordWrite id s)

/-- PEER_ACKNOWLEDGE: the peer has performed the last piece. -/
def opPeerAcknowledge (id : Nat) (s : State) : State :=
  match s.ecmd id with
  | some c => if c.unacked && s.quietE c then (s.putE { c with unacked := false }).settle id else s
  | none => s
def execPeerAcknowledge (id : Nat) (s : State) : Out := .next (opPeerAcknowledge id s)

/-- POST_Q_RECORD_SEND: every payload byte is performed at scope, those of stopped executions too; the record follows. -/
def opPostQRecordSend (id : Nat) (s : State) : State :=
  match s.ecmd id with
  | none => s
  | some c =>
    if c.op ≠ .postQ ∨ c.phase ≠ .detached ∨ c.sent ∨ c.status ≠ 0 ∨ s.quietE c = false ∨ s.partsQuiet c = false ∨ c.unacked then s
    else if s.mustFollow c || s.behindStuck c then s.raise (.postQRecordSend id)
    else
      let w1 := c.len + c.core % 1024 * 2 ^ 32 + c.tag.toNat * 2 ^ 48
      (s.coverParts c).sendMsg c .record ((leBytes 8 c.dst.addr ++ leBytes 8 w1).map fun b => (b, false)) c.bar none c.len
def execPostQRecordSend (id : Nat) (s : State) : Out := .next (opPostQRecordSend id s)

/-! ## Delivery (R287, R290, R291) -/

def State.msg (s : State) (id : Nat) : Option Msg := s.msgs.find? (·.id == id)
def State.putMsg (s : State) (m : Msg) : State := { s with msgs := mapIf (·.id == m.id) (fun _ => m) s.msgs }

/-- The receiving engine; a record names the core's index in the cluster, with origin 1 (09 R151). -/
def State.msgWho (s : State) (m : Msg) : EWho :=
  ⟨s.towerOf m.core, clusterOf m.core, coreOfKey m.sender, m.asid, indexOf m.core, 1, false⟩

/-- The message is over, with the status it gives its command. -/
def State.endMsg (s : State) (m : Msg) (status : Nat) : State :=
  ({ s with msgs := s.msgs.filter (·.id ≠ m.id) }).applied (some m.cmd) status

/-- The step that delivers a message. -/
def MsgKind.step (k : MsgKind) (id : Nat) : Raised :=
  match k with
  | .post | .record => .postDelivery id
  | .row => .tokenRowArrival id
  | .box .. => .mailboxArrival id

/-- A message that has reached its receiver and waits there for its reservation (R287, R279). -/
def State.atReceiver (s : State) (x : Msg) : Bool := x.stage == .waiting || s.held.any (fun h => h.kind == .reservation x.id)

/-- An earlier message of the sender waits for a reservation in the same ring (R287). -/
def State.ringBehind (s : State) (m : Msg) : Bool :=
  s.msgs.any fun x => decide (x.id < m.id) && x.sender == m.sender && x.core == m.core && x.ring == m.ring && s.atReceiver x

/-- An earlier message of the sender to the same core has still to arrive (R18). -/
def State.msgBehind (s : State) (m : Msg) : Bool :=
  s.msgs.any fun x => decide (x.id < m.id) && x.sender == m.sender && x.core == m.core && x.stage == .sent && !s.atReceiver x

/-- A release-flagged message waits until the receiving tower has applied what its clock covers (R19). -/
def State.msgEarly (s : State) (m : Msg) : Bool :=
  let t := s.towerOf m.core
  m.release && !clockCovers (s.vc t) m.clock [t]

/-- A write of a delivery that cannot land is held, or its command waits for room. -/
def State.holdMsg (s : State) (m : Msg) (va : Nat) (k : HeldKind) : State :=
  let cl := clusterOf m.core
  if s.heldRoom cl m.data.length then s.addHeld cl m.cmd m.asid va m.data.length k
  else { s with ecmds := mapIf (·.id == m.cmd) (fun c => { c with roomWait := true }) s.ecmds }

/-- Bytes of a slot that a message fills. -/
def msgCells (pas : List Nat) (data : List PByte) : List (Nat × PByte) := pas.zip data

/-- The ring a control block describes is usable for a payload (06 R95). -/
def ringUsable (ctrl base m sz len : Nat) : Bool :=
  decide (ctrl % 32 = 0) && decide (1 ≤ m ∧ m ≤ 16) && decide (4 ≤ sz ∧ sz ≤ 13) && decide (base % 2 ^ sz = 0) && decide (len ≤ 2 ^ sz)

/-- The home's window has room for one more reservation: 512 slots beyond tail, 64 rings a slice. -/
def State.windowRoom (s : State) (pa : Nat) (c : RingCounts) : Bool :=
  let home (p : Nat) : Nat × Nat := s.watchHome (p / 128)
  decide ((c.resv - c.tail).toNat < 512) &&
    (s.windows.any (·.pa == pa) || decide ((s.windows.filter fun x => home x.pa == home pa).length < 64))

/-- Adds 1 to a routing counter (R292). -/
def State.countRow (s : State) (m : Msg) : State :=
  match m.counter with
  | some i =>
    let cl := clusterOf m.core
    let v := min (2 ^ 32 - 1) ((s.counter cl i).toNat + 1)
    { s with counters := tset s.counters (counterKey cl i) (BitVec.ofNat 32 v) }
  | none => s

/-- Writes one 16-byte part of a message's reserved slot, which one being free (01 R16); a 32-byte piece that the message covers loses its
poison, one that a marked flit reaches is poisoned (09 R159). -/
def State.fillPart (s : State) (w : EWho) (cells : List (Nat × PByte)) (i : Nat) : State :=
  let part := (cells.drop (16 * i)).take 16
  match part with
  | [] => s
  | c :: _ =>
    let p := c.1 / 32
    s.place w.tower (p * 32) (overlay ((upFrom (p * 32) 32).map s.placeByte) p part) (covered p cells == 32) (if poisoned p cells then [p] else [])

/-- The slot of a message is written: it is due to be reported, once every part is performed at its scope. -/
def State.filledSlot (s : State) (w : EWho) (m : Msg) (slot : Nat) : State :=
  ((s.reachAll m.scope (s.vc w.tower)).putMsg { m with left := [], stage := .written slot }).raise (.fillReport m.id)

/-- Writes the next part of a message's reserved slot, once all of the slot translates; an abandoned write that cannot land leaves a record, and its
slot counts as filled (R279). -/
def State.fillSlot (s : State) (m : Msg) (slot : Nat) : State :=
  let w := s.msgWho m
  let cls := s.classAt w.core m.va
  match s.engPages w cls .engWrite (linesOf m.va m.data.length) with
  | .fault a s => if m.dead then (s.report (.fillUnwritable a)).filledSlot w m slot else s.holdMsg m a (.slotWrite m.id)
  | .denied a s =>
    if m.dead then (s.report (.fillUnwritable a)).filledSlot w m slot else (s.deniedRecord w a cls).holdMsg m a (.slotWrite m.id)
  | .wait s => s
  | .ok ps s =>
    if ps.any fun x => s.engWait w m.scope x.2.1 then s.raise (.ringReservationResume m.id)
    else
      match takeAny s.free m.left with
      | none => s.filledSlot w m slot
      | some (i, rest) =>
        let s := ({ s with free := s.free + 1 }).fillPart w (msgCells (ps.flatMap fun (x : Nat × Nat × Nat) => upFrom x.2.1 x.2.2) m.data) i
        if rest = [] then s.filledSlot w m slot else (s.putMsg { m with left := rest }).raise (.ringReservationResume m.id)

/-- Adds 1 to resv, for an agent on tower `w`; the ring has a fill window from then on. -/
def State.takeSlot (s : State) (w pa : Nat) (c : RingCounts) : State :=
  let s := s.place w (pa + 4) (leBytes 4 (c.resv + 1).toNat)
  if s.windows.any (·.pa == pa) then s else { s with windows := s.windows ++ [⟨pa, []⟩] }

/-- Reserves a slot by an atomic add on resv at the control block's home, a row counting in the same step; then writes it. -/
def State.reserve (s : State) (m : Msg) : State :=
  let w := s.msgWho m
  match s.engXlate w m.ring (s.classAt w.core m.ring) .engWrite with
  | .fault va s => s.holdMsg m va (.reservation m.id)
  | .denied va s => (s.deniedRecord w va (s.classAt w.core va)).holdMsg m va (.reservation m.id)
  | .wait s => s
  | .ok pa s =>
    if s.engWait w 0b10 pa then s.raise (m.kind.step m.id)
    else if m.ring % 32 ≠ 0 then s.endMsg m 3
    else if s.placePoison pa then (s.report (.ringPoisoned m.ring)).endMsg m 3
    else
      let bs := (upFrom pa 32).map s.placeByte
      let c := ringCounts bs
      let base := bitsNat (wordAt bs 16) 55 0
      let mm := bitsNat (wordAt bs 24) 4 0
      let sz := bitsNat (wordAt bs 24) 12 8
      if !ringUsable m.ring base mm sz m.data.length then s.endMsg m 3
      else if c.free mm ≤ 0 || !s.windowRoom pa c then s.putMsg { m with stage := .waiting }
      else
        let s := s.takeSlot w.tower pa c
        let slot := c.resv.toNat
        let m := { m with
          stage := .reserved slot, va := base + slot % 2 ^ mm * 2 ^ sz, left := List.range (ceilDiv m.data.length 16) }
        ((s.countRow m).putMsg m).fillSlot m slot

/-- A message reaches its receiving engine; those for a dead core are lost (20 R304), those for a stopped core wait (13 R221). -/
def State.deliver (s : State) (m : Msg) : State :=
  if !s.coreLive m.core then s.endMsg m 2
  else if (s.core m.core).stopped || s.msgBehind m || s.msgEarly m then s.raise (m.kind.step m.id)
  else if s.ringBehind m then (s.wakeCore m.core).putMsg { m with stage := .waiting }
  else (s.wakeCore m.core).reserve m

def opPostDelivery (id : Nat) (s : State) : State :=
  match s.msg id with
  | some m =>
    match m.kind, m.stage with
    | .post, .sent | .record, .sent => s.deliver m
    | _, _ => s
  | none => s
def execPostDelivery (id : Nat) (s : State) : Out := .next (opPostDelivery id s)

def opTokenRowArrival (id : Nat) (s : State) : State :=
  match s.msg id with
  | some m =>
    match m.kind, m.stage with
    | .row, .sent => s.deliver m
    | _, _ => s
  | none => s
def execTokenRowArrival (id : Nat) (s : State) : Out := .next (opTokenRowArrival id s)

/-- RING_RESERVATION_RESUME: a reservation that waited is taken again, in the senders' order; a reserved slot is written on. -/
def opRingReservationResume (id : Nat) (s : State) : State :=
  match s.msg id with
  | some m =>
    match m.stage with
    | .waiting => ({ s with msgs := mapIf (·.id == id) (fun m => { m with stage := .sent }) s.msgs }).raise (m.kind.step id)
    | .reserved slot => if s.held.any (fun h => h.kind == .slotWrite id) then s else s.fillSlot m slot
    | .sent | .written _ => s
  | none => s
def execRingReservationResume (id : Nat) (s : State) : Out := .next (opRingReservationResume id s)

/-- Tail moved over the filled slots next to it, and the slots left beyond it. -/
def moveTail : Nat → BitVec 32 → List Nat → BitVec 32 × List Nat
  | 0, t, l => (t, l)
  | n + 1, t, l => if smem l t.toNat then moveTail n (t + 1) (sdel l t.toNat) else (t, l)

/-- What waits for the window is taken up again. -/
def State.windowMoved (s : State) : State := s.ringFreed

/-- The home slice notes a filled slot and moves tail, as one signal write, for an agent on tower `w`. -/
def State.markFilled (s : State) (w pa slot : Nat) : State :=
  match s.windows.find? (·.pa == pa) with
  | none => s
  | some x =>
    let c := ringCounts ((upFrom pa 16).map s.placeByte)
    let (t, l) := moveTail 513 c.tail (sins x.filled slot)
    let s := { s with windows := if t = c.resv then s.windows.filter (·.pa ≠ pa) else mapIf (·.pa == pa) (fun x => { x with filled := l }) s.windows }
    let s := if t = c.tail then s else (s.place w pa (leBytes 4 t.toNat)).signal pa
    s.windowMoved

/-- Where a written message's ring has its control block. -/
def State.ringPa (s : State) (m : Msg) : Option Nat × State :=
  let w := s.msgWho m
  match s.engXlate w m.ring (s.classAt w.core m.ring) .engRead with
  | .ok pa s => (some pa, s)
  | .fault _ s | .denied _ s | .wait s => (none, s)

/-- After the slot is filled, a message's bytes count into its barrier; with none the message is over. -/
def State.countMsg (s : State) (m : Msg) : State :=
  let s := { s with msgs := s.msgs.filter (·.id ≠ m.id) }
  match m.bar with
  | some b => s.raise (.barrierArrival ⟨m.core, b, m.count, none, some m.cmd, s.vc (s.towerOf m.core)⟩)
  | none => s.applied (some m.cmd) 0

/-- FILL_REPORT. -/
def opFillReport (id : Nat) (s : State) : State :=
  match s.msg id with
  | some m =>
    match m.stage with
    | .written slot =>
      match s.ringPa m with
      | (some pa, s) => if s.engWait (s.msgWho m) 0b10 pa then s.raise (.fillReport id) else (s.markFilled (s.msgWho m).tower pa slot).countMsg m
      | (none, s) => s.raise (.fillReport id)
    | .sent | .waiting | .reserved _ => s
  | none => s
def execFillReport (id : Nat) (s : State) : Out := .next (opFillReport id s)

/-- MAILBOX_ARRIVAL. -/
def opMailboxArrival (id : Nat) (s : State) : State :=
  match s.msg id with
  | some m =>
    match m.kind with
    | .box n w =>
      if !s.coreLive m.core then s.endMsg m 2
      else if (s.core m.core).stopped || s.msgBehind m || s.msgEarly m then s.raise (.mailboxArrival id)
      else ((s.wakeCore m.core).setBox m.core n ((s.box m.core n).arrive w)).endMsg m 0
    | .post | .record | .row => s
  | none => s
def execMailboxArrival (id : Nat) (s : State) : Out := .next (opMailboxArrival id s)

/-! ## Barrier arrivals (R284-R286) -/

/-- A barrier after a count, and whether the count completed it. -/
def Barrier.arrive (b : Barrier) (n : Nat) : Barrier × Bool :=
  let v := min (2 ^ 32 - 1) (b.count.toNat + n)
  let b := { b with count := BitVec.ofNat 32 v }
  if b.expected ≠ 0 ∧ b.fired = false ∧ b.expected.toNat ≤ v then ({ b with fired := true }, true) else (b, false)

/-- Wakes a slot parked at a barrier: status 1, an acquire at device scope (20 R309). -/
def State.wakeBar (s : State) (bar : Nat) (k : SlotKey) : State :=
  match (s.ctx k).run with
  | .parked (.barWait b gt _) => if b = bar then (s.acquireAll (coreOfKey k)).completeSlot k (fun c => c.setG gt 1) 4 else s
  | _ => s

/-- A dropped arrival: its command takes status 4, one without a command leaves a record (20 R308). -/
def State.dropArrival (s : State) (a : Arrival) : State :=
  match a.cmd with
  | some _ => s.applied a.cmd 4
  | none => s.report (.arrivalDropped a.core a.bar)

/-- An arrival at a barrier that a resident task holds. -/
def State.arriveAt (s : State) (core : Nat) (asid : Nat) (a : Arrival) : State :=
  let (b, done) := (s.bar core a.bar).arrive a.count
  let s := s.setBar core a.bar b
  let s :=
    if done then
      let s := (slotKeys core).foldl (fun s k => s.wakeBar a.bar k) s
      if b.trig then s.launchHandler asid core a.bar b.block.toNat else s
    else s
  s.applied a.cmd 0

/-- FRAME_BARRIER_ARRIVAL: the owner is suspended, and its frame's copy takes the arrival (R286). -/
def opFrameBarrierArrival (tid : Nat) (a : Arrival) (s : State) : State :=
  match s.suspendedOf tid with
  | none => s.dropArrival a
  | some x =>
    match tfind x.bars a.bar with
    | none => s.dropArrival a
    | some b =>
      let (b, done) := b.arrive a.count
      let s := { s with suspended := mapIf (·.ctx.tid == tid) (fun x => { x with bars := tset x.bars a.bar b }) s.suspended }
      (if done && b.trig then s.launchHandler x.ctx.asid x.core a.bar b.block.toNat else s).applied a.cmd 0
def execFrameBarrierArrival (tid : Nat) (arr : Arrival) (s : State) : Out := .next (opFrameBarrierArrival tid arr s)

/-- An arrival is applied: the barrier's holder is the task named, or whoever holds that number on the core. -/
def State.arrive (s : State) (a : Arrival) : State :=
  match a.tid with
  | some tid =>
    match s.keyOf tid with
    | some k => if (s.ctx k).bars.contains a.bar then s.arriveAt (coreOfKey k) (s.ctx k).asid a else s.dropArrival a
    | none => opFrameBarrierArrival tid a s
  | none =>
    if !s.coreLive a.core then s.dropArrival a
    else
      match (slotKeys a.core).find? fun k => (s.ctx k).occupied && (s.ctx k).bars.contains a.bar with
      | some k => s.arriveAt a.core (s.ctx k).asid a
      | none =>
        match s.suspended.find? fun x => x.core == a.core && (tfind x.bars a.bar).isSome with
        | some x => s.raise (.frameBarrierArrival x.ctx.tid a)
        | none => s.dropArrival a

/-- An arrival for a stopped core, or for a task resident on one, waits in its channel (13 R221). -/
def State.arrivalStalls (s : State) (a : Arrival) : Bool :=
  match a.tid with
  | some tid => s.onStopped tid
  | none => (s.core a.core).stopped

/-- BARRIER_ARRIVAL: what its clock covers is had by the core's tower first (10 R170); one for a stopped core waits (13 R221). -/
def opBarrierArrival (a : Arrival) (s : State) : State :=
  if 128 ≤ a.bar then s.retryHandler a.core (a.bar - 128)
  else if s.arrivalStalls a then s.raise (.barrierArrival a)
  else ((s.wakeCore a.core).reach (s.towerOf a.core) a.clock).arrive a
def execBarrierArrival (arr : Arrival) (s : State) : Out := .next (opBarrierArrival arr s)

/-! ## The Courier firmware and held writes (R279, R290) -/

def State.heldOf (s : State) (id : Nat) : Option Held := s.held.find? (·.id == id)
def State.dropHeld (s : State) (h : Held) : State := ({ s with held := s.held.filter (·.id ≠ h.id) }).roomFreed h.cluster

/-- The messages that wait behind one of their sender in the same ring try again. -/
def State.wakeBehind (s : State) (m : Msg) : State :=
  (s.msgs.filter fun x => x.sender == m.sender && x.core == m.core && x.ring == m.ring && x.stage == .waiting).foldl
    (fun s x => s.raise (.ringReservationResume x.id)) s

/-- A piece among others, by its offset. -/
def insertPiece (p : Piece) : List Piece → List Piece
  | [] => [p]
  | x :: t => if p.off < x.off then p :: x :: t else x :: insertPiece p t

/-- A released write is made again. -/
def State.replay (s : State) (h : Held) : State :=
  match h.kind with
  | .piece p =>
    match s.ecmd h.cmd with
    | some c => (s.putE { c with replays := insertPiece p c.replays }).raise (.enginePieceWrite c.id)
    | none => s
  | .completion => s.raise (.completionWordWrite h.cmd)
  | .reservation m => match s.msg m with | some x => (s.raise (x.kind.step m)).wakeBehind x | none => s
  | .slotWrite m => s.raise (.ringReservationResume m)
  | .doneWord core _ => s.addDone (h.cluster - 1024) h.asid core h.va
  | .freeRing => s.raise (.freeRingHeldPublish (Fin.ofNat 4 (h.cluster - 1024)))

/-- HELD_WRITE_RELEASE. -/
def opHeldWriteRelease (id : Nat) (s : State) : State :=
  match s.heldOf id with
  | some h => (s.dropHeld h).replay h
  | none => s
def execHeldWriteRelease (id : Nat) (s : State) : Out := .next (s.byFirmware (opHeldWriteRelease id))

/-- The abandoned fill of a slot: every part of it takes zeros and poison, under the waits of any write of the slot; then it counts as filled. -/
def State.fillPoison (s : State) (m : Msg) (slot : Nat) : State :=
  let m := { m with data := m.data.map fun _ => (0, true), left := List.range (ceilDiv m.data.length 16), dead := true }
  (s.putMsg m).fillSlot m slot

/-- The first publication of a tower's order, replaced or gone. -/
def State.putPub (s : State) (t : Nat) (p : Option Publication) : State :=
  let x := s.tower t
  let s := s.setTower t { x with heldPub := p.toList ++ x.heldPub.drop 1 }
  if (s.tower t).heldPub = [] then s else s.raise (.freeRingHeldPublish (Fin.ofNat 4 t))

/-- A free ring's publication that is given up (14 R229): one that has no slot goes; a reserved slot is filled with zero and poison, or leaves a
record, and then counts as filled, as R279 states. -/
def State.dropPublish (s : State) (t : Nat) : State :=
  match (s.tower t).heldPub with
  | [] => s
  | p :: _ =>
    if p.slot.isNone then s.putPub t none
    else if p.written then s.putPub t none
    else
      let s :=
        match s.soXlate t p.asid p.core p.va with
        | .ok pa s => s.performFrom t pa (List.replicate 16 0) false [pa / 32]
        | .wait s | .none s => s.report (.fillUnwritable p.va)
      s.putPub t (some { p with written := true })

/-- A piece of a command that is given up: status 1, or for a CSNAP a record (20 R306). -/
def State.dropPieceE (s : State) (h : Held) : State :=
  match s.ecmd h.cmd with
  | some c => (if c.op = .snap then s.report (.snapAbandoned h.va) else s.failE h.cmd 1).settle h.cmd
  | none => s

/-- An abandoned write is discarded: its command completes with status 1; an abandoned reservation takes no slot and counts
nowhere; an abandoned completion word is not written. -/
def State.discard (s : State) (h : Held) : State :=
  match h.kind with
  | .piece _ => s.dropPieceE h
  | .completion => match s.ecmd h.cmd with | some c => s.finishE c | none => s
  | .reservation m => match s.msg m with | some x => (s.endMsg x 1).wakeBehind x | none => s
  | .slotWrite m =>
    match s.msg m with
    | some x => match x.stage with | .reserved slot => (s.failE h.cmd 1).fillPoison x slot | .sent | .waiting | .written _ => s
    | none => s
  | .doneWord .. => s
  | .freeRing => s.dropPublish (h.cluster - 1024)

/-- HELD_WRITE_ABANDON. What waits for a pin to end is no held write of R279. -/
def opHeldWriteAbandon (id : Nat) (s : State) : State :=
  match s.heldOf id with
  | some h => match h.kind with | .doneWord _ true => s | _ => (s.dropHeld h).discard h
  | none => s
def execHeldWriteAbandon (id : Nat) (s : State) : Out := .next (s.byFirmware (opHeldWriteAbandon id))

/-- HELD_WRITE_ROOM_FREE: a command that waited for room goes on where it stands. -/
def opHeldWriteRoomFree (id : Nat) (s : State) : State :=
  match s.ecmd id with
  | none => s
  | some c =>
    if !c.roomWait then s
    else
      let s := (s.putE { c with roomWait := false }).engineGo c.cluster
      let s := (s.msgs.filter (·.cmd == id)).foldl (fun s m =>
        match m.stage with
        | .sent => s.raise (m.kind.step m.id)
        | .reserved _ => s.raise (.ringReservationResume m.id)
        | .waiting | .written _ => s) s
      if c.pieces = [] ∧ c.replays = [] then s.settle id else s.raises ((c.pieces ++ c.replays).flatMap fun _ => c.writeStep)
def execHeldWriteRoomFree (id : Nat) (s : State) : Out := .next (opHeldWriteRoomFree id s)

/-- Reserves a slot of the free ring for a publication, as R287 states for a delivery: none in a ring that is full or whose window is; one whose
block is poisoned or whose geometry is unusable is dropped. -/
def State.pubReserve (s : State) (t ctrl pa : Nat) (p : Publication) : Got (Option Publication) :=
  if ctrl % 32 ≠ 0 then .ok none s
  else if s.placePoison pa then .ok none (s.report (.ringPoisoned ctrl))
  else
    let s := s.reachHome t pa
    let bs := (upFrom pa 32).map s.placeByte
    let c := ringCounts bs
    let base := bitsNat (wordAt bs 16) 55 0
    let m := bitsNat (wordAt bs 24) 4 0
    let sz := bitsNat (wordAt bs 24) 12 8
    if !ringUsable ctrl base m sz 16 then .ok none s
    else if c.free m ≤ 0 || !s.windowRoom pa c then .wait s
    else .ok (some { p with slot := some c.resv.toNat, va := base + c.resv.toNat % 2 ^ m * 2 ^ sz }) (s.takeSlot t pa c)

/-- The next part of a publication: its slot is reserved, written, and reported as filled, which moves tail (14 R229, R287). -/
def State.publishStep (s : State) (t : Nat) (p : Publication) : Got (Option Publication) :=
  match s.space p.asid with
  | none => .ok none s
  | some sp =>
    let ctrl := sp.freeRing.toNat
    match p.slot, p.written with
    | none, _ => (s.soXlate t p.asid p.core ctrl).bind fun pa s => s.pubReserve t ctrl pa p
    | some _, false =>
      (s.soXlate t p.asid p.core p.va).bind fun pa s =>
        .ok (some { p with written := true }) (s.performFrom t pa (leBytes 8 p.w0.toNat ++ leBytes 8 p.w1.toNat) false)
    | some slot, true => (s.soXlate t p.asid p.core ctrl).bind fun pa s => .ok none (s.markFilled t pa slot)

/-- Holds what faulted until the Courier firmware releases or abandons it (R279). -/
def State.holdPublish (s : State) (t asid : Nat) : State :=
  { s with nextId := s.nextId + 1, held := s.held ++ [⟨s.nextId, 1024 + t, 0, asid, 0, 16, .freeRing⟩] }

/-- FREE_RING_HELD_PUBLISH: the publications of a tower enter their free rings, in order (14 R229), whatever their address spaces: one that waits keeps
back those behind it (DESIGN CHOICE, log 108). One that faults is held as R279 states. -/
def opFreeRingHeldPublish (t : Fin 4) (s : State) : State :=
  match (s.tower t.val).heldPub with
  | [] => s
  | p :: _ =>
    if s.held.any fun h => h.cluster == 1024 + t.val && h.kind == .freeRing then s
    else
      match s.publishStep t.val p with
      | .ok p s => s.putPub t.val p
      | .wait s => s
      | .none s => s.holdPublish t.val p.asid
def execFreeRingHeldPublish (t : Fin 4) (s : State) : Out := .next (opFreeRingHeldPublish t s)

end Sys2Proof.Machine
end

