-- ==== Sys2Proof/Machine/Suspend.lean ====
section
/-! DEFINITION. Halting, suspending and ending tasks, context frames, and what the Courier firmware and the supervisor cores do with
them (05 R75-R80; 13 R214, R219-R221; 09 R151); the fetch of code as a step of its own (02 R33). -/

namespace Sys2Proof.Machine

/-! ## Halting a slot (05 R78, R79) -/

/-- The slot gives up the command it holds at an engine, at the command's progress point (16 R254, 19 R278); a CSNAP, which has taken its
snapshot, is past its own, and its writes follow (20 R306). -/
def State.stopHeld (s : State) (k : SlotKey) : State :=
  match (s.ctx k).run with
  | .stalled (.engine id) =>
    match s.ecmd id with
    | some c => if c.op = .snap then s.completeSlot k (fun c => c) 4 else s.stopE c
    | none =>
      match s.mcmds.find? (·.id == id) with
      | some c => if c.phase = .attached then s.raise (.matrixCommandStop c.cluster) else (s.dropM c).undoDraws c
      | none => s
  | _ => s

/-- A command that has not left the slot yet is given up. -/
def State.dropLeaving (s : State) (k : SlotKey) : State :=
  let s := match s.mcmds.find? (fun c => c.key == k && c.phase == .leaving) with | some c => (s.dropM c).undoDraws c | none => s
  { s with ecmds := s.ecmds.filter fun c => !(c.key == k && c.phase == .leaving) }

/-- An access or a fetch that waits at the port has not been charged and leaves it (12 R193). So does a line that fetch runs ahead to: it is no
access of the slot's, and no release waits for it (DESIGN CHOICE, log 92). -/
def PortWait.ofSlot (w : PortWait) (k : SlotKey) : Bool :=
  w.key == k && (match w.item with | .access | .fetch | .ahead .. => true | .store _ | .engine _ => false)

def State.leavePort (s : State) (k : SlotKey) : State := s.setCore (coreOfKey k) ((s.core (coreOfKey k)).dropWaits (·.ofSlot k))

/-- What a slot's instruction has been performed of and only waits for ends with its halt: every tower applies what it waits for, or answers
it. -/
def State.settle79 (s : State) (k : SlotKey) : State :=
  match (s.ctx k).run with
  | .stalled (.towers _) => s.settleTowers k
  | .stalled (.applied clock) => s.reachAll 0b11 clock
  | _ => s

/-- Halts a slot with pc at its instruction, a parked one included, and begins its suspension. -/
def State.halt (s : State) (k : SlotKey) (cause : Cause) : State :=
  (((((s.settle79 k).unparkWatch k).stopHeld k).dropLeaving k).leavePort k).beginSuspendKey k cause

/-- A wait of an access that has been issued, at the port, for a clock or for its slot's own requests. One that a pin refuses or that a migration stalls is
none: the pre-emption halts it there (06 R90, 09 R157), a vector access too, though 08 R126 lets an issued one complete (DESIGN CHOICE, log 101). -/
def Run.inAccess (r : Run) : Bool :=
  match r with
  | .running | .stalled (.port _) | .stalled .clock | .stalled .drain => true
  | .empty | .parked _ | .stalled _ | .suspending _ | .held => false

/-- An instruction that must complete before its slot halts: one that waits for other towers or has been performed, a vector access that
has issued (08 R126), a LINK, ADUP or AERA that has performed its first exchange (R79). -/
def Ctx.mustComplete (c : Ctx) : Bool :=
  c.cont.any (·.made) || (c.issued && c.run.inAccess) ||
    (match c.run with | .stalled (.towers _) | .stalled (.applied _) => true | _ => false)

/-- A CSNAP that has taken its snapshot completes too (20 R306). -/
def State.mustComplete (s : State) (k : SlotKey) : Bool :=
  (s.ctx k).mustComplete || s.ecmds.any fun c => c.op == .snap && s.holds k c.id

/-- PREEMPTION_REQUEST: the slot halts at once, or once the instruction that must complete has done so. -/
def opPreemptionRequest (k : SlotKey) (s : State) : State :=
  let c := s.ctx k
  match c.run with
  | .running | .stalled _ => if s.mustComplete k then s.setCtx k { c with preempt := true } else s.halt k .preempt
  | .parked _ => s.halt k .preempt
  | .empty | .suspending _ | .held => s
def execPreemptionRequest (key : Nat) (s : State) : Out := .next (s.byFirmware (opPreemptionRequest key))

/-! ## Suspension (05 R79, R80) -/

/-- The context as its frame keeps it, with what a net instruction has still to do of accesses it has begun (R79; log 81), and with the successor that a
held task waits for (13 R219, R221; log 112); the scratch pages stand in their backing. -/
def Ctx.saved (c : Ctx) (cause : Cause) : Ctx :=
  { c.ended with
    run := .suspending cause, fetchPaid := false, preempt := false, lineBuf := none, mem := [], poison := [],
    cont := c.cont, succ := c.succ, absent := List.range c.scratch,
    faultVa := match cause with | .pageFault va => va | .preempt | .yield | .coreFault | .fault .. | .ended => c.faultVa }

/-- A cause that clears at once. -/
def Cause.clears : Cause → Bool
  | .yield | .coreFault => true
  | .pageFault _ | .preempt | .fault .. | .ended => false

/-- The frame of a resident task: its context, its barrier objects by number and its tiles by accumulator name. -/
def State.frameOf (s : State) (k : SlotKey) (cause : Cause) : Suspended :=
  let c := s.ctx k
  let core := coreOfKey k
  { ctx := c.saved cause, slot := slotOfKey k, cause := cause, cleared := cause.clears, core := core,
    bars := c.bars.foldl (fun t b => tset t b (s.bar core b)) [],
    tiles := (ownedAccs c).foldl (fun t i =>
      t ++ (s.acc.filter fun e => e.1 / 32768 == tileOf core i).map fun e => (i * 32768 + e.1 % 32768, e.2)) [],
    tilePoison := (ownedAccs c).foldl (fun l i =>
      l ++ (s.accPoison.filter fun p => p / 4096 == tileOf core i).map fun p => i * 4096 + p % 4096) [] }

/-- Writes the frame and frees the slot; the keys stay with the task. A trap without a handler goes to the fault pigeonhole. -/
def State.saveTask (s : State) (k : SlotKey) (cause : Cause) : State :=
  let x := s.frameOf k cause
  let s := s.writeBack k
  let s := ({ s with suspended := s.suspended ++ [x] }).freeSlot k
  let s := if x.cleared then s.raise (.taskRestore x.ctx.tid) else s
  match cause with
  | .fault .. => s.pigeonFault (s.towerOf x.core) (.task x.ctx.tid)
  | .pageFault _ | .preempt | .yield | .coreFault | .ended => s

/-- Ends a resident task that the Courier firmware or a repair ends, with a record. -/
def State.endResident (s : State) (k : SlotKey) : State := (s.report (.taskEnded (s.ctx k).tid)).endTask k false

/-- The task's engine commands have detached, its array commands have ended, and its stores and the words of its CSNAP are performed (R79, 20 R306). -/
def State.suspendReady (s : State) (k : SlotKey) : Bool :=
  let tid := (s.ctx k).tid
  s.drained k && s.mcmds.all (·.tid ≠ tid) && s.ecmds.all fun c => c.tid ≠ tid || (c.phase == .detached && c.op ≠ .snap) || c.phase == .stopped

/-- TASK_SUSPENSION: the device-scope release, which ends the task's pins and waits for its stores, the task's commands (a pin of theirs
ends in the step that finds them done), its frame and its slot, in this order. -/
def opTaskSuspension (k : SlotKey) (s : State) : State :=
  let c := s.ctx k
  match c.run with
  | .suspending cause =>
    let s := s.unpinTask c.tid
    if s.suspendReady k then
      match cause with
      | .ended => s.endResident k
      | .pageFault _ | .preempt | .yield | .coreFault | .fault .. => s.saveTask k cause
    else s.raise (.taskSuspension k)
  | _ => s
def execTaskSuspension (key : Nat) (s : State) : Out := .next (opTaskSuspension key s)

/-! ## The image of a context frame (R80) -/

def AReg.words (a : AReg) : List Nat := [a.ptr.toNat, a.base.toNat, a.limit.toNat, a.flags.toNat]
def QReg.words (q : QReg) : List Nat :=
  [q.ctrl.toNat, q.slots.toNat, q.m.toNat + q.s.toNat * 2 ^ 8 + q.role.toNat * 2 ^ 16, q.headSeen.toNat + q.tailSeen.toNat * 2 ^ 32]

def words8 (l : List Nat) : List Byte := l.flatMap (leBytes 8)
/-- Bytes filled up with zeros. -/
def padTo (n : Nat) (l : List Byte) : List Byte := l ++ List.replicate (n - l.length) 0

/-- A barrier object as 16 bytes (19 R283): expected above count, then the flags above the block's address. -/
def Barrier.image (b : Barrier) : List Byte :=
  leBytes 8 (b.expected.toNat * 2 ^ 32 + b.count.toNat) ++
    leBytes 8 (boolNat b.trig * 2 ^ 63 + boolNat b.fired * 2 ^ 62 + b.block.toNat * 16)

/-- The 256 bytes at 0x0700: the fields in the order in which R80 names them, 8 bytes each. -/
def Suspended.systemImage (x : Suspended) : List Byte :=
  let c := x.ctx
  padTo 256 (words8 ([c.pc.toNat, (c.status x.slot).toNat, c.cause.toNat, c.epc.toNat, c.tinfo.toNat, c.tvec.toNat, c.srstate.toNat,
    c.taskWord.toNat, c.firstCore, c.homeTower, c.faultVa] ++ (upFrom 0 4).map (fun i => c.keys.getD i 0) ++
    [c.regs + c.scratch * 2 ^ 8 + c.bars.length * 2 ^ 16]))

/-- Bytes 0 to 0x1FFF of the frame. g0 is stored as zero; k0, of which the spec does not say it, as the zero that its register holds, not
as the ones it reads as (DESIGN CHOICE, log 68). -/
def Suspended.image (x : Suspended) : List Byte :=
  let c := x.ctx
  words8 ((upFrom 0 64).map fun i => (c.getG (BitVec.ofNat 6 i)).toNat) ++
  words8 (c.a.toList.flatMap AReg.words) ++ words8 (c.q.toList.flatMap QReg.words) ++
  padTo 256 (c.k.toList.flatMap fun k => leBytes 16 k.toNat) ++ x.systemImage ++
  padTo 2048 (x.bars.flatMap fun b => b.2.image) ++ padTo 4096 ((c.v.toList.take c.regs).flatMap fun v => leBytes 128 v.toNat)

/-- Byte `off` of tile n in the frame, at 0x1_0000 + 0x2_0000 × n + off. -/
def Suspended.tileByte (x : Suspended) (n off : Nat) : Byte :=
  (leBytes 4 (tget 0#32 x.tiles (n * 32768 + off / 4)).toNat).getD (off % 4) 0

/-- Where a task's frame stands in the memory that only the Sorting Office and the Courier firmware reach: aligned to 64 KiB (R80;
log 7). -/
def frameBase (tid : Nat) : Nat := tid * 2 ^ 20

/-- A byte of that memory: what a suspended task's frame has there. -/
def State.frameByte (s : State) (a : Nat) : Byte :=
  match s.suspendedOf (a / 2 ^ 20) with
  | none => 0
  | some x =>
    let off := a % 2 ^ 20
    if off < 0x10000 then x.image.getD off 0
    else
      let n := (off - 0x10000) / 0x20000
      if (ownedAccs x.ctx).contains n then x.tileByte n ((off - 0x10000) % 0x20000) else 0

/-! ## The Courier firmware and suspended tasks -/

def PigeonFault.ofTask (tid : Nat) (f : PigeonFault) : Bool := match f with | .task t => t == tid | .meet .. | .group .. => false

/-- A task leaves the fault pigeonholes; what is held for room in one enters it. -/
def State.unpigeon (s : State) (tid : Nat) : State :=
  [0, 1, 2, 3].foldl (fun s t =>
    let x := s.tower t
    let s := s.setTower t { x with pfault := x.pfault.filter (!·.ofTask tid), heldFault := x.heldFault.filter (!·.ofTask tid) }
    if x.heldFault = [] then s else s.raise (.heldEnqueueEntry (Fin.ofNat 4 t))) s

/-- TASK_RELEASE: the cause of a suspension clears. -/
def opTaskRelease (tid : Nat) (s : State) : State :=
  match s.suspendedOf tid with
  | none => s
  | some _ =>
    (({ s with suspended := mapIf (·.ctx.tid == tid) (fun x => { x with cleared := true }) s.suspended }).unpigeon tid).raise (.taskRestore tid)
def execTaskRelease (tid : Nat) (s : State) : Out := .next (s.byFirmware (opTaskRelease tid))

/-- Ends a suspended task: its frame and its backing go, its keys are released. Its pins have ended with its residence. -/
def State.endSuspended (s : State) (x : Suspended) : State :=
  let tid := x.ctx.tid
  let s := { s with suspended := s.suspended.filter (·.ctx.tid ≠ tid) }
  let s := (((s.dropFrames x.ctx.frames).dropParts tid).unpigeon tid).report (.taskEnded tid)
  match x.ctx.gid with
  | some g => s.leaveGroup g x.core false
  | none => s.releaseKeys tid

/-- COURIER_END_TASK: a resident task is halted and ends as it would have been suspended; one that waits for a successor ends at
once. -/
def opCourierEndTask (tid : Nat) (s : State) : State :=
  match s.keyOf tid with
  | some k =>
    match (s.ctx k).run with
    | .held => s.endResident k
    | .suspending _ => s.setCtx k { s.ctx k with run := .suspending .ended }
    | .empty => s
    | .running | .parked _ | .stalled _ => s.halt k .ended
  | none =>
    match s.suspendedOf tid with
    | some x => s.endSuspended x
    | none => s
def execCourierEndTask (tid : Nat) (s : State) : Out := .next (s.byFirmware (opCourierEndTask tid))

/-! ## Core faults (13 R221) -/

/-- A task held for its successor is suspended as it stands: its group waits for it (R219, R221). -/
def State.suspendHeld (s : State) (k : SlotKey) : State :=
  let c := s.ctx k
  let s := match c.gid.bind s.groupOf with | some g => s.setGroup { g with held := g.held - 1 } | none => s
  (s.setCtx k { c with run := .suspending .coreFault }).raise (.taskSuspension k)

/-- What becomes of a slot of the stopped core: its task is suspended where its state can be read, else ended. -/
def State.evacuate (s : State) (readable : Bool) (k : SlotKey) : State :=
  let c := s.ctx k
  match c.run with
  | .empty => s
  | .held => if readable then s.suspendHeld k else s.endResident k
  | .suspending _ => if readable then s else s.setCtx k { c with run := .suspending .ended }
  | .running | .parked _ | .stalled _ => s.halt k (if readable then .coreFault else .ended)

/-- The barrier arrivals on their way to a core. -/
def State.arrivalsTo (s : State) (core : Nat) : List Arrival :=
  s.raised.filterMap fun r => match r with | .barrierArrival a => if a.core = core ∧ a.tid = none then some a else none | _ => none

/-- The messages held for the core are discarded, with a record: posts and rows end with status 2, dispatches cost their group a
task. -/
def State.discardMessages (s : State) (core : Nat) : State :=
  let ms := s.msgs.filter fun m => m.core == core && (m.stage == .sent || m.stage == .waiting)
  let ds := s.reserved.filter fun r => coreOfKey r.1 == core
  let as := s.arrivalsTo core
  if ms = [] ∧ ds = [] ∧ as = [] then s
  else
    let s := ms.foldl (fun s m => s.endMsg m 2) s
    let s := ds.foldl (fun s r => s.dropDispatch r.1 r.2) s
    let s := { s with raised := s.raised.filter fun r => match r with | .barrierArrival a => !as.contains a | _ => true }
    (as.foldl State.dropArrival s).report (.coreMessagesDropped core)

/-- The core is tested: it returns to service, or its coordinate is marked dead. -/
def State.testCore (s : State) (core : Nat) (passes : Bool) : State :=
  let s := s.setCore core { s.core core with stopped := false, dead := !passes }
  if passes then s.raises ((slotKeys core).map Raised.slotFill) else s.raise .enumerationUpdate

/-- The core is stopped, alone: what it holds is evacuated. -/
def State.stopCore (s : State) (core : Nat) (readable : Bool) : State :=
  let s := s.setCore core { s.core core with stopped := true }
  (((slotKeys core).foldl (fun s k => s.evacuate readable k) s).l1Flush core).report (.coreFaulted core)

/-- The last steps of a core fault, once its tasks are gone. -/
def State.serveCore (s : State) (core : Nat) (passes : Bool) : State :=
  let s := { s with raised := s.raised.filter fun r => match r with | .coreFault c .. => c ≠ core | _ => true }
  (s.discardMessages core).testCore core passes

/-- CORE_FAULT: the supervisor stops the core; once its tasks are suspended or ended it discards the messages held for the core, and
tests it. -/
def opCoreFault (core : Nat) (readable passes : Bool) (s : State) : State :=
  if !s.coreLive core || isSup core then s
  else if !(s.core core).stopped then (s.stopCore core readable).raise (.coreFault core readable passes)
  else if s.residents core = [] then s.serveCore core passes
  else s.raise (.coreFault core readable passes)
def execCoreFault (core : Nat) (readable passes : Bool) (s : State) : Out := .next (s.byFirmware (opCoreFault core readable passes))

/-- With a resident task that is not parked, the core has not issued for 2^20 cycles. -/
def State.coreStuck (s : State) (core : Nat) : Bool :=
  !(s.core core).stopped && (s.residents core).any (!·.isParked) &&
    decide ((s.core core).activeAt + 2 ^ 20 ≤ (s.tower (s.towerOf core)).cycle)

/-- CORE_STALL_DETECT: the supervisor core acts as on a fault of the checkers. -/
def opCoreStallDetect (core : Nat) (readable passes : Bool) (s : State) : State :=
  if s.coreStuck core then opCoreFault core readable passes s else s
def execCoreStallDetect (core : Nat) (readable passes : Bool) (s : State) : Out := .next (s.byFirmware (opCoreStallDetect core readable passes))

/-! ## Remote registers (05 R75) -/

/-- REMOTE_REGISTER_ACCESS: an access of the supervisor core of a tower reaches the target that its s.target names. -/
def opRemoteRegisterAccess (tower : Fin 4) (write : Bool) (num : BitVec 12) (val : Word) (s : State) : State :=
  if (regionIndex num).isNone && num ≠ 0x050#12 then s
  else if write then s.remoteWrite (1024 + tower.val) num val
  else (s.remoteRead (1024 + tower.val) num).2
def execRemoteRegisterAccess (tower : Fin 4) (write : Bool) (num : BitVec 12) (val : BitVec 64) (s : State) : Out :=
  .next (s.byFirmware (opRemoteRegisterAccess tower write num val))

/-! ## The fetch of code (02 R33) -/

/-- A fetch that ends in a trap or a suspension takes with it the command that had left its slot's instruction and only waited (05 R79, 16 R246);
while the fetch itself waits, the command does. -/
def State.fetchEnded (s : State) (k : SlotKey) : State :=
  match (s.ctx k).run with
  | .stalled _ => s
  | _ => s.dropLeaving k

/-- INSTRUCTION_FETCH: the line at the program counter of a slot that runs is brought to it as code, with the faults of a fetch. -/
def opInstructionFetch (s : State) : State :=
  if s.me.run = .running then
    match s.fetchLine s.me.pc.toNat with
    | .ok _ s => s
    | .done s => s.fetchEnded s.cur
  else s
def execInstructionFetch (s : State) : Out := .next (opInstructionFetch s)

end Sys2Proof.Machine
end

