-- ==== Sys2Proof/Machine/Slices.lean ====
section
/-! DEFINITION. What the ports, routers, slices, towers and monitor tables do on their own (01 R14; 09 R141-R162; 10 R163-R175; 11
R185-R191; 12 R193-R196). A step whose argument no longer names anything changes nothing (log 21). -/

namespace Sys2Proof.Machine

/-! ## Routers (01 R14, 09 R154) -/

/-- The cores of a router. -/
def State.routerCores (s : State) (t h : Nat) : List Nat := (s.coresOf t).filter fun c => s.routerOf c = h

/-- A request waits at a core's port for the slice of an index: the access or fetch of a slot, a line that fetch runs ahead to. -/
def State.portBusy (s : State) (t h : Nat) : Bool :=
  (s.coresOf t).any fun c => (s.core c).portq.any fun w => match w.item with | .ahead _ l => s.sliceOf t (l * 128) == h | _ => false

/-- The core at whose router a monitor table is reached: the first of its cluster, or its supervisor core. -/
def monitorCore (cl : Nat) : Nat := if isSup cl then cl else coreAt cl 0

/-- A raised step is traffic of a router: an arrival for its cores, a descriptor on its way to its slice or an acknowledgement of one, a
watch or its withdrawal on its way to its slice as a home, a wake or an acknowledgement on its way to a monitor table. -/
def State.raisedAt (s : State) (t h : Nat) (r : Raised) : Bool :=
  let home := fun line => homeOf (line * 128) == some (.tower t) && s.sliceOf t (line * 128) == h
  match r with
  | .barrierArrival a => s.towerOf a.core == t && s.routerOf a.core == h
  | .shootdownDescriptor _ u n | .shootdownDrainComplete _ u n | .shootdownAck _ u n => u.val == t && n.val == h
  | .watchMessage _ l | .watchWithdrawal _ l => home l
  | .watchWithdrawalAck cl _ | .wakeWrite cl _ => let c := monitorCore cl; s.towerOf c == t && s.routerOf c == h
  | _ => false

/-- Something is on its way through a router: a request from its cores, at its slice or to it as a home, a message, arrival or descriptor
for it, a command of an engine for its cores, or a matrix command with a line that its slice has translated. -/
def State.routerBusy (s : State) (t h : Nat) : Bool :=
  let mine := fun core => s.towerOf core == t && s.routerOf core == h
  (s.reqs.any fun r => r.stage ≠ .pinned && (mine (coreOfKey r.key) || (s.towerOf (coreOfKey r.key) == t && s.sliceOf t r.va == h) ||
    (homeOf r.pa == some (.tower t) && s.sliceOf t r.pa == h))) ||
  (s.msgs.any fun m => mine m.core) || (s.ecmds.any fun c => mine c.core) ||
  (s.mcmds.any fun c => mine (coreOfKey c.key) || s.towerOfCluster c.cluster == t && c.map.any fun p => s.sliceOf t (p.1 * 128) == h) ||
  s.portBusy t h || s.raised.any (s.raisedAt t h)

/-- ROUTER_POWER_GATE: only a router that has had no traffic for 4096 network cycles, whose cores hold no task and no L1 line. -/
def opRouterPowerGate (t : Fin 4) (h : Fin 64) (s : State) : State :=
  let n := t.val * 64 + h.val
  let quiet := (s.routerCores t h).all fun c => (s.residents c).isEmpty && (s.core c).l1.isEmpty
  let idle := decide (tget 0 s.routed n + coreCycles 4096 ≤ (s.tower t.val).cycle)
  if quiet && idle && !s.routerBusy t h then { s with gated := sins s.gated n } else s
def execRouterPowerGate (tower : Fin 4) (router : Fin 64) (s : State) : Out := .next (opRouterPowerGate tower router s)

/-- ROUTER_WAKE. -/
def execRouterWake (tower : Fin 4) (router : Fin 64) (s : State) : Out := .next (s.wakeRouter tower router)

/-! ## The port of a core (09 R160, R162; 12 R193-R196) -/

def ReqOp.cost : ReqOp → Nat
  | .store d => round32 d.length
  | .red .. => 32

def Req.cost (r : Req) : Nat := if r.paid then 0 else r.op.cost

def State.req (s : State) (id : Nat) : Option Req := s.reqs.find? (·.id == id)
def State.putReq (s : State) (r : Req) : State := { s with reqs := mapIf (·.id == r.id) (fun _ => r) s.reqs }

/-- An older access of the slot to the same 32-byte piece is not yet performed: the home takes the two in program order (10 R164, R174). -/
def State.reqBehind (s : State) (r : Req) : Bool :=
  (s.reqs.takeWhile (·.id ≠ r.id)).any fun x => x.key == r.key && x.pa / 32 == r.pa / 32 && x.unperformed

/-- Stores and reductions in the write buffers of a core's slots that may come to the port, of one tenant. -/
def State.leavable (s : State) (core tenant : Nat) : List Req :=
  s.reqs.filter fun r =>
    coreOfKey r.key == core && r.stage == .buffer && s.tenantOf r.asid == tenant &&
      (s.core core).portq.all (·.item ≠ .store r.id)

/-- The slot goes on with the access or the fetch that the port has been paid for. -/
def State.paidSlot (s : State) (k : SlotKey) (item : PortItem) : State :=
  match (s.ctx k).run with
  | .stalled (.port _) => s.setCtx k { (s.ctx k).paidFor item with run := .running }
  | _ => s

/-- A request leaves the port: an access's or fetch's slot goes on, a store or reduction travels to its slice, a piece of an engine's
command counts as paid, a line that fetch runs ahead to is read. -/
def State.leaves (s : State) (core : Nat) (w : PortWait) : State :=
  match w.item with
  | .access => s.paidSlot w.key .access
  | .fetch => s.paidSlot w.key .fetch
  | .store id =>
    match s.req id with
    | some r => if r.stage = .buffer then (s.putReq { r with stage := .slice }).raise (.sliceRequest id) else s
    | none => s
  | .engine id =>
    { s with
      mcmds := mapIf (·.id == id) (fun c => { c with paid := c.paid + w.cost }) s.mcmds
      ecmds := mapIf (·.id == id) (fun c => { c with paid := c.paid + w.cost }) s.ecmds }
  | .ahead asid vline => s.aheadFill core asid vline

/-- The request that a tenant has at the port: the earliest that waits there, else one from the write buffers. -/
def State.portHead (s : State) (core pick i : Nat) : Option PortWait :=
  match (s.core core).portq.find? (·.tenant == i) with
  | some w => some w
  | none =>
    let rs := s.leavable core i
    (rs[pick % rs.length]?).map fun r => ⟨i, r.cost, r.key, .store r.id⟩

/-- Takes a request of one tenant at the port; true when it left, and then its class counts as the last to send. -/
def State.portTenant (s : State) (core pick i : Nat) : Bool × State :=
  match s.portHead core pick i with
  | none => (false, s)
  | some w =>
    let c := (s.core core).busyBy i
    if w.cost ≤ nget c.bucket i then
      (true, ((s.wakeCore core).setCore core { c.pay (s.cycleAt core) i w.cost with portq := c.portq.erase w }).leaves core w)
    else (false, s.setCore core { c with portq := if c.portq.contains w then c.portq else c.portq ++ [w] })

/-- The tenants in round robin after the class that sent last. -/
def State.portRound (s : State) (core pick : Nat) : List Nat → State
  | [] => s
  | i :: rest =>
    match s.portTenant core pick i with
    | (true, s) => if [0, 1, 2, 3].any (fun i => (s.leavable core i) ≠ [] || (s.core core).portq.any (·.tenant == i)) then s.raise (.portRequestLeave core 0) else s
    | (false, s) => s.portRound core pick rest

/-- PORT_REQUEST_LEAVE: at most one request leaves, and none in a cycle in which one has left. -/
def opPortRequestLeave (core pick : Nat) (s : State) : State :=
  let l := (s.core core).lastCls
  if (s.core core).portFree (s.cycleAt core) then s.portRound core pick [(l + 1) % 4, (l + 2) % 4, (l + 3) % 4, l % 4]
  else s.raise (.portRequestLeave core pick)
def execPortRequestLeave (core pick : Nat) (s : State) : Out := .next (opPortRequestLeave core pick s)

/-- A tenant was idle throughout the period that ends (R162). -/
def Core.idle (c : Core) (i : Nat) : Bool :=
  !c.busy[i % 4]'(Nat.mod_lt _ (by decide)) && nget c.bucket i == nget c.cap i && c.portq.all (·.tenant ≠ i)

/-- The grants of a port at a refill boundary (R162). -/
def Core.grants (c : Core) : List Nat :=
  let ts := [0, 1, 2, 3]
  let share (i : Nat) : Nat := nget c.shares i
  let base (i : Nat) : Nat := 64 * share i
  let spare := 64 * (64 - (ts.map share).sum) + ((ts.filter c.idle).map base).sum
  let active := ts.filter fun i => decide (0 < share i) && !c.idle i
  let zs := ts.filter fun i => decide (share i = 0) && !c.idle i
  ts.map fun i =>
    if c.idle i then 0
    else if active ≠ [] then (if share i = 0 then 0 else base i + spare * share i / (active.map share).sum)
    else spare / zs.length

/-- A port after a refill boundary: a tenant with a request still waiting is not idle in the new period (R162). -/
def Core.refill (c : Core) : Core :=
  let g := c.grants
  let cap (i : Nat) : Nat := 2 * max (g.getD i 0) (64 * nget c.shares i)
  let b (i : Nat) : Nat := min (nget c.bucket i + g.getD i 0) (cap i)
  let w (i : Nat) : Bool := c.portq.any (·.tenant == i)
  { c with bucket := #v[b 0, b 1, b 2, b 3], cap := #v[cap 0, cap 1, cap 2, cap 3], busy := #v[w 0, w 1, w 2, w 3] }

/-- SHAPER_REFILL: every port of the tower, the service port among them. A port that nothing has used stays as it is. -/
def opShaperRefill (t : Fin 4) (s : State) : State :=
  let cs := (s.cores.map Prod.fst).filter fun c => s.towerOf c = t.val
  cs.foldl (fun s c =>
    (s.setCore c (s.core c).refill).raises
      (if [0, 1, 2, 3].any (fun i => s.leavable c i ≠ []) || (s.core c).portq ≠ [] then [.portRequestLeave c 0] else [])) s
def execShaperRefill (tower : Fin 4) (s : State) : Out := .next (opShaperRefill tower s)

/-! ## A store or reduction on its way (09 R143; 10 R170, R173, R174) -/

def State.reqWho (s : State) (r : Req) : Who := ⟨s.towerOf (coreOfKey r.key), r.asid, coreOfKey r.key, slotOfKey r.key, 0⟩

/-- From its slice a request goes on to its home, through the remote-data cache where another tower is home. -/
def State.forward (s : State) (r : Req) : State :=
  match homeOf r.pa with
  | some (.tower h) =>
    if h = s.towerOf (coreOfKey r.key) then (s.putReq { r with stage := .home }).raise (.performAtHome r.id)
    else (s.putReq { r with stage := .rdc }).raise (.remoteDataCacheRequest r.id)
  | _ => (s.putReq { r with stage := .home }).raise (.performAtHome r.id)

/-- The device address that an address in the BAR2 aperture reaches: in a page the Courier firmware has assigned, through the tables of its
address space as they stand (09 R329, 23 R315; log 55). -/
def State.aperturePa (s : State) (addr : Nat) : Option Nat :=
  if addr < 2 ^ 28 then
    (tfind s.aperture (addr / 2 ^ 21)).bind fun p =>
      (s.space p.1).bind fun sp =>
        match s.walk sp.root (p.2 + addr % 2 ^ 21) false with
        | .ok l => some (l.frame + addr % 2 ^ 21)
        | .error _ => none
  else none

/-- Translates a request anew: by its slice, or for the host by the aperture. -/
def State.reTranslate (s : State) (r : Req) : Look :=
  if r.key = feKey then (match s.aperturePa r.va with | some pa => .ok pa s | none => .denied s)
  else s.translate (s.reqWho r) r.va r.cls .write

/-- What stands behind a performed request may be performed now: the front end's next write (R332), the slot's next access to the
piece. -/
def State.nextAfter (s : State) (r : Req) : State :=
  match s.reqs.find? fun x => x.key == r.key && x.stage == .home && (r.key == feKey || x.pa / 32 == r.pa / 32) with
  | some x => s.raise (.performAtHome x.id)
  | none => s

/-- SLICE_REQUEST: a request that a migration stalled is translated again; one that then faults is tried again (log 24), and the host's that
reaches no page then is dropped (log 55). -/
def opSliceRequest (id : Nat) (s : State) : State :=
  match s.req id with
  | none => s
  | some r =>
    if r.stage ≠ .slice then s
    else
      let t := s.towerOf (coreOfKey r.key)
      let s := s.wakeRouter t (s.sliceOf t r.va)
      if r.rewalk then
        match s.reTranslate r with
        | .ok pa s => s.forward { r with pa := pa, rewalk := false }
        | .fault s | .denied s =>
          if r.key = feKey then ({ s with reqs := s.reqs.filter (·.id ≠ id) }).nextAfter r else s.raise (.sliceRequest id)
      else s.forward r
def execSliceRequest (id : Nat) (s : State) : Out := .next (opSliceRequest id s)

/-- TRANSLATION_WALK: a slice walks for a request; the fault response suspends the task of the slot named, and no other (R151). -/
def opTranslationWalk (q : WalkArgs) (s : State) : State :=
  let t := q.tower.val
  let h := s.sliceOf t q.va
  let k := 4 * q.core + q.slot
  match (s.wakeRouter t h).walkSlice ⟨t, q.asid, q.core, q.slot, 0⟩ h q.va q.cls q.acc with
  | .ok (_, s) => s
  | .error s =>
    if q.core < 1028 ∧ q.slot < 4 ∧ (s.ctx k).asid = q.asid ∧ !s.mustComplete k then
      match (s.ctx k).run with
      | .running | .stalled _ => s.halt k (.pageFault q.va)
      | .empty | .parked _ | .suspending _ | .held => s
    else s
def execTranslationWalk (q : WalkArgs) (s : State) : Out := .next (opTranslationWalk q s)

/-- REMOTE_DATA_CACHE_REQUEST: a write passes through to its home with the clock of the writer's tower. -/
def opRemoteDataCacheRequest (id : Nat) (s : State) : State :=
  match s.req id with
  | some r =>
    if r.stage = .rdc then
      (s.putReq { r with stage := .home, clock := s.vc (s.towerOf (coreOfKey r.key)) }).raise (.performAtHome id)
    else s
  | none => s
def execRemoteDataCacheRequest (id : Nat) (s : State) : Out := .next (opRemoteDataCacheRequest id s)

/-- The bytes a request writes at its place, and whether it writes a whole piece; none where a poisoned piece discards a reduction (11
R186). -/
def State.reqBytes (s : State) (r : Req) : Option (List Byte × Bool) :=
  match r.op with
  | .store d => some (s.fillBytes r.pa d, wholePiece d)
  | .red op wide x =>
    let n := if wide then 8 else 4
    if s.placePoison r.pa then none
    else some (leBytes n (redValue op n (leNat ((upFrom r.pa n).map s.placeByte)) x.toNat), false)

/-- The request has been performed: its acknowledgement carries the clock of its home. What a pin store has taken stands there until the
pin ends (R163, R173), and a reduction's core drops its copies of the line, which lack it (R164). -/
def State.performed (s : State) (r : Req) : State :=
  let core := coreOfKey r.key
  let own := s.vc (s.towerOf core)
  let s :=
    if (s.pinOf (r.pa / 128)).isSome then
      let s := s.putReq { r with stage := .pinned, clock := own }
      if r.isRed then s.l1Drop core (r.pa / 128) else s
    else
      (s.putReq { r with stage := .response, clock := match homeOf r.pa with | some (.tower h) => s.vc h | _ => own }).raise
        (.responseDelivery r.id)
  s.nextAfter r

/-- Performs a request at its place, presents its signal, and answers. -/
def State.performReq (s : State) (r : Req) : State :=
  let s :=
    match s.reqBytes r with
    | none => s.report (.redPoison r.pa)
    | some (d, whole) =>
      let s := if (s.pinOf (r.pa / 128)).isSome then s.putPin r.pa d whole else s.performAt r.pa d whole
      if r.sig then s.signal r.pa else s
  s.performed r

/-- The home has applied what the writer's tower knew (R170). -/
def State.homeKnows (s : State) (r : Req) : Bool :=
  match homeOf r.pa with
  | some (.tower h) => h = s.towerOf (coreOfKey r.key) || clockCovers (s.vc h) r.clock [h]
  | _ => true

/-- The write would run the home's clock too far ahead (R170). -/
def State.gapShut (s : State) (pa : Nat) : Bool :=
  match homeOf pa with
  | some (.tower h) => !s.gapOpen h
  | _ => false

/-- The front end's writes are performed in the order in which they came (R332). -/
def State.feBehind (s : State) (r : Req) : Bool :=
  r.key == feKey && (s.reqs.takeWhile (·.id ≠ r.id)).any fun x => x.key == feKey && x.unperformed

/-- A request at its home: behind an earlier one, stalled by a migration, refused by a pin (at system scope by its own cluster's too, 11
R178), early, held by the gap, or performed. -/
def State.atHome (s : State) (r : Req) : State :=
  let own := clusterOpt (coreOfKey r.key)
  if s.feBehind r || s.reqBehind r then s
  else if s.frameStalled r.pa || s.pinnedAway own (r.pa / 128) then s
  else if (s.pinOf (r.pa / 128)).isSome then (if r.scope = 0b11 then s else s.performReq r)
  else if !s.homeKnows r then s
  else if s.gapShut r.pa then s.putReq { r with stage := .gap }
  else s.performReq r

/-- PERFORM_AT_HOME. -/
def opPerformAtHome (id : Nat) (s : State) : State :=
  match s.req id with
  | some r => if r.stage = .home then s.atHome r else s
  | none => s
def execPerformAtHome (id : Nat) (s : State) : Out := .next (opPerformAtHome id s)

/-- CLOCK_GAP_WRITE_RESUME. -/
def opClockGapWriteResume (id : Nat) (s : State) : State :=
  match s.req id with
  | some r => if r.stage = .gap then (s.putReq { r with stage := .home }).atHome { r with stage := .home } else s
  | none => s
def execClockGapWriteResume (id : Nat) (s : State) : Out := .next (opClockGapWriteResume id s)

/-- RESPONSE_DELIVERY: the acknowledgement of a remote write waits for the clock it carries (R170), at system scope until every tower has
applied it (R163). A reduction's core then drops its copies of the line, which lack it (R164). -/
def opResponseDelivery (id : Nat) (s : State) : State :=
  match s.req id with
  | some r =>
    let core := coreOfKey r.key
    let t := s.towerOf core
    if r.stage = .response ∧ clockCovers (s.vc t) r.clock [t] ∧ (r.scope ≠ 0b11 ∨ s.allApplied r.clock) then
      let s := { s.wakeCore core with reqs := s.reqs.filter (·.id ≠ id) }
      if r.isRed then s.l1Drop core (r.pa / 128) else s
    else s
  | none => s
def execResponseDelivery (id : Nat) (s : State) : Out := .next (opResponseDelivery id s)

/-- ANNOUNCEMENT_APPLY. -/
def opAnnouncementApply (dst home : Fin 4) (s : State) : State :=
  match s.nextAnn dst home with
  | some a => if s.annReady a then (s.applyAnn a).clockMoved dst else s
  | none => s
def execAnnouncementApply (dst home : Fin 4) (s : State) : Out := .next (opAnnouncementApply dst home s)

/-! ## The core's lines and stalls (10 R165; 06 R90) -/

/-- L1_LINE_EXPIRY. -/
def opL1LineExpiry (core asid vline : Nat) (s : State) : State :=
  let c := s.core core
  s.setCore core { c with l1 := c.l1.filter fun l => !(l.asid == asid && l.vline == vline) }
def execL1LineExpiry (core asid vline : Nat) (s : State) : Out := .next (opL1LineExpiry core asid vline s)

/-- A stall that ends by trying the access again. -/
def Stall.retries : Stall → Bool
  | .refused _ | .clock | .drain | .reductions | .queue | .pool | .migration => true
  | .engine cmd => cmd == 0
  | .port _ | .busy .. | .towers _ | .applied _ => false

/-- ACCESS_RETRY. What has been performed at system scope is complete once every tower has applied it; its acquire follows (10 R163,
R168). -/
def opAccessRetry (k : SlotKey) (s : State) : State :=
  match (s.ctx k).run with
  | .stalled (.applied clock) => if s.allApplied clock then (s.l1Flush (coreOfKey k)).wakeSlot k else s.raise (.accessRetry k)
  | .stalled y => if y.retries then s.wakeSlot k else s
  | _ => s
def execAccessRetry (key : Nat) (s : State) : Out := .next (opAccessRetry key s)

/-! ## Watches and wakes (11 R189-R191) -/

def State.monitor (s : State) (cl line : Nat) : Option Monitor := s.monitors.find? fun m => m.cluster == cl && m.line == line

/-- WATCH_MESSAGE: the watch of an armed entry stands at the line's home. -/
def opWatchMessage (cl line : Nat) (s : State) : State :=
  match s.monitor cl line with
  | some m => if m.leaving || (s.pinOf line).isSome then s else s.addWatch cl line
  | none => s
def execWatchMessage (cluster line : Nat) (s : State) : Out := .next (opWatchMessage cluster line s)

/-- WATCH_WITHDRAWAL: the home drops the cluster's watch and acknowledges. -/
def opWatchWithdrawal (cl line : Nat) (s : State) : State :=
  match s.monitor cl line with
  | some m =>
    if m.leaving then
      let s := s.wakeHome (line * 128)
      ({ s with watches := s.watches.filter fun w => !(w.line == line && w.cluster == cl) }).raise (.watchWithdrawalAck cl line)
    else s
  | none => s
def execWatchWithdrawal (cluster line : Nat) (s : State) : Out := .next (opWatchWithdrawal cluster line s)

/-- WATCH_WITHDRAWAL_ACK: the entry frees. -/
def opWatchWithdrawalAck (cl line : Nat) (s : State) : State :=
  { s.wakeCore (monitorCore cl) with monitors := s.monitors.filter fun m => !(m.cluster == cl && m.line == line && m.leaving) }
def execWatchWithdrawalAck (cluster line : Nat) (s : State) : Out := .next (opWatchWithdrawalAck cluster line s)

/-- WAKE_WRITE. -/
def execWakeWrite (cluster line : Nat) (s : State) : Out := .next ((s.wakeCore (monitorCore cluster)).wakeLine cluster line)

/-- The cycle count of a slot's tower. -/
def State.now (s : State) (k : SlotKey) : Nat := (s.tower (s.towerOf (coreOfKey k))).cycle

/-- WAIT_TIMEOUT: the WAIT completes with status 2 and releases its watch. -/
def opWaitTimeout (k : SlotKey) (s : State) : State :=
  match (s.ctx k).run with
  | .parked (.wait line gt (some d)) =>
    if d ≤ s.now k then (s.completeSlot k (fun c => c.setG gt 2) 4).disarm (monitorOf (coreOfKey k)) line else s
  | _ => s
def execWaitTimeout (key : Nat) (s : State) : Out := .next (opWaitTimeout key s)

/-- SLEEP_EXPIRY. -/
def opSleepExpiry (k : SlotKey) (s : State) : State :=
  match (s.ctx k).run with
  | .parked (.sleep w) => if w ≤ s.now k then s.completeSlot k id 4 else s
  | _ => s
def execSleepExpiry (key : Nat) (s : State) : Out := .next (opSleepExpiry key s)

/-- BAR_WAIT_TIMEOUT: status 2, with the acquire of every completion (20 R309). -/
def opBarWaitTimeout (k : SlotKey) (s : State) : State :=
  match (s.ctx k).run with
  | .parked (.barWait _ gt (some d)) =>
    if d ≤ s.now k then (s.acquireAll (coreOfKey k)).completeSlot k (fun c => c.setG gt 2) 4 else s
  | _ => s
def execBarWaitTimeout (key : Nat) (s : State) : Out := .next (opBarWaitTimeout key s)

/-! ## Shootdown (09 R153-R155) -/

/-- A page number of the descriptor's class lies in its range. -/
def sdPage (d : Shootdown) (p : Nat) : Bool := decide (d.base / pageBytes d.cls ≤ p ∧ p < d.base / pageBytes d.cls + d.count)
def sdAddr (d : Shootdown) (va : Nat) : Bool := sdPage d (va / pageBytes d.cls)
/-- The address space is the descriptor's, or it names all. -/
def sdAs (d : Shootdown) (asid : Nat) : Bool := d.asid == 0xFFFF || asid == d.asid

/-- The children of a slice in the spanning tree: along x on row 0, then along y; the root also has slice 0 of the other towers. -/
def treeKids (n : Nat) : List Nat :=
  let h := n % 64
  (if h / 8 = 0 ∧ h % 8 < 7 then [n + 1] else []) ++ (if h / 8 < 7 then [n + 8] else []) ++ (if n = 0 then [64, 128, 192] else [])

/-- The awake slices that a slice forwards to, and those it skips. -/
def State.shootTargets (s : State) : Nat → List Nat → List Nat × List Nat
  | 0, _ => ([], [])
  | f + 1, kids =>
    kids.foldl (fun acc k =>
      if smem s.gated k then
        let (a, b) := s.shootTargets f (treeKids k)
        (acc.1 ++ a, k :: acc.2 ++ b)
      else (acc.1 ++ [k], acc.2)) ([], [])

def State.shoot (s : State) (id : Nat) : Option ShootState := s.shoots.find? (·.sd.id == id)
def State.putShoot (s : State) (x : ShootState) : State := { s with shoots := mapIf (·.sd.id == x.sd.id) (fun _ => x) s.shoots }

/-- A request that a slice has translated, under an entry that a descriptor drops, and that is not yet performed at its home, a pin store being none. -/
def State.reqUnder (s : State) (d : Shootdown) (t h : Nat) (r : Req) : Bool :=
  r.stage ≠ .response && r.key ≠ feKey && sdAs d r.asid && sdAddr d r.va && s.towerOf (coreOfKey r.key) == t && s.sliceOf t r.va == h

/-- A slice drops what matches: translations, stored rights, and with slice 0 the tower's remote-data cache; a write that a migration
stalls and that was translated under what it drops walks again (R155, R157). A tower whose slice 0 is gated, and so skipped, keeps its
remote-data cache, at its wake too (DESIGN CHOICE, log 70). -/
def State.dropAt (s : State) (d : Shootdown) (t h : Nat) : State :=
  let gone (e : TlbEntry) : Bool := e.tower == t && e.slice == h && e.cls == d.cls && sdAs d e.asid && sdPage d e.vpage
  let here (l : L2Line) : Bool := l.tower == t && l.slice == h && sdAs d l.asid && sdAddr d (l.vline * 128)
  let phys (l : RdcLine) : Bool :=
    l.tower == t && decide (d.pbase ≤ l.pline * 128 ∧ l.pline * 128 < d.pbase + d.count * pageBytes d.cls)
  { s with
    tlb := s.tlb.filter fun e => !gone e
    l2 := mapIf here (fun l => { l with r := false, w := false, x := false, d := false }) s.l2
    reqs := mapIf (fun r => r.unperformed && s.reqUnder d t h r && s.frameStalled r.pa) (fun r => { r with rewalk := true }) s.reqs
    rdc := if h = 0 && d.dropPhys then s.rdc.filter fun l => !phys l else s.rdc }

/-- The pins that stand in the frames of what a slice drops: an engine may have written to them under those entries (R155). -/
def State.pinsUnder (s : State) (d : Shootdown) (t h : Nat) : List Nat :=
  let es := s.tlb.filter fun e => e.tower == t && e.slice == h && e.cls == d.cls && sdAs d e.asid && sdPage d e.vpage
  let ls := s.l2.filter fun l => l.tower == t && l.slice == h && (l.r || l.w || l.x) && sdAs d l.asid && sdAddr d (l.vline * 128)
  (s.pins.map (·.pline)).filter fun p =>
    es.any (fun e => decide (e.frame ≤ p * 128 ∧ p * 128 < e.frame + pageBytes e.cls)) || ls.any fun l => l.pline == p

/-- The cores of a slice's router invalidate their L1 lines, and their slots' line buffers, in the range. -/
def State.coresInvalidate (s : State) (d : Shootdown) (t h : Nat) : State :=
  let hit (l : L1Line) : Bool := sdAs d l.asid && sdAddr d (l.vline * 128)
  let cores := (s.cores.map Prod.fst).filter fun c => decide (c < 1028 ∧ s.towerOf c = t ∧ s.routerOf c = h)
  let s := cores.foldl (fun s c => s.setCore c { s.core c with l1 := (s.core c).l1.filter fun l => !hit l }) s
  let slots := s.keys.filter fun k => decide (s.towerOf (coreOfKey k) = t ∧ s.routerOf (coreOfKey k) = h)
  slots.foldl (fun s k => s.setCtx k { s.ctx k with lineBuf := (s.ctx k).lineBuf.filter fun l => !hit l }) s

/-- SHOOTDOWN_DESCRIPTOR: a slice forwards the descriptor, drops what matches, and its cores invalidate; skipped slices mark
themselves stale. The mailbox of slice 0 of tower 0 starts it. -/
def opShootdownDescriptor (d : Shootdown) (t : Fin 4) (h : Fin 64) (s : State) : State :=
  let n := t.val * 64 + h.val
  let s := s.wakeRouter t h
  let s := if n = 0 ∧ (s.shoot d.id).isNone ∧ s.phase ≠ 0xF then { s with shoots := s.shoots ++ [⟨d, [], [], [], [], []⟩] } else s
  match s.shoot d.id with
  | none => s
  | some x =>
    if x.reached.contains n then s
    else
      let (kids, skipped) := s.shootTargets 16 (treeKids n)
      let s := s.putShoot { x with reached := n :: x.reached, pins := (s.pinsUnder d t h).foldl sins x.pins, edges := x.edges ++ kids.map fun k => (n, k) }
      let s := { s with stale := skipped.foldl sins s.stale }
      let s := s.raises (kids.map fun k => Raised.shootdownDescriptor d (Fin.ofNat 4 (k / 64)) (Fin.ofNat 64 k))
      ((s.dropAt d t h).coresInvalidate d t h).raise (.shootdownDrainComplete d.id t h)
def execShootdownDescriptor (sd : Shootdown) (tower : Fin 4) (slice : Fin 64) (s : State) : Out :=
  .next (opShootdownDescriptor sd tower slice s)

/-- What a slice translated under a dropped entry and is not yet performed at its home, a pin that has taken such a write among it; a write that walks
again is not (R157). -/
def State.shootBusy (s : State) (d : Shootdown) (pins : List Nat) (t h : Nat) : Bool :=
  s.pins.any (fun p => smem pins p.pline && s.sliceOf t (p.pline * 128) == h) ||
  s.reqs.any (fun r => s.reqUnder d t h r && !r.rewalk) ||
  s.mcmds.any fun c => sdAs d c.asid && s.towerOfCluster c.cluster == t && c.map.any fun p => sdAddr d (p.1 * 128) && s.sliceOf t (p.1 * 128) == h

/-- SHOOTDOWN_DRAIN_COMPLETE. -/
def opShootdownDrainComplete (id : Nat) (t : Fin 4) (h : Fin 64) (s : State) : State :=
  let n := t.val * 64 + h.val
  match s.shoot id with
  | none => s
  | some x =>
    if !x.reached.contains n || x.drained.contains n then s
    else if s.shootBusy x.sd x.pins t h then s.raise (.shootdownDrainComplete id t h)
    else (s.putShoot { x with drained := n :: x.drained }).raise (.shootdownAck id t h)
def execShootdownDrainComplete (id : Nat) (tower : Fin 4) (slice : Fin 64) (s : State) : Out :=
  .next (opShootdownDrainComplete id tower slice s)

/-- The mailbox's response replaces the request, with its status at offset 1, and vector 16 is raised (23 R327). -/
def State.mailboxReply (s : State) (status : Nat) : State :=
  ({ s with mbox := s.mbox.set 1 (BitVec.ofNat 8 status), mboxBusy := false }).vector 16

/-- SHOOTDOWN_ACK: with its own drain and its children's acknowledgements a slice acknowledges to its parent; the root writes the
completion word, at a physical address (log 25) and 4 bytes wide (DESIGN CHOICE, log 71), once no pin or migration keeps it. -/
def opShootdownAck (id : Nat) (t : Fin 4) (h : Fin 64) (s : State) : State :=
  let n := t.val * 64 + h.val
  match s.shoot id with
  | none => s
  | some x =>
    if !x.drained.contains n || x.acked.contains n || !((x.edges.filter (·.1 == n)).all fun e => x.acked.contains e.2) then s
    else if n = 0 then
      if s.frameStalled x.sd.done || (s.pinOf (x.sd.done / 128)).isSome then s.raise (.shootdownAck id t h)
      else
      let s := { s with shoots := s.shoots.filter (·.sd.id ≠ id) }
      let s := if s.mboxSd = some id then ({ s with mboxSd := none }).mailboxReply 0 else s
      (s.performFrom 0 x.sd.done (leBytes 4 1) true).signal x.sd.done
    else
      let s := s.putShoot { x with acked := n :: x.acked }
      match x.edges.find? (·.2 == n) with
      | some e => s.raise (.shootdownAck id (Fin.ofNat 4 (e.1 / 64)) (Fin.ofNat 64 e.1))
      | none => s
def execShootdownAck (id : Nat) (tower : Fin 4) (slice : Fin 64) (s : State) : Out := .next (opShootdownAck id tower slice s)

/-! ## Migration and errors (09 R157-R159; 16 R257) -/

/-- MIGRATION_WRITE_STALL: writes to a frame stall. -/
def opMigrationWriteStall (frame bytes : Nat) (s : State) : State := { s with stallFrames := s.stallFrames ++ [(frame, bytes)] }
def execMigrationWriteStall (frame bytes : Nat) (s : State) : Out := .next (s.byFirmware (opMigrationWriteStall frame bytes))

/-- MIGRATION_STALL_LIFT: stalled writes walk again, those on their way to the frame, the host's through the aperture and the Sorting Office's among
them (R157, R158). A monitor entry and its watch stay on the line of the frame they were armed on (11 R190: the spec names no move of them; DESIGN
CHOICE, log 86). -/
def opMigrationStallLift (frame bytes : Nat) (s : State) : State :=
  let within : Nat → Bool := fun pa => decide (frame ≤ pa ∧ pa < frame + bytes)
  let s := { s with stallFrames := s.stallFrames.filter (· ≠ (frame, bytes)) }.retryDones
  (s.reqs.filter fun r => r.unperformed && within r.pa).foldl (fun (s : State) (r : Req) =>
    if r.stage = .buffer then s.putReq { r with rewalk := true }
    else (s.putReq { r with stage := .slice, rewalk := true }).raise (.sliceRequest r.id)) s
def execMigrationStallLift (frame bytes : Nat) (s : State) : Out := .next (s.byFirmware (opMigrationStallLift frame bytes))

/-- UNCORRECTABLE_ERROR: the 32-byte piece it strikes is poisoned, at its home or in the copy of it that it strikes; the copies in L2
slices and memory-side caches are those of their home. -/
def opUncorrectableError (p : ErrorPlace) (s : State) : State :=
  match p with
  | .memory n => match homeOf (n * 32) with | some (.tower _) => { s with poison := sins s.poison n } | _ => s
  | .l1 core n =>
    let c := s.core core
    s.setCore core { c with l1 := mapIf (·.pline == n / 4) (fun l => { l with poison := sins l.poison n }) c.l1 }
  | .l2 t n => if s.l2.any fun l => l.tower == t && l.pline == n / 4 then { s with poison := sins s.poison n } else s
  | .rdc t n => { s with rdc := mapIf (fun l => l.tower == t && l.pline == n / 4) (fun l => { l with poison := sins l.poison n }) s.rdc }
  | .msc n => if smem s.msc (n / 4) then { s with poison := sins s.poison n } else s
  | .bstore cl n => if n < 2 ^ 19 then { s with bstorePoison := sins s.bstorePoison (cl * 2 ^ 19 + n) } else s
  | .tile cl n => if n < 2 ^ 17 then { s with accPoison := sins s.accPoison (cl * 2 ^ 17 + n) } else s
  | .scratch k n =>
    let c := s.ctx k
    if c.occupied && decide (n < 128 * c.scratch) then s.setCtx k { c with poison := sins c.poison n } else s
def execUncorrectableError (place : ErrorPlace) (s : State) : Out := .next (opUncorrectableError place s)

/-- SLICE_MARKED_DEAD: its index is served by its neighbour from then on (R142), and the enumeration table reports it. -/
def opSliceMarkedDead (t : Fin 4) (h : Fin 64) (s : State) : State :=
  let n := t.val * 64 + h.val
  let s := { s with
    deadSlices := sins s.deadSlices n
    tlb := s.tlb.filter fun e => !(e.tower == t.val && e.slice == h.val)
    l2 := s.l2.filter fun l => !(l.tower == t.val && l.slice == h.val)
    watches := mapIf (fun w => w.tower == t.val && w.slice == h.val) (fun w => { w with slice := h.val ^^^ 1 }) s.watches }
  s.raise .enumerationUpdate
def execSliceMarkedDead (tower : Fin 4) (slice : Fin 64) (s : State) : Out := .next (s.byFirmware (opSliceMarkedDead tower slice))

end Sys2Proof.Machine
end

