-- ==== Sys2Proof/Machine/HostSide.lean ====
section
/-! DEFINITION. The outside world: reset and bring-up, links and dies, droop, the command rings and their packets, BAR0 and BAR2, the
mailbox and the enumeration table (23 R315-R328, R332). -/

namespace Sys2Proof.Machine

/-! ## The enumeration table (R323, R324) -/

/-- The pairs of towers that a die link joins. -/
def diePairs : List (Nat × Nat) := [(0, 1), (0, 2), (1, 3), (2, 3)]

def dieCode : DieState → Nat
  | .full => 0
  | .half => 1
  | .down => 2

def linkCode : LinkState → Nat
  | .down => 0
  | .up => 1
  | .training => 2

/-- The latency class between two towers. -/
def EnumTable.latencyClass (e : EnumTable) (a b : Nat) : Nat :=
  if a = b then 0
  else
    match (diePairs.zip e.dies.toList).find? fun p => p.1 == (min a b, max a b) with
    | some (_, .down) => 3
    | some _ => 1
    | none => 2

/-- The physical rows of a tower, of 18 in 9 rows of clusters, that its grade keeps in service, in ascending order (R2, R323). -/
def State.physRows (s : State) (t : Nat) : List Nat :=
  let out := fun (l : List Nat) (i : Nat) => l.eraseIdx (Config.rowOut t i % l.length)
  ((List.range (9 - s.rows / 2)).foldl out (List.range 9)).flatMap fun c => [2 * c, 2 * c + 1]

/-- The physical place of a core: its logical rows are those in service, so that a logical rectangle is a physical one (R2). -/
def State.physRow (s : State) (c : Nat) : Nat := (s.physRows (s.towerOf c)).getD (coreY c % s.rows) 0
def physCol (c : Nat) : Nat := coreX c % 16

def State.coreEntry (s : State) (c : Nat) : Nat :=
  if c < s.liveCores then
    boolNat (s.enumTab.deadCores.contains c) * 2 ^ 31 + 2 ^ 30 + s.towerOf c * 2 ^ 16 + s.physRow c * 2 ^ 8 + physCol c
  else 0

def Link.entry (l : Link) (i : Nat) : Nat := linkCode l.state + l.peer.val * 2 ^ 8 + l.peerLink.toNat * 2 ^ 12 + i / 6 * 2 ^ 16

/-- The table's bytes, 0x0000 to 0x11CF. -/
def State.enumBytes (s : State) : List Byte :=
  let e := s.enumTab
  let grade := match s.grade with | .a => 0 | .b => 1 | .c => 2
  leBytes 4 0x4C52564B ++ leBytes 4 e.gen.toNat ++ leBytes 1 grade ++ leBytes 1 s.rows ++ leBytes 2 Config.boardPosition.toNat ++
  leBytes 2 s.liveCores ++ leBytes 2 e.deadCores.length ++ List.replicate 48 0 ++
  (List.range 1024).flatMap (fun c => leBytes 4 (s.coreEntry c)) ++
  (List.range 256).flatMap (fun n => leBytes 1 (if e.deadSlices.contains n then n % 64 ^^^ 1 else 128 + n % 64)) ++
  (diePairs.zip e.dies.toList).flatMap (fun p => leBytes 8 (p.1.1 + p.1.2 * 2 ^ 8 + dieCode p.2 * 2 ^ 16)) ++
  (List.range 16).flatMap (fun i => leBytes 1 (e.latencyClass (i / 4) (i % 4))) ++
  (e.links.toList.zip (List.range 12)).flatMap fun p => leBytes 8 (p.1.entry p.2)

/-- A link that is down trains again once the table has shown it (R322; log 84). -/
def State.retrain (s : State) : State :=
  if s.links.toList.any (·.state == .down) then
    ({ s with links := s.links.map fun (l : Link) => if l.state = LinkState.down then { l with state := .training } else l }).raise .enumerationUpdate
  else s

/-- ENUMERATION_UPDATE: the generation goes from even through odd to even, the changes in between, and the host has a notice (vector 17;
log 83). -/
def opEnumerationUpdate (s : State) : State :=
  (({ s with enumTab := {
      gen := s.enumTab.gen + 2, deadCores := (s.cores.filter fun (c : Nat × Core) => c.2.dead).map Prod.fst, deadSlices := s.deadSlices,
      dies := s.dies, links := s.links } }).vector 17).retrain
def execEnumerationUpdate (s : State) : Out := .next (s.byFirmware opEnumerationUpdate)

/-- DIE_LINK_STATE_CHANGE. -/
def execDieLinkStateChange (die : Fin 4) (st : DieState) (s : State) : Out :=
  .next (({ s with dies := s.dies.set die.val st die.isLt }).raise .enumerationUpdate)

/-! ## Ewefonis links (R322) -/

/-- A command of which a link has failed: what it has not yet delivered to that link's peer, and what it has still to read for it, is lost; no
acknowledgement of that peer follows. -/
def State.cutOff (s : State) (l : Nat) (c : ECmd) : State :=
  let keep := fun p => (s.piecePeer c p).all fun q => c.linkTo q ≠ some l
  let d := { c with
    pieces := c.pieces.filter keep, replays := c.replays.filter keep,
    unacked := c.unacked && c.links.any fun x => x.2 ≠ l && x.2 ≠ lostLink,
    links := c.links.map fun (x : Nat × Nat) => if x.2 = l then (x.1, lostLink) else x }
  ((s.putE d).failE c.id 1).settle c.id

/-- EWEFONIS_LINK_FAILURE: the link goes down, and commands assigned to it end with status 1. -/
def opEwefonisLinkFailure (l : Fin 12) (s : State) : State :=
  let s := { s with links := s.links.set l.val { s.links[l] with state := .down } l.isLt }
  ((s.ecmds.filter fun c => c.links.any (·.2 == l.val)).foldl (fun s c => s.cutOff l.val c) s).raise .enumerationUpdate
def execEwefonisLinkFailure (link : Fin 12) (s : State) : Out := .next (opEwefonisLinkFailure link s)

/-- LINK_TRAINING_COMPLETE. -/
def execLinkTrainingComplete (link : Fin 12) (peer : Fin 8) (peerLink : BitVec 4) (s : State) : Out :=
  .next (({ s with links := s.links.set link.val ⟨.up, peer, peerLink⟩ link.isLt }).raise .enumerationUpdate)

/-! ## Bring-up and droop (R325, R326, R328) -/

/-- RESET: every register at its reset value; memory and its poison stay as they are, and the Seal's boot code verifies the images
(log 14, 26). Then the links train (R322). -/
def opReset (s : State) : State :=
  let n := s.boots
  let up := Config.sealVerifies n && Config.courierVerifies n
  let links := if up then Vector.replicate 12 ⟨.training, 0, 0⟩ else State.reset.links
  { State.reset with
    grade := s.grade, mem := s.mem, poison := s.poison, boots := n + 1, ticks := s.ticks, turns := s.turns, free := s.free,
    links := links, enumTab := { State.reset.enumTab with links := links }
    phase := if up then 2 else 0xF
    failCode := if Config.sealVerifies n then (if Config.courierVerifies n then 0 else 2) else 1 }
def execReset (s : State) : Out := .next (opReset s)

/-- MEMORY_TRAINING_COMPLETE: phase 2 ends in phase 3, or in 0xF with its failure code. -/
def opMemoryTrainingComplete (fail : Option TrainFail) (s : State) : State :=
  if s.phase ≠ 2 then s
  else
    match fail with
    | none => { s with phase := 3 }
    | some .memory => { s with phase := 0xF, failCode := 3 }
    | some .dieLinks => { s with phase := 0xF, failCode := 4 }
def execMemoryTrainingComplete (fail : Option TrainFail) (s : State) : Out := .next (opMemoryTrainingComplete fail s)

/-- The management status register. -/
def State.mgmtStatus (s : State) : Word := s.stretch ++ (0 : BitVec 16) ++ s.failCode ++ (0 : BitVec 4) ++ s.phase

/-- DROOP_DETECT: the tower's core clock is stretched, and the event counted. -/
def opDroopDetect (t : Fin 4) (s : State) : State :=
  let x := s.tower t
  if x.droop then s else { s.setTower t { x with droop := true } with stretch := s.stretch + 1 }
def execDroopDetect (tower : Fin 4) (s : State) : Out := .next (opDroopDetect tower s)

/-- DROOP_RECOVER. -/
def execDroopRecover (tower : Fin 4) (s : State) : Out := .next (s.setTower tower { s.tower tower with droop := false })

/-! ## The command rings (R317, R318, R320) -/

/-- Until phase 3 the ring registers and the mailbox's Courier commands do not answer (R326). -/
def State.up (s : State) : Bool := s.phase == 3

def State.putRing (s : State) (i : Fin 16) (r : Ring) : State := { s with rings := s.rings.set i.val r i.isLt }

/-- What must be waited for at a line the front end accesses: a migration, any cluster's pin. -/
def State.feBar (s : State) (pa : Nat) : Bool := s.frameStalled pa || (s.pinOf (pa / 128)).isSome

/-- A place of a ring's bytes at a head value, wrapping at its end. -/
def Ring.pa (r : Ring) (at_ : Nat) : Nat :=
  let a := r.base.toNat + at_ % 2 ^ r.size.toNat
  if r.loc then a else hostPa a

/-- The bytes of a ring at a head value, as the front end's tower has them; none where they cannot be read: no such memory, poison, or a bus error
of the host, which is free (log 98); a pinned line makes it wait (10 R173). -/
def State.ringBytes (s : State) (r : Ring) (at_ n : Nat) : Got (List Byte) :=
  let pas := (upFrom at_ n).map r.pa
  if pas.any fun a => (homeOf a).isNone || s.placePoison a || (!r.loc && Config.busError s.free a) then .none s
  else if pas.any fun a => (s.pinOf (a / 128)).isSome then .wait s
  else
    let s := pas.foldl (fun s a => s.reachHome 0 a) s
    .ok (pas.map s.placeByte) s

/-- A packet that stands at the head of a ring. -/
structure PHead where
  kind   : PKind
  irq    : Bool
  fence  : Bool
  length : Nat
  cloc   : Bool
  crec   : Nat
  body   : List Byte

/-- The operation a type and opcode name, or reason 3 or 4. -/
def packetKind (ty op : Nat) : Except Nat PKind :=
  match ty, op with
  | 0, 0 => .ok .nop
  | 1, 0 => .ok .launch
  | 1, 1 => .ok .launchInd
  | 2, 0 => .ok .copy
  | 2, 1 => .ok .copyAdd
  | 3, 0 => .ok .signalWrite
  | 3, 1 => .ok .signalAdd
  | 4, 0 => .ok .waitNe
  | 4, 1 => .ok .waitGe
  | ty, _ => if 4 < ty then .error 3 else .error 4

/-- The length that the table gives for a type; 0 where it gives none. -/
def packetLength : Nat → Nat
  | 1 => 96
  | 2 => 48
  | 3 => 32
  | 4 => 48
  | _ => 0

/-- A reserved body field is nonzero; those of a LAUNCH are its block's (14 R234). -/
def bodyBad (k : PKind) (body : List Byte) : Bool :=
  match k with
  | .copy | .copyAdd => decide (4 ≤ wordAt body 24)
  | .waitNe | .waitGe => wordAt body 24 != 0
  | .launch | .launchInd => blockReserved body
  | .nop | .signalWrite | .signalAdd => false

inductive HeadState where
  | short
  /-- A line of the packet is pinned (10 R173). -/
  | held
  | malformed (reason : Nat)
  | ready (p : PHead)

/-- What stands at a ring's head: the conditions of R320 in their order. -/
def State.headOf (s : State) (r : Ring) : HeadState :=
  let avail := (r.tail - r.head).toNat
  if avail < 16 then .short
  else
    match s.ringBytes r r.head.toNat 16 with
    | .none _ => .malformed 6
    | .wait _ => .held
    | .ok h _ =>
      let w0 := wordAt h 0
      let w1 := wordAt h 8
      let ty := bitsNat w0 7 0
      let len := bitsNat w0 63 32
      if 2 ^ r.size.toNat < len then .malformed 1
      else if len % 16 ≠ 0 ∨ (ty ≤ 4 ∧ len < 16) ∨ (packetLength ty ≠ 0 ∧ len ≠ packetLength ty) then .malformed 2
      else
        match packetKind ty (bitsNat w0 15 8) with
        | .error e => .malformed e
        | .ok k =>
          if bitsNat w0 31 18 ≠ 0 ∨ bitsNat w1 62 56 ≠ 0 then .malformed 5
          else if avail < len then .short
          else
            match s.ringBytes r (r.head.toNat + 16) (len - 16) with
            | .none _ => .malformed 6
            | .wait _ => .held
            | .ok body _ =>
              if bodyBad k body then .malformed 5
              else .ready ⟨k, decide (bitsNat w0 17 17 = 1), decide (bitsNat w0 16 16 = 1), len, decide (bitsNat w1 63 63 = 1), bitsNat w1 55 0, body⟩

/-- The front end's tower has what the homes of a packet's lines have (10 R170). -/
def State.ringReach (s : State) (r : Ring) (n : Nat) : State := ((upFrom r.head.toNat n).map r.pa).foldl (fun s a => s.reachHome 0 a) s

/-- A malformed packet stops its ring, head at the packet, and raises the ring's vector. -/
def State.stopRing (s : State) (i : Fin 16) (reason : Nat) : State :=
  let r := s.rings[i]
  (({ s with free := s.free + 1 }).putRing i { r with stopped := true, offset := r.head, reason := BitVec.ofNat 8 reason }).vector i

/-- A ring that the front end serves. -/
def State.served (s : State) (r : Ring) : Bool := s.up && r.enable && !r.stopped

/-- RING_TAIL_DOORBELL. -/
def opRingTailDoorbell (i : Fin 16) (tail : BitVec 32) (s : State) : State :=
  if !s.up then s
  else
    let s := s.putRing i { s.rings[i] with tail := tail }
    let r := s.rings[i]
    if s.served r && r.waiting.isNone then
      match s.headOf r with
      | .malformed e => s.stopRing i e
      | .short | .held | .ready _ => s
    else s
def execRingTailDoorbell (ring : Fin 16) (tail : BitVec 32) (s : State) : Out := .next (opRingTailDoorbell ring tail s)

/-- RING_RESTART: head := newhead, stopped and reason cleared. -/
def opRingRestart (i : Fin 16) (newhead : BitVec 32) (s : State) : State :=
  if s.up then (s.dropPartials i).putRing i { s.rings[i] with head := newhead, newhead := newhead, stopped := false, reason := 0 } else s
def execRingRestart (ring : Fin 16) (newhead : BitVec 32) (s : State) : Out := .next (opRingRestart ring newhead s)

/-- RING_ENABLE. -/
def opRingEnable (i : Fin 16) (enable : Bool) (s : State) : State :=
  if s.up then s.putRing i { s.rings[i] with enable := enable } else s
def execRingEnable (ring : Fin 16) (enable : Bool) (s : State) : Out := .next (opRingEnable ring enable s)

/-! ## Completion records (R321) -/

/-- A release of the front end: every write through BAR2 is performed; at system scope on every tower, and with them what the front end
has observed (R319, R332; log 64). None while such a write still waits. -/
def State.feRelease (s : State) (scope : BitVec 2) : Option State := if s.drained feKey then some (s.reachAll scope (s.vc 0)) else none

/-- Writes a packet's record, as a release at system scope with a signal; none while it must wait. A record whose address does not
translate is not written (log 27). -/
def State.writeRecord (s : State) (p : Packet) (status reason : Nat) : Option State :=
  let data := leBytes 8 (1 + status % 256 * 2 ^ 8 + reason % 256 * 2 ^ 16 + p.headVal.toNat * 2 ^ 32)
  match s.feRelease 0b11 with
  | none => none
  | some s =>
    if p.crec = 0 then some s
    else
      match (if p.cloc then s.feWrite p.asid p.crec data else s.fePut (hostPa p.crec) data) with
      | .ok _ s => some (s.reachAll 0b11 (s.vc 0))
      | .none s => some s
      | .wait _ => none

/-- Writes the record of the ring's first completed packet, then raises the vector where irq is set. -/
def State.flushRecord (s : State) (i : Nat) : State :=
  match s.packets.find? fun p => p.ring == i && p.done.isSome with
  | none => s
  | some p =>
    let d := p.done.getD (0, 0)
    match s.writeRecord p d.1 d.2 with
    | none => s
    | some s =>
      let s := { s with packets := s.packets.filter (·.id ≠ p.id) }
      if p.irq then s.vector i else s

/-! ## Packets (R319) -/

/-- The packet has been read: head passes it. -/
def State.takePacket (s : State) (i : Fin 16) (r : Ring) (h : PHead) : State :=
  let p : Packet := ⟨s.nextId, i, h.kind, none, r.head, h.irq, h.cloc, h.crec, r.asid.toNat⟩
  let s := { s with nextId := s.nextId + 1, packets := s.packets ++ [p], free := s.free + 1 }
  (s.putRing i { r with head := r.head + BitVec.ofNat 32 h.length }).ringReach r h.length

/-- LAUNCH and LAUNCH.IND: performed by the dispatcher of the field's origin tower, after the release of R332; the packet is taken once the dispatcher
has read what it reads; a pinned line makes the packet wait (10 R173). -/
def State.hostLaunch (s : State) (i : Fin 16) (r : Ring) (h : PHead) (ind : Bool) : State :=
  let b := parseBlock h.body
  let finish (s : State) (status reason : Nat) : State := ((s.dropPartials i).takePacket i r h).packetEnd s.nextId status reason
  if !s.drained feKey then s
  else
    match s.dispatchBlock (soReader (s.towerOf (b.oy * 32 + b.ox)) r.asid.toNat) (fun _ => false) i b ind with
    | .wait s => s
    | .none s => finish s 1 0x0C
    | .ok (some reason) s => finish s 1 reason
    | .ok none s => finish s 0 0

/-- COPY: a command of queue 9, acquiring and releasing at its scope. -/
def State.hostCopy (s : State) (i : Fin 16) (r : Ring) (h : PHead) (add : Bool) : State :=
  let cl := s.firstCluster 0
  let scope := BitVec.ofNat 2 (wordAt h.body 24)
  match s.feRelease scope with
  | none => s
  | some s' =>
    if !s'.engineRoom cl 9 then s
    else
      let pid := s.nextId
      let s := s'.takePacket i r h
      let src := wordAt h.body 0
      let dst := wordAt h.body 8
      let len := wordAt h.body 16
      if len = 0 then s.packetEnd pid 0 0
      else if add ∧ (src % 4 ≠ 0 ∨ dst % 4 ≠ 0 ∨ len % 32 ≠ 0) then s.packetEnd pid 2 0
      else
        let c : ECmd := { s.newE (if add then .add else .cpy) ⟨scope, false, true, true⟩ with
          cluster := cl, queue := 9, key := feKey, tid := pid, gid := none, asid := r.asid.toNat, core := 1028,
          src := ⟨src % 2 ^ 56, false, false⟩, dst := ⟨dst % 2 ^ 56, false, false⟩, len := len, packet := some pid }
        ({ s with ecmds := s.ecmds ++ [c], nextId := c.id + 1 }).raise (.engineCommandStart cl 0)

/-- SIGNAL: once every earlier write of the front end and everything it has observed is performed at system scope; it is complete when
every tower has applied it. -/
def State.hostSignal (s : State) (i : Fin 16) (r : Ring) (h : PHead) (add : Bool) : State :=
  let va := wordAt h.body 0
  let v := wordAt h.body 8
  let id := s.nextId
  if va % 8 ≠ 0 then (s.takePacket i r h).packetEnd id 2 0
  else
    match s.feRelease 0b11 with
    | none => s
    | some s' =>
      match s'.translate (feWho r.asid.toNat) (va % 2 ^ 56) false .write with
      | .fault s | .denied s => (s.takePacket i r h).packetEnd id 2 0
      | .ok pa s' =>
        if s'.feBar pa then s
        else if add && s'.placePoison pa then (s'.takePacket i r h).packetEnd id 2 0
        else
          let old := leNat ((upFrom pa 8).map s'.placeByte)
          let s := (s'.performFrom 0 pa (leBytes 8 (if add then old + v else v)) true).signal pa
          ((s.reachAll 0b11 (s.vc 0)).takePacket i r h).packetEnd id 0 0

/-- The WAIT packet of a ring ends. -/
def State.endWait (s : State) (i : Fin 16) (w : WaitPkt) (status : Nat) : State :=
  (s.putRing i { s.rings[i] with waiting := none }).packetEnd w.id status 0

/-- WAIT reads its word at the home; the read that satisfies it is an acquire at system scope. -/
def State.pollWait (s : State) (i : Fin 16) (w : WaitPkt) : State :=
  match s.translate (feWho (s.rings[i].asid.toNat)) (w.addr % 2 ^ 56) false .read with
  | .fault s | .denied s => s.endWait i w 2
  | .ok pa s =>
    if (s.pinOf (pa / 128)).isSome then s
    else if s.placePoison pa then s.endWait i w 2
    else
      let s := s.reachHome 0 pa
      let v := BitVec.ofNat 64 (leNat ((upFrom pa 8).map s.placeByte))
      if (if w.ge then decide (w.value ≤ v) else v != w.value) then s.endWait i w 0 else s

/-- WAIT starts: it holds the ring. -/
def State.hostWait (s : State) (i : Fin 16) (r : Ring) (h : PHead) (ge : Bool) : State :=
  let t := wordAt h.body 16
  let w : WaitPkt := ⟨s.nextId, ge, wordAt h.body 0, BitVec.ofNat 64 (wordAt h.body 8), if t = 0 then none else some ((s.tower 0).cycle + t)⟩
  let s := s.takePacket i r h
  if w.addr % 8 ≠ 0 then s.packetEnd w.id 2 0
  else (s.putRing i { s.rings[i] with waiting := some w }).pollWait i w

def State.beginPacket (s : State) (i : Fin 16) (r : Ring) (h : PHead) : State :=
  match h.kind with
  | .nop => (s.takePacket i r h).packetEnd s.nextId 0 0
  | .launch => s.hostLaunch i r h false
  | .launchInd => s.hostLaunch i r h true
  | .copy => s.hostCopy i r h false
  | .copyAdd => s.hostCopy i r h true
  | .signalWrite => s.hostSignal i r h false
  | .signalAdd => s.hostSignal i r h true
  | .waitNe => s.hostWait i r h false
  | .waitGe => s.hostWait i r h true

/-- The fence of a packet: every earlier packet of the ring has completed. -/
def State.fenceOpen (s : State) (i : Nat) (h : PHead) : Bool := !h.fence || s.packets.all fun p => p.ring ≠ i || p.done.isSome

def WaitPkt.kind (w : WaitPkt) : PKind := if w.ge then .waitGe else .waitNe

/-- A ring has a packet that may start. -/
def State.ringReady (s : State) (i : Fin 16) : Bool :=
  let r := s.rings[i]
  s.served r && r.waiting.isNone && (match s.headOf r with | .ready h => s.fenceOpen i h | .short | .held | .malformed _ => false)

/-- The ring whose turn it is to start a packet: the next one after the last that had its turn (R319). -/
def State.ringTurn (s : State) : Option (Fin 16) :=
  ((List.finRange 16).map fun (i : Fin 16) => s.lastRing + 1 + i).find? s.ringReady

/-- A step of one kind of packet on a ring: a completed packet's record, the poll of a WAIT, a malformed head, or, when it is the ring's
turn, a start. -/
def State.packetStep (s : State) (i : Fin 16) (k : PKind) : State :=
  let s := s.flushRecord i
  let r := s.rings[i]
  if !s.served r then s
  else
    match r.waiting with
    | some w => if w.kind = k then s.pollWait i w else s
    | none =>
      match s.headOf r with
      | .short | .held => s
      | .malformed e => if k = .nop then s.stopRing i e else s
      | .ready h => if h.kind = k ∧ s.ringTurn = some i then ({ s with lastRing := i }).beginPacket i r h else s

def execPacketNop (ring : Fin 16) (s : State) : Out := .next (s.packetStep ring .nop)
def execPacketLaunch (ring : Fin 16) (s : State) : Out := .next (s.packetStep ring .launch)
def execPacketLaunchInd (ring : Fin 16) (s : State) : Out := .next (s.packetStep ring .launchInd)
def execPacketCopy (ring : Fin 16) (s : State) : Out := .next (s.packetStep ring .copy)
def execPacketCopyAdd (ring : Fin 16) (s : State) : Out := .next (s.packetStep ring .copyAdd)
def execPacketSignalWrite (ring : Fin 16) (s : State) : Out := .next (s.packetStep ring .signalWrite)
def execPacketSignalAdd (ring : Fin 16) (s : State) : Out := .next (s.packetStep ring .signalAdd)
def execPacketWaitNe (ring : Fin 16) (s : State) : Out := .next (s.packetStep ring .waitNe)
def execPacketWaitGe (ring : Fin 16) (s : State) : Out := .next (s.packetStep ring .waitGe)

/-- PACKET_WAIT_TIMEOUT: status 3. -/
def opPacketWaitTimeout (i : Fin 16) (s : State) : State :=
  match s.rings[i].waiting with
  | some w =>
    match w.deadline with
    | some d => if d ≤ (s.tower 0).cycle then s.endWait i w 3 else s
    | none => s
  | none => s
def execPacketWaitTimeout (ring : Fin 16) (s : State) : Out := .next (opPacketWaitTimeout ring s)

/-- What a ring has to do now. -/
def State.ringWork (s : State) (i : Fin 16) : List PKind :=
  let r := s.rings[i]
  ((s.packets.filter fun p => p.ring == i.val && p.done.isSome).map (·.kind)) ++
  (if !s.served r then []
   else
     match r.waiting with
     | some w => [w.kind]
     | none =>
       match s.headOf r with
       | .short | .held => []
       | .malformed _ => [.nop]
       | .ready h => if s.fenceOpen i h then [h.kind] else [])

/-- The step of a kind of packet. -/
def PKind.raised (k : PKind) (i : Fin 16) : Raised :=
  match k with
  | .nop => .packetNop i
  | .launch => .packetLaunch i
  | .launchInd => .packetLaunchInd i
  | .copy => .packetCopy i
  | .copyAdd => .packetCopyAdd i
  | .signalWrite => .packetSignalWrite i
  | .signalAdd => .packetSignalAdd i
  | .waitNe => .packetWaitNe i
  | .waitGe => .packetWaitGe i

/-! ## BAR2 (R315, R332): addresses in the 256 MiB aperture -/

/-- A walk for an address of the aperture is traffic at the homes of the entries (01 R14). -/
def State.apertureWake (s : State) (addr : Nat) : State :=
  match tfind s.aperture (addr / 2 ^ 21) with
  | some p => match s.space p.1 with | some sp => s.walkWake sp.root (p.2 + addr % 2 ^ 21) false | none => s
  | none => s

/-- BAR2_WRITE: plain writes at device scope, in the order in which they come. Bytes outside the pages assigned, or outside the device's
memory, reach nothing (log 55). -/
def opBar2Write (addr : Nat) (data : List (BitVec 8)) (s : State) : State :=
  if !s.up then s
  else
    (piecesOf addr data.length).foldl (fun s (a, n) =>
      let s := s.apertureWake a
      match s.aperturePa a with
      | some pa =>
        if inHbm pa then
          let d := ((data.drop (a - addr)).take n).map some
          let r : Req := ⟨s.nextId, feKey, 0, 0, a, false, pa, .store d, 0b10, false, .home, true, false, s.vc 0⟩
          ({ s with reqs := s.reqs ++ [r], nextId := s.nextId + 1 }).raise (.performAtHome r.id)
        else s
      | none => s) s
def execBar2Write (addr : Nat) (data : List (BitVec 8)) (s : State) : Out := .next (opBar2Write addr data s)

/-- A byte as the front end reads it, its own earlier writes among what it sees. -/
def State.feByte (s : State) (addr : Nat) : Byte :=
  match s.aperturePa addr with
  | some pa => s.viewByte (s.slotReqs feKey) 0 pa
  | none => Config.openByte addr

/-- Reads one piece of the aperture for a reader, with its walk and its home's traffic; none while its line is pinned. -/
def State.bar2Piece (s : State) (reader : Nat) (p : Nat × Nat) : Option State :=
  let s := { s.apertureWake p.1 with free := s.free + 1 }
  let pa := s.aperturePa p.1
  if pa.any fun pa => (s.pinOf (pa / 128)).isSome then none
  else
    let s := match pa with | some pa => s.fetchRemote 0 pa | none => s
    some { s with partials := s.partials ++ [(reader, gotKey 0 p.1, (upFrom p.1 p.2).map s.feByte)] }

/-- BAR2_READ: a plain read, piece by piece: a step reads one, and the read goes on while more are left or a line is pinned (01 R16, 10 R173). -/
def opBar2Read (addr len : Nat) (s : State) : State :=
  let reader := bar2Reader addr len
  let ps := piecesOf addr len
  let left := ps.filter fun p => (s.partialOf reader (gotKey 0 p.1)).isNone
  let finish (s : State) : State :=
    ({ s with hostIn := ps.flatMap fun p => (s.partialOf reader (gotKey 0 p.1)).getD [] } : State).dropPartials reader
  if !s.up then s
  else if left = [] then finish s
  else
    match s.bar2Piece reader (s.pickPiece left) with
    | none => ({ s with free := s.free + 1 } : State).raise (.bar2Read addr len)
    | some s => if left.length = 1 then finish s else s.raise (.bar2Read addr len)
def execBar2Read (addr len : Nat) (s : State) : Out := .next (opBar2Read addr len s)

/-! ## BAR0 and the mailbox (R315, R326, R327) -/

/-- A list with items replaced from a place on. -/
def putList (l : List α) (at_ : Nat) : List α → List α
  | [] => l
  | x :: t => putList (l.set at_ x) (at_ + 1) t

/-- A ring's 64 bytes of registers (R317); what is written only reads zero. -/
def Ring.regs (r : Ring) : List Byte :=
  leBytes 8 (r.base.toNat + boolNat r.loc * 2 ^ 63) ++ leBytes 4 r.size.toNat ++ leBytes 4 r.asid.toNat ++ leBytes 8 r.head.toNat ++
  leBytes 8 r.tail.toNat ++ leBytes 8 (boolNat r.stopped + r.reason.toNat * 2 ^ 8 + r.offset.toNat * 2 ^ 32) ++
  leBytes 8 (boolNat r.enable) ++ List.replicate 16 0

/-- A byte of BAR0 as the host reads it (R315, R317, R323, R326, R327): the enumeration table and the ring registers read zero until phase 3.
The pending-bit array follows the MSI-X table (log 83). -/
def State.bar0Byte (s : State) (o : Nat) : Byte :=
  if o < 0x10000 then (if s.up then s.enumBytes.getD o 0 else 0)
  else if o < 0x10400 then (if s.up then (s.rings[(o - 0x10000) / 64 % 16]'(Nat.mod_lt _ (by decide))).regs.getD (o % 64) 0 else 0)
  else if 0x20000 ≤ o ∧ o < 0x20008 then (leBytes 8 s.mgmtStatus.toNat).getD (o - 0x20000) 0
  else if 0x20100 ≤ o ∧ o < 0x20200 then s.mbox.getD (o - 0x20100) 0
  else if 0x30000 ≤ o ∧ o < 0x30120 then mget s.bar0 o
  else if 0x30120 ≤ o ∧ o < 0x30128 then (leBytes 8 s.msixPending.toNat).getD (o - 0x30120) 0
  else 0

/-- Host writes to a ring's registers: tail is the doorbell, the control word enables and restarts; the others are read only. -/
def State.ringWrite (s : State) (i : Fin 16) (at_ : Nat) (data : List Byte) : State :=
  if !s.up then s
  else
    let r := s.rings[i]
    let w := putList (putList r.regs 0x2C (leBytes 4 r.newhead.toNat)) at_ data
    let hits : Nat → Nat → Bool := fun lo n => decide (at_ < lo + n ∧ lo < at_ + data.length)
    let ctl := wordAt w 0x28
    let newhead := BitVec.ofNat 32 (bitsNat ctl 63 32)
    let s := if hits 0x18 4 then opRingTailDoorbell i (BitVec.ofNat 32 (wordAt w 0x18)) s else s
    let s := if hits 0x2C 4 then s.putRing i { s.rings[i] with newhead := newhead } else s
    let s := if hits 0x28 1 then opRingEnable i (decide (bitsNat ctl 0 0 = 1)) s else s
    if hits 0x28 1 && decide (bitsNat ctl 1 1 = 1) then opRingRestart i newhead s else s

/-- BAR0_REGISTER_WRITE: the ring registers, the mailbox's request, its send register and the MSI-X table take writes; every other register
is read only. A write while a request is outstanding is ignored. -/
def opBar0RegisterWrite (off : BitVec 20) (data : List (BitVec 8)) (s : State) : State :=
  let o := off.toNat
  if 0x10000 ≤ o ∧ o < 0x10400 then s.ringWrite (Fin.ofNat 16 ((o - 0x10000) / 64)) (o % 64) data
  else if 0x20100 ≤ o ∧ o < 0x20200 then
    if s.mboxBusy then s
    else { s with mbox := putList s.mbox (o - 0x20100) data }
  else if o = 0x20008 then
    if leNat data % 2 = 1 ∧ s.mboxBusy = false then { s with mboxBusy := true } else s
  else if 0x30000 ≤ o ∧ o + data.length ≤ 0x30120 then ({ s with bar0 := msets s.bar0 o data }).unmask
  else s
def execBar0RegisterWrite (off : BitVec 20) (data : List (BitVec 8)) (s : State) : Out := .next (opBar0RegisterWrite off data s)

/-- The response to a command: its bytes from `at_` on, the status, vector 16. -/
def State.mailboxAnswer (s : State) (code : Nat) (at_ : Nat) (data : List Byte) (status : Nat) : State :=
  let m := (List.replicate 256 (0 : Byte)).set 0 (BitVec.ofNat 8 code)
  ({ s with mbox := putList m at_ data }).mailboxReply status

/-- Firmware answers the outstanding request with a code: nothing else does, and once bring-up has failed none (R325, R327). What the
request carries beside its code are the step's arguments (log 85). -/
def State.mailboxRequest (s : State) (code : Nat) (f : State → State) : State :=
  if s.mboxBusy && s.mboxSd.isNone && (s.mbox.getD 0 0).toNat == code then s.byFirmware f else s

/-- A command of the Courier firmware: status 1 before phase 3. -/
def State.courierCommand (s : State) (code : Nat) (f : State → State) : State :=
  s.mailboxRequest code fun s => if s.up then f s else s.mailboxAnswer code 0 [] 1

/-- IDENTITY: the grade at offset 2, the identity at 32 and the two digests at 64 (log 14). -/
def opIdentity (s : State) : State :=
  s.mailboxRequest 0x01 fun s =>
    let grade : Byte := match s.grade with | .a => 0 | .b => 1 | .c => 2
    s.mailboxAnswer 0x01 2 ([grade] ++ List.replicate 29 0 ++ (List.range 32).map Config.identityByte ++ (List.range 128).map Config.digestByte) 0
def execIdentity (s : State) : Out := .next (opIdentity s)

/-- What a report attests: identity, image digests, the digest of the enumeration table, and the nonce (R327). -/
def State.reportBody (s : State) (nonce : List Byte) : List Byte :=
  (List.range 32).map Config.identityByte ++ (List.range 128).map Config.digestByte ++ (List.range 64).map (Config.shakeByte s.enumBytes) ++ nonce

/-- The report is followed by its signature, and so is longer than the mailbox. -/
def State.attestReport (s : State) (nonce : List Byte) : List Byte :=
  s.reportBody nonce ++ (List.range (1 + Config.signatureLength)).map (Config.signatureByte (s.reportBody nonce))

/-- ATTEST: the report over a 32-byte nonce goes to a host buffer. -/
def opAttest (nonce : List (BitVec 8)) (bus : Nat) (s : State) : State :=
  s.mailboxRequest 0x02 fun s =>
    (s.performAt (hostPa bus) (s.attestReport ((nonce ++ List.replicate 32 0).take 32)) true).mailboxAnswer 0x02 0 [] 0
def execAttest (nonce : List (BitVec 8)) (bus : Nat) (s : State) : Out := .next (opAttest nonce bus s)

/-- The tensor descriptor table of a new address space: zero at creation (17 R259). -/
def State.zeroTable (s : State) (base : Nat) : State :=
  let out : Nat → Nat → Bool := fun pa n => decide (pa + n ≤ base ∨ base + 64 * 65536 ≤ pa)
  { s with
    mem := s.mem.filter fun c => out c.1 1
    poison := s.poison.filter fun p => out (32 * p) 32
    rdc := s.rdc.filter fun l => out (128 * l.pline) 128 }

/-- CREATE_AS: the answer carries the asid at offset 8 and the free ring's control block at 16. An address space that exists already is not
made again: status 2 (log 85). -/
def opCreateAs (tenant : Fin 4) (seed : Word) (g : AsGrant) (s : State) : State :=
  s.courierCommand 0x10 fun s =>
    if (s.space g.asid).isSome || decide (0xFFFF ≤ g.asid) then s.mailboxAnswer 0x10 0 [] 2
    else
      let sp : Space := ⟨g.root, g.tensorBase, tenant, seed, g.ruleRight, g.govRight, g.agents, g.cells, g.freeRing, [], [],
        Vector.replicate 4 []⟩
      let s := (s.zeroTable g.tensorBase).setSpace g.asid sp
      let s := { s with
        aperture := g.aperture.foldl (fun (t : Table (Nat × Nat)) (p : Nat × Nat) =>
          if p.1 < 128 then tset t p.1 (g.asid, p.2 / 2 ^ 21 * 2 ^ 21) else t) s.aperture }
      s.mailboxAnswer 0x10 8 (leBytes 8 g.asid ++ leBytes 8 g.freeRing.toNat) 0
def execCreateAs (tenant : Fin 4) (seed : BitVec 64) (grant : AsGrant) (s : State) : Out := .next (opCreateAs tenant seed grant s)

/-- Work of an address space that is not yet placed goes. -/
def State.dropWork (s : State) (asid : Nat) : State :=
  let s := { s with
    launches := s.launches.filter (·.asid ≠ asid)
    triggers := s.triggers.filter (·.1 ≠ asid)
    held := s.held.filter fun h => h.asid ≠ asid || (match h.kind with | .doneWord _ true => false | _ => true) }
  let units := s.units.filter fun u => match u.kind with | .meet m _ => m.asid == asid | .group .. | .successor _ => false
  let s := units.foldl (fun s u => ({ s with units := s.units.filter (·.id ≠ u.id) }).releaseKeys u.id) s
  [0, 1, 2, 3].foldl (fun s t =>
    let x := s.tower t
    s.setTower t { x with pigeon := x.pigeon.filter (·.asid ≠ asid), heldEnq := x.heldEnq.filter (·.asid ≠ asid) }) s

/-- Nothing of an address space is at work any more. -/
def State.spaceQuiet (s : State) (asid : Nat) : Bool :=
  s.keys.all (fun k => !(s.ctx k).occupied || (s.ctx k).asid ≠ asid) && s.ecmds.all (·.asid ≠ asid) && s.mcmds.all (·.asid ≠ asid) &&
    s.reqs.all (fun r => r.asid ≠ asid || r.key = feKey) && s.msgs.all (·.asid ≠ asid)

/-- The address space is freed; no translation of it stays. -/
def State.freeSpace (s : State) (asid : Nat) : State :=
  { s with
    spaces := tdel s.spaces asid, tlb := s.tlb.filter (·.asid ≠ asid),
    l2 := mapIf (·.asid == asid) (fun l => { l with r := false, w := false, x := false, d := false }) s.l2,
    cores := s.cores.map fun c => (c.1, { c.2 with l1 := c.2.l1.filter (·.asid ≠ asid) }) }

/-- DESTROY_AS: the tasks end, what is held for them is abandoned, and then the address space is freed; an unknown one has status 2 (log
85). -/
def opDestroyAs (asid : Nat) (s : State) : State :=
  s.courierCommand 0x11 fun s =>
    if (s.space asid).isNone then s.mailboxAnswer 0x11 0 [] 2
    else
      let live := (s.keys.filter fun k => (s.ctx k).occupied && (s.ctx k).asid == asid).map fun k => (s.ctx k).tid
      let asleep := (s.suspended.filter (·.ctx.asid == asid)).map (·.ctx.tid)
      let s := (s.dropWork asid)
      let s := (live ++ asleep).foldl (fun s tid => opCourierEndTask tid s) s
      let s := (s.held.filter (·.asid == asid)).foldl (fun s h => opHeldWriteAbandon h.id s) s
      if s.spaceQuiet asid then (s.freeSpace asid).mailboxAnswer 0x11 0 [] 0 else s.raise (.destroyAs asid)
def execDestroyAs (asid : Nat) (s : State) : Out := .next (opDestroyAs asid s)

/-- RING_SETUP. -/
def opRingSetup (i : Fin 16) (loc : Bool) (base : BitVec 56) (size : BitVec 5) (asid : BitVec 16) (s : State) : State :=
  s.courierCommand 0x12 fun s =>
    (s.putRing i { s.rings[i] with loc := loc, base := base, size := size, asid := asid }).mailboxAnswer 0x12 0 [] 0
def execRingSetup (ring : Fin 16) (loc : Bool) (base : BitVec 56) (size : BitVec 5) (asid : BitVec 16) (s : State) : Out :=
  .next (opRingSetup ring loc base size asid s)

/-- The reserved fields of a tensor descriptor's image are zero (17 R259). -/
def tensorClear (bs : List Byte) : Bool :=
  bitsNat (wordAt bs 0) 60 56 == 0 && bitsNat (wordAt bs 8) 63 12 == 0 && bitsNat (wordAt bs 8) 9 4 == 0 &&
    bitsNat (wordAt bs 48) 63 56 == 0 && bitsNat (wordAt bs 56) 63 40 == 0

/-- An address at which nothing is mapped: the shootdown's completion word is the firmware's own (log 25). -/
def noWord : Nat := 2 ^ 52

/-- TENSOR_SET: the entry is written, then the shootdown with flags bit 1, and the response after its completion. -/
def opTensorSet (asid id : Nat) (image : List (BitVec 8)) (s : State) : State :=
  s.courierCommand 0x13 fun s =>
    match s.space asid with
    | none => s.mailboxAnswer 0x13 0 [] 2
    | some sp =>
      if !tensorClear image || decide (65536 ≤ id) || decide (image.length ≠ 64) then s.mailboxAnswer 0x13 0 [] 2
      else
        let sd : Shootdown := ⟨s.nextId, 0, 0, asid, false, false, true, 0, noWord⟩
        let s := { s with nextId := s.nextId + 1, mboxSd := some sd.id }
        (s.place 0 (sp.tensorBase + 64 * id) image).raise (.shootdownDescriptor sd 0 0)
def execTensorSet (asid id : Nat) (image : List (BitVec 8)) (s : State) : Out := .next (opTensorSet asid id image s)

end Sys2Proof.Machine
end

