-- ==== Sys2Proof/Machine/Dispatch.lean ====
section
/-! DEFINITION. The one dispatch: an arm for every constructor of `Instr`, each one call of its meaning. -/

namespace Sys2Proof.Machine

def exec (i : Instr) (s : State) : Host.Outcome State Fault Refusal :=
  match i with
  | .add d a b => Sys2Proof.Machine.execAdd d a b s
  | .sub d a b => Sys2Proof.Machine.execSub d a b s
  | .and d a b => Sys2Proof.Machine.execAnd d a b s
  | .or d a b => Sys2Proof.Machine.execOr d a b s
  | .xor d a b => Sys2Proof.Machine.execXor d a b s
  | .sll d a b => Sys2Proof.Machine.execSll d a b s
  | .srl d a b => Sys2Proof.Machine.execSrl d a b s
  | .sra d a b => Sys2Proof.Machine.execSra d a b s
  | .mul d a b => Sys2Proof.Machine.execMul d a b s
  | .mulh d a b => Sys2Proof.Machine.execMulh d a b s
  | .mulhu d a b => Sys2Proof.Machine.execMulhu d a b s
  | .div d a b => Sys2Proof.Machine.execDiv d a b s
  | .divu d a b => Sys2Proof.Machine.execDivu d a b s
  | .rem d a b => Sys2Proof.Machine.execRem d a b s
  | .remu d a b => Sys2Proof.Machine.execRemu d a b s
  | .min d a b => Sys2Proof.Machine.execMin d a b s
  | .max d a b => Sys2Proof.Machine.execMax d a b s
  | .minu d a b => Sys2Proof.Machine.execMinu d a b s
  | .maxu d a b => Sys2Proof.Machine.execMaxu d a b s
  | .seq d a b => Sys2Proof.Machine.execSeq d a b s
  | .sne d a b => Sys2Proof.Machine.execSne d a b s
  | .slt d a b => Sys2Proof.Machine.execSlt d a b s
  | .sltu d a b => Sys2Proof.Machine.execSltu d a b s
  | .clz d a => Sys2Proof.Machine.execClz d a s
  | .ctz d a => Sys2Proof.Machine.execCtz d a s
  | .popc d a => Sys2Proof.Machine.execPopc d a s
  | .addi d a imm => Sys2Proof.Machine.execAddi d a imm s
  | .andi d a imm => Sys2Proof.Machine.execAndi d a imm s
  | .ori d a imm => Sys2Proof.Machine.execOri d a imm s
  | .xori d a imm => Sys2Proof.Machine.execXori d a imm s
  | .slli d a sh => Sys2Proof.Machine.execSlli d a sh s
  | .srli d a sh => Sys2Proof.Machine.execSrli d a sh s
  | .srai d a sh => Sys2Proof.Machine.execSrai d a sh s
  | .slti d a imm => Sys2Proof.Machine.execSlti d a imm s
  | .sltiu d a imm => Sys2Proof.Machine.execSltiu d a imm s
  | .lui d imm => Sys2Proof.Machine.execLui d imm s
  | .amov ad aa => Sys2Proof.Machine.execAmov ad aa s
  | .aset ad ga gb => Sys2Proof.Machine.execAset ad ga gb s
  | .asetl ad ga => Sys2Proof.Machine.execAsetl ad ga s
  | .aperm ad ga => Sys2Proof.Machine.execAperm ad ga s
  | .aadv ad ga => Sys2Proof.Machine.execAadv ad ga s
  | .aget gd aa => Sys2Proof.Machine.execAget gd aa s
  | .agetb gd aa => Sys2Proof.Machine.execAgetb gd aa s
  | .agetl gd aa => Sys2Proof.Machine.execAgetl gd aa s
  | .agetp gd aa => Sys2Proof.Machine.execAgetp gd aa s
  | .aaddi ad aa imm => Sys2Proof.Machine.execAaddi ad aa imm s
  | .ldB d a disp => Sys2Proof.Machine.execLdB d a disp s
  | .ldH d a disp => Sys2Proof.Machine.execLdH d a disp s
  | .ldW d a disp => Sys2Proof.Machine.execLdW d a disp s
  | .ldD d a disp => Sys2Proof.Machine.execLdD d a disp s
  | .ldBu d a disp => Sys2Proof.Machine.execLdBu d a disp s
  | .ldHu d a disp => Sys2Proof.Machine.execLdHu d a disp s
  | .ldWu d a disp => Sys2Proof.Machine.execLdWu d a disp s
  | .stB sig d a disp => Sys2Proof.Machine.execStB sig d a disp s
  | .stH sig d a disp => Sys2Proof.Machine.execStH sig d a disp s
  | .stW sig d a disp => Sys2Proof.Machine.execStW sig d a disp s
  | .stD sig d a disp => Sys2Proof.Machine.execStD sig d a disp s
  | .amoAdd sc sig w d a b => Sys2Proof.Machine.execAmoAdd sc sig w d a b s
  | .amoAnd sc sig w d a b => Sys2Proof.Machine.execAmoAnd sc sig w d a b s
  | .amoOr sc sig w d a b => Sys2Proof.Machine.execAmoOr sc sig w d a b s
  | .amoXor sc sig w d a b => Sys2Proof.Machine.execAmoXor sc sig w d a b s
  | .amoMin sc sig w d a b => Sys2Proof.Machine.execAmoMin sc sig w d a b s
  | .amoMax sc sig w d a b => Sys2Proof.Machine.execAmoMax sc sig w d a b s
  | .amoMinu sc sig w d a b => Sys2Proof.Machine.execAmoMinu sc sig w d a b s
  | .amoMaxu sc sig w d a b => Sys2Proof.Machine.execAmoMaxu sc sig w d a b s
  | .amoSwap sc sig w d a b => Sys2Proof.Machine.execAmoSwap sc sig w d a b s
  | .cas sc sig w d a b => Sys2Proof.Machine.execCas sc sig w d a b s
  | .casGt sc sig w d a b => Sys2Proof.Machine.execCasGt sc sig w d a b s
  | .casVer sc sig w d a b => Sys2Proof.Machine.execCasVer sc sig w d a b s
  | .casPtag sc sig w d a b => Sys2Proof.Machine.execCasPtag sc sig w d a b s
  | .redAdd sc sig w a b => Sys2Proof.Machine.execRedAdd sc sig w a b s
  | .redAnd sc sig w a b => Sys2Proof.Machine.execRedAnd sc sig w a b s
  | .redOr sc sig w a b => Sys2Proof.Machine.execRedOr sc sig w a b s
  | .redXor sc sig w a b => Sys2Proof.Machine.execRedXor sc sig w a b s
  | .redMin sc sig w a b => Sys2Proof.Machine.execRedMin sc sig w a b s
  | .redMax sc sig w a b => Sys2Proof.Machine.execRedMax sc sig w a b s
  | .redMinu sc sig w a b => Sys2Proof.Machine.execRedMinu sc sig w a b s
  | .redMaxu sc sig w a b => Sys2Proof.Machine.execRedMaxu sc sig w a b s
  | .redFadd sc sig a b => Sys2Proof.Machine.execRedFadd sc sig a b s
  | .lda sc size d a => Sys2Proof.Machine.execLda sc size d a s
  | .stl sc sig size d a => Sys2Proof.Machine.execStl sc sig size d a s
  | .fence sc => Sys2Proof.Machine.execFence sc s
  | .waitW gt a b => Sys2Proof.Machine.execWaitW gt a b s
  | .waitD gt a b => Sys2Proof.Machine.execWaitD gt a b s
  | .bra off => Sys2Proof.Machine.execBra off s
  | .beqz a off => Sys2Proof.Machine.execBeqz a off s
  | .bnez a off => Sys2Proof.Machine.execBnez a off s
  | .bltz a off => Sys2Proof.Machine.execBltz a off s
  | .bgez a off => Sys2Proof.Machine.execBgez a off s
  | .bgtz a off => Sys2Proof.Machine.execBgtz a off s
  | .blez a off => Sys2Proof.Machine.execBlez a off s
  | .bkany k off => Sys2Proof.Machine.execBkany k off s
  | .bknone k off => Sys2Proof.Machine.execBknone k off s
  | .call d imm => Sys2Proof.Machine.execCall d imm s
  | .jmp a => Sys2Proof.Machine.execJmp a s
  | .callr d a => Sys2Proof.Machine.execCallr d a s
  | .rwaitH q b => Sys2Proof.Machine.execRwaitH q b s
  | .rwaitT q b => Sys2Proof.Machine.execRwaitT q b s
  | .radvH q b => Sys2Proof.Machine.execRadvH q b s
  | .radvT q b => Sys2Proof.Machine.execRadvT q b s
  | .rfill d q => Sys2Proof.Machine.execRfill d q s
  | .rfree d q => Sys2Proof.Machine.execRfree d q s
  | .rbind q a => Sys2Proof.Machine.execRbind q a s
  | .sysrd d num => Sys2Proof.Machine.execSysrd d num s
  | .syswr num a => Sys2Proof.Machine.execSyswr num a s
  | .trap imm => Sys2Proof.Machine.execTrap imm s
  | .eret => Sys2Proof.Machine.execEret s
  | .sleep a => Sys2Proof.Machine.execSleep a s
  | .movb ad sa n => Sys2Proof.Machine.execMovb ad sa n s
  | .rep n => Sys2Proof.Machine.execRep n s
  | .vadd f vd va vb k => Sys2Proof.Machine.execVadd f vd va vb k s
  | .vsub f vd va vb k => Sys2Proof.Machine.execVsub f vd va vb k s
  | .vmul f vd va vb k => Sys2Proof.Machine.execVmul f vd va vb k s
  | .vmin f vd va vb k => Sys2Proof.Machine.execVmin f vd va vb k s
  | .vmax f vd va vb k => Sys2Proof.Machine.execVmax f vd va vb k s
  | .vabs f vd va k => Sys2Proof.Machine.execVabs f vd va k s
  | .vneg f vd va k => Sys2Proof.Machine.execVneg f vd va k s
  | .vfma f vd va vb k => Sys2Proof.Machine.execVfma f vd va vb k s
  | .vfms f vd va vb k => Sys2Proof.Machine.execVfms f vd va vb k s
  | .vfnma f vd va vb k => Sys2Proof.Machine.execVfnma f vd va vb k s
  | .vceq f kd va vb k => Sys2Proof.Machine.execVceq f kd va vb k s
  | .vcne f kd va vb k => Sys2Proof.Machine.execVcne f kd va vb k s
  | .vclt f kd va vb k => Sys2Proof.Machine.execVclt f kd va vb k s
  | .vcle f kd va vb k => Sys2Proof.Machine.execVcle f kd va vb k s
  | .vcgt f kd va vb k => Sys2Proof.Machine.execVcgt f kd va vb k s
  | .vcge f kd va vb k => Sys2Proof.Machine.execVcge f kd va vb k s
  | .vrsum f vd va k => Sys2Proof.Machine.execVrsum f vd va k s
  | .vrmax f vd va k => Sys2Proof.Machine.execVrmax f vd va k s
  | .vrmin f vd va k => Sys2Proof.Machine.execVrmin f vd va k s
  | .vperm f vd va vb k => Sys2Proof.Machine.execVperm f vd va vb k s
  | .vbcast f vd va gb k => Sys2Proof.Machine.execVbcast f vd va gb k s
  | .vslideup f vd va gb k => Sys2Proof.Machine.execVslideup f vd va gb k s
  | .vslidedn f vd va gb k => Sys2Proof.Machine.execVslidedn f vd va gb k s
  | .vcvt dst src rnd vd va k => Sys2Proof.Machine.execVcvt dst src rnd vd va k s
  | .vrcp vd va k => Sys2Proof.Machine.execVrcp vd va k s
  | .vrsq vd va k => Sys2Proof.Machine.execVrsq vd va k s
  | .vexp2 vd va k => Sys2Proof.Machine.execVexp2 vd va k s
  | .vlog2 vd va k => Sys2Proof.Machine.execVlog2 vd va k s
  | .vld vd a disp k => Sys2Proof.Machine.execVld vd a disp k s
  | .vst vd a disp k => Sys2Proof.Machine.execVst vd a disp k s
  | .vldBc f vd a disp k => Sys2Proof.Machine.execVldBc f vd a disp k s
  | .kand kd ka kb => Sys2Proof.Machine.execKand kd ka kb s
  | .kor kd ka kb => Sys2Proof.Machine.execKor kd ka kb s
  | .kxor kd ka kb => Sys2Proof.Machine.execKxor kd ka kb s
  | .knot kd ka => Sys2Proof.Machine.execKnot kd ka s
  | .kmov kd ka => Sys2Proof.Machine.execKmov kd ka s
  | .vmovg f vd ga gb => Sys2Proof.Machine.execVmovg f vd ga gb s
  | .vext f gd va gb => Sys2Proof.Machine.execVext f gd va gb s
  | .ksetg f kd ga gb => Sys2Proof.Machine.execKsetg f kd ga gb s
  | .kgetg f gd ka gb => Sys2Proof.Machine.execKgetg f gd ka gb s
  | .vand f vd va vb k => Sys2Proof.Machine.execVand f vd va vb k s
  | .vor f vd va vb k => Sys2Proof.Machine.execVor f vd va vb k s
  | .vxor f vd va vb k => Sys2Proof.Machine.execVxor f vd va vb k s
  | .vshl f vd va vb k => Sys2Proof.Machine.execVshl f vd va vb k s
  | .vshr f vd va vb k => Sys2Proof.Machine.execVshr f vd va vb k s
  | .vsra f vd va vb k => Sys2Proof.Machine.execVsra f vd va vb k s
  | .agld ad ga => Sys2Proof.Machine.execAgld ad ga s
  | .anew gd ga => Sys2Proof.Machine.execAnew gd ga s
  | .afree ga => Sys2Proof.Machine.execAfree ga s
  | .wire gd => Sys2Proof.Machine.execWire gd s
  | .link gd ga gb => Sys2Proof.Machine.execLink gd ga gb s
  | .adup gd ga gb => Sys2Proof.Machine.execAdup gd ga gb s
  | .aera gd ga gb => Sys2Proof.Machine.execAera gd ga gb s
  | .payshare gd ga => Sys2Proof.Machine.execPayshare gd ga s
  | .paydrop gd ga => Sys2Proof.Machine.execPaydrop gd ga s
  | .ruleset a => Sys2Proof.Machine.execRuleset a s
  | .rulepub => Sys2Proof.Machine.execRulepub s
  | .launch e gd a => Sys2Proof.Machine.execLaunch e gd a s
  | .launchInd e gd a => Sys2Proof.Machine.execLaunchInd e gd a s
  | .retire => Sys2Proof.Machine.execRetire s
  | .retireS => Sys2Proof.Machine.execRetireS s
  | .yieldSlot => Sys2Proof.Machine.execYieldSlot s
  | .krel gd ga => Sys2Proof.Machine.execKrel gd ga s
  | .govset ga gb => Sys2Proof.Machine.execGovset ga gb s
  | .profrd gd ga => Sys2Proof.Machine.execProfrd gd ga s
  | .mma e shape f acc src gb => Sys2Proof.Machine.execMma e shape f acc src gb s
  | .mmaRg e shape f acc q gb => Sys2Proof.Machine.execMmaRg e shape f acc q gb s
  | .bld e tr f tid ga gb gc => Sys2Proof.Machine.execBld e tr f tid ga gb gc s
  | .aclr acc => Sys2Proof.Machine.execAclr acc s
  | .mxw ga => Sys2Proof.Machine.execMxw ga s
  | .mxwait => Sys2Proof.Machine.execMxwait s
  | .ast e z f rnd tid acc ga gb => Sys2Proof.Machine.execAst e z f rnd tid acc ga gb s
  | .cpy e ad sa gb => Sys2Proof.Machine.execCpy e ad sa gb s
  | .cpyAdd e ad sa gb => Sys2Proof.Machine.execCpyAdd e ad sa gb s
  | .cpyMc e wx wy gm sa gb => Sys2Proof.Machine.execCpyMc e wx wy gm sa gb s
  | .post e gr sa gb => Sys2Proof.Machine.execPost e gr sa gb s
  | .postMb e ge gb => Sys2Proof.Machine.execPostMb e ge gb s
  | .postQ e tag ad sa gb => Sys2Proof.Machine.execPostQ e tag ad sa gb s
  | .toksend e gt sa gb => Sys2Proof.Machine.execToksend e gt sa gb s
  | .mboxCfg ga => Sys2Proof.Machine.execMboxCfg ga s
  | .mboxRd gd ga => Sys2Proof.Machine.execMboxRd gd ga s
  | .csnap a ga => Sys2Proof.Machine.execCsnap a ga s
  | .barInit bar ga gb => Sys2Proof.Machine.execBarInit bar ga gb s
  | .barArrive bar ga gk => Sys2Proof.Machine.execBarArrive bar ga gk s
  | .barWait bar gt => Sys2Proof.Machine.execBarWait bar gt s
  | .extensionPrefix ext next => Sys2Proof.Machine.execExtensionPrefix ext next s
  | .hint bits => Sys2Proof.Machine.execHint bits s
  | .illegalInstruction info => Sys2Proof.Machine.execIllegalInstruction info s
  | .instructionFetch => Sys2Proof.Machine.execInstructionFetch s
  | .reset => Sys2Proof.Machine.execReset s
  | .routerPowerGate tower router => Sys2Proof.Machine.execRouterPowerGate tower router s
  | .routerWake tower router => Sys2Proof.Machine.execRouterWake tower router s
  | .portRequestLeave core pick => Sys2Proof.Machine.execPortRequestLeave core pick s
  | .shaperRefill tower => Sys2Proof.Machine.execShaperRefill tower s
  | .sliceRequest id => Sys2Proof.Machine.execSliceRequest id s
  | .translationWalk q => Sys2Proof.Machine.execTranslationWalk q s
  | .remoteDataCacheRequest id => Sys2Proof.Machine.execRemoteDataCacheRequest id s
  | .performAtHome id => Sys2Proof.Machine.execPerformAtHome id s
  | .responseDelivery id => Sys2Proof.Machine.execResponseDelivery id s
  | .announcementApply dst home => Sys2Proof.Machine.execAnnouncementApply dst home s
  | .clockGapWriteResume id => Sys2Proof.Machine.execClockGapWriteResume id s
  | .l1LineExpiry core asid vline => Sys2Proof.Machine.execL1LineExpiry core asid vline s
  | .accessRetry key => Sys2Proof.Machine.execAccessRetry key s
  | .watchMessage cluster line => Sys2Proof.Machine.execWatchMessage cluster line s
  | .watchWithdrawal cluster line => Sys2Proof.Machine.execWatchWithdrawal cluster line s
  | .watchWithdrawalAck cluster line => Sys2Proof.Machine.execWatchWithdrawalAck cluster line s
  | .wakeWrite cluster line => Sys2Proof.Machine.execWakeWrite cluster line s
  | .waitTimeout key => Sys2Proof.Machine.execWaitTimeout key s
  | .sleepExpiry key => Sys2Proof.Machine.execSleepExpiry key s
  | .barWaitTimeout key => Sys2Proof.Machine.execBarWaitTimeout key s
  | .busySlotPoll key => Sys2Proof.Machine.execBusySlotPoll key s
  | .busyWaitReport key => Sys2Proof.Machine.execBusyWaitReport key s
  | .shootdownDescriptor sd tower slice => Sys2Proof.Machine.execShootdownDescriptor sd tower slice s
  | .shootdownDrainComplete id tower slice => Sys2Proof.Machine.execShootdownDrainComplete id tower slice s
  | .shootdownAck id tower slice => Sys2Proof.Machine.execShootdownAck id tower slice s
  | .migrationWriteStall frame bytes => Sys2Proof.Machine.execMigrationWriteStall frame bytes s
  | .migrationStallLift frame bytes => Sys2Proof.Machine.execMigrationStallLift frame bytes s
  | .uncorrectableError place => Sys2Proof.Machine.execUncorrectableError place s
  | .meetEnqueue asid x y => Sys2Proof.Machine.execMeetEnqueue asid x y s
  | .heldEnqueueEntry tower => Sys2Proof.Machine.execHeldEnqueueEntry tower s
  | .slotFill key => Sys2Proof.Machine.execSlotFill key s
  | .keyRequest unit lockKey => Sys2Proof.Machine.execKeyRequest unit lockKey s
  | .keyGrant unit lockKey => Sys2Proof.Machine.execKeyGrant unit lockKey s
  | .keyRelease lockKey => Sys2Proof.Machine.execKeyRelease lockKey s
  | .keyTableEntryFree tower => Sys2Proof.Machine.execKeyTableEntryFree tower s
  | .groupPlacement launch => Sys2Proof.Machine.execGroupPlacement launch s
  | .groupDispatch gid core => Sys2Proof.Machine.execGroupDispatch gid core s
  | .successorStart gid => Sys2Proof.Machine.execSuccessorStart gid s
  | .governorEvaluation tower => Sys2Proof.Machine.execGovernorEvaluation tower s
  | .governorSetting tower key ga gb => Sys2Proof.Machine.execGovernorSetting tower key ga gb s
  | .rulePublicationFlip tower asid key => Sys2Proof.Machine.execRulePublicationFlip tower asid key s
  | .preemptionRequest key => Sys2Proof.Machine.execPreemptionRequest key s
  | .taskSuspension key => Sys2Proof.Machine.execTaskSuspension key s
  | .taskRelease tid => Sys2Proof.Machine.execTaskRelease tid s
  | .taskRestore tid => Sys2Proof.Machine.execTaskRestore tid s
  | .courierEndTask tid => Sys2Proof.Machine.execCourierEndTask tid s
  | .coreFault core readable passes => Sys2Proof.Machine.execCoreFault core readable passes s
  | .coreStallDetect core readable passes => Sys2Proof.Machine.execCoreStallDetect core readable passes s
  | .remoteRegisterAccess tower write num val => Sys2Proof.Machine.execRemoteRegisterAccess tower write num val s
  | .matrixArbiterSelect cluster => Sys2Proof.Machine.execMatrixArbiterSelect cluster s
  | .mmaKStep cluster => Sys2Proof.Machine.execMmaKStep cluster s
  | .mmaRgChunkStart cluster => Sys2Proof.Machine.execMmaRgChunkStart cluster s
  | .matrixCommandStop cluster => Sys2Proof.Machine.execMatrixCommandStop cluster s
  | .matrixCommandComplete cluster => Sys2Proof.Machine.execMatrixCommandComplete cluster s
  | .engineCommandStart cluster pieces => Sys2Proof.Machine.execEngineCommandStart cluster pieces s
  | .enginePieceWrite id => Sys2Proof.Machine.execEnginePieceWrite id s
  | .heldWriteRelease id => Sys2Proof.Machine.execHeldWriteRelease id s
  | .heldWriteAbandon id => Sys2Proof.Machine.execHeldWriteAbandon id s
  | .heldWriteRoomFree id => Sys2Proof.Machine.execHeldWriteRoomFree id s
  | .completionWordWrite id => Sys2Proof.Machine.execCompletionWordWrite id s
  | .multicastReplicate id => Sys2Proof.Machine.execMulticastReplicate id s
  | .postDelivery id => Sys2Proof.Machine.execPostDelivery id s
  | .ringReservationResume id => Sys2Proof.Machine.execRingReservationResume id s
  | .fillReport id => Sys2Proof.Machine.execFillReport id s
  | .postQRecordSend id => Sys2Proof.Machine.execPostQRecordSend id s
  | .tokenRowArrival id => Sys2Proof.Machine.execTokenRowArrival id s
  | .mailboxArrival id => Sys2Proof.Machine.execMailboxArrival id s
  | .barrierArrival arr => Sys2Proof.Machine.execBarrierArrival arr s
  | .frameBarrierArrival tid arr => Sys2Proof.Machine.execFrameBarrierArrival tid arr s
  | .freeRingHeldPublish tower => Sys2Proof.Machine.execFreeRingHeldPublish tower s
  | .peerAcknowledge id => Sys2Proof.Machine.execPeerAcknowledge id s
  | .ewefonisLinkFailure link => Sys2Proof.Machine.execEwefonisLinkFailure link s
  | .linkTrainingComplete link peer peerLink => Sys2Proof.Machine.execLinkTrainingComplete link peer peerLink s
  | .droopDetect tower => Sys2Proof.Machine.execDroopDetect tower s
  | .droopRecover tower => Sys2Proof.Machine.execDroopRecover tower s
  | .ringTailDoorbell ring tail => Sys2Proof.Machine.execRingTailDoorbell ring tail s
  | .ringRestart ring newhead => Sys2Proof.Machine.execRingRestart ring newhead s
  | .ringEnable ring enable => Sys2Proof.Machine.execRingEnable ring enable s
  | .packetNop ring => Sys2Proof.Machine.execPacketNop ring s
  | .packetLaunch ring => Sys2Proof.Machine.execPacketLaunch ring s
  | .packetLaunchInd ring => Sys2Proof.Machine.execPacketLaunchInd ring s
  | .packetCopy ring => Sys2Proof.Machine.execPacketCopy ring s
  | .packetCopyAdd ring => Sys2Proof.Machine.execPacketCopyAdd ring s
  | .packetSignalWrite ring => Sys2Proof.Machine.execPacketSignalWrite ring s
  | .packetSignalAdd ring => Sys2Proof.Machine.execPacketSignalAdd ring s
  | .packetWaitNe ring => Sys2Proof.Machine.execPacketWaitNe ring s
  | .packetWaitGe ring => Sys2Proof.Machine.execPacketWaitGe ring s
  | .packetWaitTimeout ring => Sys2Proof.Machine.execPacketWaitTimeout ring s
  | .identity => Sys2Proof.Machine.execIdentity s
  | .attest nonce bus => Sys2Proof.Machine.execAttest nonce bus s
  | .createAs tenant seed grant => Sys2Proof.Machine.execCreateAs tenant seed grant s
  | .destroyAs asid => Sys2Proof.Machine.execDestroyAs asid s
  | .ringSetup ring loc base size asid => Sys2Proof.Machine.execRingSetup ring loc base size asid s
  | .tensorSet asid id image => Sys2Proof.Machine.execTensorSet asid id image s
  | .bar2Write addr data => Sys2Proof.Machine.execBar2Write addr data s
  | .bar2Read addr len => Sys2Proof.Machine.execBar2Read addr len s
  | .bar0RegisterWrite off data => Sys2Proof.Machine.execBar0RegisterWrite off data s
  | .enumerationUpdate => Sys2Proof.Machine.execEnumerationUpdate s
  | .dieLinkStateChange die st => Sys2Proof.Machine.execDieLinkStateChange die st s
  | .sliceMarkedDead tower slice => Sys2Proof.Machine.execSliceMarkedDead tower slice s
  | .memoryTrainingComplete fail => Sys2Proof.Machine.execMemoryTrainingComplete fail s

end Sys2Proof.Machine
end

