-- ==== Sys2Proof/Machine/Deferred.lean ====
section
/-! DEFINITION. A raised step takes place: the meaning that its constructor of `Instr` has. -/

namespace Sys2Proof.Machine

def runRaised (r : Raised) (s : State) : Out :=
  match r with
  | .portRequestLeave core pick => execPortRequestLeave core pick s
  | .sliceRequest id => execSliceRequest id s
  | .remoteDataCacheRequest id => execRemoteDataCacheRequest id s
  | .performAtHome id => execPerformAtHome id s
  | .responseDelivery id => execResponseDelivery id s
  | .announcementApply dst home => execAnnouncementApply dst home s
  | .clockGapWriteResume id => execClockGapWriteResume id s
  | .l1LineExpiry core asid vline => execL1LineExpiry core asid vline s
  | .accessRetry key => execAccessRetry key s
  | .watchMessage cluster line => execWatchMessage cluster line s
  | .watchWithdrawal cluster line => execWatchWithdrawal cluster line s
  | .watchWithdrawalAck cluster line => execWatchWithdrawalAck cluster line s
  | .wakeWrite cluster line => execWakeWrite cluster line s
  | .waitTimeout key => execWaitTimeout key s
  | .sleepExpiry key => execSleepExpiry key s
  | .barWaitTimeout key => execBarWaitTimeout key s
  | .busySlotPoll key => execBusySlotPoll key s
  | .busyWaitReport key => execBusyWaitReport key s
  | .shootdownDescriptor sd tower slice => execShootdownDescriptor sd tower slice s
  | .shootdownDrainComplete id tower slice => execShootdownDrainComplete id tower slice s
  | .shootdownAck id tower slice => execShootdownAck id tower slice s
  | .coreFault core readable passes => execCoreFault core readable passes s
  | .meetEnqueue asid core x y => .next (opMeetEnqueue asid core x y s)
  | .heldEnqueueEntry tower => execHeldEnqueueEntry tower s
  | .slotFill key => execSlotFill key s
  | .keyRequest unit lockKey => execKeyRequest unit lockKey s
  | .keyGrant unit lockKey => execKeyGrant unit lockKey s
  | .keyRelease unit lockKey => .next (opKeyRelease unit lockKey s)
  | .keyTableEntryFree tower => execKeyTableEntryFree tower s
  | .groupPlacement launch => execGroupPlacement launch s
  | .groupDispatch gid core => execGroupDispatch gid core s
  | .successorStart gid => execSuccessorStart gid s
  | .governorEvaluation tower => execGovernorEvaluation tower s
  | .governorSetting tower key ga gb => execGovernorSetting tower key ga gb s
  | .rulePublicationFlip tower asid key => execRulePublicationFlip tower asid key s
  | .taskSuspension key => execTaskSuspension key s
  | .taskRestore tid => execTaskRestore tid s
  | .matrixArbiterSelect cluster => execMatrixArbiterSelect cluster s
  | .mmaKStep cluster => execMmaKStep cluster s
  | .mmaRgChunkStart cluster => execMmaRgChunkStart cluster s
  | .matrixCommandStop cluster => execMatrixCommandStop cluster s
  | .matrixCommandComplete cluster => execMatrixCommandComplete cluster s
  | .engineCommandStart cluster pieces => execEngineCommandStart cluster pieces s
  | .enginePieceWrite id => execEnginePieceWrite id s
  | .heldWriteRelease id => execHeldWriteRelease id s
  | .heldWriteRoomFree id => execHeldWriteRoomFree id s
  | .completionWordWrite id => execCompletionWordWrite id s
  | .multicastReplicate id => execMulticastReplicate id s
  | .postDelivery id => execPostDelivery id s
  | .ringReservationResume id => execRingReservationResume id s
  | .fillReport id => execFillReport id s
  | .postQRecordSend id => execPostQRecordSend id s
  | .tokenRowArrival id => execTokenRowArrival id s
  | .mailboxArrival id => execMailboxArrival id s
  | .barrierArrival arr => execBarrierArrival arr s
  | .frameBarrierArrival tid arr => execFrameBarrierArrival tid arr s
  | .freeRingHeldPublish tower => execFreeRingHeldPublish tower s
  | .peerAcknowledge id => execPeerAcknowledge id s
  | .packetNop ring => execPacketNop ring s
  | .packetLaunch ring => execPacketLaunch ring s
  | .packetLaunchInd ring => execPacketLaunchInd ring s
  | .packetCopy ring => execPacketCopy ring s
  | .packetCopyAdd ring => execPacketCopyAdd ring s
  | .packetSignalWrite ring => execPacketSignalWrite ring s
  | .packetSignalAdd ring => execPacketSignalAdd ring s
  | .packetWaitNe ring => execPacketWaitNe ring s
  | .packetWaitGe ring => execPacketWaitGe ring s
  | .packetWaitTimeout ring => execPacketWaitTimeout ring s
  | .enumerationUpdate => execEnumerationUpdate s
  | .bar2Read addr len => execBar2Read addr len s
  | .destroyAs asid => execDestroyAs asid s

end Sys2Proof.Machine
end

