-- ==== Sys2Proof/Machine/Run.lean ====
section
/-! DEFINITION. What surrounds an instruction: fetching it (02 R27, R31-R33), the round robin of a core's slots (05 R66), the
passing of cycles, and the deadlines that fall due. -/

namespace Sys2Proof.Machine

/-! ## Cycles (05 R74; 09 R162; 13 R215) -/

/-- Cycles that pass on a tower during a step: at least one, the number free (log 2), fewer than the shortest period. -/
def elapsedOn (ticks t : Nat) : Nat := 1 + Config.elapsed (4 * ticks + t) % 255

/-- Lets cycles pass on one tower: at a refill boundary its ports are filled, with the shares that stand then (12 R196), and a boundary of the
governor raises its evaluation. -/
def State.tickTower (s : State) (t : Fin 4) : State :=
  let x := s.tower t
  let c := x.cycle + elapsedOn s.ticks t
  let s := s.setTower t { x with cycle := c }
  let r := if c / 1024 = x.cycle / 1024 then s else opShaperRefill t s
  { s with cores := r.cores, raised := r.raised ++ (if c / 256 = x.cycle / 256 then [] else [.governorEvaluation t]) }

def State.tick (s : State) : State :=
  let s := (((s.tickTower 0).tickTower 1).tickTower 2).tickTower 3
  { s with ticks := s.ticks + 1 }

/-- The cycles of a step pass after a next state. -/
def ticked : Out → Out
  | .next s => .next s.tick
  | .fault f => .fault f
  | .refused r => .refused r

/-! ## Fetch and decode -/

/-- The instruction at the program counter, both its words where it has two. -/
def State.fetchInstr (s : State) : Res Decoded :=
  (s.fetchWord s.me.pc.toNat).bind fun w s =>
    if insnBytes w = 8 then (s.fetchWord (s.me.pc + 4).toNat).bind fun w1 s => .ok (decode w w1) { s with me := { s.me with insn := if fMajor w = 0x3D#6 then info1 w else info2 w w1 } }
    else .ok (decode w 0) { s with me := { s.me with insn := info1 w } }

/-- A store or reduction of the slot that a migration stalls, or that is then still to be translated again, stalls the slot (09 R157). -/
def State.storeStalled (s : State) (k : SlotKey) : Bool := s.reqs.any fun r => r.key == k && r.unperformed && (r.rewalk || s.frameStalled r.pa)

/-- A slot issues: it fetches, decodes and executes one instruction. A word that is none traps (R41). -/
def State.issue (s : State) (k : SlotKey) : Out :=
  let s := s.switch k
  if s.me.preempt && !s.mustComplete k && s.me.run == .running then .next (s.halt k .preempt)
  else if s.me.run = .running && s.storeStalled k then .next (s.stall .migration)
  else if s.me.run = .running then
    let c := s.core s.myCore
    let s := s.setCore s.myCore { c with last := slotOfKey k, activeAt := (s.tower s.myTower).cycle }
    match s.fetchInstr with
    | .done s => .next (s.fetchEnded k)
    | .ok (.ok i) s => exec i s
    | .ok (.error r) s => exec (.illegalInstruction r.info) s
  else .next s

/-! ## Who issues (R66) -/

/-- The first slot of a list that runs. -/
def State.firstReady (s : State) (ks : List SlotKey) : Option SlotKey := ks.find? fun k => decide ((s.ctx k).run = .running)

/-- A core's slots in the order that starts after the one that issued last. -/
def State.slotOrder (s : State) (core : Nat) : List SlotKey :=
  let l := (s.core core).last
  [1, 2, 3, 4].map fun i => 4 * core + (l + i) % 4

/-- The slot that issues next when nothing else decides: cores in turn after the current one, R66 within each (log 1). -/
def State.nextSlot (s : State) : Option SlotKey :=
  let cores := (s.keys.map coreOfKey).eraseDups
  let after := cores.filter (· > s.myCore)
  let rest := cores.filter (· ≤ s.myCore)
  firstSome (fun c => s.firstReady (s.slotOrder c)) (after ++ rest)

/-! ## Deadlines -/

/-- The step that a slot's deadline brings, when it has come. -/
def State.slotDue (s : State) (k : SlotKey) : Option Raised :=
  let now := (s.tower (s.towerOf (coreOfKey k))).cycle
  match (s.ctx k).run with
  | .parked (.sleep w) => if w ≤ now then some (.sleepExpiry k) else none
  | .parked (.wait _ _ (some d)) => if d ≤ now then some (.waitTimeout k) else none
  | .parked (.barWait _ _ (some d)) => if d ≤ now then some (.barWaitTimeout k) else none
  | .stalled (.busy _ _ polled) =>
    if (s.busyDue k).isSome then some (.busyWaitReport k) else if polled + coreCycles 256 ≤ now then some (.busySlotPoll k) else none
  | _ => none

/-- An L1 line that has stood for 16384 cycles (10 R165). -/
def State.lineDue (s : State) (c : Nat × Core) : Option Raised :=
  let now := (s.tower (s.towerOf c.1)).cycle
  firstSome (fun (l : L1Line) => if l.filled + 16384 ≤ now then some (Raised.l1LineExpiry c.1 l.asid l.vline) else none) c.2.l1

/-- A ring's WAIT packet whose timeout has passed (23 R319). -/
def State.ringDue (s : State) (i : Fin 16) : Option Raised :=
  match s.rings[i].waiting with
  | some w => match w.deadline with | some d => if d ≤ (s.tower 0).cycle then some (.packetWaitTimeout i) else none | none => none
  | none => none

/-- What the rings have to do: the ring whose turn it is starts its packet (R319), and in between the rings' records and waits are looked
at, one after the other as steps pass (log 1). -/
def State.packetDue (s : State) : Option Raised :=
  let l := (List.finRange 16).flatMap fun i => (s.ringWork i).map fun k => k.raised i
  let start := s.ringTurn.bind fun i => match s.headOf s.rings[i] with | .ready h => some (h.kind.raised i) | .short | .held | .malformed _ => none
  if s.ticks / 3 % 2 = 0 then start.orElse fun _ => l[s.ticks / 6 % l.length]? else l[s.ticks / 6 % l.length]?

def State.due (s : State) : Option Raised :=
  match firstSome s.slotDue s.keys with
  | some r => some r
  | none =>
    match firstSome s.lineDue s.cores with
    | some r => some r
    | none =>
      match firstSome s.ringDue (List.finRange 16) with
      | some r => some r
      | none => s.packetDue

/-! ## One step -/

/-- A constructor that names a step and not a program's instruction: it has no encoding. -/
def isStep (i : Instr) : Bool := (encode i).isEmpty

/-- A turn of the schedule is taken. -/
def State.takeTurn (s : State) (t : Turn) : Out :=
  match t with
  | .slot k => s.issue k
  | .event i => if isStep i then exec i s else .next s
  | .deliver n =>
    match takeAt s.raised n with
    | some (r, rest) => runRaised r { s with raised := rest }
    | none => .next s

/-- One of the three kinds of things that can happen next. -/
inductive Next where
  | issue | raised | due
  deriving DecidableEq, Repr

/-- The order in which the three kinds are looked at, in rotation, so that none keeps the others waiting (log 1). -/
def nextOrder (ticks : Nat) : List Next :=
  match ticks % 3 with
  | 0 => [.issue, .raised, .due]
  | 1 => [.raised, .due, .issue]
  | _ => [.due, .issue, .raised]

/-- The thing of a kind that happens next, if there is one. -/
def State.attempt (s : State) (n : Next) : Option Out :=
  match n with
  | .issue => s.nextSlot.map s.issue
  | .raised =>
    match s.raised with
    | r :: rs => some (runRaised r { s with raised := rs })
    | [] => none
  | .due => s.due.map fun r => runRaised r s

/-- What happens next: the schedule's turn, else the first thing there is in the order of the step; if there is none, cycles
pass. -/
def State.advanceMachine (s : State) : Out :=
  match s.turns with
  | t :: ts => { s with turns := ts }.takeTurn t
  | [] => (firstSome s.attempt (nextOrder s.ticks)).getD (.next s)

/-! ## Placing a word to be fetched -/

/-- A line of code at virtual line 0. -/
def codeLine (nbits w : Nat) : L1Line :=
  ⟨0, 0, 0, leBytes 128 (w % 2 ^ nbits), [], true, true, 0⟩

end Sys2Proof.Machine
end

