-- ==== Sys2Proof/Machine/Step.lean ====
section
/-! DEFINITION. The step of the machine, and the placing of one instruction where the next step fetches. -/

namespace Sys2Proof.Machine

def step (s : State) : Host.Outcome State Fault Refusal := ticked s.advanceMachine

/-- Slot 0 of core 0 holds a task that owns every vector register and is about to fetch, at address 0, the instruction whose
words are `w`, from the core's L1 region (09 R141). It stands for a program's load and its task's placement (log 18). -/
def State.withFetchWord (s : State) (nbits w : Nat) : State :=
  { s with
    cur := 0
    me := { s.me with run := .running, pc := 0, rep := none, asid := 0, regs := 32 }
    cores := tset s.cores 0 { tget Core.reset s.cores 0 with l1 := [codeLine nbits w], last := 3 }
    raised := []
    turns := []
    ticks := 0 }

end Sys2Proof.Machine
end

