-- ==== Sys2Proof/Safety.lean ====
section
/-! DEFINITION. The terms in which claims speak of the machine: safe steps, the canonical form of memories, what a slot must satisfy
for an access to go through. -/

namespace Sys2Proof.Machine

/-- A safe step goes on: it neither faults nor is refused. -/
def State.Safe (s : State) : Prop := ∃ t, step s = .next t

/-- Device memory, the B-stores and BAR0's table are in canonical form. -/
def State.MemOk (s : State) : Prop := Memory.wf s.mem = true ∧ Memory.wf s.bstore = true ∧ Memory.wf s.bar0 = true

/-- An address register of scratch whose range covers `n` bytes at `ea`, with the rights asked for, at an aligned address (06
R88, checks 1 to 4), none of whose pages awaits its refill after a restore (09 R152). -/
def State.ScratchOk (s : State) (a : BitVec 4) (ea : Int) (n : Nat) (rd wr : Bool) (align : Nat) : Prop :=
  let r := s.me.getA a
  r.scratch = true ∧ (r.base.toNat : Int) ≤ ea ∧ ea + n ≤ r.limit.toNat ∧ (rd = true → r.r = true) ∧ (wr = true → r.w = true) ∧
    (align = 0 ∨ ea % align = 0) ∧ ea + n ≤ 4096 * (s.me.scratch : Int) ∧ s.me.absentIn ea.toNat n = []

/-- No piece of the task's scratch that the access touches is poisoned. -/
def State.ScratchClean (s : State) (ea n : Nat) : Prop := ∀ i < n, smem s.me.poison ((ea + i) / 32) = false

/-- A plain read inside one 32-byte piece of memory that a line of the core's L1 region serves (10 R165). -/
def State.HitsL1 (s : State) (o : Opnd) (n : Nat) (l : L1Line) : Prop :=
  o.scratch = false ∧ 0 < n ∧ o.va % 32 + n ≤ 32 ∧ s.l1Find s.me.asid (o.va / 128) false = some l ∧ s.redPending l.pline = false ∧
    l.poison.contains ((l.pline * 128 + o.va % 128) / 32) = false

/-- A plain read inside one 32-byte piece that misses there: charged, translated to `pa` with the state then `u`, which nothing bars or
poisons (06 R88; 10 R164, R166, R170). -/
def State.ReadsMemory (s : State) (o : Opnd) (n pa : Nat) (u : State) : Prop :=
  o.scratch = false ∧ 0 < n ∧ o.va % 32 + n ≤ 32 ∧ s.l1Find s.me.asid (o.va / 128) false = none ∧ u.readBar pa false = none ∧
    (∀ i < n, u.viewPoison (u.slotReqs u.cur) u.myTower false (pa + i) = false) ∧
    ∃ v, s.charge (round32 n) = .ok () v ∧ v.translate v.meWho o.va o.cls .read = .ok pa u

/-- The bytes a slot sees at `pa` past its L1 region, lowest first. -/
def State.seenBytes (s : State) (pa n : Nat) : List Byte := (upFrom pa n).map (s.viewByte (s.slotReqs s.cur) s.myTower)

/-- A number's bytes in a task's scratch, lowest first. -/
def State.scratchVal (s : State) (ea n : Nat) : Nat := leNat (mgets s.me.mem ea n)

/-- The bytes a store's request covers. -/
def ReqOp.size (op : ReqOp) : Nat := match op with | .store d => d.length | .red .. => 0

/-- What an access does beyond the checks of its address register: reads as a load does, writes as a store does, reads at its place at a
scope, reads and writes there, or is a reduction or a release store. -/
inductive AccessKind where
  | load
  | store
  | place (scope : BitVec 2)
  | rmw
  | red
  | stl
  deriving DecidableEq, Repr

/-- A form that reaches memory through an address register: its instruction and length, the register, the effective address, the size, the
rights and the alignment it needs, the state its checks see, and the state in which it goes on. -/
structure AccessForm where
  instr  : Instr
  areg   : BitVec 4
  ea     : Int
  n      : Nat
  rd     : Bool
  wr     : Bool
  align  : Nat
  kind   : AccessKind
  st     : State
  on     : State := st
  len    : Nat := 4
  signed : Bool := false
  /-- The access is made: some lane of it is active. -/
  goes   : Bool := true
  /-- A byte of it counts for poison: its lane is active. -/
  sees   : Nat → Bool := fun _ => true

/-- The access's operand. -/
def AccessForm.opnd (q : AccessForm) : Opnd := ⟨(q.st.me.getA q.areg).scratch, q.ea.toNat, (q.st.me.getA q.areg).cls, 0, q.areg.toNat, []⟩

/-- The address and the number of its register, as an information word has them (05 R330). -/
def AccessForm.info (q : AccessForm) : Word := BitVec.ofNat 64 ((q.ea % 2 ^ 56).toNat * 256 + q.areg.toNat)

/-- Checks 1 to 4 of R88 (06) in their order: the range, the rights, the alignment, the task's own pages. -/
def AccessForm.InRange (q : AccessForm) : Prop :=
  ((q.st.me.getA q.areg).base.toNat : Int) ≤ q.ea ∧ q.ea + q.n ≤ (q.st.me.getA q.areg).limit.toNat
def AccessForm.Allowed (q : AccessForm) : Prop :=
  (q.rd = true → (q.st.me.getA q.areg).r = true) ∧ (q.wr = true → (q.st.me.getA q.areg).w = true)
def AccessForm.Aligned (q : AccessForm) : Prop := q.align = 0 ∨ q.ea % q.align = 0
def AccessForm.InPages (q : AccessForm) : Prop := q.opnd.scratch = true → q.ea + q.n ≤ 4096 * (q.st.me.scratch : Int)
def AccessForm.Passes (q : AccessForm) : Prop := q.InRange ∧ q.Allowed ∧ q.Aligned ∧ q.InPages

/-- What an instruction does on an access that checks 1 to 4 refuse: the trap of the first that does. -/
def AccessForm.Refused (q : AccessForm) (run : Out) : Prop :=
  (¬ q.InRange → run = .next (q.st.trap 0x02 q.info)) ∧
  (q.InRange → ¬ q.Allowed → run = .next (q.st.trap 0x03 q.info)) ∧
  (q.InRange → q.Allowed → ¬ q.Aligned → run = .next (q.st.trap 0x04 (BitVec.ofNat 64 (q.ea % 2 ^ 56).toNat))) ∧
  (q.InRange → q.Allowed → q.Aligned → ¬ q.InPages → run = .next (q.st.trap 0x02 q.info))

/-- What an instruction does on an access that the translation of its operand, from a state `u`, refuses (06 R88, check 5). -/
def AccessForm.Untranslated (q : AccessForm) (acc : Acc) (u : State) (run : Out) : Prop :=
  ∀ t, (u.translate u.meWho q.opnd.va q.opnd.cls acc = .fault t → run = .next (t.beginSuspend (.pageFault q.opnd.va))) ∧
    (u.translate u.meWho q.opnd.va q.opnd.cls acc = .denied t → run = .next (t.trap 0x03 q.info))

/-- The state of a prefixed word's execution: an illegal-instruction trap of it names the word (02 R31). -/
def State.prefixed (s : State) (w : IWord) : State := { s with me := { s.me with insn := w.setWidth 64 } }

/-- The loads of R89 (06) alone and under a prefix (02 R31). -/
def State.loadForms (s : State) (d : BitVec 6) (a : BitVec 4) (disp : BitVec 11) (ext : BitVec 26) : List AccessForm :=
  let ea (x : Int) (n : Nat) : Int := (s.me.getA a).ptr.toNat + x * n
  let near (i : Instr) (n : Nat) (sg : Bool) : AccessForm :=
    { instr := i, areg := a, ea := ea disp.toInt n, n, rd := true, wr := false, align := n, kind := .load, st := s, signed := sg }
  let far (c : BitVec 3) (n : Nat) (sg : Bool) : AccessForm :=
    let w := packI 0x10#6 d (w6 a) (disp ++ c)
    { instr := .extensionPrefix ext w, areg := a, ea := ea (ext ++ disp).toInt n, n, rd := true, wr := false, align := n, kind := .load,
      st := s.prefixed w, len := 8, signed := sg }
  [near (.ldB d a disp) 1 true, near (.ldH d a disp) 2 true, near (.ldW d a disp) 4 true, near (.ldD d a disp) 8 false,
   near (.ldBu d a disp) 1 false, near (.ldHu d a disp) 2 false, near (.ldWu d a disp) 4 false,
   far 0 1 true, far 1 2 true, far 2 4 true, far 3 8 false, far 4 1 false, far 5 2 false, far 6 4 false]

/-- The stores of R89 and R90 (06) alone and under a prefix, plain and signalling. -/
def State.storeForms (s : State) (sig : Bool) (d : BitVec 6) (a : BitVec 4) (disp : BitVec 11) (ext : BitVec 26) : List AccessForm :=
  let ea (x : Int) (n : Nat) : Int := (s.me.getA a).ptr.toNat + x * n
  let near (i : Instr) (n : Nat) : AccessForm :=
    { instr := i, areg := a, ea := ea disp.toInt n, n, rd := false, wr := true, align := n, kind := .store, st := s }
  let far (c : BitVec 2) (n : Nat) : AccessForm :=
    let w := packI 0x11#6 d (w6 a) (disp ++ bit sig ++ c)
    { instr := .extensionPrefix ext w, areg := a, ea := ea (ext ++ disp).toInt n, n, rd := false, wr := true, align := n, kind := .store,
      st := s.prefixed w, len := 8 }
  [near (.stB sig d a disp) 1, near (.stH sig d a disp) 2, near (.stW sig d a disp) 4, near (.stD sig d a disp) 8,
   far 0 1, far 1 2, far 2 4, far 3 8]

/-- The atomics, reductions, acquire loads, release stores and waits of 11 R180-R189. -/
def State.atomicForms (s : State) (sc size : BitVec 2) (sig w : Bool) (d b : BitVec 6) (a : BitVec 4) : List AccessForm :=
  let ea : Int := (s.me.getA a).ptr.toNat
  let at_ (n : Nat) (rd wr : Bool) (k : AccessKind) (i : Instr) : AccessForm := { instr := i, areg := a, ea, n, rd, wr, align := n, kind := k, st := s }
  let n := if w then 4 else 8
  [Instr.amoAdd sc sig w d a b, .amoAnd sc sig w d a b, .amoOr sc sig w d a b, .amoXor sc sig w d a b, .amoMin sc sig w d a b,
    .amoMax sc sig w d a b, .amoMinu sc sig w d a b, .amoMaxu sc sig w d a b, .amoSwap sc sig w d a b, .cas sc sig w d a b,
    .casGt sc sig w d a b, .casVer sc sig w d a b, .casPtag sc sig w d a b].map (at_ n false true .rmw) ++
  [Instr.redAdd sc sig w a b, .redAnd sc sig w a b, .redOr sc sig w a b, .redXor sc sig w a b, .redMin sc sig w a b, .redMax sc sig w a b,
    .redMinu sc sig w a b, .redMaxu sc sig w a b].map (at_ n false true .red) ++
  [at_ 4 false true .red (.redFadd sc sig a b), at_ (2 ^ size.toNat) true false (.place sc) (.lda sc size d a),
   at_ (2 ^ size.toNat) false true .stl (.stl sc sig size d a), at_ 4 true false (.place 0b10) (.waitW d a b),
   at_ 8 true false (.place 0b10) (.waitD d a b)]

/-- The vector accesses of 08 R127, R128. -/
def State.vectorForms (s : State) (f : Fmt) (d : BitVec 5) (a : BitVec 4) (disp : BitVec 5) (k : BitVec 3) : List AccessForm :=
  let ea : Int := (s.me.getA a).ptr.toNat + 128 * disp.toNat
  let m := s.me.getK k
  let issued : State := { s with me := { s.me with issued := true } }
  [{ instr := .vld d a disp k, areg := a, ea, n := 128, rd := true, wr := false, align := 128, kind := .load, st := s, on := issued,
     goes := m ≠ 0, sees := m.getLsbD },
   { instr := .vst d a disp k, areg := a, ea, n := 128, rd := false, wr := true, align := 128, kind := .store, st := s, on := issued, goes := m ≠ 0 },
   { instr := .vldBc f d a disp k, areg := a, ea, n := f.bytes, rd := true, wr := false, align := f.bytes, kind := .load, st := s, on := issued,
     goes := (List.range (lanesOf f)).any m.getLsbD }]

/-- The read of RBIND, of a ring's words 0 to 2 (06 R95). -/
def State.ringForms (s : State) (h a : BitVec 4) : List AccessForm :=
  [{ instr := .rbind h a, areg := a, ea := (s.me.getA a).ptr.toNat, n := 24, rd := true, wr := false, align := 0, kind := .load, st := s }]

/-- The two accesses of MOVB, of a piece of `n` bytes: at the source pointer, and at the destination pointer (06 R91). -/
def State.movbFrom (s : State) (ad sa : BitVec 4) (gn : BitVec 6) (n : Nat) : AccessForm :=
  { instr := .movb ad sa gn, areg := sa, ea := (s.me.getA sa).ptr.toNat, n, rd := true, wr := false, align := 0, kind := .load, st := s }
def State.movbInto (s : State) (ad sa : BitVec 4) (gn : BitVec 6) (n : Nat) : AccessForm :=
  { instr := .movb ad sa gn, areg := ad, ea := (s.me.getA ad).ptr.toNat, n, rd := false, wr := true, align := 0, kind := .store, st := s }

/-- The charge of an access at the port when it issues (09 R160). -/
def AccessForm.cost (q : AccessForm) : Nat :=
  match q.kind with
  | .load => q.on.readCost q.ea.toNat q.n
  | .store | .red => 0
  | .place _ | .rmw | .stl => round32 q.n

/-- The right an access asks of the translation. -/
def AccessForm.acc (q : AccessForm) : Acc :=
  match q.kind with
  | .load | .place _ => .read
  | .store | .rmw | .red | .stl => .write

/-- The access reads the bytes it names, and so takes their poison (06 R88, check 6). -/
def AccessForm.reads (q : AccessForm) : Bool :=
  match q.kind with
  | .load | .place _ | .rmw => true
  | .store | .red | .stl => false

/-- Memory after bytes were stored at `pa`: the bytes stand there, lowest first, and every other byte reads as before. -/
def StoredAt (old new : List Host.Cell) (pa : Nat) (data : List Byte) : Prop :=
  mgets new pa data.length = data ∧ ∀ x, x < pa ∨ pa + data.length ≤ x → mget new x = mget old x

/-- A write access of the issuing slot inside one line of device or host memory, charged and translated to `pa`, with the state then `v`. -/
def State.Reached (s : State) (o : Opnd) (n pa : Nat) (v : State) : Prop :=
  o.scratch = false ∧ (inHbm pa = true ∨ homeOf pa = some .host) ∧ pa % 128 + n ≤ 128 ∧
    ∃ s1, s.charge (round32 n) = .ok () s1 ∧ s1.xlate o o.va .write = .ok pa v

/-- Such an access whose release is done (10 R168, R172; 11 R178), with the place `pl` and the state then `u`. -/
def State.Released (s : State) (o : Opnd) (n : Nat) (scope : BitVec 2) (pa : Nat) (pl : Place) (v u : State) : Prop :=
  s.Reached o n pa v ∧ (∀ p ∈ u.pins, p.data.length = 128) ∧ v.releaseAt scope pa = .ok pl u

/-- A released access has stored bytes at its place: they stand there, lowest first; every other byte reads as before at its own
place, but those that the buffered stores of a release to a pin store carry there; memory at the homes changes for a write at the
home alone. -/
def State.StoredBy (u t : State) (pl : Place) (pa : Nat) (data : List Byte) : Prop :=
  (∀ i < data.length, t.placeByte (pa + i) = data.getD i 0) ∧
    (u.buffered = [] → ∀ x, x < pa ∨ pa + data.length ≤ x → t.placeByte x = u.placeByte x) ∧
    (match pl with
      | .home => StoredAt u.mem t.mem pa data
      | .pin _ | .unit => t.mem = u.mem)

/-- A vector register whose lanes of a format are `g i` where the mask has them and the old ones elsewhere (08 R124). -/
def LanesAre (f : Fmt) (m : KWord) (old new : VWord) (g : Nat → Nat) : Prop :=
  ∀ i < lanesOf f, laneGet f new i = if m.getLsbD i then g i % 2 ^ f.width else laneGet f old i

/-- The issuing slot of `s` has handed a command to its engine in `t` and is held by it (05 R66, 19 R276-R278): it stands in its queue,
or waits for an entry there. -/
def Attached (s t : State) (c : ECmd) : Prop :=
  let rest := s.ecmds.filter (·.id ≠ c.id)
  let room := ({ s with ecmds := rest } : State).engineRoom c.cluster c.queue
  t.ecmds = rest ++ [c] ∧ c.key = s.cur ∧ c.tid = s.me.tid ∧ c.asid = s.me.asid ∧ c.core = s.myCore ∧ c.pieces = [] ∧
    c.phase = (if room then .queued else .waiting) ∧ t.me = { s.me with run := .stalled (.engine c.id) } ∧
    (room = true → Raised.engineCommandStart c.cluster 0 ∈ t.raised) ∧ t.mem = s.mem

/-- The same for a matrix command (16 R245). -/
def MAttached (s t : State) (c : MCmd) : Prop :=
  let rest := s.mcmds.filter (·.id ≠ c.id)
  t.mcmds = rest ++ [c] ∧ c.key = s.cur ∧ c.tid = s.me.tid ∧ c.asid = s.me.asid ∧ c.cluster = clusterOf s.myCore ∧
    c.queue = indexOf s.myCore ∧ c.phase = (if ({ s with mcmds := rest } : State).queueFree c.cluster c.queue then .queued else .waiting) ∧
    t.me = { s.me with run := .stalled (.engine c.id) } ∧ t.mem = s.mem

end Sys2Proof.Machine

namespace Sys2Proof

/-! ## Instructions and steps of the device (02 R34-R40) -/

/-- A constructor that stands for a step of the device and not for an instruction of a program: no encoding of 02 gives its row a word. -/
def Instr.deviceStep : Instr → Bool
  | .illegalInstruction .. | .instructionFetch | .reset | .routerPowerGate .. | .routerWake .. | .portRequestLeave .. | .shaperRefill ..
  | .sliceRequest .. | .translationWalk .. | .remoteDataCacheRequest .. | .performAtHome .. | .responseDelivery .. | .announcementApply ..
  | .clockGapWriteResume .. | .l1LineExpiry .. | .accessRetry .. | .watchMessage .. | .watchWithdrawal .. | .watchWithdrawalAck ..
  | .wakeWrite .. | .waitTimeout .. | .sleepExpiry .. | .barWaitTimeout .. | .busySlotPoll .. | .busyWaitReport ..
  | .shootdownDescriptor .. | .shootdownDrainComplete .. | .shootdownAck .. | .migrationWriteStall .. | .migrationStallLift ..
  | .uncorrectableError .. | .meetEnqueue .. | .heldEnqueueEntry .. | .slotFill .. | .keyRequest .. | .keyGrant .. | .keyRelease ..
  | .keyTableEntryFree .. | .groupPlacement .. | .groupDispatch .. | .successorStart .. | .governorEvaluation .. | .governorSetting ..
  | .rulePublicationFlip .. | .preemptionRequest .. | .taskSuspension .. | .taskRelease .. | .taskRestore .. | .courierEndTask ..
  | .coreFault .. | .coreStallDetect .. | .remoteRegisterAccess .. | .matrixArbiterSelect .. | .mmaKStep .. | .mmaRgChunkStart ..
  | .matrixCommandStop .. | .matrixCommandComplete .. | .engineCommandStart .. | .enginePieceWrite .. | .heldWriteRelease ..
  | .heldWriteAbandon .. | .heldWriteRoomFree .. | .completionWordWrite .. | .multicastReplicate .. | .postDelivery ..
  | .ringReservationResume .. | .fillReport .. | .postQRecordSend .. | .tokenRowArrival .. | .mailboxArrival .. | .barrierArrival ..
  | .frameBarrierArrival .. | .freeRingHeldPublish .. | .peerAcknowledge .. | .ewefonisLinkFailure .. | .linkTrainingComplete ..
  | .droopDetect .. | .droopRecover .. | .ringTailDoorbell .. | .ringRestart .. | .ringEnable .. | .packetNop .. | .packetLaunch ..
  | .packetLaunchInd .. | .packetCopy .. | .packetCopyAdd .. | .packetSignalWrite .. | .packetSignalAdd .. | .packetWaitNe ..
  | .packetWaitGe .. | .packetWaitTimeout .. | .identity | .attest .. | .createAs .. | .destroyAs .. | .ringSetup .. | .tensorSet ..
  | .bar2Write .. | .bar2Read .. | .bar0RegisterWrite .. | .enumerationUpdate | .dieLinkStateChange .. | .sliceMarkedDead ..
  | .memoryTrainingComplete .. => true
  | .add .. | .sub .. | .and .. | .or .. | .xor .. | .sll .. | .srl .. | .sra .. | .mul .. | .mulh .. | .mulhu .. | .div .. | .divu ..
  | .rem .. | .remu .. | .min .. | .max .. | .minu .. | .maxu .. | .seq .. | .sne .. | .slt .. | .sltu .. | .clz .. | .ctz .. | .popc ..
  | .addi .. | .andi .. | .ori .. | .xori .. | .slti .. | .sltiu .. | .slli .. | .srli .. | .srai .. | .lui .. | .amov .. | .aset ..
  | .asetl .. | .aperm .. | .aadv .. | .aget .. | .agetb .. | .agetl .. | .agetp .. | .aaddi .. | .ldB .. | .ldH .. | .ldW .. | .ldD ..
  | .ldBu .. | .ldHu .. | .ldWu .. | .stB .. | .stH .. | .stW .. | .stD .. | .amoAdd .. | .amoAnd .. | .amoOr .. | .amoXor .. | .amoMin ..
  | .amoMax .. | .amoMinu .. | .amoMaxu .. | .amoSwap .. | .cas .. | .casGt .. | .casVer .. | .casPtag .. | .redAdd .. | .redAnd ..
  | .redOr .. | .redXor .. | .redMin .. | .redMax .. | .redMinu .. | .redMaxu .. | .redFadd .. | .lda .. | .stl .. | .fence .. | .waitW ..
  | .waitD .. | .bra .. | .beqz .. | .bnez .. | .bltz .. | .bgez .. | .bgtz .. | .blez .. | .bkany .. | .bknone .. | .call .. | .jmp ..
  | .callr .. | .rwaitH .. | .rwaitT .. | .radvH .. | .radvT .. | .rfill .. | .rfree .. | .rbind .. | .sysrd .. | .syswr .. | .trap ..
  | .eret | .sleep .. | .movb .. | .rep .. | .vadd .. | .vsub .. | .vmul .. | .vmin .. | .vmax .. | .vfma .. | .vfms .. | .vfnma ..
  | .vperm .. | .vand .. | .vor .. | .vxor .. | .vshl .. | .vshr .. | .vsra .. | .vabs .. | .vneg .. | .vceq .. | .vcne .. | .vclt ..
  | .vcle .. | .vcgt .. | .vcge .. | .vrsum .. | .vrmax .. | .vrmin .. | .vbcast .. | .vslideup .. | .vslidedn .. | .vcvt .. | .vrcp ..
  | .vrsq .. | .vexp2 .. | .vlog2 .. | .vld .. | .vst .. | .vldBc .. | .kand .. | .kor .. | .kxor .. | .knot .. | .kmov .. | .vmovg ..
  | .vext .. | .ksetg .. | .kgetg .. | .agld .. | .anew .. | .afree .. | .wire .. | .link .. | .adup .. | .aera .. | .payshare ..
  | .paydrop .. | .ruleset .. | .rulepub | .launch .. | .launchInd .. | .retire | .retireS | .yieldSlot | .krel .. | .govset ..
  | .profrd .. | .mma .. | .mmaRg .. | .bld .. | .aclr .. | .mxw .. | .mxwait | .ast .. | .cpy .. | .cpyAdd .. | .cpyMc .. | .post ..
  | .postMb .. | .postQ .. | .toksend .. | .mboxCfg .. | .mboxRd .. | .csnap .. | .barInit .. | .barArrive .. | .barWait ..
  | .extensionPrefix .. | .hint .. => false

end Sys2Proof
end

