-- ==== Sys2Proof/Certificates/Slice0/Obligations.lean ====
section
/-! DEFINITION. The statements of this model, for the provers. Each docstring names the rules of spec/ that it formalises. -/

open Sys2Proof Sys2Proof.Machine

/-! ## Registers and completion -/

/-- R29, R71 (02, 05): g0 reads zero and k0 all ones, writes to them are discarded; any other register reads what was written,
and a write leaves the others and the rest of the context alone. -/
def Obligations.RegisterFiles : Prop :=
  ∀ (c : Ctx),
    c.getG 0 = 0 ∧ c.getK 0 = BitVec.allOnes 128 ∧
    (∀ v, c.setG 0 v = c) ∧ (∀ v, c.setK 0 v = c) ∧
    (∀ n v, n ≠ 0 → (c.setG n v).getG n = v) ∧ (∀ n m v, m ≠ n → (c.setG n v).getG m = c.getG m) ∧
    (∀ n v, n ≠ 0 → (c.setK n v).getK n = v) ∧ (∀ n m v, m ≠ n → (c.setK n v).getK m = c.getK m) ∧
    (∀ n v, (c.setA n v).getA n = v) ∧ (∀ n m v, m ≠ n → (c.setA n v).getA m = c.getA m) ∧
    (∀ n v, (c.setQ n v).getQ n = v) ∧ (∀ n m v, m ≠ n → (c.setQ n v).getQ m = c.getQ m) ∧
    (∀ n v, (c.setV n v).getV n = v) ∧ (∀ n m v, m ≠ n → (c.setV n v).getV m = c.getV m) ∧
    (∀ n v, c.setG n v = { c with g := (c.setG n v).g }) ∧ (∀ n v, c.setK n v = { c with k := (c.setK n v).k }) ∧
    (∀ n v, c.setA n v = { c with a := (c.setA n v).a }) ∧ (∀ n v, c.setQ n v = { c with q := (c.setQ n v).q }) ∧
    (∀ n v, c.setV n v = { c with v := (c.setV n v).v })

/-- R27, R93 (02, 06): completion moves the program counter past the instruction; under REP the count register falls by one, and
the program counter moves on only when it reaches 0. Nothing else of the machine changes but what is kept of an instruction under way. -/
def Obligations.Completion : Prop :=
  ∀ (s : State) (len : Nat),
    let idle (c : Ctx) : Ctx := { c with cont := none, paid := false, nth := 0, wide := false, movb := [], issued := false, got := [], succ := none }
    (s.me.rep = none → s.advance len = { s with me := { idle s.me with pc := s.me.pc + BitVec.ofNat 56 len } }) ∧
    (∀ p n, s.me.rep = some (p, n) → n ≠ 0 → s.getG n ≠ 1 → s.advance len = { s with me := idle (s.me.setG n (s.getG n - 1)) }) ∧
    (∀ p n, s.me.rep = some (p, n) → n ≠ 0 → s.getG n = 1 →
      s.advance len = { s with me := { idle (s.me.setG n 0) with pc := s.me.pc + BitVec.ofNat 56 len, rep := none } })

/-! ## Integer instructions (06 R82-R85) -/

/-- R82 (06): the results of major 0x00's sums, products, logic, shifts, minima and comparisons. -/
def Obligations.IntegerResults : Prop :=
  ∀ (s : State) (d a b : BitVec 6),
    let x := s.getG a
    let y := s.getG b
    let n := y.toNat % 64
    exec (.add d a b) s = .next ((s.setG d (x + y)).advance 4) ∧
    exec (.sub d a b) s = .next ((s.setG d (x - y)).advance 4) ∧
    exec (.and d a b) s = .next ((s.setG d (x &&& y)).advance 4) ∧
    exec (.or d a b) s = .next ((s.setG d (x ||| y)).advance 4) ∧
    exec (.xor d a b) s = .next ((s.setG d (x ^^^ y)).advance 4) ∧
    exec (.sll d a b) s = .next ((s.setG d (BitVec.ofNat 64 (x.toNat * 2 ^ n))).advance 4) ∧
    exec (.srl d a b) s = .next ((s.setG d (BitVec.ofNat 64 (x.toNat / 2 ^ n))).advance 4) ∧
    exec (.sra d a b) s = .next ((s.setG d (BitVec.ofInt 64 (x.toInt / 2 ^ n))).advance 4) ∧
    exec (.mul d a b) s = .next ((s.setG d (x * y)).advance 4) ∧
    exec (.mulh d a b) s = .next ((s.setG d (BitVec.ofInt 64 (x.toInt * y.toInt / 2 ^ 64))).advance 4) ∧
    exec (.mulhu d a b) s = .next ((s.setG d (BitVec.ofNat 64 (x.toNat * y.toNat / 2 ^ 64))).advance 4) ∧
    exec (.min d a b) s = .next ((s.setG d (if x.toInt < y.toInt then x else y)).advance 4) ∧
    exec (.max d a b) s = .next ((s.setG d (if x.toInt > y.toInt then x else y)).advance 4) ∧
    exec (.minu d a b) s = .next ((s.setG d (if x.toNat < y.toNat then x else y)).advance 4) ∧
    exec (.maxu d a b) s = .next ((s.setG d (if x.toNat > y.toNat then x else y)).advance 4) ∧
    exec (.seq d a b) s = .next ((s.setG d (if x = y then 1 else 0)).advance 4) ∧
    exec (.sne d a b) s = .next ((s.setG d (if x = y then 0 else 1)).advance 4) ∧
    exec (.slt d a b) s = .next ((s.setG d (if x.toInt < y.toInt then 1 else 0)).advance 4) ∧
    exec (.sltu d a b) s = .next ((s.setG d (if x.toNat < y.toNat then 1 else 0)).advance 4)

/-- R83 (06): DIV, DIVU, REM and REMU: a zero divisor gives all ones and never traps; otherwise the quotient is rounded toward
zero, its overflow wraps, and the remainder is n − q × m. -/
def Obligations.Division : Prop :=
  ∀ (s : State) (d a b : BitVec 6),
    let x := s.getG a
    let y := s.getG b
    (y = 0 → ∀ i ∈ [Instr.div d a b, .divu d a b, .rem d a b, .remu d a b],
      exec i s = .next ((s.setG d 0xFFFFFFFFFFFFFFFF).advance 4)) ∧
    (y ≠ 0 →
      ∃ q : Int, exec (.div d a b) s = .next ((s.setG d (BitVec.ofInt 64 q)).advance 4) ∧
        exec (.rem d a b) s = .next ((s.setG d (BitVec.ofInt 64 (x.toInt - q * y.toInt))).advance 4) ∧
        q.natAbs = x.toInt.natAbs / y.toInt.natAbs ∧ (q < 0 → x.toInt < 0 ∧ 0 < y.toInt ∨ 0 < x.toInt ∧ y.toInt < 0) ∧
        (0 < q → 0 < x.toInt ∧ 0 < y.toInt ∨ x.toInt < 0 ∧ y.toInt < 0)) ∧
    (y ≠ 0 →
      exec (.divu d a b) s = .next ((s.setG d (BitVec.ofNat 64 (x.toNat / y.toNat))).advance 4) ∧
      exec (.remu d a b) s = .next ((s.setG d (BitVec.ofNat 64 (x.toNat - x.toNat / y.toNat * y.toNat))).advance 4)) ∧
    (x = 0x8000000000000000 → y = BitVec.allOnes 64 →
      exec (.div d a b) s = .next ((s.setG d 0x8000000000000000).advance 4) ∧
      exec (.rem d a b) s = .next ((s.setG d 0).advance 4))

/-- R82 (06): CLZ, CTZ and POPC count zero bits above the highest set bit, below the lowest, and set bits; 64 for the first two of 0. -/
def Obligations.BitCounts : Prop :=
  ∀ (s : State) (d a : BitVec 6),
    let x := s.getG a
    (∃ n : Nat, exec (.clz d a) s = .next ((s.setG d (BitVec.ofNat 64 n)).advance 4) ∧
      (x = 0 → n = 64) ∧ (x ≠ 0 → n < 64 ∧ x.getLsbD (63 - n) = true ∧ ∀ i, 63 - n < i → x.getLsbD i = false)) ∧
    (∃ n : Nat, exec (.ctz d a) s = .next ((s.setG d (BitVec.ofNat 64 n)).advance 4) ∧
      (x = 0 → n = 64) ∧ (x ≠ 0 → n < 64 ∧ x.getLsbD n = true ∧ ∀ i < n, x.getLsbD i = false)) ∧
    exec (.popc d a) s = .next ((s.setG d (BitVec.ofNat 64 ((List.range 64).countP x.getLsbD))).advance 4)

/-- R84, R85, R30 (06, 02): the immediate forms combine ga with the sign- or zero-extended immediate; LUI writes its value. -/
def Obligations.ImmediateResults : Prop :=
  ∀ (s : State) (d a : BitVec 6) (imm : BitVec 14) (sh : BitVec 6) (i20 : BitVec 20),
    let x := s.getG a
    let se : Word := imm.signExtend 64
    let ze : Word := imm.setWidth 64
    exec (.addi d a imm) s = .next ((s.setG d (x + se)).advance 4) ∧
    exec (.andi d a imm) s = .next ((s.setG d (x &&& ze)).advance 4) ∧
    exec (.ori d a imm) s = .next ((s.setG d (x ||| ze)).advance 4) ∧
    exec (.xori d a imm) s = .next ((s.setG d (x ^^^ ze)).advance 4) ∧
    exec (.slti d a imm) s = .next ((s.setG d (if x.toInt < se.toInt then 1 else 0)).advance 4) ∧
    exec (.sltiu d a imm) s = .next ((s.setG d (if x.toNat < se.toNat then 1 else 0)).advance 4) ∧
    exec (.slli d a sh) s = .next ((s.setG d (BitVec.ofNat 64 (x.toNat * 2 ^ sh.toNat))).advance 4) ∧
    exec (.srli d a sh) s = .next ((s.setG d (BitVec.ofNat 64 (x.toNat / 2 ^ sh.toNat))).advance 4) ∧
    exec (.srai d a sh) s = .next ((s.setG d (BitVec.ofInt 64 (x.toInt / 2 ^ sh.toNat))).advance 4) ∧
    exec (.lui d i20) s = .next ((s.setG d (BitVec.ofInt 64 (i20.toInt * 2 ^ 14))).advance 4)

/-- R31 (02): a prefix extends the immediate of the word after it, and the pair takes 8 bytes: AADDI moves the pointer by the extended
immediate within the range, or traps as it does alone (06 R87; the register that the information names is log 34's); a load and a store go
to the extended displacement, counted in units of their size; a word that a prefix cannot extend raises illegal instruction with that word as
information, neither word executing. The branches stand in Branches, every access check of prefixed loads and stores in AccessChecks. -/
def Obligations.PrefixedForms : Prop :=
  ∀ (s : State) (ext : BitVec 26) (d a : BitVec 6) (imm : BitVec 14) (i20 : BitVec 20) (sig : Bool) (ad aa : BitVec 4) (disp : BitVec 11) (ea p : Nat),
    let pair (w : IWord) : Instr := .extensionPrefix ext w
    let u (w : IWord) : State := { s with me := { s.me with insn := w.setWidth 64 } }
    let q := s.me.getA aa
    let at_ (n : Nat) : Int := q.ptr.toNat + (ext ++ disp).toInt * n
    let loads : List (BitVec 3 × Nat × Bool) := [(0, 1, true), (1, 2, true), (2, 4, true), (3, 8, false), (4, 1, false), (5, 2, false), (6, 4, false)]
    let stores : List (BitVec 2 × Nat) := [(0, 1), (1, 2), (2, 4), (3, 8)]
    let x := s.getG a
    let se : Word := (ext ++ imm).signExtend 64
    let ze : Word := (ext ++ imm).setWidth 64
    (∀ w, w = packI 0x01#6 d a imm → exec (pair w) s = .next (((u w).setG d (x + se)).advance 8)) ∧
    (∀ w, w = packI 0x02#6 d a imm → exec (pair w) s = .next (((u w).setG d (x &&& ze)).advance 8)) ∧
    (∀ w, w = packI 0x03#6 d a imm → exec (pair w) s = .next (((u w).setG d (x ||| ze)).advance 8)) ∧
    (∀ w, w = packI 0x04#6 d a imm → exec (pair w) s = .next (((u w).setG d (x ^^^ ze)).advance 8)) ∧
    (∀ w, w = packI 0x06#6 d a imm → exec (pair w) s = .next (((u w).setG d (if x.toInt < se.toInt then 1 else 0)).advance 8)) ∧
    (∀ w, w = packI 0x07#6 d a imm → exec (pair w) s = .next (((u w).setG d (if x.toNat < se.toNat then 1 else 0)).advance 8)) ∧
    (∀ w, w = packU 0x08#6 d i20 → exec (pair w) s = .next (((u w).setG d (BitVec.ofInt 64 ((ext ++ i20).toInt * 2 ^ 14))).advance 8)) ∧
    (∀ w, w = packU 0x19#6 d i20 → exec (pair w) s =
      .next (((u w).setG d ((s.me.pc + 8).setWidth 64)).jump (s.me.pc + BitVec.ofInt 56 (4 * (ext ++ i20).toInt)))) ∧
    (∀ w, w = packI 0x0A#6 (w6 ad) (w6 aa) imm →
      ((p : Int) = q.ptr.toNat + se.toInt → q.base.toNat ≤ p → p ≤ q.limit.toNat →
        exec (pair w) s = .next (((u w).setA ad { q with ptr := BitVec.ofNat 56 p }).advance 8)) ∧
      (∀ v : Int, v = q.ptr.toNat + se.toInt → v < q.base.toNat ∨ q.limit.toNat < v →
        exec (pair w) s = .next ((u w).trap 0x02 (BitVec.ofNat 64 ((v % 2 ^ 56).toNat * 256 + ad.toNat))))) ∧
    (∀ l ∈ loads, ∀ w, w = packI 0x10#6 d (w6 aa) (disp ++ l.1) → (ea : Int) = at_ l.2.1 → s.ScratchOk aa ea l.2.1 true false l.2.1 →
      s.ScratchClean ea l.2.1 → exec (pair w) s = .next (((u w).setG d (if l.2.2
        then (BitVec.ofNat (8 * l.2.1) (s.scratchVal ea l.2.1)).signExtend 64 else BitVec.ofNat 64 (s.scratchVal ea l.2.1))).advance 8)) ∧
    (∀ l ∈ stores, ∀ w, w = packI 0x11#6 d (w6 aa) (disp ++ bit sig ++ l.1) → (ea : Int) = at_ l.2 → s.ScratchOk aa ea l.2 false true l.2 →
      ∃ t, exec (pair w) s = .next (State.advance t 8) ∧ t = { u w with me := { (u w).me with mem := t.me.mem, poison := t.me.poison } } ∧
        StoredAt s.me.mem t.me.mem ea (leBytes l.2 (s.getG d).toNat)) ∧
    (∀ w, extendable (fMajor w) = false → exec (pair w) s = .next ((u w).trap 0x01 (w.setWidth 64)))

/-! ## Address registers (06 R86, R87) -/

/-- R86, R87 (06): AMOV to AADDI write the register they name when the range they would set is allowed, and AGET to AGETP read it; a range
that a check refuses raises the address limit trap (0x02), with the register's number in [3:0] and bits [55:0] of the value that failed in
[63:8] (R330), and the register keeps its value. That the number is the destination's, of AADDI too, is the model's reading (log 34, DEDUCED):
R87 says only "the register number". -/
def Obligations.AddressRegisters : Prop :=
  ∀ (s : State) (ad aa : BitVec 4) (ga gb gd : BitVec 6) (imm : BitVec 14),
    let x := (s.getG ga).toNat
    let y := (s.getG gb).toNat
    let r := s.me.getA ad
    let q := s.me.getA aa
    let info (v : Int) : Word := BitVec.ofNat 64 ((v % 2 ^ 56).toNat * 256 + ad.toNat)
    exec (.amov ad aa) s = .next ((s.setA ad q).advance 4) ∧
    (x < 2 ^ 56 → x + y < 2 ^ 56 → exec (.aset ad ga gb) s = .next ((s.setA ad
      ⟨BitVec.ofNat 56 x, BitVec.ofNat 56 x, BitVec.ofNat 56 (x + y), s.classAt s.myCore x, false, true, true, true⟩).advance 4)) ∧
    (r.base.toNat ≤ x → x < 2 ^ 56 → exec (.asetl ad ga) s = .next ((s.setA ad { r with limit := BitVec.ofNat 56 x }).advance 4)) ∧
    exec (.aperm ad ga) s = .next ((s.setA ad { r with scratch := x.testBit 4, e := x.testBit 2, w := x.testBit 1, r := x.testBit 0 }).advance 4) ∧
    (∀ p : Nat, (p : Int) = r.ptr.toNat + (s.getG ga).toInt → r.base.toNat ≤ p → p ≤ r.limit.toNat →
      exec (.aadv ad ga) s = .next ((s.setA ad { r with ptr := BitVec.ofNat 56 p }).advance 4)) ∧
    (∀ p : Nat, (p : Int) = q.ptr.toNat + imm.toInt → q.base.toNat ≤ p → p ≤ q.limit.toNat →
      exec (.aaddi ad aa imm) s = .next ((s.setA ad { q with ptr := BitVec.ofNat 56 p }).advance 4)) ∧
    exec (.aget gd aa) s = .next ((s.setG gd (q.ptr.setWidth 64)).advance 4) ∧
    exec (.agetb gd aa) s = .next ((s.setG gd (q.base.setWidth 64)).advance 4) ∧
    exec (.agetl gd aa) s = .next ((s.setG gd (q.limit.setWidth 64)).advance 4) ∧
    (∃ v : Word, exec (.agetp gd aa) s = .next ((s.setG gd v).advance 4) ∧
      (v.getLsbD 5 = q.cls) ∧ (v.getLsbD 4 = q.scratch) ∧ (v.getLsbD 3 = false) ∧ (v.getLsbD 2 = q.e) ∧ (v.getLsbD 1 = q.w) ∧
      (v.getLsbD 0 = q.r) ∧ v.toNat < 64) ∧
    (2 ^ 56 ≤ x ∨ 2 ^ 56 ≤ x + y → exec (.aset ad ga gb) s = .next (s.trap 0x02 (info (x + y)))) ∧
    (x < r.base.toNat ∨ 2 ^ 56 ≤ x → exec (.asetl ad ga) s = .next (s.trap 0x02 (info x))) ∧
    (∀ p : Int, p = r.ptr.toNat + (s.getG ga).toInt → p < r.base.toNat ∨ r.limit.toNat < p →
      exec (.aadv ad ga) s = .next (s.trap 0x02 (info p))) ∧
    (∀ p : Int, p = q.ptr.toNat + imm.toInt → p < q.base.toNat ∨ q.limit.toNat < p →
      exec (.aaddi ad aa imm) s = .next (s.trap 0x02 (info p)))

/-! ## Loads, stores, block moves (06 R88-R92) -/

/-- R88 (06), of every load, store, atomic, reduction, acquire load, release store, wait and vector access (11 R180-R189; 08 R127, R128), the prefixed
loads and stores among them, and of RBIND's read (06 R95; those of MOVB stand in BlockMove): checks 1 to 4 on the address register come in their
order, before anything else: the range, the rights, the alignment, for scratch the task's own pages. Check 5: a page fault suspends the task with the
access's address, a right that the leaf lacks traps; and before the instruction has any effect, check 6: poison that it would read raises the poison
trap, in scratch, in a line of the L1 region, past it, or at the place of an atomic, an LDA or a WAIT. -/
def Obligations.AccessChecks : Prop :=
  ∀ (s s1 s2 s3 : State) (f : Fmt) (sc sc' size : BitVec 2) (sig w : Bool) (d b : BitVec 6) (v vd : BitVec 5) (h a : BitVec 4) (disp : BitVec 11)
    (ext : BitVec 26) (k : BitVec 3) (q : AccessForm) (pa : Nat) (ps : List (Nat × Nat × ReadAt)),
    s.me.ownsV v = true →
    q ∈ s.loadForms d a disp ext ++ s.storeForms sig d a disp ext ++ s.atomicForms sc size sig w d b a ++ s.vectorForms f v a vd k ++ s.ringForms h a →
    let o := q.opnd
    let run := exec q.instr s
    let global : Prop := q.Passes ∧ q.goes = true ∧ o.scratch = false
    let charged : Prop := q.on.charge q.cost = .ok () s1
    let taken (t : State) : Prop := run = .next (t.trap 0x0A (BitVec.ofNat 64 o.va))
    q.Refused run ∧
    (global → charged → (q.kind = .load → s1.l1Find s1.me.asid (o.va / 128) false = none) → q.Untranslated q.acc s1 run) ∧
    (q.Passes → q.goes = true → o.scratch = true → s.me.absentIn o.va q.n = [] → q.reads = true →
      (∃ i < q.n, q.sees i = true ∧ smem s.me.poison ((o.va + i) / 32) = true) → taken q.on) ∧
    (global → charged → q.kind = .load → s1.findParts o false (piecesOf o.va q.n) = .ok ps s2 → s2.me.got = [] →
      (∀ p ∈ ps, s2.partBar false p = none) →
      (∃ p ∈ ps, ∃ i < p.2.1, q.sees (p.1 + i - o.va) = true ∧ (match p.2.2 with
        | .l1 l => l.poison.contains ((l.pline * 128 + p.1 % 128 + i) / 32)
        | .mem pa => s2.viewPoison (s2.slotReqs s2.cur) s2.myTower false (pa + i)) = true) → taken s2) ∧
    (global → charged → q.kind = .place sc' → s1.translate s1.meWho o.va o.cls .read = .ok pa s2 → s2.leavePin sc' pa = .ok () s3 →
      s3.ownStore pa q.n = false → s3.readBar pa true = none → (∃ i < q.n, s3.placePoison (pa + i) = true) → taken s3) ∧
    (global → charged → q.kind = .rmw → s1.translate s1.meWho o.va o.cls .write = .ok pa s2 → homeOf pa ≠ some .host → s2.readBar pa true = none →
      s2.placeBad pa q.n = true → taken s2)

/-- R89, R90 (06), R152 (09), R164-R166, R170 (10): a load that passes its checks writes the little-endian value, sign- or zero-extended, and
leaves every byte of memory as it is: from scratch, whose page the first access after a restore brings back from its frame; from a global line,
the bytes of the core's L1 line if one serves it, else those the slot sees past it: its own newest store to a byte, else, of a line of its own
tower that is not pinned, what memory holds. -/
def Obligations.Loads : Prop :=
  ∀ (s u : State) (d : BitVec 6) (a : BitVec 4) (disp : BitVec 11) (ext : BitVec 26) (q : AccessForm) (ea pa f : Nat) (l : L1Line),
    q ∈ s.loadForms d a disp ext → q.ea = ea →
    let o := q.opnd
    let wide (bs : List Byte) : Word :=
      if q.signed then (BitVec.ofNat (8 * q.n) (leNat bs)).signExtend 64 else BitVec.ofNat 64 (leNat bs)
    let gives (t : State) (bs : List Byte) : State := (t.setG d (wide bs)).advance q.len
    (s.ScratchOk a ea q.n true false q.n → s.ScratchClean ea q.n → exec q.instr s = .next (gives q.st (mgets s.me.mem ea q.n))) ∧
    (q.Passes → o.scratch = true → s.me.absent = [ea / 4096] → s.me.frames[ea / 4096]? = some f → homeOf (framePa f) = some (.tower s.myTower) →
      s.pins = [] → s.poison = [] → s.ScratchClean ea q.n →
      ∃ t, exec q.instr s = .next (gives t (mgets s.mem (framePa f + ea % 4096) q.n)) ∧ t.mem = s.mem ∧ t.me.absent = []) ∧
    (q.Passes → q.st.HitsL1 o q.n l → exec q.instr s = .next (gives q.st ((l.data.drop (ea % 128)).take q.n))) ∧
    (q.Passes → q.st.ReadsMemory o q.n pa u →
      (∃ t, exec q.instr s = .next (gives t (u.seenBytes pa q.n)) ∧ t.me = u.me ∧ t.mem = u.mem) ∧
      ∀ x, (∀ b, pendingByte (u.slotReqs u.cur) x = some b → u.seenBytes x 1 = [b]) ∧
        (pendingByte (u.slotReqs u.cur) x = none → u.pinOf (x / 128) = none → homeOf x = some (.tower u.myTower) →
          u.seenBytes x 1 = [mget u.mem x]))

/-- R89 (06), R159 (09), R31 (02): a store to scratch that passes its checks, alone or under a prefix, writes the low bytes of the register,
lowest first, at the effective address; every other byte of scratch and all of device memory read as before, and no register changes. -/
def Obligations.ScratchStores : Prop :=
  ∀ (s : State) (sig : Bool) (d : BitVec 6) (a : BitVec 4) (disp : BitVec 11) (ext : BitVec 26) (ea : Nat) (q : AccessForm),
    q ∈ s.storeForms sig d a disp ext → q.ea = ea → s.ScratchOk a ea q.n false true q.n →
    ∃ t, exec q.instr s = .next (State.advance t q.len) ∧ t = { q.st with me := { q.st.me with mem := t.me.mem, poison := t.me.poison } } ∧
      t.scratchVal ea q.n = (s.getG d).toNat % 256 ^ q.n ∧
      (∀ x, x < ea ∨ ea + q.n ≤ x → mget t.me.mem x = mget s.me.mem x)

/-- R164, R165, R174 (10), R16 (01): a store to a global line becomes requests of its slot, one for each 32-byte piece it lies in, with the
register's low bytes: device memory changes only when a request is performed at its place. VST does the same with the bytes of its active byte
lanes (08 R129). The address is the one the store's translation gives when it issues (log 31, DEDUCED). -/
def Obligations.GlobalStores : Prop :=
  ∀ (s s2 : State) (sig : Bool) (d : BitVec 6) (a : BitVec 4) (disp : BitVec 11) (ext : BitVec 26) (f : Fmt) (v vd : BitVec 5) (k : BitVec 3)
    (q : AccessForm) (va pa : Nat),
    let pieces (data : List (Option Byte)) : List (Nat × ReqOp) :=
      (piecesOf pa q.n).map fun p => (p.1, .store ((data.drop (p.1 - pa)).take p.2))
    let sends (data : List (Option Byte)) (sig : Bool) (len : Nat) : Prop :=
      ∃ (t : State) (rs : List Req), exec q.instr s = .next (State.advance t len) ∧ t.reqs = s2.reqs ++ rs ∧ t.mem = s2.mem ∧ t.me = s2.me ∧
        rs.map (fun r => (r.pa, r.op)) = (pieces data).filter (fun p => p.2 ≠ .store (List.replicate p.2.size none)) ∧
        (rs ≠ [] → Raised.portRequestLeave s2.myCore 0 ∈ t.raised) ∧
        ∀ r ∈ rs, r.key = s2.cur ∧ r.tid = s2.me.tid ∧ r.sig = sig ∧ r.stage = .buffer
    q.Passes → q.opnd.scratch = false → q.on.writeReady q.opnd q.n = .ok [(va, pa, q.n)] s2 →
    (q ∈ s.storeForms sig d a disp ext → sends ((leBytes q.n (s.getG d).toNat).map some) sig q.len) ∧
    (q ∈ s.vectorForms f v a vd k → q.kind = .store → q.goes = true → s.me.ownsV v = true →
      sends ((List.range 128).map fun i => if (s.me.getK k).getLsbD i then some ((s.me.getV v).extractLsb' (8 * i) 8) else none) false 4)

/-- R91, R92 (06), R193 (12): MOVB with a count of 0 completes. Otherwise a step reads the piece after those in flight, at most 32 bytes, or
writes the oldest piece in flight, after which both pointers have advanced and the count has fallen by it; the write of the last piece
completes the instruction. With scratch on both sides nothing outside the piece changes; in every form a read and a write are those
of the piece's addresses. A piece that is not aligned is read as the two pieces of memory it lies in, a step each (01 R16; log 80). The
checks of R88 hold for both pointers, but none for alignment: with no piece in flight those of the source come before its charge and its
read, those of the destination after; the write of the last piece in flight makes those of the destination again. That write waits while
the port has sent another request in the cycle (12 R194). -/
def Obligations.BlockMove : Prop :=
  ∀ (s s1 s2 : State) (ad sa : BitVec 4) (gn : BitVec 6) (n : Nat) (m : MovPiece) (rest : List MovPiece) (parts : List (Nat × Nat × ReadAt))
    (bs : List Byte),
    let src := s.me.getA sa
    let dst := s.me.getA ad
    let run := exec (.movb ad sa gn) s
    let sendable (t : State) : Prop := (t.core t.myCore).portFree (t.cycleAt t.myCore) = true
    let wrote (t : State) : Prop :=
      (∀ k < n, mget t.me.mem (dst.ptr.toNat + k) = m.data.getD k 0) ∧
      (∀ x, x < dst.ptr.toNat ∨ dst.ptr.toNat + n ≤ x → mget t.me.mem x = mget s.me.mem x) ∧
      t.me.getA sa = { src with ptr := src.ptr + BitVec.ofNat 56 n } ∧ t.me.getA ad = { dst with ptr := dst.ptr + BitVec.ofNat 56 n } ∧
      t.mem = s.mem ∧ (s.me.rep = none → t.getG gn = s.getG gn - BitVec.ofNat 64 n) ∧
      (s.me.rep = none → t.me.pc = if s.getG gn = BitVec.ofNat 64 n then s.me.pc + 4 else s.me.pc)
    ad ≠ sa →
    (s.getG gn = 0 → exec (.movb ad sa gn) s = .next (s.advance 4)) ∧
    (s.getG gn ≠ 0 → s.me.movb = [] → n = min 32 (s.getG gn).toNat →
      (s.ScratchOk sa src.ptr.toNat n true false 0 → s.ScratchOk ad dst.ptr.toNat n false true 0 → s.ScratchClean src.ptr.toNat n →
        exec (.movb ad sa gn) s = .next { s with me := { s.me with
          paid := false, got := [], movb := [⟨true, [(dst.ptr.toNat, n)], mgets s.me.mem src.ptr.toNat n⟩] } }) ∧
      (∀ u, s.movbRead ad sa 0 n = .ok () u ∨ s.movbRead ad sa 0 n = .done u → exec (.movb ad sa gn) s = .next u)) ∧
    (s.getG gn ≠ 0 → s.me.movb = m :: rest → m.data.length = n →
      (s.ScratchOk ad dst.ptr.toNat n false true 0 →
        (s.movbNext gn = none → ∃ t, exec (.movb ad sa gn) s = .next t ∧ wrote t) ∧
        (∀ off k, s.movbNext gn = some (off, k) → ∃ t, exec (.movb ad sa gn) s = .next t ∧
          (wrote t ∨ (∃ u, s.movbRead ad sa off k = .ok () u ∧ t = { u with free := u.free + 1 }) ∨
            (s.movbRead ad sa off k = .done t ∧ t.me.run = .running ∧ t.me.got ≠ s.me.got)))) ∧
      (∀ o s1 ps s2, s.movbNext gn = none → s.check ad dst.ptr.toNat n false true 0 = .ok o s1 → o.scratch = true ∨ sendable s1 →
        s1.writeParts o n = .ok ps s2 → exec (.movb ad sa gn) s = .next ((s2.writeNow o ps m.data false true).movbDone ad sa gn n)) ∧
      (∀ o s1, s.movbNext gn = none → s.check ad dst.ptr.toNat n false true 0 = .ok o s1 → o.scratch = false → ¬ sendable s1 →
        exec (.movb ad sa gn) s = .next s1) ∧
      (s.movbNext gn = none → (s.movbInto ad sa gn n).Refused run ∧
        ((s.movbInto ad sa gn n).Passes → dst.scratch = false → sendable s → 0 < n → (s.movbInto ad sa gn n).Untranslated .write s run))) ∧
    (let q := s.movbFrom ad sa gn n
      let o := q.opnd
      s.getG gn ≠ 0 → s.me.movb = [] → n = min 32 (s.getG gn).toNat →
      q.Refused run ∧
      (q.Passes → (o.scratch = true → s.me.absentIn o.va n = []) → s.charge (s.pieceCost ad sa) = .ok () s1 →
        (o.scratch = true → (∃ i < n, smem s.me.poison ((o.va + i) / 32) = true) → run = .next (s1.trap 0x0A (BitVec.ofNat 64 o.va))) ∧
        (o.scratch = false → s1.l1Find s1.me.asid (o.va / 128) false = none → q.Untranslated .read s1 run) ∧
        (o.scratch = false → s1.findParts o false (piecesOf o.va n) = .ok parts s2 → s2.me.got = [] → (∀ p ∈ parts, s2.partBar false p = none) →
          (∃ p ∈ parts, s2.partPoison o false p = true) → run = .next (s2.trap 0x0A (BitVec.ofNat 64 o.va))) ∧
        (s1.movbSource o n = .ok bs s2 → (s2.movbInto ad sa gn n).Refused run ∧
          ((s2.movbInto ad sa gn n).Passes → (s2.me.getA ad).scratch = false → (s2.movbInto ad sa gn n).Untranslated .write s2 run))))

/-! ## Control flow (06 R93, R94, R99-R104) -/

/-- R99 (06), R30, R31 (02): the branches of major 0x18: the word of each condition code, its condition, and both outcomes, alone and
under a prefix; BRA's a field is ignored. -/
def Obligations.Branches : Prop :=
  ∀ (s : State) (a : BitVec 6) (off : BitVec 16) (ext : BitVec 26),
    let x := s.getG a
    let m := s.me.getK (a.setWidth 3)
    let near := s.me.pc + BitVec.ofInt 56 (4 * off.toInt)
    let far := s.me.pc + BitVec.ofInt 56 (4 * (ext ++ off).toInt)
    let u (w : IWord) : State := { s with me := { s.me with insn := w.setWidth 64 } }
    let word (n : BitVec 4) : IWord := packB 0x18#6 n a off
    let br : List (BitVec 4 × Instr × Prop) :=
      [(0, .bra off, True), (1, .beqz a off, x = 0), (2, .bnez a off, x ≠ 0), (3, .bltz a off, x.toInt < 0), (4, .bgez a off, 0 ≤ x.toInt),
       (5, .bgtz a off, 0 < x.toInt), (6, .blez a off, x.toInt ≤ 0), (7, .bkany (a.setWidth 3) off, ∃ i < 128, m.getLsbD i = true),
       (8, .bknone (a.setWidth 3) off, ∀ i < 128, m.getLsbD i = false)]
    ∀ p ∈ br, (∀ w1, decode (word p.1) w1 = .ok p.2.1) ∧
      (p.2.2 → exec p.2.1 s = .next (s.jump near) ∧ exec (.extensionPrefix ext (word p.1)) s = .next ((u (word p.1)).jump far)) ∧
      (¬ p.2.2 → exec p.2.1 s = .next (s.advance 4) ∧ exec (.extensionPrefix ext (word p.1)) s = .next ((u (word p.1)).advance 8))

/-- R101 (06): CALL, JMP and CALLR, with the link after the instruction and the target read before it; a misaligned target traps (0x04)
and changes neither the pc nor the link. -/
def Obligations.CallsAndJumps : Prop :=
  ∀ (s : State) (d a : BitVec 6) (imm : BitVec 20),
    let t : Addr := (s.getG a).setWidth 56
    exec (.call d imm) s = .next ((s.setG d ((s.me.pc + 4).setWidth 64)).jump (s.me.pc + BitVec.ofInt 56 (4 * imm.toInt))) ∧
    (t.toNat % 4 = 0 → exec (.jmp a) s = .next (s.jump t) ∧ exec (.callr d a) s = .next ((s.setG d ((s.me.pc + 4).setWidth 64)).jump t)) ∧
    (t.toNat % 4 ≠ 0 → exec (.jmp a) s = .next (s.trap 0x04 (t.setWidth 64)) ∧ exec (.callr d a) s = .next (s.trap 0x04 (t.setWidth 64)))

/-- R76, R77 (05): the delivery of a trap whose cause is delivered so, every cause but 0x05 (a page fault, which only suspends), 0x08 (a key
recipe) and 0x0F (no rule), which go to the fault pigeonhole without a slot: to the handler with the saved registers, or, without a handler
or inside one, a suspension with the cause, the information and the address, which is the REP's while a repetition executes (06 R93). -/
def Obligations.TrapDelivery : Prop :=
  ∀ (s : State) (c : BitVec 8) (i : Word),
    let idle (c : Ctx) : Ctx := { c with cont := none, paid := false, nth := 0, wide := false, movb := [], issued := false, got := [], succ := none }
    let here := match s.me.rep with | some (p, _) => p | none => s.me.pc
    c ≠ 0x05 → c ≠ 0x08 → c ≠ 0x0F →
    (s.me.inh = false → s.me.tvec ≠ 0 → s.trap c i =
      { s with me := { idle s.me with epc := here, cause := c, tinfo := i, inh := true, pc := s.me.tvec, rep := none } }) ∧
    (s.me.inh = true ∨ s.me.tvec = 0 → s.trap c i =
      { s with
        me := { idle s.me with run := .suspending (.fault c i here), pc := here, rep := none, fetchPaid := false },
        raised := s.raised ++ [.taskSuspension s.cur] })

/-- R103 (06): TRAP raises cause 0x0B with its zero-extended immediate, from bits [25:8] of its word, and returns to the next word; ERET
ends the handler at s.epc, and outside a handler is illegal (R76); a word that is no instruction raises cause 0x01 with its information
(02 R41), and a hint changes nothing but the program counter (R42). -/
def Obligations.TrapAndReturn : Prop :=
  ∀ (s : State) (imm : BitVec 18),
    let idle (c : Ctx) : Ctx := { c with cont := none, paid := false, nth := 0, wide := false, movb := [], issued := false, got := [], succ := none }
    (∀ w1, decode (0x1E#6 ++ imm ++ 0#8) w1 = .ok (.trap imm)) ∧ (∀ w1, decode (0x1E#6 ++ imm ++ 1#8) w1 = .ok .eret) ∧
    (s.me.inh = false → s.me.tvec ≠ 0 → exec (.trap imm) s = .next
      { s with me := { idle s.me with epc := s.me.pc + 4, cause := 0x0B, tinfo := imm.setWidth 64, inh := true, pc := s.me.tvec, rep := none } }) ∧
    (s.me.inh = true ∨ s.me.tvec = 0 → ∃ t, exec (.trap imm) s = .next t ∧ t.me.run = .suspending (.fault 0x0B (imm.setWidth 64) s.me.at) ∧
      t.me.pc = s.me.at) ∧
    (s.me.inh = true → exec .eret s = .next { s with me := { s.me with pc := s.me.epc, inh := false, rep := none } }) ∧
    (s.me.inh = false → exec .eret s = .next (s.trap 0x01 s.me.insn)) ∧
    (∀ info, exec (.illegalInstruction info) s = .next (s.trap 0x01 info)) ∧ (∀ bits, exec (.hint bits) s = .next (s.advance 4))

/-- R93, R94, R104 (06): REP of a repeatable instruction whose word stands in the core's L1 region starts its repetitions or skips it,
and refuses one that is not repeatable; SLEEP parks for its count of cycles, or completes at once. -/
def Obligations.RepAndSleep : Prop :=
  ∀ (s s1 : State) (n a : BitVec 6) (w : IWord) (len : Nat),
    (s.repWord = .ok (w, len) s1 →
      (notRepeatable (fMajor w) = true → exec (.rep n) s = .next (s1.trap 0x01 (w.setWidth 64))) ∧
      (notRepeatable (fMajor w) = false → s1.getG n = 0 → exec (.rep n) s = .next (s1.jump (s1.me.pc + BitVec.ofNat 56 (4 + len)))) ∧
      (notRepeatable (fMajor w) = false → s1.getG n ≠ 0 → exec (.rep n) s =
        .next { s1 with me := { s1.me with rep := some (s1.me.pc, n), pc := s1.me.pc + 4, paid := false } })) ∧
    ((s.getG a).toNat % 2 ^ 32 = 0 → exec (.sleep a) s = .next (s.advance 4)) ∧
    ((s.getG a).toNat % 2 ^ 32 ≠ 0 →
      exec (.sleep a) s = .next (s.park (.sleep ((s.tower s.myTower).cycle + (s.getG a).toNat % 2 ^ 32))))

/-- R74, R75 (05), R102 (06), R17 (01), R67 (05), R150, R161 (09): what SYSRD gives of every system register, and what SYSWR leaves in each; a
register that is read only ignores a write, a register of the Courier traps a task's, and on a supervisor core reaches what s.target names; a
number that names none is an illegal instruction. The model's readings: that s.core[9:0] of a supervisor core is its tower (its core number
modulo 1024) and that s.task[3:0] are the task's tiles (log 35, DEDUCED), and what a supervisor core reads of a service port's region registers
(log 69, DESIGN CHOICE). -/
def Obligations.SystemRegisters : Prop :=
  ∀ (s : State) (d a : BitVec 6) (i : Fin 8) (t : Nat),
    let x := s.getG a
    let core := s.core s.myCore
    let region : BitVec 12 := 0x040 + BitVec.ofNat 12 i.val
    let reads (num : BitVec 12) (v : Word) : Prop := exec (.sysrd d num) s = .next ((s.setG d v).advance 4)
    let shares (c : Core) (v : Word) : Prop := (∀ j < 4, nget c.shares j < 256) →
      v.toNat < 2 ^ 32 ∧ ∀ k < 4, v.toNat / 256 ^ k % 256 = nget c.shares k
    let failed : State := s.setCore s.myCore { core with target := core.target ||| 0x80000000 }
    let named : List (BitVec 12) := [0x000, 0x001, 0x002, 0x003, 0x004, 0x005, 0x006, 0x007, 0x008, 0x010, 0x020, 0x040, 0x041, 0x042, 0x043, 0x044,
      0x045, 0x046, 0x047, 0x050, 0x060]
    (∃ v, reads 0x000 v ∧ v.extractLsb' 16 16 = BitVec.ofNat 16 s.me.asid ∧ v.extractLsb' 9 3 = s.me.stage ∧ v.getLsbD 8 = s.me.group ∧
      v.getLsbD 3 = s.me.inh ∧ v.extractLsb' 0 2 = BitVec.ofNat 2 (slotOfKey s.cur) ∧ v &&& 0xFFFFFFFF0000F0F4 = 0) ∧
    (∃ v, reads 0x005 v ∧ v.extractLsb' 0 10 = BitVec.ofNat 10 s.myCore ∧ v.extractLsb' 16 10 = BitVec.ofNat 10 s.me.firstCore ∧
      v.getLsbD 31 = isSup s.myCore ∧ v &&& 0xFFFFFFFF7C00FC00 = 0) ∧
    (∃ v, reads 0x006 v ∧ v.extractLsb' 32 8 = BitVec.ofNat 8 s.me.bars.length ∧ v.extractLsb' 24 8 = BitVec.ofNat 8 s.me.scratch ∧
      v.extractLsb' 16 6 = BitVec.ofNat 6 s.me.regs ∧ v.extractLsb' 0 4 = s.me.tiles ∧ v &&& 0xFFFFFF0000C0FFF0 = 0) ∧
    (∃ v, reads 0x007 v ∧ v.extractLsb' 16 7 = BitVec.ofNat 7 core.poolend ∧ v.extractLsb' 8 7 = BitVec.ofNat 7 core.scrend ∧
      v.extractLsb' 0 7 = BitVec.ofNat 7 core.regend ∧ v &&& 0xFFFFFFFFFF808080 = 0) ∧
    reads 0x010 (BitVec.ofNat 64 (20 * 2 ^ 24 + 8 * 2 ^ 16 + 16 * 2 ^ 8 + 32)) ∧
    (isSup s.myCore = false → reads region core.region[i] ∧ (∃ v, reads 0x050 v ∧ shares core v) ∧ reads 0x060 0) ∧
    (isSup s.myCore = true → reads 0x060 core.target ∧
      exec (.syswr 0x060 a) s = .next ((s.setCore s.myCore { core with target := x &&& 0x383FF }).advance 4) ∧
      (s.targetOf core.target = none →
        (∀ num ∈ [region, 0x050], exec (.sysrd d num) s = .next ((failed.setG d 0).advance 4) ∧ exec (.syswr num a) s = .next (failed.advance 4))) ∧
      (s.targetOf core.target = some t →
        reads region (s.core t).region[i] ∧ (∃ v, reads 0x050 v ∧ shares (s.core t) v) ∧
        exec (.syswr 0x050 a) s = .next ((s.setCore t ((s.core t).setShaper x)).advance 4) ∧
        (t < 1028 → ∃ u, exec (.syswr region a) s = .next (State.advance u 4) ∧ u = { s with cores := u.cores } ∧
          u.core t = { s.core t with region := (u.core t).region } ∧
          ∀ j : Fin 8, (u.core t).region[j] = if j = i then x &&& 0x80FFFFFFFFE000FF else (s.core t).region[j]) ∧
        (1028 ≤ t → exec (.syswr region a) s = .next (failed.advance 4)))) ∧
    (∀ num, num ∉ named → exec (.sysrd d num) s = .next (s.trap 0x01 s.me.insn) ∧ exec (.syswr num a) s = .next (s.trap 0x01 s.me.insn)) ∧
    exec (.sysrd d 0x001) s = .next ((s.setG d (s.me.cause.setWidth 64)).advance 4) ∧
    exec (.sysrd d 0x002) s = .next ((s.setG d (s.me.epc.setWidth 64)).advance 4) ∧
    exec (.sysrd d 0x003) s = .next ((s.setG d s.me.tinfo).advance 4) ∧
    exec (.sysrd d 0x004) s = .next ((s.setG d (s.me.tvec.setWidth 64)).advance 4) ∧
    exec (.sysrd d 0x008) s = .next ((s.setG d (BitVec.ofNat 64 (s.tower s.myTower).cycle)).advance 4) ∧
    exec (.sysrd d 0x020) s = .next ((s.setG d s.me.srstate).advance 4) ∧
    (∀ num, isReadOnlyReg num = true → exec (.syswr num a) s = .next (s.advance 4)) ∧
    exec (.syswr 0x002 a) s = .next (({ s with me := { s.me with epc := x.setWidth 56 &&& 0xFFFFFFFFFFFFFC } } : State).advance 4) ∧
    exec (.syswr 0x004 a) s = .next (({ s with me := { s.me with tvec := x.setWidth 56 &&& 0xFFFFFFFFFFFFFC } } : State).advance 4) ∧
    (x = 0 → exec (.syswr 0x020 a) s = .next (({ s with me := { s.me with srstate := 1 } } : State).advance 4)) ∧
    (x ≠ 0 → exec (.syswr 0x020 a) s = .next (({ s with me := { s.me with srstate := x } } : State).advance 4)) ∧
    (isSup s.myCore = false → ∀ num, isCourierReg num = true → exec (.syswr num a) s = .next (s.trap 0x03 (num.setWidth 64)))

/-! ## Atomics, reductions, acquire and release, waits (11) -/

/-- R180, R181, R183 (11): each operation of major 0x12 writes its value, or nothing where its condition fails, and gives the old value
sign-extended; on scratch at once, on a line of device memory at its place, its home or a cluster's pin store, once its release is
done; where it does not write, it releases at its scope and changes no byte (R182). At system scope it then waits, as 10 R163 says, until
every tower has applied it: in the model until every tower covers the whole clock of the slot's tower (log 33, DEDUCED). -/
def Obligations.Atomics : Prop :=
  ∀ (s v u : State) (sc : BitVec 2) (sig w : Bool) (d b : BitVec 6) (a : BitVec 4) (ea pa old n : Nat) (pl : Place) (o : Opnd),
    n = (if w then 4 else 8) → (ea : Int) = (s.me.getA a).ptr.toNat →
    let x := (s.getG b).toNat % 256 ^ n
    let e := (s.getG d).toNat % 256 ^ n
    let m := (s.getG (b ^^^ 1)).toNat % 256 ^ n
    let i (v : Nat) : Int := (BitVec.ofNat (8 * n) v).toInt
    let ops : List (Instr × Option Nat) :=
      [(.amoAdd sc sig w d a b, some ((old + x) % 256 ^ n)), (.amoAnd sc sig w d a b, some (old &&& x)),
       (.amoOr sc sig w d a b, some (old ||| x)), (.amoXor sc sig w d a b, some (old ^^^ x)),
       (.amoMin sc sig w d a b, some (if i old ≤ i x then old else x)), (.amoMax sc sig w d a b, some (if i old ≥ i x then old else x)),
       (.amoMinu sc sig w d a b, some (min old x)), (.amoMaxu sc sig w d a b, some (max old x)),
       (.amoSwap sc sig w d a b, some x), (.cas sc sig w d a b, if old = e then some x else none),
       (.casGt sc sig w d a b, if i x > i old then some x else none),
       (.casVer sc sig w d a b, if old &&& m = e &&& m then some x else none),
       (.casPtag sc sig w d a b, if old = e then some (x - x % 2 ^ 16 + (old + 1) % 2 ^ 16) else none)]
    let res : Word := (BitVec.ofNat (8 * n) old).signExtend 64
    ∀ p ∈ ops,
      (s.ScratchOk a ea n false true n → s.ScratchClean ea n → old = s.scratchVal ea n →
        ∃ t, exec p.1 s = .next (State.advance t 4) ∧
          t = { s with me := { s.me.setG d res with mem := t.me.mem, poison := t.me.poison } } ∧
          StoredAt s.me.mem t.me.mem ea (leBytes n (p.2.getD old))) ∧
      (s.check a ea n false true n = .ok o s → s.Reached o n pa v → inHbm pa = true → v.readBar pa true = none → v.placeBad pa n = false →
        old = leNat ((upFrom pa n).map v.homeView) →
        (∀ new, p.2 = some new → s.Released o n sc pa pl v u →
          ∃ t, exec p.1 s = .next ((State.advance t 4).untilApplied sc) ∧ t.me = u.me.setG d res ∧ u.StoredBy t pl pa (leBytes n new)) ∧
        (p.2 = none → v.release sc = .ok () u →
          ∃ t, exec p.1 s = .next ((State.advance t 4).untilApplied sc) ∧ t.me = u.me.setG d res ∧ t.mem = u.mem ∧
            ∀ x, t.placeByte x = u.placeByte x))

/-- R184, R185, R186 (11): a reduction changes scratch at once, where poison discards it with a record (R178); on a global line it becomes a
pending request of its slot, and no register changes. At system scope it first ends the pin that its own task holds on the line (log 32,
DESIGN CHOICE). -/
def Obligations.Reductions : Prop :=
  ∀ (s u v : State) (sc : BitVec 2) (sig w : Bool) (b : BitVec 6) (a : BitVec 4) (ea pa n : Nat) (o : Opnd),
    n = (if w then 4 else 8) → (ea : Int) = (s.me.getA a).ptr.toNat →
    let x := (s.getG b).toNat % 256 ^ n
    let old := s.scratchVal ea n
    let i (v : Nat) : Int := (BitVec.ofNat (8 * n) v).toInt
    let ops : List (Instr × BitVec 4 × Nat) :=
      [(.redAdd sc sig w a b, 0, (old + x) % 256 ^ n), (.redAnd sc sig w a b, 1, old &&& x), (.redOr sc sig w a b, 2, old ||| x),
       (.redXor sc sig w a b, 3, old ^^^ x), (.redMin sc sig w a b, 4, if i old ≤ i x then old else x),
       (.redMax sc sig w a b, 5, if i old ≥ i x then old else x), (.redMinu sc sig w a b, 6, min old x),
       (.redMaxu sc sig w a b, 7, max old x)] ++
      (if w then [(.redFadd sc sig a b, 8, Fmt.rne .fp32 ((Fmt.decode .fp32 old).add (Fmt.decode .fp32 x)))] else [])
    ∀ p ∈ ops,
      (s.ScratchOk a ea n false true n → s.ScratchClean ea n →
        ∃ t : State, exec p.1 s = .next (State.advance t 4) ∧ t = { s with me := { s.me with mem := t.me.mem, poison := t.me.poison } } ∧
          StoredAt s.me.mem t.me.mem ea (leBytes n p.2.2)) ∧
      (s.ScratchOk a ea n false true n → (∃ k < n, smem s.me.poison ((ea + k) / 32) = true) →
        exec p.1 s = .next (({ s with courier := s.courier ++ [.redPoison ea] } : State).advance 4)) ∧
      (s.check a ea n false true n = .ok o s → o.scratch = false → s.xlate o ea .write = .ok pa u →
        homeOf pa ≠ some .host → u.writeBar pa = none →
        (u.reqs.filter fun r => r.key == u.cur && r.isRed && r.unperformed).length < 16 → u.leavePin sc pa = .ok () v →
        ∃ (t : State) (r : Req), exec p.1 s = .next (State.advance t 4) ∧ t.reqs = v.reqs ++ [r] ∧ t.mem = v.mem ∧ t.me = v.me ∧
          r.key = v.cur ∧ r.pa = pa ∧ r.op = .red p.2.1 (!w) (BitVec.ofNat 64 x) ∧ r.scope = sc ∧ r.sig = sig ∧ r.stage = .buffer)

/-- R187, R188 (11): LDA reads at its place and zero-extends, an acquire; STL writes the low bytes of gd at its place, a release; FENCE
with nothing outstanding is both, and ends the task's pins at device and system scope, after which it waits for what is still outstanding. At
system scope STL and FENCE wait until every tower has applied what the slot's own has: all of that, and not only the slot's own writes, is
the model's reading (log 33, DEDUCED). -/
def Obligations.AcquireRelease : Prop :=
  ∀ (s v u : State) (sc size : BitVec 2) (sig : Bool) (d : BitVec 6) (a : BitVec 4) (ea pa n : Nat) (pl : Place) (o : Opnd) (bs : List Byte),
    n = 2 ^ size.toNat → (ea : Int) = (s.me.getA a).ptr.toNat →
    (s.ScratchOk a ea n true false n → s.ScratchClean ea n →
      exec (.lda sc size d a) s = .next ((s.setG d (BitVec.ofNat 64 (s.scratchVal ea n))).advance 4)) ∧
    (s.check a ea n true false n = .ok o s → o.scratch = false → s.readHome o n sc = .ok (pa, bs) u →
      exec (.lda sc size d a) s =
        .next (((if sc = 0 then u else u.l1Flush u.myCore).setG d (BitVec.ofNat 64 (leNat bs))).advance 4) ∧
        bs = (upFrom pa n).map u.placeByte) ∧
    (s.ScratchOk a ea n false true n →
      ∃ t, exec (.stl sc sig size d a) s = .next (State.advance t 4) ∧
        t = { s with me := { s.me with mem := t.me.mem, poison := t.me.poison } } ∧
        StoredAt s.me.mem t.me.mem ea (leBytes n (s.getG d).toNat)) ∧
    (s.check a ea n false true n = .ok o s → s.Released o n sc pa pl v u →
      ∃ t, exec (.stl sc sig size d a) s = .next ((State.advance t 4).untilApplied sc) ∧ t.me = u.me ∧
        u.StoredBy t pl pa (leBytes n (s.getG d).toNat)) ∧
    (u = (if sc = 0b10 ∨ sc = 0b11 then s.unpinTask s.me.tid else s) →
      let there (r : Req) : Prop := (sc = 0 ∨ sc = 1) ∧ r.stage = .pinned
      ((∀ r ∈ u.reqs, r.key = u.cur → there r) → (sc = 0b11 → u.allApplied (u.vc u.myTower) = true) →
        exec (.fence sc) s = .next ((if sc = 0 then u else u.l1Flush u.myCore).advance 4)) ∧
      ((∀ r ∈ u.reqs, r.key = u.cur → there r) → sc = 0b11 → u.allApplied (u.vc u.myTower) = false →
        exec (.fence sc) s = .next (u.stall .clock)) ∧
      ((∃ r ∈ u.reqs, r.key = u.cur ∧ ¬ there r) → exec (.fence sc) s = .next (u.stall .drain)))

/-- R189 (11): WAIT of a word that differs completes with status 0; of one that is equal it parks on the word's line with its deadline. -/
def Obligations.Waits : Prop :=
  ∀ (s u : State) (gt b : BitVec 6) (a : BitVec 4) (ea n pa : Nat) (o : Opnd) (bs : List Byte) (i : Instr),
    ((n = 4 ∧ i = .waitW gt a b) ∨ (n = 8 ∧ i = .waitD gt a b)) → (ea : Int) = (s.me.getA a).ptr.toNat →
    s.check a ea n true false n = .ok o s → o.scratch = false → s.readHome o n 0b10 = .ok (pa, bs) u →
    let v := u.arm (pa / 128)
    let t := (v.getG gt).toNat % 2 ^ 32
    (leNat bs ≠ (v.getG b).toNat % 256 ^ n →
      exec i s = .next (((v.disarm v.myMonitor (pa / 128)).setG gt 0).advance 4)) ∧
    (leNat bs = (v.getG b).toNat % 256 ^ n →
      exec i s = .next (v.park (.wait (pa / 128) gt (if t = 0 then none else some ((v.tower v.myTower).cycle + t)))))

/-! ## Rings (05 R72, R73; 06 R95-R98) -/

/-- R95 (06): RBIND binds the handle to the words at the pointer, or unbinds it with role 0; words that name no ring are ring misuse (0x07).
The words come from scratch, from a line of the L1 region or past it, as a load's do; those in two 32-byte pieces are read a piece a step
(01 R16; log 80). -/
def Obligations.RingBind : Prop :=
  ∀ (s u : State) (q a : BitVec 4) (ea pa : Nat) (l : L1Line) (bs : List Byte), (ea : Int) = (s.me.getA a).ptr.toNat →
    let r := s.me.getA a
    let o : Opnd := ⟨false, ea, r.cls, 0, a.toNat, []⟩
    let word (bs : List Byte) (i : Nat) : Word := BitVec.ofNat 64 (leNat ((bs.drop (8 * i)).take 8))
    let handle (bs : List Byte) : QReg := ⟨(word bs 0).extractLsb' 0 56, (word bs 1).extractLsb' 0 56, (word bs 2).extractLsb' 0 5,
      (word bs 2).extractLsb' 8 5, (word bs 2).extractLsb' 16 2, 0, 0⟩
    let good (h : QReg) : Prop := h.ctrl.toNat % 32 = 0 ∧ 1 ≤ h.m.toNat ∧ h.m.toNat ≤ 16 ∧ 4 ≤ h.s.toNat ∧ h.s.toNat ≤ 13 ∧
      h.slots.toNat % 2 ^ h.s.toNat = 0
    let binds (t : State) (bs : List Byte) : Prop :=
      ((handle bs).role = 0 ∨ good (handle bs) → exec (.rbind q a) s = .next ((t.setQ q (handle bs)).advance 4)) ∧
      ((handle bs).role ≠ 0 → ¬ good (handle bs) → exec (.rbind q a) s = .next (t.trap 0x07 (q.setWidth 64)))
    let global : Prop := r.scratch = false ∧ r.base.toNat ≤ ea ∧ ea + 24 ≤ r.limit.toNat ∧ r.r = true
    (s.ScratchOk a ea 24 true false 0 → s.ScratchClean ea 24 → binds s (mgets s.me.mem ea 24)) ∧
    (global → s.HitsL1 o 24 l → binds s ((l.data.drop (ea % 128)).take 24)) ∧
    (global → s.ReadsMemory o 24 pa u → ∃ t, t.me = u.me ∧ t.mem = u.mem ∧ binds t (u.seenBytes pa 24)) ∧
    (global → (s.read o 24 = .ok bs u → binds u bs) ∧ (s.read o 24 = .done u → exec (.rbind q a) s = .next u))

/-- R96, R98 (06), R73 (05): RWAIT completes with the count it reads once that is large enough, and parks otherwise; with gn = 0 it completes at once,
of an overfull ring too, whose count below 0 stands in the handle as a signed number (log 89, DEDUCED); RFILL and RFREE give the counts of filled and
free slots, the latter below 0 on an overfull ring (00 R9); the wrong role, or too large a count, is ring misuse. -/
def Obligations.RingCounters : Prop :=
  ∀ (s u : State) (q : BitVec 4) (b d : BitVec 6) (pa : Nat) (c : RingCounts),
    let h := s.me.getQ q
    let n := (s.getG b).toNat
    let filled : BitVec 32 := c.tail - c.head
    let free : Int := 2 ^ h.m.toNat - ((c.resv - c.head).toNat : Int)
    let v := (u.arm (pa / 128)).disarm (u.arm (pa / 128)).myMonitor (pa / 128)
    (s.readCounts q = .ok (pa, c) u →
      c = ringCounts ((upFrom pa 16).map u.placeByte) ∧
      (h.role.getLsbD 0 = true → n ≤ 2 ^ h.m.toNat → n ≤ filled.toNat →
        exec (.rwaitH q b) s = .next ((v.setQ q { h with headSeen := filled }).advance 4)) ∧
      (h.role.getLsbD 1 = true → n ≤ 2 ^ h.m.toNat → n = 0 ∨ n ≤ free →
        exec (.rwaitT q b) s = .next ((v.setQ q { h with tailSeen := BitVec.ofInt 32 (max (-(2 ^ 31)) free) }).advance 4)) ∧
      (h.role.getLsbD 0 = true → n ≤ 2 ^ h.m.toNat → filled.toNat < n →
        exec (.rwaitH q b) s = .next ((u.arm (pa / 128)).park (.rwait (pa / 128)))) ∧
      (h.role.getLsbD 1 = true → n ≤ 2 ^ h.m.toNat → n ≠ 0 → free < n →
        exec (.rwaitT q b) s = .next ((u.arm (pa / 128)).park (.rwait (pa / 128)))) ∧
      (h.role ≠ 0 → exec (.rfill d q) s = .next ((u.setG d (filled.setWidth 64)).advance 4) ∧
        exec (.rfree d q) s = .next ((u.setG d (BitVec.ofInt 64 free)).advance 4))) ∧
    (h.role.getLsbD 0 = false ∨ 2 ^ h.m.toNat < n → exec (.rwaitH q b) s = .next (s.trap 0x07 (q.setWidth 64))) ∧
    (h.role.getLsbD 1 = false ∨ 2 ^ h.m.toNat < n → exec (.rwaitT q b) s = .next (s.trap 0x07 (q.setWidth 64))) ∧
    (h.role = 0 → exec (.rfill d q) s = .next (s.trap 0x07 (q.setWidth 64)) ∧ exec (.rfree d q) s = .next (s.trap 0x07 (q.setWidth 64)))

/-- R97 (06): RADV.H adds its count to the head, RADV.T to the tail and the reservation, by one write of the control block at its place;
the handle's count falls by it. More than the handle's count is ring misuse, and so is RADV.T on a ring whose reservation is ahead, with
the block unchanged. The count of free slots is signed: one below 0, which RWAIT.T leaves on an overfull ring (log 89, DEDUCED), lets nothing
be published. -/
def Obligations.RingAdvance : Prop :=
  ∀ (s v u : State) (q : BitVec 4) (b : BitVec 6) (pa : Nat) (pl : Place) (old : List Byte),
    let h := s.me.getQ q
    let n : BitVec 32 := (s.getG b).setWidth 32
    let c := ringCounts old
    let put (x : RingCounts) : List Byte := leBytes 4 x.tail.toNat ++ leBytes 4 x.resv.toNat ++ leBytes 4 x.head.toNat ++ old.drop 12
    let at16 : Prop := s.Released (s.ctrlOpnd q) 16 0b10 pa pl v u ∧ inHbm pa = true ∧ v.readBar pa true = none ∧ v.placeBad pa 16 = false ∧
      old = (upFrom pa 16).map v.homeView
    (h.role.getLsbD 0 = true → (s.getG b).toNat ≤ h.headSeen.toNat → at16 →
      ∃ t, exec (.radvH q b) s = .next (State.advance t 4) ∧ t.me = u.me.setQ q { h with headSeen := h.headSeen - n } ∧
        u.StoredBy t pl pa (put { c with head := c.head + n })) ∧
    (h.role.getLsbD 1 = true → ((s.getG b).toNat : Int) ≤ max 0 h.tailSeen.toInt → at16 → c.resv = c.tail →
      ∃ t, exec (.radvT q b) s = .next (State.advance t 4) ∧ t.me = u.me.setQ q { h with tailSeen := h.tailSeen - n } ∧
        u.StoredBy t pl pa (put { c with tail := c.tail + n, resv := c.tail + n })) ∧
    (h.role.getLsbD 1 = true → ((s.getG b).toNat : Int) ≤ max 0 h.tailSeen.toInt → at16 → c.resv ≠ c.tail →
      ∃ t : State, exec (.radvT q b) s = .next (t.trap 0x07 (q.setWidth 64)) ∧ t.mem = u.mem ∧ t.me = u.me) ∧
    (h.role.getLsbD 0 = false ∨ h.headSeen.toNat < (s.getG b).toNat → exec (.radvH q b) s = .next (s.trap 0x07 (q.setWidth 64))) ∧
    (h.role.getLsbD 1 = false ∨ max 0 h.tailSeen.toInt < (s.getG b).toNat → exec (.radvT q b) s = .next (s.trap 0x07 (q.setWidth 64)))

/-! ## Vectors and masks (08 R124-R139) -/

/-- R124, R130, R139 (08; 07 R111): two-source lane operations: each active lane takes the exact result rounded once (integers wrap), every
other lane keeps its value, and nothing else changes. -/
def Obligations.VectorArithmetic : Prop :=
  ∀ (s : State) (f : Fmt) (d a b : BitVec 5) (k : BitVec 3), (∀ r ∈ [d, a, b], s.me.ownsV r = true) →
    let x (i : Nat) : Nat := laneGet f (s.me.getV a) i
    let y (i : Nat) : Nat := laneGet f (s.me.getV b) i
    let int (v : Nat) : Int := if f = .uint8 then v else (BitVec.ofNat f.width v).toInt
    let wrap (v : Int) : Nat := (v % 2 ^ f.width).toNat
    let ops : List (Instr × (Nat → Nat)) :=
      [(.vand f d a b k, fun i => x i &&& y i), (.vor f d a b k, fun i => x i ||| y i), (.vxor f d a b k, fun i => x i ^^^ y i),
       (.vshl f d a b k, fun i => x i * 2 ^ (y i % f.width)), (.vshr f d a b k, fun i => x i / 2 ^ (y i % f.width)),
       (.vsra f d a b k, fun i => wrap ((BitVec.ofNat f.width (x i)).toInt / 2 ^ (y i % f.width)))] ++
      (if f.isFloat then
        [(.vadd f d a b k, fun i => f.rne ((f.decode (x i)).add (f.decode (y i)))),
         (.vsub f d a b k, fun i => f.rne ((f.decode (x i)).add (f.decode (y i)).neg)),
         (.vmul f d a b k, fun i => f.rne ((f.decode (x i)).mul (f.decode (y i))))]
      else
        [(.vadd f d a b k, fun i => wrap (int (x i) + int (y i))), (.vsub f d a b k, fun i => wrap (int (x i) - int (y i))),
         (.vmul f d a b k, fun i => wrap (int (x i) * int (y i))),
         (.vmin f d a b k, fun i => if int (x i) ≤ int (y i) then x i else y i),
         (.vmax f d a b k, fun i => if int (x i) ≤ int (y i) then y i else x i)])
    ∀ p ∈ ops, ∃ w : VWord, exec p.1 s = .next ((s.setV d w).advance 4) ∧ LanesAre f (s.me.getK k) (s.me.getV d) w p.2

/-- R130 (08): minimum and maximum of floating lanes: a NaN in either source gives the canonical NaN, and −0 counts as below +0; VABS clears
the sign and VNEG inverts it, a NaN giving the canonical NaN; an integer's wraps. -/
def Obligations.VectorMinMaxSign : Prop :=
  ∀ (s : State) (f : Fmt) (d a b : BitVec 5) (k : BitVec 3), (∀ r ∈ [d, a, b], s.me.ownsV r = true) →
    let x (i : Nat) : Nat := laneGet f (s.me.getV a) i
    let y (i : Nat) : Nat := laneGet f (s.me.getV b) i
    let below (p q : Val) : Bool := p.cmp q == .lt || (p.cmp q == .eq && p.isNegZero && !q.isNegZero)
    let nan (v : Nat) : Prop := f.decode v = .nan
    let top : Nat := 2 ^ (f.width - 1)
    ∃ mn mx ab ng : VWord,
      exec (.vmin f d a b k) s = .next ((s.setV d mn).advance 4) ∧ exec (.vmax f d a b k) s = .next ((s.setV d mx).advance 4) ∧
      exec (.vabs f d a k) s = .next ((s.setV d ab).advance 4) ∧ exec (.vneg f d a k) s = .next ((s.setV d ng).advance 4) ∧
      (∀ i < lanesOf f, (s.me.getK k).getLsbD i = true →
        (f.isFloat = true →
          (nan (x i) ∨ nan (y i) → laneGet f mn i = f.rne .nan ∧ laneGet f mx i = f.rne .nan) ∧
          (¬ nan (x i) → ¬ nan (y i) →
            laneGet f mn i = (if below (f.decode (x i)) (f.decode (y i)) then x i else y i) ∧
            laneGet f mx i = (if below (f.decode (x i)) (f.decode (y i)) then y i else x i)) ∧
          (nan (x i) → laneGet f ab i = f.rne .nan ∧ laneGet f ng i = f.rne .nan) ∧
          (¬ nan (x i) → laneGet f ab i = x i % top ∧ laneGet f ng i = (x i + top) % 2 ^ f.width)) ∧
        (f.isFloat = false →
          laneGet f ab i = (if f = .uint8 then x i else (BitVec.ofNat f.width (x i)).toInt.natAbs) ∧ laneGet f ng i = (2 ^ f.width - x i) % 2 ^ f.width)) ∧
      (∀ i < lanesOf f, (s.me.getK k).getLsbD i = false → ∀ w ∈ [mn, mx, ab, ng], laneGet f w i = laneGet f (s.me.getV d) i)

/-- R131 (08): VFMA, VFMS and VFNMA form a × b + c, a × b − c and −(a × b) + c exactly, c being the old destination, and round once. -/
def Obligations.VectorFused : Prop :=
  ∀ (s : State) (f : Fmt) (d a b : BitVec 5) (k : BitVec 3), (∀ r ∈ [d, a, b], s.me.ownsV r = true) →
    let p (i : Nat) : Val := (f.decode (laneGet f (s.me.getV a) i)).mul (f.decode (laneGet f (s.me.getV b) i))
    let c (i : Nat) : Val := f.decode (laneGet f (s.me.getV d) i)
    let ops : List (Instr × (Nat → Nat)) :=
      [(.vfma f d a b k, fun i => f.rne ((p i).add (c i))), (.vfms f d a b k, fun i => f.rne ((p i).add (c i).neg)),
       (.vfnma f d a b k, fun i => f.rne ((p i).neg.add (c i)))]
    ∀ q ∈ ops, ∃ w : VWord, exec q.1 s = .next ((s.setV d w).advance 4) ∧ LanesAre f (s.me.getK k) (s.me.getV d) w q.2

/-- R132 (08): a compare sets the bit of each active lane whose relation holds and clears every other bit; with a NaN only "not equal"
holds. A write to k0 is discarded (R71). -/
def Obligations.VectorCompares : Prop :=
  ∀ (s : State) (f : Fmt) (kd : BitVec 3) (a b : BitVec 5) (k : BitVec 3), (∀ r ∈ [a, b], s.me.ownsV r = true) →
    let x (i : Nat) : Val := f.decode (laneGet f (s.me.getV a) i)
    let y (i : Nat) : Val := f.decode (laneGet f (s.me.getV b) i)
    let num (i : Nat) : Prop := x i ≠ .nan ∧ y i ≠ .nan
    let ops : List (Instr × (Nat → Prop)) :=
      [(.vceq f kd a b k, fun i => num i ∧ (x i).cmp (y i) = .eq), (.vcne f kd a b k, fun i => ¬ (num i ∧ (x i).cmp (y i) = .eq)),
       (.vclt f kd a b k, fun i => num i ∧ (x i).cmp (y i) = .lt), (.vcle f kd a b k, fun i => num i ∧ (x i).cmp (y i) ≠ .gt),
       (.vcgt f kd a b k, fun i => num i ∧ (x i).cmp (y i) = .gt), (.vcge f kd a b k, fun i => num i ∧ (x i).cmp (y i) ≠ .lt)]
    ∀ p ∈ ops, ∃ m : KWord, exec p.1 s = .next ((s.setK kd m).advance 4) ∧
      ∀ i < 128, (m.getLsbD i = true ↔ i < lanesOf f ∧ (s.me.getK k).getLsbD i = true ∧ p.2 i)

/-- R133 (08), R120 (07): VRSUM of integers is their sum, wrapped; of floating lanes the tree of FP32 additions. VRMAX and VRMIN give one of the
active lanes, which none of them exceeds or falls below, −0 counting as below +0; any NaN among them gives the canonical NaN; with no active lane
they give −∞ and +∞, or the least and the greatest INT32. The result stands in lane 0, every other lane being zero. -/
def Obligations.VectorReductions : Prop :=
  ∀ (s : State) (f : Fmt) (d a : BitVec 5) (k : BitVec 3), (∀ r ∈ [d, a], s.me.ownsV r = true) →
    let x (i : Nat) : Nat := laneGet f (s.me.getV a) i
    let on : List Nat := (List.range (lanesOf f)).filter fun i => (s.me.getK k).getLsbD i
    let int (v : Nat) : Int := if f = .uint8 then v else (BitVec.ofNat f.width v).toInt
    let below (v w : Nat) : Bool :=
      if f.isFloat then
        (f.decode v).cmp (f.decode w) == .lt ||
          ((f.decode v).cmp (f.decode w) == .eq && (f.decode v).isNegZero && !(f.decode w).isNegZero)
      else decide (int v < int w)
    let tree : Option Nat := treeSum (fun p q => Fmt.rne .fp32 ((Fmt.decode .fp32 p).add (Fmt.decode .fp32 q))) 7
      ((List.range (lanesOf f)).map fun i => if (s.me.getK k).getLsbD i then some (Fmt.rne .fp32 (f.decode (x i))) else none)
    ∃ sum mx mn : VWord,
      exec (.vrsum f d a k) s = .next ((s.setV d sum).advance 4) ∧ exec (.vrmax f d a k) s = .next ((s.setV d mx).advance 4) ∧
      exec (.vrmin f d a k) s = .next ((s.setV d mn).advance 4) ∧
      (∀ w ∈ [sum, mx, mn], ∀ i < lanesOf f, i ≠ 0 → laneGet f w i = 0) ∧
      (f.isFloat = false → laneGet f sum 0 = (on.map x).sum % 2 ^ f.width) ∧
      (f.isFloat = true → laneGet f sum 0 = match tree with | some r => f.rne (Fmt.decode .fp32 r) % 2 ^ f.width | none => 0) ∧
      (f.isFloat = true → (∃ i ∈ on, f.decode (x i) = .nan) → laneGet f mx 0 = f.rne .nan ∧ laneGet f mn 0 = f.rne .nan) ∧
      (on ≠ [] → ¬ (f.isFloat = true ∧ ∃ i ∈ on, f.decode (x i) = .nan) →
        (∃ i ∈ on, laneGet f mx 0 = x i ∧ ∀ j ∈ on, below (x i) (x j) = false) ∧ (∃ i ∈ on, laneGet f mn 0 = x i ∧ ∀ j ∈ on, below (x j) (x i) = false)) ∧
      (on = [] → (f.isFloat = true → laneGet f mx 0 = f.rne (.inf true) ∧ laneGet f mn 0 = f.rne (.inf false)) ∧
        (f = .int32 → laneGet f mx 0 = 2 ^ 31 ∧ laneGet f mn 0 = 2 ^ 31 - 1))

/-- R134 (08): VPERM, VBCAST, VSLIDEUP and VSLIDEDN; counts from a general register, indexes modulo the lanes of the format. -/
def Obligations.VectorMoves : Prop :=
  ∀ (s : State) (f : Fmt) (d a b : BitVec 5) (k : BitVec 3), (∀ r ∈ [d, a, b], s.me.ownsV r = true) →
    let x (i : Nat) : Nat := laneGet f (s.me.getV a) i
    let c := (s.getG (b.setWidth 6)).toNat
    let n := lanesOf f
    let ops : List (Instr × (Nat → Nat)) :=
      [(.vperm f d a b k, fun i => x (laneGet f (s.me.getV b) i % n)), (.vbcast f d a b k, fun _ => x (c % n)),
       (.vslideup f d a b k, fun i => if i < c then laneGet f (s.me.getV d) i else x (i - c)),
       (.vslidedn f d a b k, fun i => if i + c < n then x (i + c) else 0)]
    ∀ p ∈ ops, ∃ w : VWord, exec p.1 s = .next ((s.setV d w).advance 4) ∧ LanesAre f (s.me.getK k) (s.me.getV d) w p.2

/-- R136, R137 (08; 07 R111, R113, R115, R118): VCVT rounds each active element once, lanes past the converted ones being zero. Under stochastic
rounding, of a conversion that is not exact, each active element, in ascending order, takes one draw from the generator: it steps once for each,
and the element is rounded with the bits [63:40] of the state it then has; every other conversion leaves the generator. That a conversion to the
same format, which R113's list of exact ones does not name, is exact and so leaves the generator under stochastic rounding is the model's
reading (log 16, DEDUCED). The four functions act on FP32 lanes; the table of R137 gives their special values, and a NaN the canonical NaN. -/
def Obligations.VectorConversions : Prop :=
  ∀ (s : State) (f g : Fmt) (mode : Rnd) (d a : BitVec 5) (k : BitVec 3), (∀ r ∈ [d, a], s.me.ownsV r = true) →
    let x (h : Fmt) (i : Nat) : Nat := laneGet h (s.me.getV a) i
    let fs : List (Instr × (Nat → Nat)) :=
      [(.vrcp d a k, fun i => vrcp (Fmt.decode .fp32 (x .fp32 i))), (.vrsq d a k, fun i => vrsq (Fmt.decode .fp32 (x .fp32 i))),
       (.vexp2 d a k, fun i => vexp2 (Fmt.decode .fp32 (x .fp32 i))), (.vlog2 d a k, fun i => vlog2 (Fmt.decode .fp32 (x .fp32 i)))]
    let n := 1024 / max g.width f.width
    let on (j : Nat) : Nat := ((List.range j).filter fun i => (s.me.getK k).getLsbD i).length
    let sign : Nat := 2 ^ 31
    let inf : Nat := 0x7F800000
    let nan : Nat := 0x7FC00000
    let special : List (Instr × Nat × Nat) :=
      [(.vrcp d a k, 0, inf), (.vrcp d a k, sign, sign + inf), (.vrcp d a k, inf, 0), (.vrcp d a k, sign + inf, sign), (.vrsq d a k, 0, inf),
       (.vrsq d a k, sign, sign + inf), (.vrsq d a k, inf, 0), (.vexp2 d a k, sign + inf, 0), (.vexp2 d a k, inf, inf),
       (.vexp2 d a k, 0x43000000, inf), (.vlog2 d a k, 0, sign + inf), (.vlog2 d a k, sign, sign + inf), (.vlog2 d a k, inf, inf),
       (.vlog2 d a k, 0x3F800000, 0)]
    (mode ≠ .sr ∨ exactConv g f = true → ∃ w : VWord, exec (.vcvt f g mode d a k) s = .next ((s.setV d w).advance 4) ∧
      ∀ i < lanesOf f, laneGet f w i =
        if n ≤ i then 0
        else if (s.me.getK k).getLsbD i then f.round (if exactConv g f then .rne else mode) (g.decode (x g i)) 0 % 2 ^ f.width
        else laneGet f (s.me.getV d) i) ∧
    (exactConv g f = false → ∃ w : VWord, exec (.vcvt f g .sr d a k) s =
        .next ((({ s with me := { s.me with srstate := srSteps s.me.srstate (on n) } } : State).setV d w).advance 4) ∧
      ∀ i < lanesOf f, laneGet f w i =
        if n ≤ i then 0
        else if (s.me.getK k).getLsbD i then
          f.round .sr (g.decode (x g i)) ((srSteps s.me.srstate (on i + 1)).extractLsb' 40 24).toNat % 2 ^ f.width
        else laneGet f (s.me.getV d) i) ∧
    (∀ v : Word, srSteps v 1 = (let p := v ^^^ v <<< 13; let q := p ^^^ p >>> 7; q ^^^ q <<< 17)) ∧
    (∀ p ∈ fs, ∃ w : VWord, exec p.1 s = .next ((s.setV d w).advance 4) ∧ LanesAre .fp32 (s.me.getK k) (s.me.getV d) w p.2 ∧
      ∀ i < 32, (s.me.getK k).getLsbD i = true →
        (inf < x .fp32 i % sign → laneGet .fp32 w i = nan) ∧
        (p.1 = .vrsq d a k ∨ p.1 = .vlog2 d a k → sign < x .fp32 i → laneGet .fp32 w i = nan) ∧
        (p.1 = .vexp2 d a k → 0x43000000 ≤ x .fp32 i → x .fp32 i ≤ inf → laneGet .fp32 w i = inf) ∧
        ∀ v r, (p.1, v, r) ∈ special → x .fp32 i = v → laneGet .fp32 w i = r)

/-- R127, R128 (08): VLD from scratch replaces the byte lanes its mask has; VST stores those bytes and no other; VLD.BC writes one element
to every active lane. With no active lane nothing is read or written. From a global line VLD reads the four 32-byte pieces, one a step in an
order that is free (R129; 01 R16; log 80), and completes with the last; VLD.BC reads its element as a load does. VST's requests stand in
GlobalStores. -/
def Obligations.VectorMemory : Prop :=
  ∀ (s s1 u : State) (f : Fmt) (d : BitVec 5) (a : BitVec 4) (disp : BitVec 5) (k : BitVec 3) (ea pa : Nat) (l : L1Line)
    (ps : List (Nat × Nat × ReadAt)),
    s.me.ownsV d = true → ea = (s.me.getA a).ptr.toNat + 128 * disp.toNat →
    let m := s.me.getK k
    let byte (w : VWord) (i : Nat) : Byte := w.extractLsb' (8 * i) 8
    (s.ScratchOk a ea 128 true false 128 → s.ScratchClean ea 128 → ∃ w : VWord, exec (.vld d a disp k) s = .next ((s.setV d w).advance 4) ∧
      ∀ i < 128, byte w i = if m.getLsbD i then mget s.me.mem (ea + i) else byte (s.me.getV d) i) ∧
    (s.ScratchOk a ea 128 false true 128 → ∃ t, exec (.vst d a disp k) s = .next (State.advance t 4) ∧
      t = { s with me := { s.me with mem := t.me.mem, poison := t.me.poison } } ∧
      ∀ x, mget t.me.mem x = if ea ≤ x ∧ x < ea + 128 ∧ m.getLsbD (x - ea) = true then byte (s.me.getV d) (x - ea) else mget s.me.mem x) ∧
    (s.ScratchOk a ea f.bytes true false f.bytes → s.ScratchClean ea f.bytes → ∃ w : VWord, exec (.vldBc f d a disp k) s = .next ((s.setV d w).advance 4) ∧
      LanesAre f m (s.me.getV d) w fun _ => s.scratchVal ea f.bytes) ∧
    (∀ q ∈ s.vectorForms f d a disp k, q.Passes → q.opnd.scratch = false →
      (q.goes = false → exec q.instr s = .next (s.advance 4)) ∧
      (q.instr = .vld d a disp k → q.goes = true → q.on.charge q.cost = .ok () s1 →
        s1.findParts { q.opnd with skip := ((List.range 128).filter fun i => !m.getLsbD i).map (ea + ·) } false (piecesOf ea 128) = .ok ps u →
        let left := ps.filter fun p => u.me.got.all (·.1 ≠ gotKey 0 p.1)
        (∀ p ∈ left, u.partBar false p = none ∧ ∀ j < p.2.1, m.getLsbD (p.1 + j - ea) = true → (match p.2.2 with
          | .l1 l => l.poison.contains ((l.pline * 128 + p.1 % 128 + j) / 32)
          | .mem pa => u.viewPoison (u.slotReqs u.cur) u.myTower false (pa + j)) = false) →
        (1 < left.length → ∃ t, ∃ p ∈ left, exec q.instr s = .next t ∧ t.me = { u.me with got := u.me.got ++ [(gotKey 0 p.1, u.partBytes false p)] } ∧
          t.mem = u.mem) ∧
        (∀ p, left = [p] → ∃ (t : State) (w : VWord), exec q.instr s = .next ((t.setV d w).advance 4) ∧ t.mem = u.mem ∧ t.me.v = u.me.v ∧
          ∀ i < 128, byte w i = if m.getLsbD i then
            (gotBytes 0 ps (u.me.got ++ [(gotKey 0 p.1, u.partBytes false p)])).getD i 0 else byte (u.me.getV d) i)) ∧
      (q.instr = .vldBc f d a disp k → q.goes = true →
        (q.on.HitsL1 q.opnd f.bytes l → ∃ (t : State) (w : VWord), exec q.instr s = .next ((t.setV d w).advance 4) ∧ t.mem = s.mem ∧
          LanesAre f m (s.me.getV d) w fun _ => leNat ((l.data.drop (ea % 128)).take f.bytes)) ∧
        (q.on.ReadsMemory q.opnd f.bytes pa u → ∃ (t : State) (w : VWord), exec q.instr s = .next ((t.setV d w).advance 4) ∧ t.mem = u.mem ∧
          LanesAre f m (u.me.getV d) w fun _ => leNat (u.seenBytes pa f.bytes))))

/-- R135, R138 (08): mask logic, and single lanes and halves of masks moved to and from general registers; a format with fewer than 128
lanes cuts the mask. -/
def Obligations.MasksAndSingles : Prop :=
  ∀ (s : State) (f : Fmt) (kd ka kb : BitVec 3) (v : BitVec 5) (d a b : BitVec 6),
    let p := s.me.getK ka
    let q := s.me.getK kb
    let n := lanesOf f
    let cut (m : KWord) (i : Nat) : Bool := decide (i < n) && m.getLsbD i
    exec (.kand kd ka kb) s = .next ((s.setK kd (p &&& q)).advance 4) ∧ exec (.kor kd ka kb) s = .next ((s.setK kd (p ||| q)).advance 4) ∧
    exec (.kxor kd ka kb) s = .next ((s.setK kd (p ^^^ q)).advance 4) ∧ exec (.knot kd ka) s = .next ((s.setK kd (~~~p)).advance 4) ∧
    exec (.kmov kd ka) s = .next ((s.setK kd p).advance 4) ∧
    (∃ m : KWord, exec (.ksetg f kd a b) s = .next ((s.setK kd m).advance 4) ∧
      ∀ i < 128, m.getLsbD i = cut (s.getG b ++ s.getG a) i) ∧
    (∃ w : Word, exec (.kgetg f d ka b) s = .next ((s.setG d w).advance 4) ∧
      ∀ i < 64, w.getLsbD i = cut p (if (s.getG b).getLsbD 0 then i + 64 else i)) ∧
    (s.me.ownsV v = true →
      (∃ w : VWord, exec (.vmovg f v a b) s = .next ((s.setV v w).advance 4) ∧ ∀ i < n, laneGet f w i =
        if i = (s.getG b).toNat % n then (s.getG a).toNat % 2 ^ f.width else laneGet f (s.me.getV v) i) ∧
      (∃ w : Word, exec (.vext f d v b) s = .next ((s.setG d w).advance 4) ∧
        let x := laneGet f (s.me.getV v) ((s.getG b).toNat % n)
        w = if f = .int8 ∨ f = .int32 then (BitVec.ofNat f.width x).signExtend 64 else BitVec.ofNat 64 x))

/-- R68, R125 (05, 08): a form that names a vector register the task does not own is an illegal instruction, whichever of its operands the
register is. -/
def Obligations.UnownedRegisters : Prop :=
  ∀ (s : State) (f g : Fmt) (mode : Rnd) (d a b : BitVec 5) (k kd : BitVec 3) (x : BitVec 4) (disp : BitVec 5) (ga gb gd : BitVec 6),
    let three : List Instr := [.vadd f d a b k, .vsub f d a b k, .vmul f d a b k, .vmin f d a b k, .vmax f d a b k, .vfma f d a b k, .vfms f d a b k,
      .vfnma f d a b k, .vperm f d a b k, .vand f d a b k, .vor f d a b k, .vxor f d a b k, .vshl f d a b k, .vshr f d a b k, .vsra f d a b k]
    let two : List Instr := [.vabs f d a k, .vneg f d a k, .vrsum f d a k, .vrmax f d a k, .vrmin f d a k, .vbcast f d a b k, .vslideup f d a b k,
      .vslidedn f d a b k, .vcvt f g mode d a k, .vrcp d a k, .vrsq d a k, .vexp2 d a k, .vlog2 d a k]
    let compares : List Instr := [.vceq f kd a b k, .vcne f kd a b k, .vclt f kd a b k, .vcle f kd a b k, .vcgt f kd a b k, .vcge f kd a b k]
    (s.me.ownsV d = false → ∀ i ∈ three ++ two ++ [.vld d x disp k, .vst d x disp k, .vldBc f d x disp k, .vmovg f d ga gb, .vext f gd d gb],
      exec i s = .next (s.trap 0x01 s.me.insn)) ∧
    (s.me.ownsV a = false → ∀ i ∈ three ++ two ++ compares, exec i s = .next (s.trap 0x01 s.me.insn)) ∧
    (s.me.ownsV b = false → ∀ i ∈ three ++ compares, exec i s = .next (s.trap 0x01 s.me.insn))

/-! ## The net (13 R197-R201, R207, R208; 14 R222-R230) -/

/-- R222-R225, R226-R230 (14), R198, R200, R207 (13), R16 (01): what the net instructions do once their checks have passed: AGLD names a
record, ANEW and WIRE take a record or a cell, once, and initialise it, AFREE zeroes and frees, the first arrival at an EMPTY cell leaves
its reference there and gives 0, a cell of a reserved tag is a violation, ADUP and AERA take the share step and then build their records and
links, PAYSHARE and PAYDROP take their share step. What is left to do after a wait stands in the context (log 81): the next of its writes is
performed, a record of 64 bytes in two pieces of 32, a step each, whose order is free (log 79); an instruction with nothing left to do gives
its value once its meets are enqueued. At an exchange a cell with the second-arrival bit set is a violation with the cell's address; that WIRE
and BUSY in a cell are violations as a reserved tag is, and that the information word is then the address inside what was found, is the
model's reading (log 110, DESIGN CHOICE): R198 names reserved tags alone, and R77 (05) says only "the cell address". -/
def Obligations.NetInstructions : Prop :=
  ∀ (s s1 s2 s3 s4 : State) (ad : BitVec 4) (gd ga gb : BitVec 6) (a b d count pages : Nat) (h g p q : Word) (wd wx : List Word)
    (as cs : List Nat) (c : NetCont) (bs : List Byte) (rest : List (Nat × List Byte)),
    let x := s.getG ga
    let y := s.getG gb
    let rec64 (h : Nat) (p0 p1 p2 p3 : Nat) (pay cnt : Nat) : List Byte :=
      leBytes 8 h ++ leBytes 8 p0 ++ leBytes 8 p1 ++ leBytes 8 p2 ++ leBytes 8 p3 ++ leBytes 8 pay ++ leBytes 8 cnt ++ leBytes 8 0
    let busy : Nat := 0xE000000000000000
    let port (n i : Nat) : Nat := if i < n then busy else 0
    let agent (r : Nat) : Word := BitVec.ofNat 64 (0x2000000000000000 + r)
    let wire (r : Nat) : Word := BitVec.ofNat 64 (0x6000000000000000 + r)
    let net : List Instr := [.link gd ga gb, .adup gd ga gb, .aera gd ga gb, .payshare gd ga, .paydrop gd ga]
    let fresh : List Instr := [.anew gd ga, .wire gd, .afree ga]
    let linking (l : List (Word × Word)) : NetCont := { NetCont.of gd none true with links := l }
    let halves (va : Nat) (data : List Byte) : List (Nat × List Byte) :=
      (piecesOf va data.length).map fun p => (p.1, (data.drop (p.1 - va)).take p.2)
    (a = x.toNat % 2 ^ 56 → s.checkAgent 0 a = .ok h s1 →
      (h.toNat < 2 ^ 22 → exec (.agld ad ga) s = .next ((s1.setA ad ⟨BitVec.ofNat 56 a, BitVec.ofNat 56 a, BitVec.ofNat 56 (a + 64),
        s1.classAt s1.myCore a, false, false, true, true⟩).advance 4)) ∧
      (2 ^ 22 ≤ h.toNat → exec (.agld ad ga) s = .next (s1.trap 0x0E (BitVec.ofNat 64 a)))) ∧
    (s.me.cont = none → s.netStart = .ok () s1 →
      (s1.takeAgents 1 = some ([a], s2) →
        exec (.anew gd ga) s = .next (s2.netGo { NetCont.of gd (some (agent a)) false with
          puts := [(a, rec64 ((s2.getG ga).toNat % 2 ^ 20 + s2.myTower * 2 ^ 20) busy (port ((s2.getG ga).toNat / 2 ^ 12 % 4) 0)
            (port ((s2.getG ga).toNat / 2 ^ 12 % 4) 1) (port ((s2.getG ga).toNat / 2 ^ 12 % 4) 2) 0 0)] })) ∧
      (s1.takeAgents 1 = none → exec (.anew gd ga) s = .next (s1.stall .pool)) ∧
      (s1.takeCells 1 = some ([a], s2) →
        (s2.setCont { NetCont.of gd (some (wire a)) false with puts := [(a, leBytes 8 0)] }).netWrite 0 a (leBytes 8 0) = .ok () s3 →
        exec (.wire gd) s = .next ((s3.setG gd (wire a)).advance 4)) ∧
      (s1.takeCells 1 = none → exec (.wire gd) s = .next (s1.stall .pool)) ∧
      (a = x.toNat % 2 ^ 56 → s1.checkAgent 0 a = .ok h s2 →
        let left (l : List (Nat × List Byte)) : NetCont := { NetCont.of 0 (some 0) false with puts := l, cell := some a }
        takeAny s2.free (halves a (List.replicate 64 0)) = some ((b, bs), rest) →
        (s2.nextPart.setCont (left [(a, List.replicate 64 0)])).netWrite 0 b bs = .ok () s3 →
        exec (.afree ga) s = .next (({ s3 with free := s3.free + 1 }.setCont (left rest)).nextPart))) ∧
    (s.me.cont = none → tagOf x = .agent ∨ tagOf x = .auxref → tagOf y = .agent ∨ tagOf y = .auxref ∨ tagOf y = .wire →
      s.linkStart = .ok () s1 → s1.checkRef 0 x = .ok h s2 → s2.checkRef 2 y = .ok g s3 →
      exec (.link gd ga gb) s = .next (s3.nextPart.netGo (linking [(x, y)]))) ∧
    (s.me.cont = some (linking [(p, q)]) → tagOf q = .wire → a = refAddr q → s.checkCell 0 a = .ok 0 s1 →
      s1.netRead 1 (slotVa p) false = .ok g s2 → tagOf g ≠ .empty → ∀ i ∈ net,
        exec i s = exec i (s2.nextPart.setCont { linking [] with puts := [(slotVa p, leBytes 8 (wire a).toNat)], exch := some (p, a) })) ∧
    (s.me.cont = some { linking [] with exch := some (p, a) } → s.drained s.cur = true → s.netRead 0 a true = .ok 0 s1 →
      s1.netPut a (leBytes 8 (p &&& 0xE0FFFFFFFFFFFFFF).toNat) = .ok () s2 → ∀ i ∈ net, exec i s = .next ((s2.setG gd 0).advance 4)) ∧
    (s.me.cont = none → d = x.toNat % 2 ^ 56 → a = y.toNat % 2 ^ 56 → s.linkStart = .ok () s1 →
      (s1.facing d a 1 = .ok (h, wd, wx) s2 → badEnds ([wd.getD 1 0, wd.getD 2 0] ++ (wx.drop 1).take (headerArity h)) = none →
        s2.shareFor h wx true = .ok (count, pages) s3 →
        exec (.adup gd ga gb) s =
          .next (s3.nextPart.netGo { NetCont.of gd none false with build := some ⟨true, d, a, h, wd, wx, count, pages⟩ })) ∧
      (s1.facing d a 0 = .ok (h, wd, wx) s2 → badEnds ((wx.drop 1).take (headerArity h)) = none →
        s2.shareFor h wx false = .ok (count, pages) s3 →
        exec (.aera gd ga gb) s =
          .next (s3.nextPart.netGo { NetCont.of gd none false with build := some ⟨false, d, a, h, wd, wx, count, pages⟩ }))) ∧
    (let n := headerArity h
      let pay := if headerPaykind h = 1 then sharedPayload (wx.getD 4 0) count else wx.getD 4 0
      let ports (k : Nat) : List Word := busyRef :: (List.range 3).map fun i => if i < n then wireRef (cs.getD (2 * i + k) 0) else 0
      (s.takeAgents (n + 2) = some (as, s1) → s1.takeCells (2 * n) = some (cs, s2) →
        s.netBuild c ⟨true, d, a, h, wd, wx, count, pages⟩ = .ok { c with
          build := none,
          puts := cs.map (fun r => (r, leBytes 8 0)) ++
            [(as.getD 0 0, recordBytes (setHome h s2.myTower) (ports 0) pay (wx.getD 5 0)),
             (as.getD 1 0, recordBytes (setHome h s2.myTower) (ports 1) pay (wx.getD 5 0))] ++
            (List.range n).map fun i => (as.getD (i + 2) 0,
              recordBytes (setHome 0x2001 s2.myTower) [busyRef, wireRef (cs.getD (2 * i) 0), wireRef (cs.getD (2 * i + 1) 0), 0] 0 0),
          links := (as.map agent).zip ([wd.getD 1 0, wd.getD 2 0] ++ (wx.drop 1).take n), frees := [d, a], release := none } s2) ∧
      (s.takeAgents n = some (as, s1) → s1.takeCells 0 = some (cs, s2) →
        s.netBuild c ⟨false, d, a, h, wd, wx, count, pages⟩ = .ok { c with
          build := none, puts := as.map fun r => (r, recordBytes (setHome 0 s2.myTower) [busyRef, 0, 0, 0] 0 0),
          links := (as.map agent).zip ((wx.drop 1).take n), frees := [d, a],
          release := if headerPaykind h = 1 ∧ count = 0 then some ((wx.getD 5 0).toNat % 2 ^ 56, pages) else none } s2)) ∧
    (s.me.cont = none → a = x.toNat % 2 ^ 56 → s.netStart = .ok () s1 → s1.checkAgent 0 a = .ok h s2 →
      (headerPaykind h ≠ 1 →
        exec (.payshare gd ga) s = .next ((s2.setG gd 0).advance 4) ∧ exec (.paydrop gd ga) s = .next ((s2.setG gd 0).advance 4)) ∧
      (headerPaykind h = 1 → s2.recordWords 1 32 a 40 2 = .ok [p, g] s3 → d = g.toNat % 2 ^ 56 →
        (s3.shareStep d true = .ok (count, pages) s4 → exec (.payshare gd ga) s =
          .next (s4.nextPart.netGo { NetCont.of gd (some (BitVec.ofNat 64 count)) false with
            puts := [(a + 40, leBytes 8 (sharedPayload p count).toNat)] })) ∧
        (s3.shareStep d false = .ok (count, pages) s4 → ∃ f : Nat, exec (.paydrop gd ga) s =
          .next (s4.nextPart.netGo { NetCont.of gd (some (BitVec.ofNat 64 count)) false with
            puts := [(a, leBytes 8 f), (a + 40, List.replicate 16 0)],
            release := if count = 0 then some (d, pages) else none }) ∧ f = h.toNat - 2 ^ 16))) ∧
    (s.me.cont = some c → c.build = none → c.puts = [] → c.trap = none → c.exch = none → c.late = none → c.meet = none → c.cell = none →
      c.join = none → c.links = [] → c.frees = [] → c.release = none →
      (s.meetsOwed c = true → ∀ i ∈ net ++ fresh, exec i s = .next (s.stall .drain)) ∧
      (s.meetsOwed c = false → ∀ i ∈ net ++ fresh,
        exec i s = .next ((s.setG c.gd (match c.value with
          | some v => v
          | none => BitVec.ofNat 64 (if c.isLink then (if c.firstArr then 0 else if c.meets = 0 then 1 else 2) else c.meets))).advance 4))) ∧
    (s.me.cont = some c → c.build = none → c.puts = (b, bs) :: rest →
      (bs.length ≤ 32 → c.release = none → s.netWrite 0 b bs = .ok () s1 →
        ∀ i ∈ net ++ fresh, exec i s = exec i (s1.nextPart.setCont { c with puts := rest })) ∧
      (∀ z half left, 32 < bs.length → takeAny s.free (halves b bs) = some ((z, half), left) → s.netWrite 0 z half = .ok () s1 →
        ∀ i ∈ net ++ fresh, exec i s = .next (({ s1 with free := s1.free + 1 }.setCont { c with puts := left ++ rest }).nextPart))) ∧
    (∀ v cell, s.me.cont = some { NetCont.of gd (some v) false with puts := [(b, bs)], cell := cell } → bs.length ≤ 32 →
      s.netWrite 0 b bs = .ok () s1 →
      let t : State := match cell with
        | some r => { s1 with alloc := sdel s1.alloc (s1.me.asid * 2 ^ 56 + r) }
        | none => s1
      ∀ i ∈ fresh, exec i s = .next ((t.setG gd v).advance 4)) ∧
    (∀ w, s.me.cont = some c → c.build = none → c.puts = [] → c.trap = none → c.exch = some (x, a) → s.drained s.cur = true → s.netRead 0 a true = .ok w s1 →
      (w.getLsbD 60 = true → ∀ i ∈ net, exec i s = .next (s1.trap 0x0E (BitVec.ofNat 64 a))) ∧
      (w.getLsbD 60 = false → tagOf w = .wire ∨ tagOf w = .busy ∨ tagOf w = .reserved →
        ∀ i ∈ net, exec i s = .next (s1.trap 0x0E (BitVec.ofNat 64 (w.toNat % 2 ^ 56)))))

/-! ## The Sorting Office's instructions (14 R231-R241; 13 R218, R219) -/

/-- R231, R232, R235 (14): RULESET writes the shadow table, or stalls with a record where its storage has no room for a new pair (whether it
has is free: log 77); RULEPUB starts the publication of all four towers, LAUNCH and LAUNCH.IND hand a launch to the dispatcher and give its
count; what a check refuses traps. -/
def Obligations.RulesAndLaunches : Prop :=
  ∀ (s s0 s1 s2 s3 s4 : State) (e : EFlags) (gd : BitVec 6) (a : BitVec 4) (o : Opnd) (bs ds : List Byte) (sp : Space) (r n : Nat),
    let ea : Int := (s.me.getA a).ptr.toNat
    let b := parseBlock bs
    let d := parseDesc b.desc ds
    let launched (u : State) (n : Nat) : State := if n = 0 then u else
      ({ u with nextId := u.nextId + 1, launches := u.launches ++ [⟨u.nextId, u.me.asid, u.towerOf (b.oy * 32 + b.ox), d, b.ox, b.oy, b.fw,
        b.fh, n, 0, 0, b.keyarg, b.args, none⟩] } : State).raise (.groupPlacement u.nextId)
    (s.hasRule = false → exec (.ruleset a) s = .next (s.trap 0x03 0xA0) ∧ exec .rulepub s = .next (s.trap 0x03 0xA0)) ∧
    (s.hasRule = true → s.check a ea 64 true false 64 = .ok o s0 → s0.read o 64 = .ok bs s1 →
      (ruleReason bs = some r → exec (.ruleset a) s = .next (s1.trap 0x09 (BitVec.ofNat 64 r))) ∧
      (ruleReason bs = none → s1.space s1.me.asid = some sp →
        let stored : State := ({ s1 with free := s1.free + 1 } : State).setSpace s1.me.asid
          { sp with shadow := putRule sp.shadow (parseRule bs).1 (parseRule bs).2 }
        ((parseRule bs).2 = false ∨ (∃ x ∈ sp.shadow, x.kindLo = (parseRule bs).1.kindLo ∧ x.kindHi = (parseRule bs).1.kindHi) →
          exec (.ruleset a) s = .next (stored.advance 4)) ∧
        (exec (.ruleset a) s = .next (stored.advance 4) ∨
          ∃ t : State, exec (.ruleset a) s = .next (t.stall .pool) ∧ CourierRec.ruleTableFull s1.me.asid ∈ t.courier ∧ t.spaces = s1.spaces))) ∧
    (s.hasRule = true → exec .rulepub s = .next { s with
      me := { s.me with run := .stalled (.towers 4) },
      raised := s.raised ++ [.rulePublicationFlip 0 s.me.asid s.cur, .rulePublicationFlip 1 s.me.asid s.cur,
        .rulePublicationFlip 2 s.me.asid s.cur, .rulePublicationFlip 3 s.me.asid s.cur] }) ∧
    (s.check a ea 80 true false 16 = .ok o s0 → s0.read o 80 = .ok bs s1 → s1.release e.scope = .ok () s2 →
      s2.officeRead b.desc 128 = .ok ds s3 →
      (s3.launchReason b d = some r → exec (.launch e gd a) s = .next (s3.trap 0x09 (BitVec.ofNat 64 r)) ∧
        exec (.launchInd e gd a) s = .next (s3.trap 0x09 (BitVec.ofNat 64 r))) ∧
      (s3.launchReason b d = none →
        (b.count < 2 ^ 24 → b.count = 0 ∨ s3.somePosition b d = true →
          exec (.launch e gd a) s = .next (((launched s3 b.count).setG gd (BitVec.ofNat 64 b.count)).advance 8)) ∧
        (s3.indCount b e.scope = .ok n s4 →
          (n < 2 ^ 24 → n = 0 ∨ s4.somePosition b d = true →
            exec (.launchInd e gd a) s = .next (((launched s4 n).setG gd (BitVec.ofNat 64 n)).advance 8)) ∧
          (2 ^ 24 ≤ n → exec (.launchInd e gd a) s = .next (s4.trap 0x09 0x0B)))))

/-- R238-R241 (14), R218 (13), R79 (05): RETIRE ends the task, YIELD suspends it at the next instruction, RETIRE.S holds its slot for the
successor (a retry makes its checks no second time, 13 R219), KREL gives a key back if the task holds it, GOVSET sends a setting to the
towers, PROFRD reads and clears a profile counter. -/
def Obligations.TaskEnds : Prop :=
  ∀ (s s1 s2 : State) (gd ga gb : BitVec 6) (g : Group) (gid r : Nat) (ds : List Byte),
    let x := s.getG ga
    let key := x.toNat % 2 ^ 48
    let core := x.toNat % 1024
    let d := parseDesc g.desc.succ.toNat ds
    let u := s.account core
    let pk := profKey core (x.toNat / 2 ^ 16 % 16) (x.getLsbD 24)
    (s.engineBusy s.me.tid = false → s.release 0b10 = .ok () s1 →
      exec .retire s = .next (s1.endTask s1.cur true) ∧ (s1.me.gid = none → (s1.endTask s1.cur true).me = Ctx.empty)) ∧
    (s.engineBusy s.me.tid = true → exec .retire s = .next (s.stall (.engine 0))) ∧
    (s.me.rep = none → exec .yieldSlot s = .next { s with
      me := { s.me with
        pc := s.me.pc + 4, run := .suspending .yield, cont := none, paid := false, fetchPaid := false, nth := 0, wide := false, movb := [],
        issued := false, got := [], succ := none },
      raised := s.raised ++ [.taskSuspension s.cur] }) ∧
    (s.me.gid = none → exec .retireS s = .next (s.trap 0x01 s.me.insn)) ∧
    (s.me.gid = some gid → s.groupOf gid = some g →
      let held (u : State) (d : KDesc) : State :=
        ({ u with me := { u.me with run := .held } } : State).setGroup { g with held := g.held + 1, succ := some d }
      let passed (u v : State) (d : KDesc) : Prop := u.release d.rscope = .ok () v ∧ v.succQuiet v.me.tid g.desc = true ∧ g.broken = false
      (s.me.succ = none →
        (g.desc.succ = 0 → exec .retireS s = .next (s.trap 0x09 0x0A)) ∧
        (g.desc.succ ≠ 0 → s.officeRead g.desc.succ.toNat 128 = .ok ds s1 →
          (s1.succReason g d = some r → exec .retireS s = .next (s1.trap 0x09 (BitVec.ofNat 64 r))) ∧
          (s1.succReason g d = none → passed { s1 with me := { s1.me with succ := some d } } s2 d →
            (g.held + 1 ≠ g.live → exec .retireS s = .next (held s2 d)) ∧
            (g.held + 1 = g.live → exec .retireS s = .next ((held s2 d).handOver { g with held := g.held + 1, succ := some d } d))))) ∧
      (∀ e, s.me.succ = some e → passed s s2 e →
        (g.held + 1 ≠ g.live → exec .retireS s = .next (held s2 e)) ∧
        (g.held + 1 = g.live → exec .retireS s = .next ((held s2 e).handOver { g with held := g.held + 1, succ := some e } e)))) ∧
    (s.keyHolder key = some (s.holderOf s.me) → s.release 0b10 = .ok () s1 →
      exec (.krel gd ga) s = .next (((s1.releaseKey key).setG gd 1).advance 4)) ∧
    (s.keyHolder key ≠ some (s.holderOf s.me) → exec (.krel gd ga) s = .next ((s.setG gd 0).advance 4)) ∧
    (s.hasGov = false → exec (.govset ga gb) s = .next (s.trap 0x03 0xA1) ∧ exec (.profrd gd ga) s = .next (s.trap 0x03 0xA1)) ∧
    (s.hasGov = true →
      (x.getLsbD 9 = true → exec (.govset ga gb) s = .next (s.advance 4)) ∧
      (x.getLsbD 9 = false → exec (.govset ga gb) s = .next { s with
        me := { s.me with run := .stalled (.towers 4) },
        raised := s.raised ++ [.governorSetting 0 s.cur x (s.getG gb), .governorSetting 1 s.cur x (s.getG gb),
          .governorSetting 2 s.cur x (s.getG gb), .governorSetting 3 s.cur x (s.getG gb)] }) ∧
      (s.coreLive core = false → exec (.profrd gd ga) s = .next ((s.setG gd 0).advance 4)) ∧
      (s.coreLive core = true → exec (.profrd gd ga) s = .next ((({ u with
        profile := if x.getLsbD 31 then tset u.profile pk 0 else u.profile } : State).setG gd ((tget 0 u.profile pk).setWidth 64)).advance 4)))

/-! ## Matrix instructions (16 R245-R252; 17 R261-R271) -/

/-- R261-R264, R266, R269-R271 (17), R245, R252 (16), R176 (10): MMA, MMA.RG, BLD and AST enter the queue of their core once every check
has passed, the tile then being the task's, and hold their slot, in a full queue waiting for an entry in their order; ACLR enters it and
goes on; MXW sets the weight; MXWAIT acquires or parks; another task's tile is a matrix fault. That a supervisor core refuses them all as
illegal instructions is log 45 (DEDUCED); that an MMA.RG with progress at or beyond all its chunks completes at once is log 22 (DEDUCED). -/
def Obligations.MatrixIssue : Prop :=
  ∀ (s s1 : State) (e : EFlags) (shape : BitVec 3) (f : Fmt) (acc : BitVec 2) (src : ASrc) (q : BitVec 4) (ga gb gc : BitVec 6) (tr : Bool)
    (rnd : Rnd) (id : BitVec 16) (ring : Option QReg) (d : TDesc),
    let tile := tileOf s.myCore acc.toNat
    let b := bOp (s.getG gb)
    let x := shapeOf shape
    let bBad : Prop := b.c0 % x.n ≠ 0 ∨ b.o % 64 ≠ 0 ∨ 65536 < b.o + x.k * f.bytes + (if b.bscale then x.k / 32 else 0)
    let own (u : State) : State := { u with tileOwner := tset u.tileOwner tile u.me.tid, me := { u.me with tiles := u.me.tiles ||| (1#4 <<< acc.toNat) } }
    let used : State := { s with me := { s.me with usedMatrix := true } }
    let leave (u : State) : Prop := ({ u with nextId := s.nextId + 1 } : State).engineLeave e = .ok () s1
    let mms : List (Instr × Bool × ASrc) := [(.mma e shape f acc src gb, false, src), (.mmaRg e shape f acc q gb, true, .ring q)]
    let queued : List Instr := [.mma e shape f acc src gb, .mmaRg e shape f acc q gb, .bld e tr f id ga gb gc, .ast e tr f rnd id acc ga gb]
    (∀ c, s.mcmds.find? (fun c => c.key == s.cur && c.phase == .leaving) = some c → ∀ i ∈ queued, exec i s = .next (s.leaveM c)) ∧
    (s.mcmds.find? (fun c => c.key == s.cur && c.phase == .leaving) = none →
    (isSup s.myCore = true → ∀ i ∈ queued, exec i s = .next (s.trap 0x01 s.me.insn)) ∧
    (isSup s.myCore = false →
      (s.tileTaken tile = true → ∀ i ∈ [Instr.mma e shape f acc src gb, .mmaRg e shape f acc q gb, .ast e tr f rnd id acc ga gb],
        exec i s = .next (s.trap 0x0C 0x01)) ∧
      (∀ p ∈ mms, s.tileTaken tile = false →
        (bBad → exec p.1 s = .next (s.trap 0x0C 0x02)) ∧
        (¬ bBad → s.aCheck x f p.2.2 = .ok (ring, d) s →
          (allSteps p.2.1 x ≤ b.progress → exec p.1 s = .next ((used.setG gb (BitVec.ofNat 64 ((s.getG gb).toNat % 2 ^ 48))).advance 8)) ∧
          (b.progress < allSteps p.2.1 x → leave (own used) → ∃ (t : State) (c : MCmd), exec p.1 s = .next t ∧
            MAttached s1 t c ∧ c.id = s.nextId ∧ c.op = (if p.2.1 then MOp.rg else .mma) ∧ c.tile = tile ∧ c.fmt = f ∧ c.shape = shape ∧
            c.ring = ring ∧ c.tensor = d ∧ c.gb = s.getG gb ∧ c.gbReg = gb ∧ c.step = b.progress ∧ c.e = e))) ∧
      (let n := (s.getG gc).toNat / 2 ^ 16 % 512
       let k := (s.getG gc).toNat % 512
       k % 32 = 0 → 0 < k → k ≤ 256 → 0 < n → b.c0 + n ≤ 256 → b.o % 64 = 0 →
       b.o + k * f.bytes + (if b.bscale then k / 32 else 0) ≤ 65536 → d = s.tensorOf s.me.asid id.toNat →
       (b.bscale = false → d.scale = 0) → (b.bscale = true → tr = true ∧ d.scale ≠ 0 ∧ (s.getG ga).toNat / 2 ^ 32 % 32 = 0) →
       tensorReason d false ((s.getG ga).toNat % 2 ^ 32) (if tr then n else k) ((s.getG ga).toNat / 2 ^ 32) (if tr then k else n) f = none →
       leave used → ∃ (t : State) (c : MCmd), exec (.bld e tr f id ga gb gc) s = .next t ∧ MAttached s1 t c ∧
         c.id = s.nextId ∧ c.op = .bld ∧ c.fmt = f ∧ c.tensor = d ∧ c.ga = s.getG ga ∧ c.gb = s.getG gb ∧ c.gc = s.getG gc ∧ c.mode = tr ∧ c.e = e) ∧
      (let w := aWin (s.getG gb)
       s.tileTaken tile = false → d = s.tensorOf s.me.asid id.toNat →
       (d.scale ≠ 0 → (s.getG ga).toNat / 2 ^ 32 % 32 = 0 ∧ w.cols % 32 = 0) →
       tensorReason d true ((s.getG ga).toNat % 2 ^ 32) w.rows ((s.getG ga).toNat / 2 ^ 32) w.cols f = none →
       leave (own { s with me := { s.me with srstate := srSteps s.me.srstate (astDraws f rnd w) } }) →
       ∃ (t : State) (c : MCmd), exec (.ast e tr f rnd id acc ga gb) s = .next t ∧ MAttached s1 t c ∧ c.id = s.nextId ∧ c.op = .ast ∧
         c.tile = tile ∧ c.fmt = f ∧
         c.tensor = d ∧ c.ga = s.getG ga ∧ c.gb = s.getG gb ∧ c.mode = tr ∧ c.rnd = rnd ∧ c.sr = s.me.srstate ∧ c.e = e))) ∧
    (isSup s.myCore = true → ∀ i ∈ [Instr.aclr acc, .mxw ga], exec i s = .next (s.trap 0x01 s.me.insn)) ∧
    (isSup s.myCore = false →
      (s.tileTaken tile = true → exec (.aclr acc) s = .next (s.trap 0x0C 0x01)) ∧
      (s.tileTaken tile = false →
        let rest := s.mcmds.filter (·.id ≠ s.nextId)
        let room := ({ s with mcmds := rest } : State).queueFree (clusterOf s.myCore) (indexOf s.myCore)
        (room = true → ∃ (t : State) (c : MCmd), exec (.aclr acc) s = .next (State.advance t 4) ∧
          t.mcmds = rest ++ [c] ∧ c.op = .aclr ∧ c.tile = tile ∧ c.phase = .detached ∧ t.me = (own s).me) ∧
        (room = false → ∃ (t : State) (c : MCmd), exec (.aclr acc) s = .next t ∧ t.mcmds = rest ++ [c] ∧ c.op = .aclr ∧ c.tile = tile ∧ c.phase = .waiting ∧
          t.me = { (own s).me with run := .stalled (.engine s.nextId) })) ∧
      (∃ t : State, exec (.mxw ga) s = .next (State.advance t 4) ∧ t.me = s.me ∧ ∀ i (h : i < 8), (t.cluster (clusterOf s.myCore)).weights[i] =
        if i = indexOf s.myCore then max 1 ((s.getG ga).toNat % 16) else (s.cluster (clusterOf s.myCore)).weights[i])) ∧
    ((∀ c ∈ s.mcmds, c.tid ≠ s.me.tid) → exec .mxwait s = .next (((s.reach s.myTower s.frontier).l1Flush s.myCore).advance 4)) ∧
    ((∃ c ∈ s.mcmds, c.tid = s.me.tid) → exec .mxwait s = .next (s.park .mxwait))

/-! ## Copy and post instructions (19 R276-R278; 20 R295-R309) -/

/-- R296-R304 (20), R276 (19), R176 (10): CPY, CPY.ADD, CPY.MC, POST, POST.MB, POST.Q and TOKSEND hand their command to the engine once
their checks have passed, and hold their slot, in a full queue waiting for an entry in their order; re-executed with everything read, they
complete, and so does a copy of no bytes, with its completion word. A completion word that is misaligned or too large, a length out of
range, a source of CPY.MC that is not scratch and a dead core are copy faults (0x0D) with their reasons (R297). -/
def Obligations.CopyIssue : Prop :=
  ∀ (s s1 : State) (e : EFlags) (ad sa : BitVec 4) (gb gr : BitVec 6) (wx wy : BitVec 5) (tag : BitVec 16) (src dst : Side) (len : Nat),
    let w := s.getG gb
    let gc := s.getG (gb ^^^ 1)
    let compOk : Prop := gc = 0 ∨ (gc.toNat < 2 ^ 56 ∧ gc.toNat % 4 = 0)
    let prog := w.toNat / 2 ^ 40
    let bar : Option Nat := if w.getLsbD 39 then some (w.toNat / 2 ^ 32 % 128) else none
    let core := w.toNat / 2 ^ 16 % 1024
    let rd : Prop := s.engCheck sa len false = .ok src s
    let wr : Prop := s.engCheck ad len true = .ok dst s
    let go : Prop := ({ s with nextId := s.nextId + 1 } : State).engineLeave e = .ok () s1
    let cpy : Instr := .cpy e ad sa gb
    let add : Instr := .cpyAdd e ad sa gb
    let mc : Instr := .cpyMc e wx wy gr sa gb
    let post : Instr := .post e gr sa gb
    let mb : Instr := .postMb e gr gb
    let pq : Instr := .postQ e tag ad sa gb
    let tok : Instr := .toksend e gr sa gb
    let mine (c : ECmd) : Prop := c.id = s.nextId ∧ c.cluster = s.engineOf s.myCore ∧ c.queue = (if isSup s.myCore then 8 else indexOf s.myCore)
    let ends (i : Instr) (P : ECmd → Prop) : Prop :=
      (prog < len → go → ∃ (t : State) (c : ECmd), exec i s = .next t ∧ Attached s1 t c ∧ mine c ∧ c.e = e ∧ c.src = src ∧ c.len = len ∧ c.prog = prog ∧
        c.gbReg = gb ∧ c.comp = gc.toNat ∧ (prog = 0 → c.parts = [] ∧ c.status = 0) ∧ P c) ∧
      (0 < len → len ≤ prog → exec i s = .next (s.advance 8)) ∧
      (len = 0 → ∃ (t : State) (c : ECmd), exec i s = .next (State.advance t 8) ∧ t.me = s.me ∧ t.ecmds = s.ecmds ++ [c] ∧ mine c ∧ c.phase = .detached ∧
        c.comp = gc.toNat ∧ Raised.completionWordWrite c.id ∈ t.raised)
    (∀ c, s.ecmds.find? (fun c => c.key == s.cur && c.phase == .leaving) = some c → ∀ i ∈ [cpy, add, mc, post, mb, pq, tok],
      exec i s = .next (s.leaveE c)) ∧
    (s.ecmds.find? (fun c => c.key == s.cur && c.phase == .leaving) = none →
    (¬ compOk → ∀ i ∈ [cpy, add, mc, mb], exec i s = .next (s.trap 0x0D 0x02)) ∧
    (w.toNat % 512 < 16 ∨ 256 < w.toNat % 512 ∨ w.toNat % 16 ≠ 0 → exec post s = .next (s.trap 0x0D 0x01)) ∧
    (w.toNat % 2 ^ 14 < 1 ∨ 8192 < w.toNat % 2 ^ 14 → exec pq s = .next (s.trap 0x0D 0x01)) ∧
    (w.toNat % 2 ^ 14 < 32 ∨ 8192 < w.toNat % 2 ^ 14 ∨ w.toNat % 32 ≠ 0 → exec tok s = .next (s.trap 0x0D 0x01)) ∧
    (compOk → s.coreLive core = false → exec mb s = .next (s.trap 0x0D 0x05)) ∧
    (compOk → len = w.toNat % 2 ^ 24 → rd → src.scratch = false → exec mc s = .next (s.trap 0x0D 0x04)) ∧
    (compOk →
    (len = w.toNat % 2 ^ 24 → rd → wr → (∀ n, bar = some n → n ∈ s.me.bars) →
      ends cpy (fun c => c.op = .cpy ∧ c.dst = dst ∧ c.bar = bar) ∧
      (src.addr % 4 = 0 → dst.addr % 4 = 0 → len % 32 = 0 → ends add (fun c => c.op = .add ∧ c.dst = dst ∧ c.bar = bar))) ∧
    (len = w.toNat % 2 ^ 24 → rd → src.scratch = true → isSup s.myCore = false →
      ends mc (fun c => c.op = .mc ∧ c.mask = s.getG gr ∧ c.wx = wx.toNat ∧ c.wy = wy.toNat ∧ c.bar = bar)) ∧
    (len = w.toNat % 512 → 16 ≤ len → len ≤ 256 → len % 16 = 0 → rd → s.coreLive core = true →
      ends post (fun c => c.op = .post ∧ c.dstCore = core ∧ c.ring = (s.getG gr).toNat % 2 ^ 56 ∧ c.bar = bar)) ∧
    (s.coreLive core = true → go → ∃ (t : State) (c : ECmd), exec mb s = .next t ∧ Attached s1 t c ∧ mine c ∧ c.op = .mb ∧ c.dstCore = core ∧
      c.box = w.toNat % 32 ∧ c.entry = s.getG gr ∧ c.comp = gc.toNat) ∧
    (len = w.toNat % 2 ^ 14 → 1 ≤ len → len ≤ 8192 → rd → wr → dst.scratch = false → s.coreLive core = true →
      ends pq (fun c => c.op = .postQ ∧ c.dst = dst ∧ c.dstCore = core ∧ c.tag = tag ∧
        c.ring = (s.getG (gb ^^^ 2)).toNat % 2 ^ 56 ∧ c.bar = bar)) ∧
    (len = w.toNat % 2 ^ 14 → 32 ≤ len → len ≤ 8192 → len % 32 = 0 → rd → (s.getG gr).toNat % 16 = 0 →
      ends tok (fun c => c.op = .tok ∧ c.table = (s.getG gr).toNat % 2 ^ 56 ∧ c.expert = w.toNat / 2 ^ 16 % 2 ^ 16))))

/-- R305-R309 (20): mailboxes are configured and read, routing counters are snapped and cleared, barriers are initialised, arrived at and
waited for. That CSNAP takes its snapshot and clears in the step in which it issues, in no queue, is log 48 (DEDUCED). -/
def Obligations.MailboxesAndBarriers : Prop :=
  ∀ (s s1 : State) (ga gb gd : BitVec 6) (a : BitVec 4) (bar : BitVec 7) (ea : Nat),
    let x := (s.getG ga).toNat
    let k := x / 2 ^ 8 % 16
    let box := s.box s.myCore (x % 32)
    let first := x % 1024
    let n := x / 2 ^ 16 % 2 ^ 11
    let b := s.bar s.myCore bar.toNat
    let y := s.getG gb
    let seen : State := (s.reach s.myTower s.frontier).l1Flush s.myCore
    let cl := s.engineOf s.myCore
    (k < 1 ∨ 8 < k → exec (.mboxCfg ga) s = .next (s.trap 0x0D 0x09)) ∧
    (1 ≤ k → k ≤ 8 → ∃ t : State, exec (.mboxCfg ga) s = .next (State.advance t 4) ∧ t = { s with boxes := t.boxes } ∧
      t.box s.myCore (x % 32) = ⟨k, [], 0⟩ ∧ ∀ m < 32, m ≠ x % 32 → t.box s.myCore m = s.box s.myCore m) ∧
    (∃ v : Word, exec (.mboxRd gd ga) s = .next ((seen.setG gd v).advance 4) ∧
      (k < 8 → v = box.entries.getD k 0) ∧ (9 ≤ k → v = 0) ∧
      (k = 8 → box.depth < 16 → box.entries.length < 16 → v = BitVec.ofNat 64 (box.count.toNat + box.entries.length * 2 ^ 16 + box.depth * 2 ^ 24))) ∧
    (n = 0 ∨ 1024 < first + n → exec (.csnap a ga) s = .next (s.trap 0x0D 0x0A)) ∧
    (n ≠ 0 → first + n ≤ 1024 → (ea : Int) = (s.me.getA a).ptr.toNat → s.ScratchOk a ea (4 * n) false true 4 →
      ∃ t : State, exec (.csnap a ga) s = .next (State.advance t 4) ∧
        (∀ i < n, t.scratchVal (ea + 4 * i) 4 = (s.counter cl (first + i)).toNat ∧ t.counter cl (first + i) = 0) ∧
        (∀ v, v < ea ∨ ea + 4 * n ≤ v → mget t.me.mem v = mget s.me.mem v)) ∧
    (n ≠ 0 → first + n ≤ 1024 → ∀ (o : Opnd) (ps : List (Nat × Nat × Nat)) (s2 : State), s.check a (s.me.getA a).ptr.toNat (4 * n) false true 4 = .ok o s → o.scratch = false →
      s.writeParts o (4 * n) = .ok ps s2 → (∀ r ∈ s2.slotReqs s2.cur, ∀ p ∈ ps, r.pa / 128 ≠ p.2.1 / 128) →
      ∃ (t : State) (c : ECmd), exec (.csnap a ga) s = .next t ∧ t.ecmds = s2.ecmds ++ [c] ∧ c.op = .snap ∧ c.dst.addr = o.va ∧ t.mem = s2.mem ∧
        c.pieces = snapPieces o.va ((upFrom first n).flatMap fun i => leBytes 4 (s.counter cl i).toNat) ∧
        t.me = { s2.me with run := .stalled (.engine c.id) } ∧ (∀ i < n, t.counter cl (first + i) = 0) ∧
        ∀ p ∈ c.pieces, Raised.enginePieceWrite c.id ∈ t.raised) ∧
    (bar.toNat ∉ s.me.bars → exec (.barInit bar ga gb) s = .next (s.trap 0x0D 0x06) ∧ exec (.barWait bar gd) s = .next (s.trap 0x0D 0x06)) ∧
    (bar.toNat ∈ s.me.bars →
      (y.getLsbD 63 = true → y.toNat % 16 ≠ 0 → exec (.barInit bar ga gb) s = .next (s.trap 0x0D 0x0B)) ∧
      (y.getLsbD 63 = false ∨ y.toNat % 16 = 0 → exec (.barInit bar ga gb) s = .next ((s.setBar s.myCore bar.toNat
        ⟨(s.getG ga).setWidth 32, 0, y.getLsbD 63, false, y.extractLsb' 4 52, b.owner⟩).advance 4)) ∧
      (b.fired = true ∨ b.expected = 0 → exec (.barWait bar gd) s = .next ((seen.setG gd 0).advance 4)) ∧
      (b.fired = false → b.expected ≠ 0 → exec (.barWait bar gd) s = .next (s.park (.barWait bar.toNat gd
        (if (s.getG gd).toNat % 2 ^ 32 = 0 then none else some ((s.tower s.myTower).cycle + (s.getG gd).toNat % 2 ^ 32)))))) ∧
    (s.release 0b10 = .ok () s1 → exec (.barArrive bar ga gb) s = .next ((s1.raise (.barrierArrival
      ⟨if gb = 0 then s1.myCore else (s1.getG gb).toNat % 1024, bar.toNat, (s1.getG ga).toNat % 2 ^ 32, none, none, s1.vc s1.myTower⟩)).advance 4))

/-! ## Requests on their way (09 R142-R160; 10 R163-R174) -/

/-- R14 (01), R143, R149, R151, R160, R162 (09), R163, R164, R170, R174 (10), R194 (12): a store leaves the port, where no other has left in the
cycle, passes its slice and the remote-data
cache, is performed at its home, after the slot's earlier accesses to its piece (R164), and answered; ports are refilled; a walk fills the
translation cache, or writes its record and suspends the task of the slot it names; announcements move the clock; routers sleep after 4096
network cycles and wake. The model's readings: 4096 network cycles are 3584 core cycles (log 2, DESIGN CHOICE), reason 1 where the table has
no such address space (log 15, DEDUCED), and the slot that a walk's fault suspends (log 8, DEDUCED). -/
def Obligations.RequestTravel : Prop :=
  ∀ (s s1 : State) (r : Req) (core pick h pa : Nat) (c : Core) (d : List (Option Byte)) (q : WalkArgs) (sp : Space) (leaf : Leaf)
    (a : Announcement) (tw dst : Fin 4) (ro : Fin 64),
    let own := s.towerOf (coreOfKey r.key)
    let n := tw.val * 64 + ro.val
    let k := 4 * q.core + q.slot
    let i := s.tenantOf r.asid
    let waits (j : Nat) : Bool := c.portq.any (·.tenant == j)
    let at_ (stage : ReqStage) : Prop := s.req r.id = some r ∧ r.stage = stage
    let behind : Prop := ∃ x ∈ s.reqs.takeWhile (·.id ≠ r.id), x.key = r.key ∧ x.pa / 32 = r.pa / 32 ∧ x.unperformed = true
    let here : Prop := r.key ≠ 4112 ∧ ¬ behind ∧ homeOf r.pa = some (.tower own) ∧ s.frameStalled r.pa = false ∧
      s.pinOf (r.pa / 128) = none
    let free : Prop := here ∧ s.gapOpen own = true ∧ r.op = .store d
    let data := s.fillBytes r.pa d
    let answered (t : State) : Prop := StoredAt s.mem t.mem r.pa data ∧ cget (t.vc own) own = cget (s.vc own) own + 1 ∧
      t.req r.id = some { r with stage := .response, clock := t.vc own } ∧ Raised.responseDelivery r.id ∈ t.raised
    ((s.core core).portFree (s.cycleAt core) = false → exec (.portRequestLeave core pick) s = .next (s.raise (.portRequestLeave core pick))) ∧
    (s.reqs = [r] → coreOfKey r.key = core → r.stage = .buffer → (s.core core).portFree (s.cycleAt core) = true → (s.core core).portq = [] →
      r.cost ≤ nget (s.core core).bucket i → ∃ t, exec (.portRequestLeave core pick) s = .next t ∧
        t.reqs = [{ r with stage := .slice }] ∧ nget (t.core core).bucket i = nget (s.core core).bucket i - r.cost ∧
        (t.core core).lastCls = i ∧ (t.core core).portFree (t.cycleAt core) = false ∧ Raised.sliceRequest r.id ∈ t.raised) ∧
    (s.cores = [(core, c)] → s.towerOf core = tw.val → (∀ k < 4, 0 < nget c.shares k) →
      nget c.shares 0 + nget c.shares 1 + nget c.shares 2 + nget c.shares 3 = 64 → c.busy = #v[true, true, true, true] →
      ∃ t, exec (.shaperRefill tw) s = .next t ∧ (t.core core).busy = #v[waits 0, waits 1, waits 2, waits 3] ∧
        ∀ k < 4, nget (t.core core).bucket k = min (nget c.bucket k + 64 * nget c.shares k) (128 * nget c.shares k)) ∧
    (at_ .slice → r.rewalk = false → homeOf r.pa = some (.tower h) →
      ∃ t, exec (.sliceRequest r.id) s = .next t ∧ t.mem = s.mem ∧
        (h = own → t.req r.id = some { r with stage := .home } ∧ Raised.performAtHome r.id ∈ t.raised) ∧
        (h ≠ own → t.req r.id = some { r with stage := .rdc } ∧ Raised.remoteDataCacheRequest r.id ∈ t.raised)) ∧
    (at_ .slice → r.rewalk = true → (s.wakeRouter own (s.sliceOf own r.va)).reTranslate r = .ok pa s1 → homeOf pa = some (.tower own) →
      exec (.sliceRequest r.id) s =
        .next ((s1.putReq { r with pa := pa, rewalk := false, stage := .home }).raise (.performAtHome r.id))) ∧
    (at_ .rdc → ∃ t, exec (.remoteDataCacheRequest r.id) s = .next t ∧
      t.req r.id = some { r with stage := .home, clock := s.vc own } ∧ Raised.performAtHome r.id ∈ t.raised) ∧
    (at_ .home → free → ∃ t, exec (.performAtHome r.id) s = .next t ∧ answered t) ∧
    (at_ .home → here → s.gapOpen own = false → exec (.performAtHome r.id) s = .next (s.putReq { r with stage := .gap })) ∧
    (at_ .home → behind ∨ s.frameStalled r.pa = true ∨ s.pinnedAway (clusterOpt (coreOfKey r.key)) (r.pa / 128) = true →
      exec (.performAtHome r.id) s = .next s) ∧
    (at_ .gap → free → ∃ t, exec (.clockGapWriteResume r.id) s = .next t ∧ answered t) ∧
    (at_ .response → clockCovers (s.vc own) r.clock [own] = true → (r.scope = 0b11 → s.allApplied r.clock = true) →
      let u : State := { s.wakeCore (coreOfKey r.key) with reqs := s.reqs.filter (·.id ≠ r.id) }
      exec (.responseDelivery r.id) s = .next (if r.isRed then u.l1Drop (coreOfKey r.key) (r.pa / 128) else u)) ∧
    (at_ .response → clockCovers (s.vc own) r.clock [own] = false ∨ (r.scope = 0b11 ∧ s.allApplied r.clock = false) →
      exec (.responseDelivery r.id) s = .next s) ∧
    (s.space q.asid = none → ∃ t, exec (.translationWalk q) s = .next t ∧ (t.tower q.tower.val).faultq =
      (s.tower q.tower.val).faultq ++ [⟨q.va, q.asid, 1, q.acc, q.core, q.slot, q.cls, 0⟩] ∧
      (q.core < 1028 → q.slot < 4 → (s.ctx k).asid = q.asid → s.mustComplete k = false → (s.ctx k).run = .running →
        (t.ctx k).run = .suspending (.pageFault q.va) ∧ (t.ctx k).pc = (s.ctx k).at ∧ Raised.taskSuspension k ∈ t.raised)) ∧
    (s.space q.asid = some sp → s.walk sp.root q.va q.cls = .ok leaf → ∃ t, exec (.translationWalk q) s = .next t ∧
      t.mem = (s.setAD q.tower.val leaf (accWrite q.acc)).mem ∧ ∃ e ∈ t.tlb, e.tower = q.tower.val ∧
        e.slice = s.sliceOf q.tower.val q.va ∧ e.asid = q.asid ∧ e.cls = q.cls ∧ e.vpage = q.va / pageBytes q.cls ∧ e.frame = leaf.frame) ∧
    (s.nextAnn dst.val tw.val = some a → s.annReady a = true → ∃ t, exec (.announcementApply dst tw) s = .next t ∧
      cget (t.vc dst.val) tw.val = cget a.clock tw.val ∧ a ∉ t.anns) ∧
    ((∀ k ∈ s.routerCores tw.val ro.val, s.residents k = [] ∧ (s.core k).l1 = []) → s.routerBusy tw.val ro.val = false →
      tget 0 s.routed n + 3584 ≤ (s.tower tw.val).cycle → exec (.routerPowerGate tw ro) s = .next { s with gated := sins s.gated n }) ∧
    (s.routerBusy tw.val ro.val = true ∨ (s.tower tw.val).cycle < tget 0 s.routed n + 3584 → exec (.routerPowerGate tw ro) s = .next s) ∧
    (smem s.gated n = true → smem s.stale n = false → exec (.routerWake tw ro) s =
      .next { s with routed := tset s.routed n (s.tower tw.val).cycle, gated := sdel s.gated n }) ∧
    (smem s.gated n = true → smem s.stale n = true → ∃ t, exec (.routerWake tw ro) s = .next t ∧
      ∀ e ∈ t.tlb, ¬ (e.tower = tw.val ∧ e.slice = ro.val))

/-- R165 (10), R90 (06), R189, R190 (11), R104 (06), R309 (20), R331 (01), R79 (05): lines expire, stalled accesses are tried again, what has
been performed at system scope completes once every tower has applied it, watches travel and are withdrawn, wakes and deadlines complete
what is parked, a BUSY slot is read again every 256 network cycles, and a wait of an instruction that must complete is reported once it has
lasted 1050 cycles. The model takes 224 core cycles for 256 network cycles (log 2, DESIGN CHOICE). -/
def Obligations.WaitSteps : Prop :=
  ∀ (s : State) (k core asid vl line cl : Nat) (y : Stall) (m : Monitor) (n : NetCont) (gt : BitVec 6) (d va bar since polled : Nat) (o : Option Nat)
    (clock : Vector (BitVec 20) 4),
    let c := s.ctx k
    let ran (f : Ctx → Ctx) : Ctx := ({ f c with run := .running } : Ctx).advance 4
    let busy : Prop := c.run = .stalled (.busy va since polled)
    (∃ t, exec (.l1LineExpiry core asid vl) s = .next t ∧ ∀ l, l ∈ (t.core core).l1 ↔ l ∈ (s.core core).l1 ∧ ¬ (l.asid = asid ∧ l.vline = vl)) ∧
    (c.run = .stalled y → (∃ x, y = .refused x) ∨ y = .clock ∨ y = .drain ∨ y = .reductions ∨ y = .queue ∨ y = .pool ∨ y = .migration ∨
        y = .engine 0 → ∃ t, exec (.accessRetry k) s = .next t ∧ t.ctx k = { c with run := .running }) ∧
    (c.run = .stalled (.applied clock) →
      (s.allApplied clock = true → ∃ t, exec (.accessRetry k) s = .next t ∧ t.ctx k = { c with run := .running } ∧
        (t.core (coreOfKey k)).l1 = []) ∧
      (s.allApplied clock = false → exec (.accessRetry k) s = .next (s.raise (.accessRetry k)))) ∧
    (s.monitor cl line = some m → m.leaving = false → s.pinOf line = none →
      ∃ t, exec (.watchMessage cl line) s = .next t ∧ ∃ w ∈ t.watches, w.line = line ∧ w.cluster = cl) ∧
    (s.monitor cl line = some m → m.leaving = true → ∃ t, exec (.watchWithdrawal cl line) s = .next t ∧
      (∀ w ∈ t.watches, ¬ (w.line = line ∧ w.cluster = cl)) ∧ Raised.watchWithdrawalAck cl line ∈ t.raised) ∧
    (exec (.watchWithdrawalAck cl line) s =
      .next { s.wakeCore (monitorCore cl) with monitors := s.monitors.filter fun m => !(m.cluster == cl && m.line == line && m.leaving) }) ∧
    (s.slots = [] → monitorOf s.myCore = cl →
      (s.me.run = .parked (.wait line gt o) → ∃ t, exec (.wakeWrite cl line) s = .next t ∧
        t.me = ({ s.me.setG gt 1 with run := .running } : Ctx).advance 4) ∧
      (s.me.run = .parked (.rwait line) → ∃ t, exec (.wakeWrite cl line) s = .next t ∧ t.me = { s.me with run := .running })) ∧
    (c.run = .parked (.wait line gt (some d)) → d ≤ s.now k → ∃ t, exec (.waitTimeout k) s = .next t ∧ t.ctx k = ran (·.setG gt 2)) ∧
    (c.run = .parked (.sleep d) → d ≤ s.now k → ∃ t, exec (.sleepExpiry k) s = .next t ∧ t.ctx k = ran id) ∧
    (c.run = .parked (.barWait bar gt (some d)) → d ≤ s.now k →
      ∃ t, exec (.barWaitTimeout k) s = .next t ∧ t.ctx k = ran (·.setG gt 2)) ∧
    (busy → polled + 224 ≤ s.now k → ∃ t, exec (.busySlotPoll k) s = .next t ∧ t.ctx k = { c with run := .running }) ∧
    (busy → s.now k < polled + 224 → exec (.busySlotPoll k) s = .next s) ∧
    (busy → c.cont = some n → n.made = true → n.told = false → since + 1050 ≤ s.now k →
      exec (.busyWaitReport k) s = .next ((s.setCtx k { c with cont := some { n with told := true } }).report (.busyWait k va))) ∧
    (busy → (∀ n, c.cont = some n → n.made = false ∨ n.told = true) ∨ s.now k < since + 1050 → exec (.busyWaitReport k) s = .next s) ∧
    (s.report (.busyWait k va) = { s with courier := s.courier ++ [.busyWait k va] })

/-- R153-R159, R142 (09), R325, R327 (23): a shootdown drops what matches at a slice and its cores and is acknowledged up its tree to the
completion word, which a waiting TENSOR_SET then answers; a migration stalls a frame's writes and lifts the stall, the writes walking again;
an error poisons its piece, at home or in a copy; a dead slice's index is served by its neighbour. In phase 0xF no firmware acts (R325). The
completion word's 4 bytes are log 71 (DESIGN CHOICE), its physical address and its wait for a pin or a stall log 25 (DEDUCED); that the
host's aperture names pages of an address space, and so follows a migration, is log 55 (DESIGN CHOICE). -/
def Obligations.ShootdownAndErrors : Prop :=
  ∀ (s : State) (d : Shootdown) (t4 : Fin 4) (h : Fin 64) (x : ShootState) (frame bytes p k tw : Nat) (r : Req) (e : Nat × Nat),
    let n := t4.val * 64 + h.val
    let inRange (pg : Nat) : Prop := d.base / pageBytes d.cls ≤ pg ∧ pg < d.base / pageBytes d.cls + d.count
    let mine (asid : Nat) : Prop := d.asid = 0xFFFF ∨ asid = d.asid
    let poisoned : State := { s with poison := sins s.poison p }
    (s.shoot d.id = some x → x.reached.contains n = false → ∃ t, exec (.shootdownDescriptor d t4 h) s = .next t ∧
      (∀ e ∈ t.tlb, e.tower = t4.val → e.slice = h.val → e.cls = d.cls → mine e.asid → ¬ inRange e.vpage) ∧
      (∀ l ∈ t.l2, l.tower = t4.val → l.slice = h.val → mine l.asid → inRange (l.vline * 128 / pageBytes d.cls) →
        l.r = false ∧ l.w = false ∧ l.x = false) ∧
      (h.val = 0 → d.dropPhys = true → ∀ l ∈ t.rdc, l.tower = t4.val →
        ¬ (d.pbase ≤ l.pline * 128 ∧ l.pline * 128 < d.pbase + d.count * pageBytes d.cls)) ∧
      (∀ c < 1028, s.towerOf c = t4.val → s.routerOf c = h.val → ∀ l ∈ (t.core c).l1, mine l.asid →
        ¬ inRange (l.vline * 128 / pageBytes d.cls)) ∧
      t.mem = s.mem ∧ Raised.shootdownDrainComplete d.id t4 h ∈ t.raised) ∧
    (s.shoot d.id = none → s.phase ≠ 0xF → ∃ (t : State) (y : ShootState), exec (.shootdownDescriptor d 0 0) s = .next t ∧ t.shoot d.id = some y ∧
      0 ∈ y.reached) ∧
    (s.shoot d.id = some x → x.reached.contains n = true → x.drained.contains n = false →
      (s.shootBusy x.sd x.pins t4.val h.val = false →
        ∃ t, exec (.shootdownDrainComplete d.id t4 h) s = .next t ∧ t.shoot d.id = some { x with drained := n :: x.drained } ∧
          Raised.shootdownAck d.id t4 h ∈ t.raised) ∧
      (s.shootBusy x.sd x.pins t4.val h.val = true →
        exec (.shootdownDrainComplete d.id t4 h) s = .next (s.raise (.shootdownDrainComplete d.id t4 h)))) ∧
    (s.shoot d.id = some x → x.drained.contains n = true → x.acked.contains n = false →
      (∀ e ∈ x.edges, e.1 = n → x.acked.contains e.2 = true) →
      (n ≠ 0 → x.edges.find? (·.2 == n) = some e → ∃ t, exec (.shootdownAck d.id t4 h) s = .next t ∧
        t.shoot d.id = some { x with acked := n :: x.acked } ∧ Raised.shootdownAck d.id (Fin.ofNat 4 (e.1 / 64)) (Fin.ofNat 64 e.1) ∈ t.raised) ∧
      (n = 0 → homeOf x.sd.done = some (.tower tw) → s.frameStalled x.sd.done = false → s.pinOf (x.sd.done / 128) = none →
        ∃ t, exec (.shootdownAck d.id t4 h) s = .next t ∧ t.shoot d.id = none ∧ StoredAt s.mem t.mem x.sd.done (leBytes 4 1) ∧
          (s.mboxSd = some d.id → t.mboxSd = none ∧ t.mboxBusy = false)) ∧
      (n = 0 → s.frameStalled x.sd.done = true ∨ (s.pinOf (x.sd.done / 128)).isSome = true →
        exec (.shootdownAck d.id t4 h) s = .next (s.raise (.shootdownAck d.id t4 h)))) ∧
    (s.phase ≠ 0xF →
      exec (.migrationWriteStall frame bytes) s = .next { s with stallFrames := s.stallFrames ++ [(frame, bytes)] } ∧
      (s.reqs = [r] → r.unperformed = true → frame ≤ r.pa → r.pa < frame + bytes → ∃ t, exec (.migrationStallLift frame bytes) s = .next t ∧
        t.stallFrames = s.stallFrames.filter (· ≠ (frame, bytes)) ∧
        (r.stage = .buffer → t.reqs = [{ r with rewalk := true }]) ∧
        (r.stage ≠ .buffer → t.reqs = [{ r with stage := .slice, rewalk := true }] ∧ Raised.sliceRequest r.id ∈ t.raised) ∧
        t.mem = s.mem ∧ t.aperture = s.aperture) ∧
      (∀ w ∈ s.held, ∀ c, w.kind = .doneWord c true → ∃ t, exec (.migrationStallLift frame bytes) s = .next t ∧
        Raised.heldWriteRelease w.id ∈ t.raised) ∧
      (∃ t, exec (.sliceMarkedDead t4 h) s = .next t ∧ (∀ va, sliceHash va = h.val → t.sliceOf t4.val va = h.val ^^^ 1) ∧ t.mem = s.mem)) ∧
    (s.phase = 0xF → ∀ i ∈ [Instr.migrationWriteStall frame bytes, .migrationStallLift frame bytes, .sliceMarkedDead t4 h],
      exec i s = .next s) ∧
    (homeOf (p * 32) = some (.tower tw) → exec (.uncorrectableError (.memory p)) s = .next poisoned) ∧
    ((∃ l ∈ s.l2, l.tower = t4.val ∧ l.pline = p / 4) → exec (.uncorrectableError (.l2 t4 p)) s = .next poisoned) ∧
    (smem s.msc (p / 4) = true → exec (.uncorrectableError (.msc p)) s = .next poisoned) ∧
    (∃ t, exec (.uncorrectableError (.l1 k p)) s = .next t ∧ (∀ l ∈ (t.core k).l1, l.pline = p / 4 → p ∈ l.poison) ∧ t.poison = s.poison) ∧
    (∃ t, exec (.uncorrectableError (.rdc t4 p)) s = .next t ∧ (∀ l ∈ t.rdc, l.tower = t4.val → l.pline = p / 4 → p ∈ l.poison) ∧
      t.poison = s.poison) ∧
    (p < 2 ^ 19 → exec (.uncorrectableError (.bstore k p)) s = .next { s with bstorePoison := sins s.bstorePoison (k * 2 ^ 19 + p) }) ∧
    (p < 2 ^ 17 → exec (.uncorrectableError (.tile k p)) s = .next { s with accPoison := sins s.accPoison (k * 2 ^ 17 + p) }) ∧
    ((s.ctx k).run ≠ .empty → p < 128 * (s.ctx k).scratch → exec (.uncorrectableError (.scratch k p)) s =
      .next (s.setCtx k { s.ctx k with poison := sins (s.ctx k).poison p }))

/-! ## The Sorting Office on its own (13 R202-R220) -/

/-- R202-R206, R212-R214 (13), R25 (01): meets enter their pigeonhole, or the fault pigeonhole without an entry, and are held where it has no room; a
unit is given, or waits for, the key that it needs next, once, and keys are handed on; a slot takes the meet that holds its keys, or one that needs
none, with the agents in g8 and g9. That a step which nothing has raised changes nothing is log 21 (DESIGN CHOICE); a ring's size, and its enlargement
at HELD_ENQUEUE_ENTRY, are log 76 (DESIGN CHOICE). -/
def Obligations.MeetsAndKeys : Prop :=
  ∀ (s s1 : State) (asid core x y k unit u2 key k2 w : Nat) (ka kb : BitVec 12) (e : RuleEntry) (m : MeetRec) (u : KeyUnit) (t4 : Fin 4) (ks ws : List Nat)
    (ent : KeyEntry) (rest : List (Nat × Nat)) (f : PigeonFault) (fs : List PigeonFault),
    let tw := s.agentTower asid x
    let home := s.tower (keyHome key)
    let x4 := s.tower t4.val
    let grown := if s.phase = 0xF then x4 else (s.enlarge t4.val).tower t4.val
    let given : State := { s with raised := .keyRelease unit key :: s.raised }
    let asked : Prop := s.kindsOf tw asid core x y = .ok (ka, kb) s1
    let fault : PigeonFault := .meet asid x y 0x0F (BitVec.ofNat 64 (ka.toNat + kb.toNat * 2 ^ 16))
    let record : MeetRec := ⟨asid, core, x, y, e.stage, e.prio, s1.nextId⟩
    let sent : State := { s with raised := .meetEnqueue asid core x y :: s.raised }
    let asks : Prop := (∃ u, s.unitOf unit = some u ∧ u.need.head? = some key) ∧ (unit, key) ∉ home.keyWait ∧
      ∀ e ∈ home.keys, e.key = key → e.holder ≠ unit ∧ unit ∉ e.waiters
    let next : Prop := s.slotFree k = true ∧ s.coreOpen (coreOfKey k) = true ∧ s.restoreFor (coreOfKey k) = none
    let placed (t : State) : Prop := (t.ctx k).run = .running ∧ (t.ctx k).pc = e.code ∧ (t.ctx k).getG 8 = BitVec.ofNat 64 m.x ∧
      (t.ctx k).getG 9 = BitVec.ofNat 64 m.y ∧ (t.ctx k).asid = m.asid ∧ Raised.slotFill k ∈ t.raised
    ((∀ c, Raised.meetEnqueue asid c x y ∉ s.raised) → exec (.meetEnqueue asid x y) s = .next s) ∧
    (s.kindsOf tw asid core x y = .wait s1 → exec (.meetEnqueue asid x y) sent = .next (s1.raise (.meetEnqueue asid core x y))) ∧
    (asked → findRule (s1.published tw asid) ka kb = none → ∃ t, exec (.meetEnqueue asid x y) sent = .next t ∧
      ((s1.tower tw).heldFault = [] → (s1.tower tw).pfault.length < (s1.tower tw).pigeonCap 8 →
        (t.tower tw).pfault = (s1.tower tw).pfault ++ [fault]) ∧
      (¬ ((s1.tower tw).heldFault = [] ∧ (s1.tower tw).pfault.length < (s1.tower tw).pigeonCap 8) →
        (t.tower tw).heldFault = (s1.tower tw).heldFault ++ [fault])) ∧
    (asked → findRule (s1.published tw asid) ka kb = some e → ∃ t, exec (.meetEnqueue asid x y) sent = .next t ∧
      ((s1.tower tw).hasRoom e.stage = true → (∀ r ∈ (s1.tower tw).heldEnq, r.stage ≠ e.stage) →
        (t.tower tw).pigeon = (s1.tower tw).pigeon ++ [record]) ∧
      ((s1.tower tw).hasRoom e.stage = false ∨ (∃ r ∈ (s1.tower tw).heldEnq, r.stage = e.stage) →
        (t.tower tw).heldEnq = (s1.tower tw).heldEnq ++ [record])) ∧
    (x4.heldEnq.find? (fun r => grown.hasRoom r.stage) = some m →
      ∃ t, exec (.heldEnqueueEntry t4) s = .next t ∧ (t.tower t4.val).pigeon = x4.pigeon ++ [m] ∧ (t.tower t4.val).heldEnq = x4.heldEnq.erase m) ∧
    (x4.heldEnq.find? (fun r => grown.hasRoom r.stage) = none → x4.heldFault = f :: fs → x4.pfault.length < grown.pigeonCap 8 →
      ∃ t, exec (.heldEnqueueEntry t4) s = .next t ∧ (t.tower t4.val).pfault = x4.pfault ++ [f] ∧ (t.tower t4.val).heldFault = fs) ∧
    (next → s.bestWork (coreOfKey k) = some (.unit u m e) → s.slotTakes k e.shape = true → ∃ t, exec (.slotFill k) s = .next t ∧ placed t) ∧
    (next → s.bestWork (coreOfKey k) = some (.meet m) → s.kindsOf (s.towerOf (coreOfKey k)) m.asid m.core m.x m.y = .ok (ka, kb) s1 →
      findRule (s1.published (s.towerOf (coreOfKey k)) m.asid) ka kb = some e → e.nkeys = 0 → s1.slotTakes k e.shape = true →
      ∃ t, exec (.slotFill k) s = .next t ∧ placed t) ∧
    (¬ asks → exec (.keyRequest unit key) s = .next s) ∧
    (asks → home.keys.find? (·.key == key) = none → home.keys.length < 8192 → ∃ t, exec (.keyRequest unit key) s = .next t ∧
      t.keyHolder key = some unit ∧ Raised.keyGrant unit key ∈ t.raised) ∧
    (asks → home.keys.find? (·.key == key) = none → 8192 ≤ home.keys.length → ∃ t, exec (.keyRequest unit key) s = .next t ∧
      (t.tower (keyHome key)).keyWait = home.keyWait ++ [(unit, key)] ∧ t.keyHolder key = none) ∧
    (asks → home.keys.find? (·.key == key) = some ent → ∃ t, exec (.keyRequest unit key) s = .next t ∧
      (t.tower (keyHome key)).keys.find? (·.key == key) = some { ent with waiters := ent.waiters ++ [unit] }) ∧
    (s.unitOf unit = none → exec (.keyGrant unit key) s = .next { s with raised := s.raised ++ [.keyRelease unit key] }) ∧
    (s.unitOf unit = some u → u.need = key :: w :: ks → s.keyHolder key ≠ some unit → exec (.keyGrant unit key) s = .next s) ∧
    (s.unitOf unit = some u → u.need = key :: w :: ks → s.keyHolder key = some unit → ∃ t, exec (.keyGrant unit key) s = .next t ∧
      t.unitOf unit = some { u with need := w :: ks, held := u.held ++ [key] } ∧ Raised.keyRequest unit w ∈ t.raised) ∧
    (home.keys.find? (·.key == key) = some ent → ent.holder = unit → ent.waiters = [] →
      ∃ t, exec (.keyRelease key) given = .next t ∧ t.keyHolder key = none) ∧
    (home.keys.find? (·.key == key) = some ent → ent.holder = unit → ent.waiters = w :: ws → ∃ t, exec (.keyRelease key) given = .next t ∧
      t.keyHolder key = some w ∧ Raised.keyGrant w key ∈ t.raised) ∧
    (s.keyHolder key ≠ some unit → exec (.keyRelease key) given = .next s) ∧
    ((∀ n, Raised.keyRelease n key ∉ s.raised) → exec (.keyRelease key) s = .next s) ∧
    (t4.val = keyHome key → home.keyWait = (unit, key) :: rest → home.keys.find? (·.key == key) = none → home.keys.length < 8192 →
      ∃ t, exec (.keyTableEntryFree t4) s = .next t ∧ t.keyHolder key = some unit ∧
        (rest = [] ∨ home.keys.length = 8191 → (t.tower t4.val).keyWait = rest)) ∧
    (t4.val = keyHome key → t4.val = keyHome k2 → home.keyWait = [(unit, key), (u2, k2)] → home.keys.find? (·.key == key) = some ent →
      home.keys.find? (·.key == k2) = none → home.keys.length < 8192 →
      ∃ t, exec (.keyTableEntryFree t4) s = .next t ∧ t.keyHolder k2 = some u2 ∧ (t.tower t4.val).keyWait = [] ∧
        (t.tower t4.val).keys.find? (·.key == key) = some { ent with waiters := ent.waiters ++ [unit] })

/-- R209-R211, R215, R219, R221 (13), R25 (01), R232, R236, R240 (14): a launch's group acquires its keys and is placed, unless a free slot it
would take goes to something else first; its tasks are dispatched with their arguments; the successor starts in the held slots, once all are
held and the group holds the keys that it declares and no other (R53 of 03); the governor
moves one core; settings and publications take effect on each tower and complete with the last answer. That all four towers publish the
shadow as it stood at the first flip is log 39 (DEDUCED). -/
def Obligations.GroupsAndGovernor : Prop :=
  ∀ (s : State) (l : Launch) (u n gid core k cls c key : Nat) (g : Group) (d : KDesc) (tw : Fin 4) (ga gb : Word) (asid : Nat) (sp : Space)
    (ks : List Nat),
    let x := s.tower tw.val
    let occ (i : Nat) : Nat := x.occupancy (BitVec.ofNat 3 i)
    let waits (m : Nat) : Prop := (s.ctx key).run = .stalled (.towers m)
    let answered (t : State) (m : Nat) : Prop := (m = 1 → t.ctx key = ({ s.ctx key with run := .running } : Ctx).advance 4) ∧
      (1 < m → t.ctx key = { s.ctx key with run := .stalled (.towers (m - 1)) })
    let high : BitVec 16 := gb.extractLsb' 0 16
    let low : BitVec 16 := gb.extractLsb' 16 16
    let gen := (tfind sp.pending key).getD sp.shadow
    let ready : Prop := s.launches.find? (·.id == l.id) = some l ∧ l.unit = some u ∧ s.groupReady l = true ∧ s.findPosition l = some n
    let sent : Prop := s.groupOf gid = some g ∧ s.reserved.find? (fun r => r.2 == gid && coreOfKey r.1 == core) = some (k, gid)
    (s.launches.find? (·.id == l.id) = some l → l.unit = none →
      recipeKeys l.desc.nkeys l.desc.keys (l.keyarg + BitVec.ofNat 64 l.next) = key :: ks →
      ∃ t, exec (.groupPlacement l.id) s = .next t ∧ t.units = s.units ++ [⟨s.nextId, l.tower, .group l.id l.next, key :: ks, []⟩] ∧
        Raised.keyRequest s.nextId key ∈ t.raised) ∧
    (ready → (∀ c ∈ l.cores n, s.outranked l c = false) →
      ∃ (t : State) (g : Group), exec (.groupPlacement l.id) s = .next t ∧ t.groups = s.groups ++ [g] ∧ g.desc = l.desc ∧ g.index = l.next ∧
        g.asid = l.asid ∧
        g.args = l.args ∧ ∀ co ∈ l.cores n, Raised.groupDispatch g.gid co ∈ t.raised) ∧
    (ready → c ∈ l.cores n → s.outranked l c = true → s.slotFor c l.desc.shape = some k →
      ∃ t, exec (.groupPlacement l.id) s = .next t ∧ t.groups = s.groups ∧ t.launches = s.launches ∧ Raised.slotFill k ∈ t.raised) ∧
    (sent → (s.core core).stopped = true → exec (.groupDispatch gid core) s = .next (s.raise (.groupDispatch gid core))) ∧
    (sent → (s.core core).stopped = false → s.coreLive core = false → exec (.groupDispatch gid core) s = .next (s.dropDispatch k gid)) ∧
    (sent → (s.core core).stopped = false → s.coreLive core = true →
      ∃ t, exec (.groupDispatch gid core) s = .next t ∧ (t.ctx k).run = .running ∧ (t.ctx k).pc = g.desc.code ∧
        (t.ctx k).getG 3 = g.args[0] ∧ (t.ctx k).getG 4 = g.args[1] ∧ (t.ctx k).getG 5 = g.args[2] ∧ (t.ctx k).getG 6 = g.args[3] ∧
        (t.ctx k).getG 7 = g.args[4] ∧ (t.ctx k).getG 8 = g.args[5] ∧ (t.ctx k).getG 9 = BitVec.ofNat 64 g.index ∧ (t.ctx k).gid = some gid) ∧
    (s.groupOf gid = some g → g.succ = some d →
      (g.broken = true ∨ g.held ≠ g.live ∨ (∃ k ∈ g.succKeys d, k ∉ s.unitKeys g.unit) → exec (.successorStart gid) s = .next s) ∧
      (g.broken = false → g.held = g.live → (∀ k ∈ g.succKeys d, k ∈ s.unitKeys g.unit) → (∃ k ∈ s.unitKeys g.unit, k ∉ g.succKeys d) →
        exec (.successorStart gid) s = .next (s.raise (.successorStart gid)))) ∧
    (s.groupOf gid = some g → g.succ = some d → g.broken = false → g.held = g.live → (∀ k, k ∈ g.succKeys d ↔ k ∈ s.unitKeys g.unit) →
      s.slots = [] → s.me.gid = some gid → s.me.run = .held → ∃ t, exec (.successorStart gid) s = .next t ∧ t.me.run = .running ∧
        t.me.pc = d.code ∧ t.me.regs = d.regs ∧ t.me.scratch = d.scratch ∧ t.groupOf gid = some { g with desc := d, held := 0, succ := none }) ∧
    (cls < 8 → (∀ i < 8, i ≠ cls → occ i ≤ (x.high[i]!).toNat ∧ (x.low[i]!).toNat ≤ occ i) → (x.high[cls]!).toNat < occ cls →
      s.movedFirst ((s.coresOf tw.val).filter fun c => s.coreLive c && !(s.core c).serves (BitVec.ofNat 3 cls) && (s.core c).rested x.cycle) = some c →
      ∃ t, exec (.governorEvaluation tw) s = .next t ∧ t.core c =
        { s.core c with saved := some (s.core c).mask, mask := 1#8 <<< cls, movedTo := cls, movedAt := x.cycle }) ∧
    (waits n → 1 ≤ n → ∃ t, exec (.governorSetting tw key ga gb) s = .next t ∧ answered t n ∧
      (ga.toNat / 2 ^ 8 % 4 = 0 → low.toNat ≤ high.toNat → (t.tower tw.val).high[(ga.toNat % 8)]! = high ∧ (t.tower tw.val).low[(ga.toNat % 8)]! = low) ∧
      (ga.toNat / 2 ^ 8 % 4 = 0 → high.toNat < low.toNat → t.tower tw.val = x) ∧
      (ga.toNat / 2 ^ 8 % 4 = 1 → t.tower tw.val = { x with phase := gb.setWidth 4 })) ∧
    (waits n → 1 ≤ n → s.space asid = some sp → ∃ (t : State) (y : Space), exec (.rulePublicationFlip tw asid key) s = .next t ∧ answered t n ∧
      t.published tw.val asid = gen ∧ t.space asid = some y ∧ y.shadow = sp.shadow ∧ (1 < n → tfind y.pending key = some gen))

/-- R75, R78-R80 (05), R126 (08), R214, R220, R221 (13), R325 (23): a slot is halted for a pre-emption, at once or after an instruction that must
complete; its context goes to its frame, is released and restored; tasks are ended; a faulted core is stopped, its task suspended or ended, and
once it is empty the core is tested; a supervisor core's access reaches its target. In phase 0xF no firmware acts. What must complete before
a halt is the model's reading of R79 (log 51, DEDUCED); an access whose s.target names a service port reads a region register without the
error bit (log 69, DESIGN CHOICE). A restored task's scratch pages come back on their first access (R152). That a task held for its successor
is suspended and restored as one that waits for it is log 112 (DESIGN CHOICE). -/
def Obligations.SuspensionSteps : Prop :=
  ∀ (s : State) (key tid core : Nat) (cause : Cause) (x : Suspended) (readable passes write : Bool) (tw : Fin 4) (num : BitVec 12) (val : Word) (i : Fin 8)
    (d : KDesc) (gid : Nat) (g : Group),
    let c := s.ctx key
    let sup := 1024 + tw.val
    let target := s.targetOf (s.core sup).target
    let named : Prop := (regionIndex num).isSome = true ∨ num = 0x050
    let fault : Instr := .coreFault core readable passes
    let mine : Prop := s.coreLive core = true ∧ isSup core = false
    let halts : Prop := c.run = .running ∨ (∃ p, c.run = .parked p) ∨ ∃ y, c.run = .stalled y ∧ ∀ id, y ≠ .engine id
    let u := s.unpinTask c.tid
    let home (co : Nat) : Option SlotKey := if (s.restoreFor co).any (·.ctx.tid == tid) then s.restoreSlot x co else none
    (s.phase ≠ 0xF →
      (halts → s.mustComplete key = false → ∃ t, exec (.preemptionRequest key) s = .next t ∧ (t.ctx key).run = .suspending .preempt ∧
        (t.ctx key).pc = c.at ∧ (t.ctx key).g = c.g ∧ Raised.taskSuspension key ∈ t.raised) ∧
      (c.run = .running ∨ (∃ y, c.run = .stalled y) → s.mustComplete key = true →
        exec (.preemptionRequest key) s = .next (s.setCtx key { c with preempt := true })) ∧
      (s.suspendedOf tid = some x → ∃ t, exec (.taskRelease tid) s = .next t ∧ t.suspendedOf tid = some { x with cleared := true } ∧
        Raised.taskRestore tid ∈ t.raised) ∧
      (s.keyOf tid = none → s.suspendedOf tid = some x → x.ctx.gid = none → ∃ t, exec (.courierEndTask tid) s = .next t ∧
        (∀ y ∈ t.suspended, y.ctx.tid ≠ tid) ∧ CourierRec.taskEnded tid ∈ t.courier) ∧
      (s.keyOf tid = some key → halts → ∃ t, exec (.courierEndTask tid) s = .next t ∧ (t.ctx key).run = .suspending .ended ∧
        Raised.taskSuspension key ∈ t.raised) ∧
      (target = none → named → ∃ t, exec (.remoteRegisterAccess tw write num val) s = .next t ∧
        (t.core sup).target = (s.core sup).target ||| 0x80000000) ∧
      (target = some core → named → exec (.remoteRegisterAccess tw false num val) s = .next s) ∧
      (target = some core → regionIndex num = some i →
        (core < 1028 → ∃ t, exec (.remoteRegisterAccess tw true num val) s = .next t ∧ (t.core core).region[i] = val &&& 0x80FFFFFFFFE000FF) ∧
        (1028 ≤ core → ∃ t, exec (.remoteRegisterAccess tw true num val) s = .next t ∧
          (t.core sup).target = (s.core sup).target ||| 0x80000000)) ∧
      (target = some core → regionIndex num = none → num = 0x050 →
        ∃ t, exec (.remoteRegisterAccess tw true num val) s = .next t ∧ t.core core = (s.core core).setShaper val)) ∧
    (s.phase = 0xF → ∀ j ∈ [Instr.preemptionRequest key, .taskRelease tid, .courierEndTask tid, .remoteRegisterAccess tw write num val, fault,
      .coreStallDetect core readable passes], exec j s = .next s) ∧
    (c.run = .suspending cause → u.suspendReady key = false → exec (.taskSuspension key) s = .next (u.raise (.taskSuspension key))) ∧
    (c.run = .suspending cause → cause ≠ .ended → u.suspendReady key = true → ∃ (t : State) (y : Suspended), exec (.taskSuspension key) s = .next t ∧
      t.suspended = u.suspended ++ [y] ∧ y.ctx = (u.ctx key).saved cause ∧ y.cause = cause ∧ y.core = coreOfKey key ∧ (t.ctx key).run = .empty) ∧
    (s.suspendedOf tid = some x → x.cleared = true → firstSome home (s.restoreOrder x) = some key →
      (x.ctx.succ = none → ∃ t, exec (.taskRestore tid) s = .next t ∧ t.ctx key = { x.ctx with run := .running } ∧
        ∀ y ∈ t.suspended, y.ctx.tid ≠ tid) ∧
      (x.ctx.succ = some d → x.ctx.gid = some gid → s.groupOf gid = some g → g.broken = false → g.held + 1 ≠ g.live →
        ∃ t, exec (.taskRestore tid) s = .next t ∧ t.ctx key = { x.ctx with run := .held } ∧
          t.groupOf gid = some { g with held := g.held + 1, succ := some d })) ∧
    (s.phase ≠ 0xF → mine → (s.core core).stopped = false → s.slots = [] → s.myCore = core → s.me.run = .running →
      ∃ t, exec fault s = .next t ∧ t.me.run = .suspending (if readable then .coreFault else .ended) ∧
        (t.core core).stopped = true ∧ CourierRec.coreFaulted core ∈ t.courier ∧ Raised.coreFault core readable passes ∈ t.raised) ∧
    (s.phase ≠ 0xF → mine → (s.core core).stopped = false → s.slots = [] → s.myCore = core → s.me.run = .held → s.me.gid = some gid →
      s.groupOf gid = some g → ∃ t, exec (.coreFault core true passes) s = .next t ∧ t.me = { s.me with run := .suspending .coreFault } ∧
        t.groupOf gid = some { g with held := g.held - 1 } ∧ Raised.taskSuspension s.cur ∈ t.raised) ∧
    (s.phase ≠ 0xF → mine → (s.core core).stopped = true → s.residents core = [] →
      ∃ t, exec fault s = .next t ∧ (t.core core).stopped = false ∧ (t.core core).dead = !passes ∧
        (passes = true → ∀ k ∈ slotKeys core, Raised.slotFill k ∈ t.raised) ∧ (passes = false → Raised.enumerationUpdate ∈ t.raised)) ∧
    (s.phase ≠ 0xF → mine → (s.core core).stopped = true → s.residents core ≠ [] → exec fault s = .next (s.raise (.coreFault core readable passes))) ∧
    (s.coreStuck core = true → exec (.coreStallDetect core readable passes) s = exec fault s) ∧
    (s.coreStuck core = false → exec (.coreStallDetect core readable passes) s = .next s)

/-! ## Engines on their own (16, 17, 19, 20) -/

/-- R246, R247, R253, R254, R256 (16), R262-R267 (17), R160 (09), R176 (10): the arbiter starts a command, whose attached phase reads the ring's
control block or translates the block; a K-step and a chunk, once the port has been paid, read their rows piece by piece (R16 of 01), a step each in a
free order, and with the last add their products to the tile; the progress of an MMA.RG is that of whole chunks; a command whose slot is halted stops;
completion does the detached part, a BLD and an AST piece by piece, and frees the array. That the products of a K-step, and of a whole chunk of
MMA.RG, are one step is the model's reading (log 47, DEDUCED); so is the end of the task's own pin before a piece of an AST at device or system scope
(log 97, DEDUCED). -/
def Obligations.MatrixSteps : Prop :=
  ∀ (s s1 s2 s3 s4 : State) (cl q left n va : Nat) (c c1 c2 c3 c4 : MCmd) (rows : List ARow) (b : List (List Val × Val)) (h : QReg) (bs : List PByte)
    (tt : Table (BitVec 32)) (m ms : List (Nat × Nat)) (l rest : List (Nat × List (Nat × PByte))) (p k : Nat) (cs : List (Nat × PByte)),
    let x := shapeOf c.shape
    let gone (t : State) : Prop := ∀ y ∈ t.mcmds, y.id ≠ c.id
    let chosen := s.setCluster cl { s.cluster cl with lastQ := q, turnLeft := left, runCmd := some c.id }
    let reads := c.aAccesses (List.range x.m) [c.step]
    let step := engineCost reads
    let counts := pringCounts bs
    let on := (upFrom (8 * (c.step / x.steps)) 8).filter fun i => decide (i < n)
    let chunkReads := c.aAccesses on (List.range x.steps)
    let chunk := 32 + engineCost chunkReads
    let more (u t : State) (y : MCmd) (bs : List PByte) (r : Raised) : Prop :=
      { y with got := y.got ++ [(va, bs)] } ∈ t.mcmds ∧ t.acc = u.acc ∧ t.mem = u.mem ∧ t.bstore = u.bstore ∧ r ∈ t.raised
    let block := engineCost c.blockAccesses
    let cells := c.astRows s (aWin c.gb) (List.range (aWin c.gb).rows) c.sr
    let at_ (u : State) (pc : Nat) := u.blockPa c1 .engWrite (pc * 32)
    let taken : State := { s1 with free := s1.free + 1 }
    let line := taken.blockPa c1 .engRead va / 128
    let seen := taken.reachBlock c1 line
    let filled : MCmd := { c1 with got := c1.got ++ [(va, seen.blockBytes c1 va k)] }
    let ready := taken.engUnpin (taken.mWho c1) c1.tid c1.e.scope (at_ taken p)
    let attached : Prop := s.runningM cl = some c ∧ c.phase = .attached ∧ s.heldM c = true
    let detached : Prop := s.runningM cl = some c ∧ c.phase = .detached
    ((s.cluster cl).runCmd = none → s.nextQueue cl = some (q, left) →
      s.mcmds.find? (fun y => y.cluster == cl && y.queue == q && y.inQueue) = some c →
      (c.op = .aclr → exec (.matrixArbiterSelect cl) s = .next (chosen.raise (.matrixCommandComplete c.cluster))) ∧
      (c.op = .mma → c.ring = none → ∃ t, exec (.matrixArbiterSelect cl) s = .next t ∧ (t.cluster cl).runCmd = some c.id ∧
        { c with phase := .attached } ∈ t.mcmds ∧ Raised.mmaKStep c.cluster ∈ t.raised) ∧
      (c.op = .mma ∨ c.op = .rg → c.ring = some h → chosen.payM c 32 = (c1, s1) → 32 ≤ c1.paid → s1.ringRead c1 h = .ok bs s2 →
        (anyPoison bs = true → exec (.matrixArbiterSelect cl) s = .next (s2.trapM c1 0x05)) ∧
        (anyPoison bs = false → c.op = .mma → counts.filled.toNat < x.m → exec (.matrixArbiterSelect cl) s = .next (s2.trapM c1 0x04)) ∧
        (anyPoison bs = false → (c.op = .mma → x.m ≤ counts.filled.toNat) → ∃ t, exec (.matrixArbiterSelect cl) s = .next t ∧
          { c1 with phase := .attached, head := counts.head.toNat, paid := 0 } ∈ t.mcmds ∧
          (t.ctx c.key).getG c.gbReg = (if c.gbReg = 0 then 0 else putProgress ((s2.ctx c.key).getG c.gbReg)
            (if c.op = .rg then c.step / x.steps * x.steps else c.step)) ∧
          (if c.op = .rg then Raised.mmaRgChunkStart c.cluster else Raised.mmaKStep c.cluster) ∈ t.raised)) ∧
      (c.op = .bld ∨ c.op = .ast →
        let start := chosen.mapLines (chosen.mWho c) (if c.op = .bld then .engRead else .engWrite) (c.blockLines c.block.1 c.block.2)
        (start = .fault va s1 → exec (.matrixArbiterSelect cl) s = .next (s1.faultM c va)) ∧
        (start = .ok m s1 → ∃ t, exec (.matrixArbiterSelect cl) s = .next t ∧ { c with map := m, phase := .detached } ∈ t.mcmds ∧
          t.ctx c.key = ({ s1.ctx c.key with run := .running } : Ctx).advance 8 ∧ Raised.matrixCommandComplete c.cluster ∈ t.raised))) ∧
    (attached → c.op = .mma → s.payM c step = (c1, s1) →
      (c1.paid < step → exec (.mmaKStep cl) s = .next (s1.raise (.mmaKStep c1.cluster))) ∧
      (step ≤ c1.paid → takeAny s1.free (c1.unread reads) = some ((va, k), ms) → ms ≠ [] → taken.engRead (taken.mWho c1) va k = .ok bs s2 →
        ∃ t, exec (.mmaKStep cl) s = .next t ∧ more s2 t c1 bs (.mmaKStep c1.cluster)) ∧
      (step ≤ c1.paid → s1.readOn c1 reads = .ok (some c2) s2 →
        (c2.aRows (List.range x.m) c.step = some rows →
          (c2.bColumns s2 c.step = some b → ∃ t, exec (.mmaKStep cl) s = .next t ∧ t.acc = rows.foldl (c2.addStep b) s2.acc ∧ t.mem = s2.mem) ∧
          (c2.bColumns s2 c.step = none → exec (.mmaKStep cl) s = .next (s2.trapM c2 0x05))) ∧
        (c2.aRows (List.range x.m) c.step = none → exec (.mmaKStep cl) s = .next (s2.trapM c2 0x05)))) ∧
    (attached → c.op = .rg → c.ring = some h →
      (c.count = none → s.payM c 32 = (c1, s1) → 32 ≤ c1.paid → s1.ringRead c1 h = .ok bs s2 → anyPoison bs = false →
        exec (.mmaRgChunkStart cl) s = .next (s2.chunkRows { c1 with count := some counts.filled.toNat } counts.filled.toNat)) ∧
      (c.count = some n → s.payM c chunk = (c1, s1) → chunk ≤ c1.paid → takeAny s1.free (c1.unread chunkReads) = some ((va, k), ms) → ms ≠ [] →
        taken.engRead (taken.mWho c1) va k = .ok bs s2 → ∃ t, exec (.mmaRgChunkStart cl) s = .next t ∧ more s2 t c1 bs (.mmaRgChunkStart c1.cluster)) ∧
      (c.count = some n → s.payM c chunk = (c3, s3) → chunk ≤ c3.paid → s3.readOn c3 chunkReads = .ok (some c4) s4 →
        (c4.chunkSteps s4 on (List.range x.steps) s4.acc = some tt → ∃ t, exec (.mmaRgChunkStart cl) s = .next t ∧ t.acc = tt) ∧
        (c4.chunkSteps s4 on (List.range x.steps) s4.acc = none → exec (.mmaRgChunkStart cl) s = .next (s4.trapM c4 0x05)))) ∧
    (s.runningM cl = some c → c.phase = .attached → s.heldM c = false → ∃ t, exec (.matrixCommandStop cl) s = .next t ∧ gone t ∧ t.acc = s.acc) ∧
    (detached → c.op = .mma ∨ c.op = .rg → ∃ t, exec (.matrixCommandComplete cl) s = .next t ∧ gone t ∧ t.acc = s.acc) ∧
    (detached → c.op = .aclr → ∃ t, exec (.matrixCommandComplete cl) s = .next t ∧ gone t ∧
      t.mem = s.mem ∧ ∀ e ∈ t.acc, e.1 / 32768 ≠ c.tile) ∧
    (detached → c.op = .bld → s.payM c block = (c1, s1) →
      (c1.paid < block → exec (.matrixCommandComplete cl) s = .next (s1.againM c1)) ∧
      (block ≤ c1.paid → takeAny s1.free (c1.unread c1.blockAccesses) = some ((va, k), ms) →
        (s1.pinnedAway (some c.cluster) (s1.blockPa c1 .engRead va / 128) = true → exec (.matrixCommandComplete cl) s = .next (taken.againM c1)) ∧
        (s1.pinnedAway (some c.cluster) (s1.blockPa c1 .engRead va / 128) = false →
          (ms ≠ [] → ∃ t, exec (.matrixCommandComplete cl) s = .next t ∧ more s t c1 (seen.blockBytes c1 va k) (.matrixCommandComplete c1.cluster)) ∧
          (ms = [] → ∃ t, exec (.matrixCommandComplete cl) s = .next t ∧ gone t ∧ t.mem = s.mem ∧
            t.bstore = (seen.putB filled.bldCells).bstore)))) ∧
    (detached → c.op = .ast → c.outs = none → ∃ (t : State) (y : MCmd), exec (.matrixCommandComplete cl) s = .next t ∧ y ∈ t.mcmds ∧ y.id = c.id ∧
      y.outs = some (((cells.map (·.1 / 32)).foldl sins []).map fun p => (p, cells.filter fun z => z.1 / 32 == p)) ∧ t.mem = s.mem ∧
      t.acc = (if c.mode then s.zeroWindow c.tile (aWin c.gb) else s).acc ∧ Raised.matrixCommandComplete c.cluster ∈ t.raised) ∧
    (detached → c.op = .ast → c.outs = some l → l ≠ [] → s.payM c block = (c1, s1) → block ≤ c1.paid → takeAny s1.free l = some ((p, cs), rest) →
      (ready.engWait (taken.mWho c1) c1.e.scope (at_ taken p) = true → exec (.matrixCommandComplete cl) s = .next (ready.againM c1)) ∧
      (ready.engWait (taken.mWho c1) c1.e.scope (at_ taken p) = false → ∃ (t : State) (y : MCmd), exec (.matrixCommandComplete cl) s = .next t ∧
        t.mem = (ready.putPiece (taken.mWho c1).tower (cs.map fun z => (at_ taken p + z.1 % 32, z.2)) (at_ taken p / 32)).mem ∧
        y ∈ t.mcmds ∧ y.id = c.id ∧ y.outs = some rest)) ∧
    (detached → c.op = .ast → c.outs = some [] →
      (c.e.scope = 0b11 → s.allApplied c.clock = false → exec (.matrixCommandComplete cl) s = .next (s.againM c)) ∧
      (c.e.scope ≠ 0b11 ∨ s.allApplied c.clock = true → ∃ t, exec (.matrixCommandComplete cl) s = .next t ∧ gone t ∧ t.mem = s.mem))

/-- R278-R282, R293, R294 (19), R298, R300, R306 (20), R160 (09), R176 (10), R221 (13), R313 (22), R325 (23): an engine starts and reads its
commands, each piece once the port has been paid; it writes and replicates pieces, holds, releases and abandons writes, and writes the
completion word or sends the record once nothing of the command, nor of its stopped executions, is outstanding. A CSNAP completes as an
acquire (R313); in phase 0xF no firmware releases or abandons a write (R325). That what a command completes with waits for its stopped
executions too is the model's reading of R280 (log 82, DEDUCED), and so is the wait at a pin (log 97, DEDUCED). -/
def Obligations.EngineSteps : Prop :=
  ∀ (s s1 s2 : State) (cl id pa va k n tid : Nat) (c c1 : ECmd) (p : Piece) (rest : List Piece) (bs : List PByte) (h : Held) (tw : Nat),
    let start : Instr := .engineCommandStart cl id
    let at_ := c.dst.addr + p.off
    let data := p.data.map (·.1)
    let w := s.eWho c
    let next : State := { s with free := s.free + 1 }
    let pages := next.engPages w c.dst.cls .engWrite (linesOf at_ p.data.length)
    let reading : Prop := id ≠ 0 ∧ s.ecmd id = some c ∧ c.phase = .attached ∧ s.heldE c = true ∧ c.prog < c.len ∧ c.roomWait = false ∧
      s.behindStuck c = false ∧ c.inReach = true ∧ n = min 32 (c.len - c.prog) ∧ s.payE c = (c1, s1)
    let read : Prop := 32 ≤ c1.paid ∧ s1.sourceBeyond c1 n = false ∧ s1.engSource c1 n = .ok bs s2 ∧ bs.length = n ∧ (s2.ecmd id).isSome = true
    let writing : Prop := s.ecmd id = some c ∧ c.op = .cpy ∧ c.roomWait = false ∧ s.behindStuck c = false ∧ s.nextPiece c = some p
    let gone (t : State) : Prop := ∀ y ∈ t.ecmds, y.id ≠ c.id
    let done : Prop := s.ecmd id = some c ∧ c.phase = .detached ∧ s.quietE c = true ∧ s.partsQuiet c = true ∧ c.unacked = false ∧
      s.behindStuck c = false
    let word := leBytes 4 (1 + c.status % 256 * 256)
    (s.nextE cl = some c → (c.op = .add → c.dst.scratch = true) → ∃ t, exec (.engineCommandStart cl 0) s = .next t ∧
      (t.cluster cl).engLastQ = c.queue ∧ Raised.engineCommandStart cl c.id ∈ t.raised) ∧
    (reading → c1.paid < 32 → exec start s = .next (s1.raise (.engineCommandStart c1.cluster c1.id))) ∧
    (reading → read → c.packet = none → c.prog + n < c.len → ∃ t, exec start s = .next t ∧
      t.ecmd id = some { c with prog := c.prog + n, paid := 0, pieces := c.pieces ++ [⟨c.prog, bs⟩] } ∧
      (c.gbReg ≠ 0 → (t.ctx c.key).getG c.gbReg = BitVec.ofNat 64 (putBits ((s2.ctx c.key).getG c.gbReg).toNat 63 40 (c.prog + n)))) ∧
    (reading → read → c.packet = none → c.len = c.prog + n → c.op = .cpy → ∃ t, exec start s = .next t ∧ (t.ctx c.key).run = .running) ∧
    (writing → c.dst.scratch = true → s.keyOf c.tid = some s.cur → s.me.absentIn at_ p.data.length = [] → ∃ t, exec (.enginePieceWrite id) s = .next t ∧
      StoredAt s.me.mem t.me.mem at_ data ∧ t.mem = s.mem ∧ t.me.g = s.me.g ∧
      ∀ b, c.bar = some b → ∃ a, Raised.barrierArrival a ∈ t.raised ∧ a.bar = b ∧ a.count = p.data.length ∧ a.tid = some c.tid) ∧
    (writing → c.dst.scratch = false → pages = .fault va s1 → exec (.enginePieceWrite id) s = .next (s1.holdPiece c p va)) ∧
    (writing → c.dst.scratch = false → pages = .denied va s1 →
      exec (.enginePieceWrite id) s = .next ((s1.deniedRecord w va c.dst.cls).holdPiece c p va)) ∧
    (writing → c.dst.scratch = false → pages = .ok [(va, pa, n)] s1 → n = p.data.length → 0 < n → pa % 32 + n ≤ 32 →
      homeOf pa = some (.tower tw) →
      let unpinned := s1.engUnpin w c.tid c.e.scope pa
      (unpinned.engWait w c.e.scope pa = true → exec (.enginePieceWrite id) s = .next (unpinned.raise (.enginePieceWrite id))) ∧
      (s1.engWait w c.e.scope pa = false → s1.pinOf (pa / 128) = none →
        ∃ t, exec (.enginePieceWrite id) s = .next t ∧ StoredAt s1.mem t.mem pa data)) ∧
    (s.ecmd id = some c → c.op = .mc → takeAny s.free c.pieces = some (p, rest) → s.mcCores c = [k] → s.sibling c k = some tid →
      s.keyOf tid = some s.cur →
      (c.roomWait = false → s.behindStuck c = false → (s.core s.myCore).stopped = false → at_ + p.data.length ≤ 4096 * s.me.scratch →
        s.me.absentIn at_ p.data.length = [] → ∃ t, exec (.multicastReplicate id) s = .next t ∧
        StoredAt s.me.mem t.me.mem at_ data ∧ t.mem = s.mem ∧ ∀ y, t.ecmd id = some y → y.pieces = rest) ∧
      (c.roomWait = true ∨ s.behindStuck c = true ∨ (s.core s.myCore).stopped = true →
        exec (.multicastReplicate id) s = .next (s.raise (.multicastReplicate id)))) ∧
    (s.phase ≠ 0xF → s.heldOf id = some h →
      (∃ t, exec (.heldWriteRelease id) s = .next t ∧
        (h.kind = .completion → (∀ y ∈ t.held, y.id ≠ id) ∧ Raised.completionWordWrite h.cmd ∈ t.raised) ∧
        (h.kind = .piece p → s.ecmd h.cmd = some c → t.ecmd h.cmd = some { c with replays := insertPiece p c.replays })) ∧
      (∃ t, exec (.heldWriteAbandon id) s = .next t ∧
        (h.kind = .completion → s.ecmd h.cmd = some c → c.packet = none → (∀ y ∈ t.held, y.id ≠ id) ∧ gone t ∧ t.mem = s.mem) ∧
        (h.kind = .piece p → s.ecmd h.cmd = some c → c.op ≠ .snap → ∀ y, t.ecmd h.cmd = some y → y.status ≠ 0))) ∧
    (s.phase = 0xF → exec (.heldWriteRelease id) s = .next s ∧ exec (.heldWriteAbandon id) s = .next s) ∧
    (s.ecmd id = some c → c.roomWait = true → c.pieces = p :: rest → ∃ t, exec (.heldWriteRoomFree id) s = .next t ∧
      t.ecmd id = some { c with roomWait := false }) ∧
    (done → c.op ≠ .snap → c.packet = none →
      (c.comp = 0 → ∃ t, exec (.completionWordWrite id) s = .next t ∧ gone t ∧ t.mem = s.mem) ∧
      (c.comp ≠ 0 → s.engXlate w c.comp (s.classAt c.core c.comp) .engWrite = .ok pa s1 → s1.engWait w c.e.scope pa = false →
        homeOf pa = some (.tower tw) → s1.pinOf (pa / 128) = none →
        (c.e.scope = 0b10 ∨ c.e.scope = 0b11 → ∃ t, exec (.completionWordWrite id) s = .next t ∧ gone t ∧ StoredAt s1.mem t.mem pa word) ∧
        (c.e.scope = 0b00 ∨ c.e.scope = 0b01 → s1.pinsFit c.cluster [pa / 128] = true → (s1.keyOf c.tid).isSome = true → pa % 4 = 0 →
          ∃ t, exec (.completionWordWrite id) s = .next t ∧ gone t ∧ t.mem = s1.mem ∧ ∀ i < 4, t.placeByte (pa + i) = word.getD i 0))) ∧
    (done → c.op = .snap → s.holds c.key c.id = true → c.packet = none → ∃ t, exec (.completionWordWrite id) s = .next t ∧ gone t ∧
      t.ctx c.key = ({ s.ctx c.key with run := .running } : Ctx).advance 4 ∧ (t.core (coreOfKey c.key)).l1 = []) ∧
    (s.ecmd id = some c → c.phase = .detached → c.unacked = true → s.quietE c = true → (∀ y ∈ s.ecmds, y.parts.contains id = false) →
      ∃ t, exec (.peerAcknowledge id) s = .next t ∧ t.ecmd id = some { c with unacked := false }) ∧
    (done → c.op = .postQ → c.sent = false → c.status = 0 → s.mustFollow c = false →
      ∃ (t : State) (m : Msg), exec (.postQRecordSend id) s = .next t ∧ t.msgs = s.msgs ++ [m] ∧ m.kind = .record ∧ m.core = c.dstCore ∧ m.ring = c.ring ∧
        m.release = true ∧ m.data.map (·.1) = leBytes 8 c.dst.addr ++ leBytes 8 (c.len + c.core % 1024 * 2 ^ 32 + c.tag.toNat * 2 ^ 48))

/-- R284-R292 (19), R16, R18, R19 (01), R221 (13), R229 (14), R308, R309 (20): messages arrive at their rings and mailboxes, are reserved, filled
part by part and reported, which moves tail; arrivals count into barriers, resident or in a frame, and wake what is parked there; held
publications enter the free ring as deliveries do; a message for a dead core ends with status 2 (R304 says so of token rows; of posts and
mailbox entries it is log 50, DEDUCED), one for a stopped core waits. Which messages wait behind others is the model's reading (log 59,
DEDUCED). -/
def Obligations.Deliveries : Prop :=
  ∀ (s s1 : State) (id slot pa tid n i tw : Nat) (m : Msg) (w : Word) (a : Arrival) (x : Suspended) (b : Barrier) (t4 : Fin 4)
    (p : Publication) (q : Option Publication) (rest : List Publication) (sp : Space) (more : List Nat) (gt : BitVec 6) (o : Option Nat),
    let hit (b : Barrier) : Barrier :=
      let v := min (2 ^ 32 - 1) (b.count.toNat + a.count)
      { b with count := BitVec.ofNat 32 v, fired := b.fired || (b.expected != 0 && decide (b.expected.toNat ≤ v)) }
    let here : Prop := s.msg id = some m ∧ s.coreLive m.core = true
    let open_ : Prop := here ∧ (s.core m.core).stopped = false ∧ s.msgBehind m = false ∧ s.msgEarly m = false
    let held : Prop := here ∧ ((s.core m.core).stopped = true ∨ s.msgBehind m = true ∨ s.msgEarly m = true)
    let box : Prop := m.kind = .box n w
    let came : Instr := match m.kind with | .row => .tokenRowArrival id | .box .. => .mailboxArrival id | .post | .record => .postDelivery id
    let ring : Prop := m.stage = .sent ∧ ∀ k e, m.kind ≠ .box k e
    let r := s.msgWho m
    let block := (upFrom pa 32).map s1.placeByte
    let asked : Prop := s.engXlate r m.ring (s.classAt r.core m.ring) .engWrite = .ok pa s1 ∧ s1.engWait r 0b10 pa = false
    let geom (bs : List Byte) : Nat × Nat × Nat := (bitsNat (wordAt bs 16) 55 0, bitsNat (wordAt bs 24) 4 0, bitsNat (wordAt bs 24) 12 8)
    let usable : Prop := ringUsable m.ring (geom block).1 (geom block).2.1 (geom block).2.2 m.data.length = true
    let next := (ringCounts block).resv
    let slotAt (bs : List Byte) : Nat := (geom bs).1 + (ringCounts bs).resv.toNat % 2 ^ (geom bs).2.1 * 2 ^ (geom bs).2.2
    let m1 : Msg := { m with stage := .reserved next.toNat, va := slotAt block, left := List.range (ceilDiv m.data.length 16) }
    let ctrl := sp.freeRing.toNat
    let seen := s1.reachHome t4.val pa
    let free := (upFrom pa 32).map seen.placeByte
    let freeOk : Prop := ctrl % 32 = 0 ∧ ringUsable ctrl (geom free).1 (geom free).2.1 (geom free).2.2 16 = true
    let here4 (va : Nat) : Prop := s.space p.asid = some sp ∧ s.soXlate t4.val p.asid p.core va = .ok pa s1
    let part := ((m.data.drop (16 * i)).take 16).map (·.1)
    let tail := (ringCounts ((upFrom pa 16).map s1.placeByte)).tail
    let bar := s.bar s.myCore a.bar
    let named : Prop := a.bar < 128 ∧ a.tid = some tid ∧ s.keyOf tid = some s.cur
    let mine : Prop := named ∧ (s.core s.myCore).stopped = false ∧ a.cmd = none ∧ s.slots = []
    (s.msg id = some m → s.coreLive m.core = false → ring ∨ box → exec came s = .next (s.endMsg m 2)) ∧
    (held → ring ∨ box → exec came s = .next (s.raise (m.kind.step m.id))) ∧
    (open_ → ring →
      (s.ringBehind m = true → exec came s = .next ((s.wakeCore m.core).putMsg { m with stage := .waiting })) ∧
      (s.ringBehind m = false → exec came s = .next ((s.wakeCore m.core).reserve m))) ∧
    (asked → m.ring % 32 ≠ 0 → s.reserve m = s1.endMsg m 3) ∧
    (asked → m.ring % 32 = 0 → s1.placePoison pa = true → s.reserve m = (s1.report (.ringPoisoned m.ring)).endMsg m 3) ∧
    (asked → m.ring % 32 = 0 → s1.placePoison pa = false → usable →
      (ringCounts block).free (geom block).2.1 ≤ 0 ∨ s1.windowRoom pa (ringCounts block) = false →
      s.reserve m = s1.putMsg { m with stage := .waiting }) ∧
    (asked → m.ring % 32 = 0 → s1.placePoison pa = false → usable →
      0 < (ringCounts block).free (geom block).2.1 → s1.windowRoom pa (ringCounts block) = true →
      s.reserve m = (((s1.takeSlot r.tower pa (ringCounts block)).countRow m1).putMsg m1).fillSlot m1 next.toNat ∧
      (homeOf (pa + 4) = some (.tower tw) → s1.pinOf ((pa + 4) / 128) = none →
        StoredAt s1.mem (s1.takeSlot r.tower pa (ringCounts block)).mem (pa + 4) (leBytes 4 (next + 1).toNat))) ∧
    (open_ → box → ∃ t, exec came s = .next t ∧ t.box m.core n = (s.box m.core n).arrive w ∧ ∀ y ∈ t.msgs, y.id ≠ m.id) ∧
    (s.msg id = some m → m.stage = .waiting → ∃ t, exec (.ringReservationResume id) s = .next t ∧ t.msg id = some { m with stage := .sent } ∧
      m.kind.step id ∈ t.raised) ∧
    (s.msg id = some m → m.stage = .reserved slot → (∀ h ∈ s.held, h.kind ≠ .slotWrite id) →
      s.engPages r (s.classAt r.core m.va) .engWrite (linesOf m.va m.data.length) = .ok [(m.va, pa, m.data.length)] s1 →
      s1.engWait r m.scope pa = false → takeAny s1.free m.left = some (i, more) → pa % 16 = 0 → 16 * i < m.data.length →
      homeOf (pa + 16 * i) = some (.tower tw) → s1.pinOf ((pa + 16 * i) / 128) = none →
      ∃ t, exec (.ringReservationResume id) s = .next t ∧ StoredAt s1.mem t.mem (pa + 16 * i) part ∧
        (more ≠ [] → t.msg id = some { m with left := more }) ∧ (more = [] → t.msg id = some { m with left := [], stage := .written slot })) ∧
    (s.msg id = some m → m.stage = .written slot → s.ringPa m = (some pa, s1) →
      (s1.engWait (s1.msgWho m) 0b10 pa = true → exec (.fillReport id) s = .next (s1.raise (.fillReport id))) ∧
      (s1.engWait (s1.msgWho m) 0b10 pa = false →
        exec (.fillReport id) s = .next ((s1.markFilled (s1.msgWho m).tower pa slot).countMsg m))) ∧
    (s1.windows.find? (·.pa == pa) = some ⟨pa, []⟩ → tail.toNat = slot → homeOf pa = some (.tower tw) → s1.pinOf (pa / 128) = none →
      StoredAt s1.mem (s1.markFilled r.tower pa slot).mem pa (leBytes 4 (tail + 1).toNat)) ∧
    (named → (s.core s.myCore).stopped = true → exec (.barrierArrival a) s = .next (s.raise (.barrierArrival a))) ∧
    (mine → a.bar ∈ s.me.bars → bar.trig = false → (∀ p, s.me.run ≠ .parked p) → ∃ t, exec (.barrierArrival a) s = .next t ∧
      t.bar s.myCore a.bar = hit bar ∧ t.me = s.me) ∧
    (mine → a.bar ∈ s.me.bars → bar.trig = false → s.me.run = .parked (.barWait a.bar gt o) → bar.fired = false → (hit bar).fired = true →
      ∃ t, exec (.barrierArrival a) s = .next t ∧ t.bar s.myCore a.bar = hit bar ∧
        t.me = ({ s.me.setG gt 1 with run := .running } : Ctx).advance 4) ∧
    (mine → a.bar ∉ s.me.bars → ∃ t, exec (.barrierArrival a) s = .next t ∧ CourierRec.arrivalDropped a.core a.bar ∈ t.courier ∧ t.me = s.me) ∧
    (s.suspendedOf tid = some x → tfind x.bars a.bar = some b → b.trig = false → a.cmd = none →
      ∃ (t : State) (y : Suspended), exec (.frameBarrierArrival tid a) s = .next t ∧ t.suspendedOf tid = some y ∧ tfind y.bars a.bar = some (hit b)) ∧
    ((s.tower t4.val).heldPub = p :: rest → (∀ h ∈ s.held, ¬ (h.cluster = 1024 + t4.val ∧ h.kind = .freeRing)) →
      (s.publishStep t4.val p = .ok q s1 → exec (.freeRingHeldPublish t4) s = .next (s1.putPub t4.val q)) ∧
      (s.publishStep t4.val p = .wait s1 → exec (.freeRingHeldPublish t4) s = .next s1) ∧
      (s.publishStep t4.val p = .none s1 → exec (.freeRingHeldPublish t4) s = .next (s1.holdPublish t4.val p.asid))) ∧
    (here4 ctrl → p.slot = none → ctrl % 32 = 0 → s1.placePoison pa = true →
      s.publishStep t4.val p = .ok none (s1.report (.ringPoisoned ctrl))) ∧
    (here4 ctrl → p.slot = none → s1.placePoison pa = false →
      (ctrl % 32 = 0 → ¬ freeOk → s.publishStep t4.val p = .ok none seen) ∧
      (freeOk → (ringCounts free).free (geom free).2.1 ≤ 0 ∨ seen.windowRoom pa (ringCounts free) = false →
        s.publishStep t4.val p = .wait seen) ∧
      (freeOk → 0 < (ringCounts free).free (geom free).2.1 → seen.windowRoom pa (ringCounts free) = true → s.publishStep t4.val p =
        .ok (some { p with slot := some (ringCounts free).resv.toNat, va := slotAt free }) (seen.takeSlot t4.val pa (ringCounts free)))) ∧
    (here4 p.va → p.slot = some slot → p.written = false → homeOf pa = some (.tower tw) → ∃ t, s.publishStep t4.val p =
      .ok (some { p with written := true }) t ∧ StoredAt s1.mem t.mem pa (leBytes 8 p.w0.toNat ++ leBytes 8 p.w1.toNat)) ∧
    (here4 ctrl → p.slot = some slot → p.written = true → s.publishStep t4.val p = .ok none (s1.markFilled t4.val pa slot))

/-! ## The host, the links and bring-up (23) -/

/-- R317-R321, R332 (23): doorbell, restart and enable write a ring's registers once phase 3 is reached; a packet at the head is taken and
performed when it is its ring's turn; a malformed one stops its ring; a WAIT ends when its word satisfies it or at its timeout; a completed
packet's record is written after the release of everything before it. A masked vector that becomes pending in the model's array is log 83
(PRESUMED); a bus error of the host (reason 6) is free (log 98). -/
def Obligations.RingsAndPackets : Prop :=
  ∀ (s s1 s2 : State) (i : Fin 16) (tail newhead : BitVec 32) (en : Bool) (h : PHead) (e st re : Nat) (w : WaitPkt) (d pa tw : Nat) (no : Option Nat)
    (p : Packet),
    let r := s.rings[i]
    let word (j : Nat) : Nat := wordAt h.body (8 * j)
    let kinds : List (Instr × PKind) := [(.packetNop i, .nop), (.packetLaunch i, .launch), (.packetLaunchInd i, .launchInd), (.packetCopy i, .copy),
      (.packetCopyAdd i, .copyAdd), (.packetSignalWrite i, .signalWrite), (.packetSignalAdd i, .signalAdd), (.packetWaitNe i, .waitNe),
      (.packetWaitGe i, .waitGe)]
    let first := s.packets.find? fun p => p.ring == i.val && p.done.isSome
    let served : Prop := first = none ∧ s.up = true ∧ r.enable = true ∧ r.stopped = false
    let u : State := { s with lastRing := i }
    let put (x : Ring) : State := { s with rings := s.rings.set i.val x }
    let rung := put { r with tail := tail }
    (s.up = true → exec (.ringEnable i en) s = .next (put { r with enable := en }) ∧
      exec (.ringRestart i newhead) s = .next { put { r with head := newhead, newhead := newhead, stopped := false, reason := 0 } with
        partials := s.partials.filter (·.1 ≠ i.val) } ∧
      (r.enable = false ∨ r.stopped = true ∨ r.waiting.isSome = true ∨ (∀ e, rung.headOf rung.rings[i] ≠ .malformed e) →
        exec (.ringTailDoorbell i tail) s = .next rung) ∧
      (r.enable = true → r.stopped = false → r.waiting = none → rung.headOf rung.rings[i] = .malformed e →
        exec (.ringTailDoorbell i tail) s = .next (rung.stopRing i e))) ∧
    (s.up = false → exec (.ringEnable i en) s = .next s ∧ exec (.ringRestart i newhead) s = .next s ∧ exec (.ringTailDoorbell i tail) s = .next s) ∧
    (served → r.waiting = none → s.headOf r = .ready h → s.ringTurn ≠ some i → ∀ p ∈ kinds, exec p.1 s = .next s) ∧
    (served → r.waiting = none → s.headOf r = .ready h → s.ringTurn = some i →
      (∀ p ∈ kinds, p.2 = h.kind → exec p.1 s = .next (u.beginPacket i r h)) ∧
      (h.kind = .nop → ∃ (t : State) (p : Packet), exec (.packetNop i) s = .next t ∧ t.rings[i].head = r.head + BitVec.ofNat 32 h.length ∧
        p ∈ t.packets ∧ p.id = s.nextId ∧ p.kind = .nop ∧ p.ring = i.val ∧ p.headVal = r.head ∧ p.done = some (0, 0) ∧ t.lastRing = i) ∧
      (∀ ind, h.kind = (if ind then .launchInd else .launch) →
        let b := parseBlock h.body
        let got := u.dispatchBlock (soReader (s.towerOf (b.oy * 32 + b.ox)) r.asid.toNat) (fun _ => false) i b ind
        let run := exec (if ind then .packetLaunchInd i else .packetLaunch i) s
        (s.drained feKey = false → run = .next u) ∧
        (s.drained feKey = true → got = .wait s1 → run = .next s1) ∧
        (s.drained feKey = true → got = .ok no s1 →
          run = .next (((s1.dropPartials i).takePacket i r h).packetEnd s1.nextId (if no.isSome then 1 else 0) (no.getD 0)))) ∧
      (∀ add, h.kind = (if add then .copyAdd else .copy) → u.feRelease (BitVec.ofNat 2 (word 3)) = some s1 →
        s1.engineRoom (s.firstCluster 0) 9 = true → word 2 ≠ 0 → (add = true → word 0 % 4 = 0 ∧ word 1 % 4 = 0 ∧ word 2 % 32 = 0) →
        ∃ (t : State) (c : ECmd), exec (if add then .packetCopyAdd i else .packetCopy i) s = .next t ∧ t.ecmds = s.ecmds ++ [c] ∧
          c.op = (if add then .add else .cpy) ∧ c.queue = 9 ∧ c.packet = some s.nextId ∧ c.asid = r.asid.toNat ∧
          c.src.addr = word 0 % 2 ^ 56 ∧ c.dst.addr = word 1 % 2 ^ 56 ∧ c.len = word 2 ∧ c.status = 0 ∧
          Raised.engineCommandStart (s.firstCluster 0) 0 ∈ t.raised) ∧
      (word 0 % 8 = 0 → u.feRelease 0b11 = some s2 → s2.translate (feWho r.asid.toNat) (word 0 % 2 ^ 56) false .write = .ok pa s1 →
        s1.feBar pa = false → pa % 8 = 0 → homeOf pa = some (.tower tw) →
        (h.kind = .signalWrite → ∃ t, exec (.packetSignalWrite i) s = .next t ∧ StoredAt s1.mem t.mem pa (leBytes 8 (word 1))) ∧
        (h.kind = .signalAdd → s1.placePoison pa = false → ∃ t, exec (.packetSignalAdd i) s = .next t ∧
          StoredAt s1.mem t.mem pa (leBytes 8 (leNat (mgets s1.mem pa 8) + word 1))))) ∧
    (served → r.waiting = none → s.headOf r = .malformed e → ∃ t, exec (.packetNop i) s = .next t ∧
      t.rings[i] = { r with stopped := true, offset := r.head, reason := BitVec.ofNat 8 e } ∧
      (s.vectorMasked i.val = false → t.msix = s.msix ||| (1#18 <<< i.val)) ∧
      (s.vectorMasked i.val = true → t.msixPending = s.msixPending ||| (1#18 <<< i.val))) ∧
    (served → r.waiting = some w →
      (w.ge = true → exec (.packetWaitGe i) s = .next (s.pollWait i w)) ∧ (w.ge = false → exec (.packetWaitNe i) s = .next (s.pollWait i w)) ∧
      (s.translate (feWho r.asid.toNat) (w.addr % 2 ^ 56) false .read = .ok pa s1 → s1.pinOf (pa / 128) = none → s1.placePoison pa = false →
        pa % 8 = 0 → homeOf pa = some (.tower tw) →
        let v := BitVec.ofNat 64 (leNat (mgets s1.mem pa 8))
        let seen := s1.reachHome 0 pa
        s.pollWait i w = if (if w.ge then w.value ≤ v else v ≠ w.value) then seen.endWait i w 0 else seen)) ∧
    (r.waiting = some w → w.deadline = some d → d ≤ (s.tower 0).cycle → ∃ t, exec (.packetWaitTimeout i) s = .next t ∧ t.rings[i].waiting = none ∧
      ∀ p ∈ t.packets, p.id = w.id → p.done = some (3, 0)) ∧
    (first = some p → p.done = some (st, re) → r.enable = false → s.feRelease 0b11 = some s1 →
      (p.crec = 0 → ∃ t, exec (.packetNop i) s = .next t ∧ (∀ q ∈ t.packets, q.id ≠ p.id) ∧ t.mem = s.mem) ∧
      (p.crec ≠ 0 → p.cloc = false → s1.feBar (hostPa p.crec) = false → ∃ t, exec (.packetNop i) s = .next t ∧ (∀ q ∈ t.packets, q.id ≠ p.id) ∧
        StoredAt s1.mem t.mem (hostPa p.crec) (leBytes 8 (1 + st % 256 * 2 ^ 8 + re % 256 * 2 ^ 16 + p.headVal.toNat * 2 ^ 32))))

/-- R315, R322-R328, R332 (23), R259 (17): reset and training, links, droop, the enumeration table's generation, the mailbox's commands, each answered
only while its request is outstanding, and the host's accesses to BAR0 and, through the aperture, to the device's memory. The model's own are: the
identity's offset 32 (log 14, PRESUMED), the memory that RESET keeps (log 26), the aperture (log 55, DESIGN CHOICE), vector 17 and the masked vectors
(log 83, PRESUMED), the free order of the pieces of a read through the aperture (log 80), a failed link's training (log 84), and the mailbox's code in
byte 0 with the status 2 of CREATE_AS and DESTROY_AS (log 85). -/
def Obligations.BringUpAndMailbox : Prop :=
  ∀ (s : State) (l : Fin 12) (peer : Fin 8) (pl : BitVec 4) (tw : Fin 4) (st : DieState) (nonce data : List Byte) (bus addr len asid id pa : Nat)
    (ten : Fin 4) (seed : Word) (g : AsGrant) (i : Fin 16) (loc : Bool) (base : Addr) (size : BitVec 5) (as : BitVec 16) (off : BitVec 20) (sp : Space)
    (fail : Option TrainFail),
    let at_ := sp.tensorBase + 64 * id
    let x := s.tower tw.val
    let r := s.rings[i]
    let asked (code : Nat) : Prop := s.mboxBusy = true ∧ s.mboxSd = none ∧ (s.mbox.getD 0 0).toNat = code ∧ s.phase ≠ 0xF
    let answered (t : State) (code status : Nat) : Prop := t.mbox.length = 256 ∧ t.mbox[0]? = some (BitVec.ofNat 8 code) ∧
      t.mbox[1]? = some (BitVec.ofNat 8 status) ∧ t.mboxBusy = false ∧ (s.vectorMasked 16 = false → t.msix.getLsbD 16 = true)
    let courier : List (Instr × Nat) :=
      [(.createAs ten seed g, 0x10), (.destroyAs asid, 0x11), (.ringSetup i loc base size as, 0x12), (.tensorSet asid id data, 0x13)]
    let reader := bar2Reader addr len
    let left := (piecesOf addr len).filter fun p => (s.partialOf reader (gotKey 0 p.1)).isNone
    let apertureBytes (q : Nat × Nat) (bs : List Byte) : Prop := bs.length = q.2 ∧
      ∀ k < q.2, ∀ pa, s.aperturePa (q.1 + k) = some pa → homeOf pa = some (.tower 0) → s.reqs = [] → bs[k]? = some (mget s.mem pa)
    let table (a : Nat) : Prop := g.tensorBase ≤ a ∧ a < g.tensorBase + 64 * 65536
    (∃ t : State, exec .reset s = .next t ∧ t.mem = s.mem ∧ t.me = Ctx.empty ∧ t.slots = [] ∧ t.spaces = [] ∧ t.rings = Vector.replicate 16 Ring.reset ∧
      t.stretch = 0 ∧ (t.phase = 2 ∧ t.failCode = 0 ∧ t.links[l].state = .training ∨ t.phase = 0xF ∧ (t.failCode = 1 ∨ t.failCode = 2))) ∧
    (s.phase = 2 → exec (.memoryTrainingComplete none) s = .next { s with phase := 3 } ∧
      exec (.memoryTrainingComplete (some .memory)) s = .next { s with phase := 0xF, failCode := 3 } ∧
      exec (.memoryTrainingComplete (some .dieLinks)) s = .next { s with phase := 0xF, failCode := 4 }) ∧
    (s.phase ≠ 2 → exec (.memoryTrainingComplete fail) s = .next s) ∧
    (∃ t : State, exec (.ewefonisLinkFailure l) s = .next t ∧ t.links[l].state = .down ∧ Raised.enumerationUpdate ∈ t.raised) ∧
    (∃ t : State, exec (.linkTrainingComplete l peer pl) s = .next t ∧ t.links[l] = ⟨.up, peer, pl⟩ ∧ Raised.enumerationUpdate ∈ t.raised) ∧
    (∃ t : State, exec (.dieLinkStateChange tw st) s = .next t ∧ t.dies[tw] = st ∧ Raised.enumerationUpdate ∈ t.raised) ∧
    (s.phase ≠ 0xF → ∃ t : State, exec .enumerationUpdate s = .next t ∧ t.enumTab.gen = s.enumTab.gen + 2 ∧ t.enumTab.links = s.links ∧
      t.enumTab.dies = s.dies ∧ t.enumTab.deadSlices = s.deadSlices ∧ (s.vectorMasked 17 = false → t.msix.getLsbD 17 = true) ∧
      t.links[l].state = (if s.links[l].state = .down then .training else s.links[l].state)) ∧
    (x.droop = false → ∃ t : State, exec (.droopDetect tw) s = .next t ∧ (t.tower tw.val).droop = true ∧ t.stretch = s.stretch + 1) ∧
    (∃ t : State, exec (.droopRecover tw) s = .next t ∧ (t.tower tw.val).droop = false ∧ t.stretch = s.stretch) ∧
    (asked 0x01 → ∃ t : State, exec .identity s = .next t ∧ answered t 0x01 0 ∧ ∀ k < 32, t.mbox[32 + k]? = some (Config.identityByte k)) ∧
    (asked 0x02 → nonce.length = 32 → ∃ t : State, exec (.attest nonce bus) s = .next t ∧ answered t 0x02 0 ∧
      StoredAt s.mem t.mem (hostPa bus) (s.attestReport nonce)) ∧
    (s.mboxBusy = false ∨ s.phase = 0xF → ∀ j ∈ Instr.identity :: .attest nonce bus :: courier.map (·.1), exec j s = .next s) ∧
    (s.up = false → ∀ p ∈ courier, asked p.2 → ∃ t : State, exec p.1 s = .next t ∧ answered t p.2 1) ∧
    (s.up = true →
      (asked 0x10 → s.space g.asid = none → g.asid < 0xFFFF → ∃ t : State, exec (.createAs ten seed g) s = .next t ∧ answered t 0x10 0 ∧
        (∃ sp, t.space g.asid = some sp ∧ sp.root = g.root ∧ sp.tenant = ten ∧ sp.seed = seed ∧ sp.shadow = []) ∧
        (∀ a, table a → mget t.mem a = unlisted) ∧ (Memory.wf s.mem = true → ∀ a, ¬ table a → mget t.mem a = mget s.mem a)) ∧
      (asked 0x10 → (s.space g.asid).isSome = true → ∃ t : State, exec (.createAs ten seed g) s = .next t ∧ answered t 0x10 2 ∧ t.spaces = s.spaces) ∧
      (asked 0x11 → s.space asid = none → ∃ t : State, exec (.destroyAs asid) s = .next t ∧ answered t 0x11 2 ∧ t.mem = s.mem) ∧
      (asked 0x11 → s.space asid = some sp → s.slots = [] → s.me.run = .empty → s.suspended = [] → s.held = [] → s.ecmds = [] → s.mcmds = [] →
        s.reqs = [] → s.msgs = [] → s.units = [] → ∃ t : State, exec (.destroyAs asid) s = .next t ∧ answered t 0x11 0 ∧ t.space asid = none ∧
          (∀ e ∈ t.tlb, e.asid ≠ asid) ∧ t.mem = s.mem) ∧
      (asked 0x13 → s.space asid = some sp → tensorClear data = true → id < 65536 → data.length = 64 → s.pinOf (at_ / 128) = none →
        homeOf at_ = some (.tower tw.val) → ∃ t : State, exec (.tensorSet asid id data) s = .next t ∧ t.mboxBusy = true ∧
          t.mboxSd = some s.nextId ∧ StoredAt s.mem t.mem at_ data ∧
          ∃ sd, Raised.shootdownDescriptor sd 0 0 ∈ t.raised ∧ sd.id = s.nextId ∧ sd.asid = asid) ∧
      (asked 0x12 → ∃ t : State, exec (.ringSetup i loc base size as) s = .next t ∧ answered t 0x12 0 ∧
        t.rings[i] = { r with loc := loc, base := base, size := size, asid := as }) ∧
      (asked 0x13 → s.space asid = none → ∃ t : State, exec (.tensorSet asid id data) s = .next t ∧ answered t 0x13 2)) ∧
    (0x20100 ≤ off.toNat → off.toNat < 0x20200 →
      (s.mboxBusy = true → exec (.bar0RegisterWrite off data) s = .next s) ∧
      (s.mboxBusy = false → off.toNat + data.length ≤ 0x20200 → s.mbox.length = 256 → ∃ t : State, exec (.bar0RegisterWrite off data) s = .next t ∧
        t = { s with mbox := t.mbox } ∧ ∀ k < data.length, t.mbox[off.toNat - 0x20100 + k]? = data[k]?)) ∧
    (off = 0x20008 → leNat data % 2 = 1 → s.mboxBusy = false → exec (.bar0RegisterWrite off data) s = .next { s with mboxBusy := true }) ∧
    (s.up = true → r.enable = false → data.length = 4 → ∃ t : State, exec (.bar0RegisterWrite (BitVec.ofNat 20 (0x10018 + 64 * i.val)) data) s = .next t ∧
      t.rings[i] = { r with tail := BitVec.ofNat 32 (leNat data) }) ∧
    (s.up = true → (∀ k, s.pinOf k = none) →
      (1 < left.length → ∃ (t : State) (bs : List Byte), ∃ q ∈ left, exec (.bar2Read addr len) s = .next t ∧ apertureBytes q bs ∧ t.mem = s.mem ∧
        t.partials = s.partials ++ [(reader, gotKey 0 q.1, bs)] ∧ Raised.bar2Read addr len ∈ t.raised) ∧
      (∀ q, left = [q] → ∃ (t : State) (bs : List Byte), exec (.bar2Read addr len) s = .next t ∧ apertureBytes q bs ∧ t.mem = s.mem ∧
        t.hostIn = (piecesOf addr len).flatMap fun p => (s.partialOf reader (gotKey 0 p.1)).getD bs)) ∧
    (s.up = true → data.length = 8 → addr % 8 = 0 → s.aperturePa addr = some pa → homeOf pa = some (.tower tw.val) →
      ∃ (t : State) (r : Req), exec (.bar2Write addr data) s = .next t ∧ t.reqs = s.reqs ++ [r] ∧ r.pa = pa ∧ r.op = .store (data.map some) ∧
        r.stage = .home ∧
        r.key = feKey ∧ Raised.performAtHome r.id ∈ t.raised)

/-! ## Fetching, encodings, reset (02 R27, R31-R42; 09 R144; 23 R325) -/

/-- R27, R41 (02), R66, R79 (05), R162 (09), R196 (12): when it is a running slot's turn, a step is exec of the instruction that the words fetched at
its program counter decode to, or the trap of words that are no instruction; words that stand in the core's L1 region, or in the slot's line buffer,
are fetched from there, and kept as what a trap reports. A slot whose pre-emption waits for no instruction halts instead; one of whose stores a
migration stalls is stalled (R157 of 09). Then cycles pass, at least one on every tower (log 2), and nothing but cycles, the ports' tokens at a refill
boundary (R162, R196), due boundary steps and the step count changes with them. Whose turn it is follows the model's schedule (log 1); what a
pre-emption waits for is R79's (log 51, DEDUCED). -/
def Obligations.StepRunsDecoded : Prop :=
  ∀ (s s1 : State) (k : SlotKey) (ts : List Turn) (l : L1Line) (w w1 : IWord) (i : Instr) (r : Reject),
    let u := ({ s with turns := ts } : State).switch k
    let v := u.setCore u.myCore { u.core u.myCore with last := slotOfKey k, activeAt := (u.tower u.myTower).cycle }
    let line := v.me.pc.toNat / 128
    let off := v.me.pc.toNat % 128
    let turn : Prop := (s.turns = .slot k :: ts ∨ (s.turns = [] ∧ ts = [] ∧ s.ticks % 3 = 0 ∧ s.nextSlot = some k)) ∧ u.me.run = .running
    let goes : Prop := turn ∧ (u.me.preempt = false ∨ u.mustComplete k = true)
    let held : Prop := v.l1Find v.me.asid line true = some l ∨
      (v.l1Find v.me.asid line true = none ∧ v.me.lineBuf = some l ∧ l.asid = v.me.asid ∧ l.vline = line)
    let there (o : Nat) (x : IWord) : Prop :=
      l.poison.contains ((l.pline * 128 + o) / 32) = false ∧ x = BitVec.ofNat 32 (leNat ((l.data.drop o).take 4))
    let kept (x : Word) : State := { v with me := { v.me with insn := x } }
    let runs (d : Decoded) (x : Word) : Prop :=
      (d = .ok i → step s = ticked (exec i (kept x))) ∧ (d = .error r → step s = ticked (exec (.illegalInstruction r.info) (kept x)))
    (goes → u.storeStalled k = true → step s = ticked (.next (u.stall .migration))) ∧
    (goes → u.storeStalled k = false → (v.fetchInstr = .ok (.ok i) s1 → step s = ticked (exec i s1)) ∧
      (v.fetchInstr = .ok (.error r) s1 → step s = ticked (exec (.illegalInstruction r.info) s1)) ∧
      (v.fetchInstr = .done s1 → step s = ticked (.next (s1.fetchEnded k)))) ∧
    (goes → u.storeStalled k = false → held → there off w →
      (insnBytes w = 4 → runs (decode w 0) (info1 w)) ∧
      (insnBytes w = 8 → off + 8 ≤ 128 → there (off + 4) w1 → runs (decode w w1) (if fMajor w = 0x3D#6 then info1 w else info2 w w1))) ∧
    (turn → u.me.preempt = true → u.mustComplete k = false → step s = ticked (.next (u.halt k .preempt))) ∧
    (∀ t, ticked (.next t) = .next t.tick ∧ t.tick = { t with towers := t.tick.towers, cores := t.tick.cores, raised := t.tick.raised, ticks := t.ticks + 1 } ∧
      (∀ c, t.tick.core c = { t.core c with bucket := (t.tick.core c).bucket, cap := (t.tick.core c).cap, busy := (t.tick.core c).busy }) ∧
      ((∀ n < 4, (t.tick.tower n).cycle / 1024 = (t.tower n).cycle / 1024) → t.tick.cores = t.cores) ∧
      (∀ n < 4, (t.tower n).cycle < (t.tick.tower n).cycle ∧ (t.tick.tower n).cycle < (t.tower n).cycle + 256 ∧
        t.tick.tower n = { t.tower n with cycle := (t.tick.tower n).cycle }) ∧ ∀ x ∈ t.raised, x ∈ t.tick.raised)

/-- R33 (02), R141, R156, R159 (09), R69 (05): INSTRUCTION_FETCH brings the line at the program counter to the core's L1 region as code, with
its poison, once its charge, its translation and the order of memory allow, and fetch may run ahead of it (log 62); a line that stands there
already stays; a fetch that ends in a trap or a suspension takes with it a command that only waited (16 R246). -/
def Obligations.FetchedLines : Prop :=
  ∀ (s s1 s2 : State) (l : L1Line) (pa : Nat),
    let va := s.me.pc.toNat
    let here := s.l1Find s.me.asid (va / 128) true
    let charge := s.chargeFor .fetch 128
    let runs : Prop := s.me.run = .running
    (s.me.run ≠ .running → exec .instructionFetch s = .next s) ∧
    (here = some l → exec .instructionFetch s = .next s) ∧
    (here = none → s.me.lineBuf = some l → l.asid = s.me.asid → l.vline = va / 128 → exec .instructionFetch s = .next s) ∧
    (runs → here = none → s.me.lineBuf = none → charge = .done s1 → exec .instructionFetch s = .next s1) ∧
    (runs → s.fetchLine va = .done s1 → exec .instructionFetch s = .next (s1.fetchEnded s1.cur)) ∧
    (runs → here = none → s.me.lineBuf = none → charge = .ok () s1 →
      s1.xlate ⟨false, va, s.classAt s.myCore va, 0xE, 0, []⟩ va .fetch = .ok pa s2 → s2.readBar pa false = none →
      l1Cap (s2.core s2.myCore) ≠ 0 → s2.siblingOn s2.myCore s2.cur (pa / 128) = false →
        ∃ (t : State) (x : L1Line), exec .instructionFetch s = .next t ∧ t.l1Find s2.me.asid (va / 128) true = some x ∧
        x.pline = pa / 128 ∧ t.me = { s2.me with fetchPaid := false } ∧ t.mem = s2.mem)

/-- R42 (02), "Encoding at work": the words that the spec builds from their fields decode to their source lines; NOP is a hint word. -/
def Obligations.EncodedWords : Prop :=
  decode 0x04300064 0 = .ok (.addi 3 0 100) ∧
  decode 0x40508013 0 = .ok (.ldD 5 2 2) ∧
  decode 0xF4000048 0x04403456 = .ok (.extensionPrefix 0x48 0x04403456) ∧
  (∀ s : State, exec (.extensionPrefix 0x48 0x04403456) s =
    .next ((({ s with me := { s.me with insn := 0x04403456 } } : State).setG 4 0x123456).advance 8)) ∧
  decode 0x6087FFFD 0 = .ok (.bnez 7 0xFFFD) ∧
  decode 0x80853201 0 = .ok (.vadd .bf16 4 5 6 2) ∧
  decode 0xD8018723 0x00020011 = .ok (.mma ⟨0b10, false, false, false⟩ 0 .e4m3 0 (.tensor 17 6) 7) ∧
  decode 0xF8000000 0 = .ok (.hint 0)

/-- R28, R33-R40 (02): every word or pair of words that encodes an instruction decodes to that instruction, with every operand at every
value the encoding admits; every constructor has an encoding but those that stand for a step of the device. -/
def Obligations.DecodeEncode : Prop :=
  ∀ (i : Instr),
    (i.deviceStep = false → encode i ≠ []) ∧ (i.deviceStep = true → encode i = []) ∧
    (i.wf = true →
      (∀ w ws, encode i = w :: ws → ∀ w1, decode w (ws.headD w1) = .ok i) ∧
      (∀ w ws, encode i = w :: ws → 4 * (w :: ws).length = insnBytes w))

/-- The model's invariant: device memory stays a rising list of addresses without an entry for an unlisted byte's value, whatever a step
does; equal memories are equal data. -/
def Obligations.MemoryStaysCanonical : Prop :=
  ∀ (s t : State), Memory.wf s.mem = true → step s = .next t → Memory.wf t.mem = true

/-- R67 (05), R161 (09), R215 (13), R247 (16), R325 (23) and the reset columns of R71, R73 and R74: what the spec gives for reset; memory,
the B-stores and BAR0's table are in canonical form, and no slot holds a task. -/
def Obligations.ResetState : Prop :=
  State.reset.MemOk ∧ State.reset.mem = [] ∧ State.reset.phase = 0 ∧ State.reset.me.run = .empty ∧ State.reset.slots = [] ∧
  (∀ n, State.reset.me.getA n = .zero) ∧ (∀ n, State.reset.me.getQ n = .zero) ∧
  (∀ c, (State.reset.core c).mask = 0xFF ∧ (State.reset.core c).poolend = 96 ∧ (State.reset.core c).regend = 0 ∧
    (State.reset.core c).scrend = 0 ∧ ∀ i < 4, nget (State.reset.core c).shares i = 16) ∧
  (∀ t < 4, ∀ i : Fin 8, (State.reset.tower t).high[i] = 0xFFFF ∧ (State.reset.tower t).low[i] = 0) ∧
  (∀ cl, (State.reset.cluster cl).lastQ = 7 ∧ ∀ i : Fin 8, (State.reset.cluster cl).weights[i] = 1) ∧
  (∀ i : Fin 16, State.reset.rings[i].enable = false ∧ State.reset.rings[i].stopped = false)

/-- R144 (09): the physical address map. -/
def Obligations.PhysicalMap : Prop :=
  ∀ (pa t : Nat),
    (t < 4 → (homeOf pa = some (.tower t) ↔ t * 2 ^ 38 ≤ pa ∧ pa ≤ t * 2 ^ 38 + 0x2FFFFFFFFF)) ∧
    (pa < 0x8000000000000 → (∀ u < 4, pa < u * 2 ^ 38 ∨ u * 2 ^ 38 + 0x2FFFFFFFFF < pa) → homeOf pa = none) ∧
    (0x8000000000000 ≤ pa ∧ pa ≤ 0xFFFFFFFFFFFFF ↔ homeOf pa = some .host ∨ ∃ p, homeOf pa = some (.peer p)) ∧
    (2 ^ 52 ≤ pa → homeOf pa = none)
end

