-- ==== Sys2Proof/Laws/Encoding.lean ====
section
/-! SUPPORT. The fields of packed instruction words read back (02 R28), and the coded subfields. -/

namespace Sys2Proof

theorem extract_left {v w : Nat} {x : BitVec v} {y : BitVec w} {start len k : Nat} (h : start = k + w) :
    BitVec.extractLsb' start len (x ++ y) = BitVec.extractLsb' k len x := by
  subst h
  rw [BitVec.extractLsb'_append_eq_of_le (Nat.le_add_left w k), Nat.add_sub_cancel]

theorem extract_right {v w : Nat} {x : BitVec v} {y : BitVec w} {start len : Nat} (h : start + len ≤ w) :
    BitVec.extractLsb' start len (x ++ y) = BitVec.extractLsb' start len y := BitVec.extractLsb'_append_eq_of_add_le h

theorem extract_all {w : Nat} (x : BitVec w) : BitVec.extractLsb' 0 w x = x := by
  ext i hi
  simp

theorem getLsbD_left {v w : Nat} {x : BitVec v} {y : BitVec w} {i k : Nat} (h : i = k + w) :
    (x ++ y).getLsbD i = x.getLsbD k := by
  subst h
  simp [BitVec.getLsbD_append]

theorem getLsbD_right {v w : Nat} {x : BitVec v} {y : BitVec w} {i : Nat} (h : i < w) :
    (x ++ y).getLsbD i = y.getLsbD i := by
  simp [BitVec.getLsbD_append, h]

@[simp] theorem fMajor_packA (m : BitVec 6) (d : BitVec 6) (a : BitVec 6) (b : BitVec 6) (fn : BitVec 8) : fMajor (packA m d a b fn) = m :=
  (extract_left (k := 18) rfl).trans ((extract_left (k := 12) rfl).trans ((extract_left (k := 6) rfl).trans ((extract_left (k := 0) rfl).trans ((extract_all _)))))
@[simp] theorem fD_packA (m : BitVec 6) (d : BitVec 6) (a : BitVec 6) (b : BitVec 6) (fn : BitVec 8) : fD (packA m d a b fn) = d :=
  (extract_left (k := 12) rfl).trans ((extract_left (k := 6) rfl).trans ((extract_left (k := 0) rfl).trans ((extract_right (by decide)).trans ((extract_all _)))))
@[simp] theorem fA_packA (m : BitVec 6) (d : BitVec 6) (a : BitVec 6) (b : BitVec 6) (fn : BitVec 8) : fA (packA m d a b fn) = a :=
  (extract_left (k := 6) rfl).trans ((extract_left (k := 0) rfl).trans ((extract_right (by decide)).trans ((extract_all _))))
@[simp] theorem fB_packA (m : BitVec 6) (d : BitVec 6) (a : BitVec 6) (b : BitVec 6) (fn : BitVec 8) : fB (packA m d a b fn) = b :=
  (extract_left (k := 0) rfl).trans ((extract_right (by decide)).trans ((extract_all _)))
@[simp] theorem fFn_packA (m : BitVec 6) (d : BitVec 6) (a : BitVec 6) (b : BitVec 6) (fn : BitVec 8) : fFn (packA m d a b fn) = fn :=
  (extract_right (by decide)).trans ((extract_all _))

@[simp] theorem fMajor_packI (m : BitVec 6) (d : BitVec 6) (a : BitVec 6) (imm : BitVec 14) : fMajor (packI m d a imm) = m :=
  (extract_left (k := 12) rfl).trans ((extract_left (k := 6) rfl).trans ((extract_left (k := 0) rfl).trans ((extract_all _))))
@[simp] theorem fD_packI (m : BitVec 6) (d : BitVec 6) (a : BitVec 6) (imm : BitVec 14) : fD (packI m d a imm) = d :=
  (extract_left (k := 6) rfl).trans ((extract_left (k := 0) rfl).trans ((extract_right (by decide)).trans ((extract_all _))))
@[simp] theorem fA_packI (m : BitVec 6) (d : BitVec 6) (a : BitVec 6) (imm : BitVec 14) : fA (packI m d a imm) = a :=
  (extract_left (k := 0) rfl).trans ((extract_right (by decide)).trans ((extract_all _)))
@[simp] theorem fImm14_packI (m : BitVec 6) (d : BitVec 6) (a : BitVec 6) (imm : BitVec 14) : fImm14 (packI m d a imm) = imm :=
  (extract_right (by decide)).trans ((extract_all _))

@[simp] theorem fMajor_packU (m : BitVec 6) (d : BitVec 6) (imm : BitVec 20) : fMajor (packU m d imm) = m :=
  (extract_left (k := 6) rfl).trans ((extract_left (k := 0) rfl).trans ((extract_all _)))
@[simp] theorem fD_packU (m : BitVec 6) (d : BitVec 6) (imm : BitVec 20) : fD (packU m d imm) = d :=
  (extract_left (k := 0) rfl).trans ((extract_right (by decide)).trans ((extract_all _)))
@[simp] theorem fImm20_packU (m : BitVec 6) (d : BitVec 6) (imm : BitVec 20) : fImm20 (packU m d imm) = imm :=
  (extract_right (by decide)).trans ((extract_all _))

@[simp] theorem fMajor_packB (m : BitVec 6) (c : BitVec 4) (a : BitVec 6) (off : BitVec 16) : fMajor (packB m c a off) = m :=
  (extract_left (k := 10) rfl).trans ((extract_left (k := 4) rfl).trans ((extract_left (k := 0) rfl).trans ((extract_all _))))
@[simp] theorem fCond_packB (m : BitVec 6) (c : BitVec 4) (a : BitVec 6) (off : BitVec 16) : fCond (packB m c a off) = c :=
  (extract_left (k := 6) rfl).trans ((extract_left (k := 0) rfl).trans ((extract_right (by decide)).trans ((extract_all _))))
@[simp] theorem fBa_packB (m : BitVec 6) (c : BitVec 4) (a : BitVec 6) (off : BitVec 16) : fBa (packB m c a off) = a :=
  (extract_left (k := 0) rfl).trans ((extract_right (by decide)).trans ((extract_all _)))
@[simp] theorem fOff16_packB (m : BitVec 6) (c : BitVec 4) (a : BitVec 6) (off : BitVec 16) : fOff16 (packB m c a off) = off :=
  (extract_right (by decide)).trans ((extract_all _))

@[simp] theorem fMajor_packV (m : BitVec 6) (vd : BitVec 5) (va : BitVec 5) (vb : BitVec 5) (k : BitVec 3) (fn : BitVec 8) : fMajor (packV m vd va vb k fn) = m :=
  (extract_left (k := 18) rfl).trans ((extract_left (k := 15) rfl).trans ((extract_left (k := 10) rfl).trans ((extract_left (k := 5) rfl).trans ((extract_left (k := 0) rfl).trans ((extract_all _))))))
@[simp] theorem fVd_packV (m : BitVec 6) (vd : BitVec 5) (va : BitVec 5) (vb : BitVec 5) (k : BitVec 3) (fn : BitVec 8) : fVd (packV m vd va vb k fn) = vd :=
  (extract_left (k := 13) rfl).trans ((extract_left (k := 10) rfl).trans ((extract_left (k := 5) rfl).trans ((extract_left (k := 0) rfl).trans ((extract_right (by decide)).trans ((extract_all _))))))
@[simp] theorem fVa_packV (m : BitVec 6) (vd : BitVec 5) (va : BitVec 5) (vb : BitVec 5) (k : BitVec 3) (fn : BitVec 8) : fVa (packV m vd va vb k fn) = va :=
  (extract_left (k := 8) rfl).trans ((extract_left (k := 5) rfl).trans ((extract_left (k := 0) rfl).trans ((extract_right (by decide)).trans ((extract_all _)))))
@[simp] theorem fVb_packV (m : BitVec 6) (vd : BitVec 5) (va : BitVec 5) (vb : BitVec 5) (k : BitVec 3) (fn : BitVec 8) : fVb (packV m vd va vb k fn) = vb :=
  (extract_left (k := 3) rfl).trans ((extract_left (k := 0) rfl).trans ((extract_right (by decide)).trans ((extract_all _))))
@[simp] theorem fVm_packV (m : BitVec 6) (vd : BitVec 5) (va : BitVec 5) (vb : BitVec 5) (k : BitVec 3) (fn : BitVec 8) : fVm (packV m vd va vb k fn) = k :=
  (extract_left (k := 0) rfl).trans ((extract_right (by decide)).trans ((extract_all _)))
@[simp] theorem fFn_packV (m : BitVec 6) (vd : BitVec 5) (va : BitVec 5) (vb : BitVec 5) (k : BitVec 3) (fn : BitVec 8) : fFn (packV m vd va vb k fn) = fn :=
  (extract_right (by decide)).trans ((extract_all _))

@[simp] theorem fMajor_ext (m : BitVec 6) (x : BitVec 26) : fMajor (m ++ x) = m :=
  (extract_left (k := 0) rfl).trans (extract_all _)
@[simp] theorem fExt_ext (m : BitVec 6) (x : BitVec 26) : fExt (m ++ x) = x := (extract_right (by decide)).trans (extract_all _)

@[simp] theorem eMode_packE (mode : BitVec 3) (e : EFlags) (tid : BitVec 16) : eMode (packE mode e tid) = mode :=
  (extract_left (k := 5) rfl).trans ((extract_left (k := 3) rfl).trans ((extract_left (k := 2) rfl).trans ((extract_left (k := 1) rfl).trans ((extract_left (k := 0) rfl).trans ((extract_right (by decide)).trans ((extract_all _)))))))
@[simp] theorem eTid_packE (mode : BitVec 3) (e : EFlags) (tid : BitVec 16) : eTid (packE mode e tid) = tid :=
  (extract_right (by decide)).trans ((extract_all _))
theorem eScope_packE (mode : BitVec 3) (e : EFlags) (tid : BitVec 16) : (packE mode e tid).extractLsb' 16 2 = e.scope :=
  (extract_left (k := 0) rfl).trans ((extract_right (by decide)).trans ((extract_all _)))
theorem bit_getLsbD (b : Bool) : (bit b).getLsbD 0 = b := by cases b <;> rfl
theorem eSig_packE (mode : BitVec 3) (e : EFlags) (tid : BitVec 16) : (packE mode e tid).getLsbD 20 = e.sig :=
  (getLsbD_left (k := 4) rfl).trans ((getLsbD_left (k := 2) rfl).trans ((getLsbD_left (k := 1) rfl).trans
    ((getLsbD_left (k := 0) rfl).trans ((getLsbD_right (by decide)).trans (bit_getLsbD _)))))
theorem eRel_packE (mode : BitVec 3) (e : EFlags) (tid : BitVec 16) : (packE mode e tid).getLsbD 19 = e.rel :=
  (getLsbD_left (k := 3) rfl).trans ((getLsbD_left (k := 1) rfl).trans ((getLsbD_left (k := 0) rfl).trans
    ((getLsbD_right (by decide)).trans (bit_getLsbD _))))
theorem eAcq_packE (mode : BitVec 3) (e : EFlags) (tid : BitVec 16) : (packE mode e tid).getLsbD 18 = e.acq :=
  (getLsbD_left (k := 2) rfl).trans ((getLsbD_left (k := 0) rfl).trans ((getLsbD_right (by decide)).trans (bit_getLsbD _)))
@[simp] theorem eFlags_packE (mode : BitVec 3) (e : EFlags) (tid : BitVec 16) : eFlags (packE mode e tid) = e := by
  rw [eFlags, eScope_packE, eSig_packE, eRel_packE, eAcq_packE]

/-! ## Narrow names and codes -/

@[simp] theorem lo4_w6 (x : BitVec 4) : lo4 (w6 x) = x := by revert x; decide
@[simp] theorem lo5_w6 (x : BitVec 5) : lo5 (w6 x) = x := by revert x; decide
@[simp] theorem lo3_w6 (x : BitVec 3) : lo3 (w6 x) = x := by revert x; decide
@[simp] theorem lo2_w6 (x : BitVec 2) : lo2 (w6 x) = x := by revert x; decide
@[simp] theorem vlo4_w5 (x : BitVec 4) : vlo4 (w5 x) = x := by revert x; decide
@[simp] theorem vlo3_w5 (x : BitVec 3) : vlo3 (w5 x) = x := by revert x; decide
@[simp] theorem ofCode_code (f : Fmt) : Fmt.ofCode f.code = some f := by cases f <;> rfl
@[simp] theorem rnd_ofCode_code (r : Rnd) : Rnd.ofCode r.code = some r := by cases r <;> rfl
@[simp] theorem fnHi_append (x y : BitVec 4) : fnHi (x ++ y) = x := (extract_left (k := 0) rfl).trans (extract_all _)
@[simp] theorem fnLo_append (x y : BitVec 4) : fnLo (x ++ y) = y := (extract_right (by decide)).trans (extract_all _)
@[simp] theorem mode1_w3 (b : Bool) : mode1 (w3 b) = some b := by cases b <;> rfl
@[simp] theorem fnHi_fmtFn (op : BitVec 4) (f : Fmt) : fnHi (fmtFn op f) = op := fnHi_append _ _
@[simp] theorem fnLo_fmtFn (op : BitVec 4) (f : Fmt) : fnLo (fmtFn op f) = f.code := fnLo_append _ _
@[simp] theorem fnHi_opFn (op : BitVec 4) : fnHi (opFn op) = op := fnHi_append _ _
@[simp] theorem atomFn_op (sc : BitVec 2) (s w : Bool) (op : BitVec 4) : fnLo (atomFn sc s w op) = op :=
  (extract_right (by decide)).trans (extract_all _)
@[simp] theorem atomFn_scope (sc : BitVec 2) (s w : Bool) (op : BitVec 4) : (atomFn sc s w op).extractLsb' 6 2 = sc :=
  (extract_left (k := 2) rfl).trans ((extract_left (k := 1) rfl).trans ((extract_left (k := 0) rfl).trans (extract_all _)))
@[simp] theorem atomFn_sig (sc : BitVec 2) (s w : Bool) (op : BitVec 4) : (atomFn sc s w op).getLsbD 5 = s :=
  (getLsbD_left (k := 1) rfl).trans ((getLsbD_left (k := 0) rfl).trans ((getLsbD_right (by decide)).trans (bit_getLsbD _)))
@[simp] theorem atomFn_width (sc : BitVec 2) (s w : Bool) (op : BitVec 4) : (atomFn sc s w op).getLsbD 4 = w :=
  (getLsbD_left (k := 0) rfl).trans ((getLsbD_right (by decide)).trans (bit_getLsbD _))

/-! ## Subfields of an immediate or a function -/

@[simp] theorem shift_kind (h : BitVec 8) (l : BitVec 6) : (h ++ l : BitVec 14).extractLsb' 6 2 = h.extractLsb' 0 2 :=
  extract_left (k := 0) rfl
@[simp] theorem shift_count (h : BitVec 8) (l : BitVec 6) : (h ++ l : BitVec 14).extractLsb' 0 6 = l :=
  (extract_right (by decide)).trans (extract_all _)
@[simp] theorem load_size (d : BitVec 11) (k : BitVec 3) : (d ++ k : BitVec 14).extractLsb' 0 3 = k :=
  (extract_right (by decide)).trans (extract_all _)
@[simp] theorem load_disp (d : BitVec 11) (k : BitVec 3) : (d ++ k : BitVec 14).extractLsb' 3 11 = d :=
  (extract_left (k := 0) rfl).trans (extract_all _)
@[simp] theorem store_size (d : BitVec 11) (b : Bool) (k : BitVec 2) : (d ++ bit b ++ k : BitVec 14).extractLsb' 0 2 = k :=
  (extract_right (by decide)).trans (extract_all _)
@[simp] theorem store_sig (d : BitVec 11) (b : Bool) (k : BitVec 2) : (d ++ bit b ++ k : BitVec 14).getLsbD 2 = b :=
  (getLsbD_left (k := 0) rfl).trans ((getLsbD_right (by decide)).trans (bit_getLsbD _))
@[simp] theorem store_disp (d : BitVec 11) (b : Bool) (k : BitVec 2) : (d ++ bit b ++ k : BitVec 14).extractLsb' 3 11 = d :=
  (extract_left (k := 1) rfl).trans ((extract_left (k := 0) rfl).trans (extract_all _))
@[simp] theorem bar_op (c : BitVec 7) (b : BitVec 7) : (c ++ b : BitVec 14).extractLsb' 10 4 = c.extractLsb' 3 4 :=
  extract_left (k := 3) rfl
@[simp] theorem bar_num (c : BitVec 7) (b : BitVec 7) : (c ++ b : BitVec 14).extractLsb' 0 7 = b :=
  (extract_right (by decide)).trans (extract_all _)
@[simp] theorem sys_num (c : BitVec 2) (n : BitVec 12) : (c ++ n : BitVec 14).extractLsb' 0 12 = n :=
  (extract_right (by decide)).trans (extract_all _)
@[simp] theorem trap_imm (c : BitVec 6) (n : BitVec 18) (fn : BitVec 8) : (c ++ n ++ fn : BitVec 32).extractLsb' 8 18 = n :=
  (extract_left (k := 0) rfl).trans ((extract_right (by decide)).trans (extract_all _))
@[simp] theorem trap_fn (c : BitVec 6) (n : BitVec 18) (fn : BitVec 8) : fFn (c ++ n ++ fn : BitVec 32) = fn :=
  (extract_right (by decide)).trans (extract_all _)
@[simp] theorem trap_major (c : BitVec 6) (n : BitVec 18) (fn : BitVec 8) : fMajor (c ++ n ++ fn : BitVec 32) = c :=
  (extract_left (k := 18) rfl).trans ((extract_left (k := 0) rfl).trans (extract_all _))
@[simp] theorem src_code (c : BitVec 1) (n : BitVec 4) : vlo4 (c ++ n : BitVec 5) = n :=
  (extract_right (by decide)).trans (extract_all _)
@[simp] theorem mc_wx (a b : BitVec 3) (y x : BitVec 5) (e : EFlags) (m : BitVec 3) :
    (packE m e (a ++ y ++ b ++ x)).extractLsb' 0 5 = x :=
  (extract_right (by decide)).trans ((extract_right (by decide)).trans (extract_all _))
@[simp] theorem mc_wy (a b : BitVec 3) (y x : BitVec 5) (e : EFlags) (m : BitVec 3) :
    (packE m e (a ++ y ++ b ++ x)).extractLsb' 8 5 = y :=
  (extract_right (by decide)).trans ((extract_left (k := 3) rfl).trans ((extract_left (k := 0) rfl).trans
    ((extract_right (by decide)).trans (extract_all _))))
@[simp] theorem mma_kind (k n : BitVec 4) : (k ++ n : BitVec 8).getLsbD 4 = k.getLsbD 0 := getLsbD_left (k := 0) rfl
@[simp] theorem mma_source (k n : BitVec 4) : (k ++ n : BitVec 8).getLsbD 5 = k.getLsbD 1 := getLsbD_left (k := 1) rfl
@[simp] theorem lda_scope (sc : BitVec 2) (k : BitVec 4) (n : BitVec 2) : (sc ++ k ++ n : BitVec 8).extractLsb' 6 2 = sc :=
  (extract_left (k := 4) rfl).trans ((extract_left (k := 0) rfl).trans (extract_all _))
@[simp] theorem lda_size (sc : BitVec 2) (k : BitVec 4) (n : BitVec 2) : (sc ++ k ++ n : BitVec 8).extractLsb' 0 2 = n :=
  (extract_right (by decide)).trans (extract_all _)
@[simp] theorem lda_stl (sc : BitVec 2) (k : BitVec 4) (n : BitVec 2) : (sc ++ k ++ n : BitVec 8).getLsbD 5 = k.getLsbD 3 :=
  (getLsbD_left (k := 3) rfl).trans (getLsbD_right (by decide))
@[simp] theorem lda_sig (sc : BitVec 2) (k : BitVec 4) (n : BitVec 2) : (sc ++ k ++ n : BitVec 8).getLsbD 4 = k.getLsbD 2 :=
  (getLsbD_left (k := 2) rfl).trans (getLsbD_right (by decide))
@[simp] theorem stl_scope (sc : BitVec 2) (k : BitVec 1) (s : Bool) (z n : BitVec 2) :
    (sc ++ k ++ bit s ++ z ++ n : BitVec 8).extractLsb' 6 2 = sc :=
  (extract_left (k := 4) rfl).trans ((extract_left (k := 2) rfl).trans ((extract_left (k := 1) rfl).trans
    ((extract_left (k := 0) rfl).trans (extract_all _))))
@[simp] theorem stl_size (sc : BitVec 2) (k : BitVec 1) (s : Bool) (z n : BitVec 2) :
    (sc ++ k ++ bit s ++ z ++ n : BitVec 8).extractLsb' 0 2 = n := (extract_right (by decide)).trans (extract_all _)
@[simp] theorem stl_stl (sc : BitVec 2) (k : BitVec 1) (s : Bool) (z n : BitVec 2) :
    (sc ++ k ++ bit s ++ z ++ n : BitVec 8).getLsbD 5 = k.getLsbD 0 :=
  (getLsbD_left (k := 3) rfl).trans ((getLsbD_left (k := 1) rfl).trans ((getLsbD_left (k := 0) rfl).trans (getLsbD_right (by decide))))
@[simp] theorem stl_sig (sc : BitVec 2) (k : BitVec 1) (s : Bool) (z n : BitVec 2) :
    (sc ++ k ++ bit s ++ z ++ n : BitVec 8).getLsbD 4 = s :=
  (getLsbD_left (k := 2) rfl).trans ((getLsbD_left (k := 0) rfl).trans ((getLsbD_right (by decide)).trans (bit_getLsbD _)))

@[simp] theorem store_sig' (d : BitVec 11) (b : Bool) (k : BitVec 2) : (d ++ bit b ++ k : BitVec 14)[2] = b := store_sig d b k
@[simp] theorem mma_kind' (k n : BitVec 4) : (k ++ n : BitVec 8)[4] = k[0] := mma_kind k n
@[simp] theorem mma_source' (k n : BitVec 4) : (k ++ n : BitVec 8)[5] = k[1] := mma_source k n
@[simp] theorem lda_stl' (sc : BitVec 2) (k : BitVec 4) (n : BitVec 2) : (sc ++ k ++ n : BitVec 8)[5] = k[3] := lda_stl sc k n
@[simp] theorem lda_sig' (sc : BitVec 2) (k : BitVec 4) (n : BitVec 2) : (sc ++ k ++ n : BitVec 8)[4] = k[2] := lda_sig sc k n
@[simp] theorem stl_stl' (sc : BitVec 2) (k : BitVec 1) (s : Bool) (z n : BitVec 2) :
    (sc ++ k ++ bit s ++ z ++ n : BitVec 8)[5] = k[0] := stl_stl sc k s z n
@[simp] theorem stl_sig' (sc : BitVec 2) (k : BitVec 1) (s : Bool) (z n : BitVec 2) :
    (sc ++ k ++ bit s ++ z ++ n : BitVec 8)[4] = s := stl_sig sc k s z n
@[simp] theorem atomFn_sig' (sc : BitVec 2) (s w : Bool) (op : BitVec 4) : (atomFn sc s w op)[5] = s := atomFn_sig sc s w op
@[simp] theorem atomFn_width' (sc : BitVec 2) (s w : Bool) (op : BitVec 4) : (atomFn sc s w op)[4] = w := atomFn_width sc s w op
@[simp] theorem fnLo_opFn (op : BitVec 4) : fnLo (opFn op) = 0#4 := fnLo_append _ _
@[simp] theorem any_eq (f : Fmt) : f.any = true := rfl
@[simp] theorem only32_fp32 : Fmt.only32 .fp32 = true := rfl
@[simp] theorem ofCode_zero : Fmt.ofCode 0#4 = some .fp32 := rfl

end Sys2Proof
end

