-- ==== Sys2Proof/Laws/Exec.lean ====
section
/-! SUPPORT. The arm that `exec` takes for each constructor of `Instr`. -/

namespace Sys2Proof.Machine

@[simp] theorem exec_add (d a b : BitVec 6) (s : State) : exec (.add d a b) s = execAdd d a b s := rfl
@[simp] theorem exec_sub (d a b : BitVec 6) (s : State) : exec (.sub d a b) s = execSub d a b s := rfl
@[simp] theorem exec_and (d a b : BitVec 6) (s : State) : exec (.and d a b) s = execAnd d a b s := rfl
@[simp] theorem exec_or (d a b : BitVec 6) (s : State) : exec (.or d a b) s = execOr d a b s := rfl
@[simp] theorem exec_xor (d a b : BitVec 6) (s : State) : exec (.xor d a b) s = execXor d a b s := rfl
@[simp] theorem exec_sll (d a b : BitVec 6) (s : State) : exec (.sll d a b) s = execSll d a b s := rfl
@[simp] theorem exec_srl (d a b : BitVec 6) (s : State) : exec (.srl d a b) s = execSrl d a b s := rfl
@[simp] theorem exec_sra (d a b : BitVec 6) (s : State) : exec (.sra d a b) s = execSra d a b s := rfl
@[simp] theorem exec_mul (d a b : BitVec 6) (s : State) : exec (.mul d a b) s = execMul d a b s := rfl
@[simp] theorem exec_mulh (d a b : BitVec 6) (s : State) : exec (.mulh d a b) s = execMulh d a b s := rfl
@[simp] theorem exec_mulhu (d a b : BitVec 6) (s : State) : exec (.mulhu d a b) s = execMulhu d a b s := rfl
@[simp] theorem exec_div (d a b : BitVec 6) (s : State) : exec (.div d a b) s = execDiv d a b s := rfl
@[simp] theorem exec_divu (d a b : BitVec 6) (s : State) : exec (.divu d a b) s = execDivu d a b s := rfl
@[simp] theorem exec_rem (d a b : BitVec 6) (s : State) : exec (.rem d a b) s = execRem d a b s := rfl
@[simp] theorem exec_remu (d a b : BitVec 6) (s : State) : exec (.remu d a b) s = execRemu d a b s := rfl
@[simp] theorem exec_min (d a b : BitVec 6) (s : State) : exec (.min d a b) s = execMin d a b s := rfl
@[simp] theorem exec_max (d a b : BitVec 6) (s : State) : exec (.max d a b) s = execMax d a b s := rfl
@[simp] theorem exec_minu (d a b : BitVec 6) (s : State) : exec (.minu d a b) s = execMinu d a b s := rfl
@[simp] theorem exec_maxu (d a b : BitVec 6) (s : State) : exec (.maxu d a b) s = execMaxu d a b s := rfl
@[simp] theorem exec_seq (d a b : BitVec 6) (s : State) : exec (.seq d a b) s = execSeq d a b s := rfl
@[simp] theorem exec_sne (d a b : BitVec 6) (s : State) : exec (.sne d a b) s = execSne d a b s := rfl
@[simp] theorem exec_slt (d a b : BitVec 6) (s : State) : exec (.slt d a b) s = execSlt d a b s := rfl
@[simp] theorem exec_sltu (d a b : BitVec 6) (s : State) : exec (.sltu d a b) s = execSltu d a b s := rfl
@[simp] theorem exec_clz (d a : BitVec 6) (s : State) : exec (.clz d a) s = execClz d a s := rfl
@[simp] theorem exec_ctz (d a : BitVec 6) (s : State) : exec (.ctz d a) s = execCtz d a s := rfl
@[simp] theorem exec_popc (d a : BitVec 6) (s : State) : exec (.popc d a) s = execPopc d a s := rfl
@[simp] theorem exec_addi (d a : BitVec 6) (imm : BitVec 14) (s : State) : exec (.addi d a imm) s = execAddi d a imm s := rfl
@[simp] theorem exec_andi (d a : BitVec 6) (imm : BitVec 14) (s : State) : exec (.andi d a imm) s = execAndi d a imm s := rfl
@[simp] theorem exec_ori (d a : BitVec 6) (imm : BitVec 14) (s : State) : exec (.ori d a imm) s = execOri d a imm s := rfl
@[simp] theorem exec_xori (d a : BitVec 6) (imm : BitVec 14) (s : State) : exec (.xori d a imm) s = execXori d a imm s := rfl
@[simp] theorem exec_slli (d a sh : BitVec 6) (s : State) : exec (.slli d a sh) s = execSlli d a sh s := rfl
@[simp] theorem exec_srli (d a sh : BitVec 6) (s : State) : exec (.srli d a sh) s = execSrli d a sh s := rfl
@[simp] theorem exec_srai (d a sh : BitVec 6) (s : State) : exec (.srai d a sh) s = execSrai d a sh s := rfl
@[simp] theorem exec_slti (d a : BitVec 6) (imm : BitVec 14) (s : State) : exec (.slti d a imm) s = execSlti d a imm s := rfl
@[simp] theorem exec_sltiu (d a : BitVec 6) (imm : BitVec 14) (s : State) : exec (.sltiu d a imm) s = execSltiu d a imm s := rfl
@[simp] theorem exec_lui (d : BitVec 6) (imm : BitVec 20) (s : State) : exec (.lui d imm) s = execLui d imm s := rfl
@[simp] theorem exec_amov (ad aa : BitVec 4) (s : State) : exec (.amov ad aa) s = execAmov ad aa s := rfl
@[simp] theorem exec_aset (ad : BitVec 4) (ga gb : BitVec 6) (s : State) : exec (.aset ad ga gb) s = execAset ad ga gb s := rfl
@[simp] theorem exec_asetl (ad : BitVec 4) (ga : BitVec 6) (s : State) : exec (.asetl ad ga) s = execAsetl ad ga s := rfl
@[simp] theorem exec_aperm (ad : BitVec 4) (ga : BitVec 6) (s : State) : exec (.aperm ad ga) s = execAperm ad ga s := rfl
@[simp] theorem exec_aadv (ad : BitVec 4) (ga : BitVec 6) (s : State) : exec (.aadv ad ga) s = execAadv ad ga s := rfl
@[simp] theorem exec_aget (gd : BitVec 6) (aa : BitVec 4) (s : State) : exec (.aget gd aa) s = execAget gd aa s := rfl
@[simp] theorem exec_agetb (gd : BitVec 6) (aa : BitVec 4) (s : State) : exec (.agetb gd aa) s = execAgetb gd aa s := rfl
@[simp] theorem exec_agetl (gd : BitVec 6) (aa : BitVec 4) (s : State) : exec (.agetl gd aa) s = execAgetl gd aa s := rfl
@[simp] theorem exec_agetp (gd : BitVec 6) (aa : BitVec 4) (s : State) : exec (.agetp gd aa) s = execAgetp gd aa s := rfl
@[simp] theorem exec_aaddi (ad aa : BitVec 4) (imm : BitVec 14) (s : State) : exec (.aaddi ad aa imm) s = execAaddi ad aa imm s := rfl
@[simp] theorem exec_ldB (d : BitVec 6) (a : BitVec 4) (disp : BitVec 11) (s : State) : exec (.ldB d a disp) s = execLdB d a disp s := rfl
@[simp] theorem exec_ldH (d : BitVec 6) (a : BitVec 4) (disp : BitVec 11) (s : State) : exec (.ldH d a disp) s = execLdH d a disp s := rfl
@[simp] theorem exec_ldW (d : BitVec 6) (a : BitVec 4) (disp : BitVec 11) (s : State) : exec (.ldW d a disp) s = execLdW d a disp s := rfl
@[simp] theorem exec_ldD (d : BitVec 6) (a : BitVec 4) (disp : BitVec 11) (s : State) : exec (.ldD d a disp) s = execLdD d a disp s := rfl
@[simp] theorem exec_ldBu (d : BitVec 6) (a : BitVec 4) (disp : BitVec 11) (s : State) : exec (.ldBu d a disp) s = execLdBu d a disp s := rfl
@[simp] theorem exec_ldHu (d : BitVec 6) (a : BitVec 4) (disp : BitVec 11) (s : State) : exec (.ldHu d a disp) s = execLdHu d a disp s := rfl
@[simp] theorem exec_ldWu (d : BitVec 6) (a : BitVec 4) (disp : BitVec 11) (s : State) : exec (.ldWu d a disp) s = execLdWu d a disp s := rfl
@[simp] theorem exec_stB (sig : Bool) (d : BitVec 6) (a : BitVec 4) (disp : BitVec 11) (s : State) : exec (.stB sig d a disp) s = execStB sig d a disp s := rfl
@[simp] theorem exec_stH (sig : Bool) (d : BitVec 6) (a : BitVec 4) (disp : BitVec 11) (s : State) : exec (.stH sig d a disp) s = execStH sig d a disp s := rfl
@[simp] theorem exec_stW (sig : Bool) (d : BitVec 6) (a : BitVec 4) (disp : BitVec 11) (s : State) : exec (.stW sig d a disp) s = execStW sig d a disp s := rfl
@[simp] theorem exec_stD (sig : Bool) (d : BitVec 6) (a : BitVec 4) (disp : BitVec 11) (s : State) : exec (.stD sig d a disp) s = execStD sig d a disp s := rfl
@[simp] theorem exec_amoAdd (sc : BitVec 2) (sig w : Bool) (d : BitVec 6) (a : BitVec 4) (b : BitVec 6) (s : State) : exec (.amoAdd sc sig w d a b) s = execAmoAdd sc sig w d a b s := rfl
@[simp] theorem exec_amoAnd (sc : BitVec 2) (sig w : Bool) (d : BitVec 6) (a : BitVec 4) (b : BitVec 6) (s : State) : exec (.amoAnd sc sig w d a b) s = execAmoAnd sc sig w d a b s := rfl
@[simp] theorem exec_amoOr (sc : BitVec 2) (sig w : Bool) (d : BitVec 6) (a : BitVec 4) (b : BitVec 6) (s : State) : exec (.amoOr sc sig w d a b) s = execAmoOr sc sig w d a b s := rfl
@[simp] theorem exec_amoXor (sc : BitVec 2) (sig w : Bool) (d : BitVec 6) (a : BitVec 4) (b : BitVec 6) (s : State) : exec (.amoXor sc sig w d a b) s = execAmoXor sc sig w d a b s := rfl
@[simp] theorem exec_amoMin (sc : BitVec 2) (sig w : Bool) (d : BitVec 6) (a : BitVec 4) (b : BitVec 6) (s : State) : exec (.amoMin sc sig w d a b) s = execAmoMin sc sig w d a b s := rfl
@[simp] theorem exec_amoMax (sc : BitVec 2) (sig w : Bool) (d : BitVec 6) (a : BitVec 4) (b : BitVec 6) (s : State) : exec (.amoMax sc sig w d a b) s = execAmoMax sc sig w d a b s := rfl
@[simp] theorem exec_amoMinu (sc : BitVec 2) (sig w : Bool) (d : BitVec 6) (a : BitVec 4) (b : BitVec 6) (s : State) : exec (.amoMinu sc sig w d a b) s = execAmoMinu sc sig w d a b s := rfl
@[simp] theorem exec_amoMaxu (sc : BitVec 2) (sig w : Bool) (d : BitVec 6) (a : BitVec 4) (b : BitVec 6) (s : State) : exec (.amoMaxu sc sig w d a b) s = execAmoMaxu sc sig w d a b s := rfl
@[simp] theorem exec_amoSwap (sc : BitVec 2) (sig w : Bool) (d : BitVec 6) (a : BitVec 4) (b : BitVec 6) (s : State) : exec (.amoSwap sc sig w d a b) s = execAmoSwap sc sig w d a b s := rfl
@[simp] theorem exec_cas (sc : BitVec 2) (sig w : Bool) (d : BitVec 6) (a : BitVec 4) (b : BitVec 6) (s : State) : exec (.cas sc sig w d a b) s = execCas sc sig w d a b s := rfl
@[simp] theorem exec_casGt (sc : BitVec 2) (sig w : Bool) (d : BitVec 6) (a : BitVec 4) (b : BitVec 6) (s : State) : exec (.casGt sc sig w d a b) s = execCasGt sc sig w d a b s := rfl
@[simp] theorem exec_casVer (sc : BitVec 2) (sig w : Bool) (d : BitVec 6) (a : BitVec 4) (b : BitVec 6) (s : State) : exec (.casVer sc sig w d a b) s = execCasVer sc sig w d a b s := rfl
@[simp] theorem exec_casPtag (sc : BitVec 2) (sig w : Bool) (d : BitVec 6) (a : BitVec 4) (b : BitVec 6) (s : State) : exec (.casPtag sc sig w d a b) s = execCasPtag sc sig w d a b s := rfl
@[simp] theorem exec_redAdd (sc : BitVec 2) (sig w : Bool) (a : BitVec 4) (b : BitVec 6) (s : State) : exec (.redAdd sc sig w a b) s = execRedAdd sc sig w a b s := rfl
@[simp] theorem exec_redAnd (sc : BitVec 2) (sig w : Bool) (a : BitVec 4) (b : BitVec 6) (s : State) : exec (.redAnd sc sig w a b) s = execRedAnd sc sig w a b s := rfl
@[simp] theorem exec_redOr (sc : BitVec 2) (sig w : Bool) (a : BitVec 4) (b : BitVec 6) (s : State) : exec (.redOr sc sig w a b) s = execRedOr sc sig w a b s := rfl
@[simp] theorem exec_redXor (sc : BitVec 2) (sig w : Bool) (a : BitVec 4) (b : BitVec 6) (s : State) : exec (.redXor sc sig w a b) s = execRedXor sc sig w a b s := rfl
@[simp] theorem exec_redMin (sc : BitVec 2) (sig w : Bool) (a : BitVec 4) (b : BitVec 6) (s : State) : exec (.redMin sc sig w a b) s = execRedMin sc sig w a b s := rfl
@[simp] theorem exec_redMax (sc : BitVec 2) (sig w : Bool) (a : BitVec 4) (b : BitVec 6) (s : State) : exec (.redMax sc sig w a b) s = execRedMax sc sig w a b s := rfl
@[simp] theorem exec_redMinu (sc : BitVec 2) (sig w : Bool) (a : BitVec 4) (b : BitVec 6) (s : State) : exec (.redMinu sc sig w a b) s = execRedMinu sc sig w a b s := rfl
@[simp] theorem exec_redMaxu (sc : BitVec 2) (sig w : Bool) (a : BitVec 4) (b : BitVec 6) (s : State) : exec (.redMaxu sc sig w a b) s = execRedMaxu sc sig w a b s := rfl
@[simp] theorem exec_redFadd (sc : BitVec 2) (sig : Bool) (a : BitVec 4) (b : BitVec 6) (s : State) : exec (.redFadd sc sig a b) s = execRedFadd sc sig a b s := rfl
@[simp] theorem exec_lda (sc size : BitVec 2) (d : BitVec 6) (a : BitVec 4) (s : State) : exec (.lda sc size d a) s = execLda sc size d a s := rfl
@[simp] theorem exec_stl (sc : BitVec 2) (sig : Bool) (size : BitVec 2) (d : BitVec 6) (a : BitVec 4) (s : State) : exec (.stl sc sig size d a) s = execStl sc sig size d a s := rfl
@[simp] theorem exec_fence (sc : BitVec 2) (s : State) : exec (.fence sc) s = execFence sc s := rfl
@[simp] theorem exec_waitW (gt : BitVec 6) (a : BitVec 4) (b : BitVec 6) (s : State) : exec (.waitW gt a b) s = execWaitW gt a b s := rfl
@[simp] theorem exec_waitD (gt : BitVec 6) (a : BitVec 4) (b : BitVec 6) (s : State) : exec (.waitD gt a b) s = execWaitD gt a b s := rfl
@[simp] theorem exec_bra (off : BitVec 16) (s : State) : exec (.bra off) s = execBra off s := rfl
@[simp] theorem exec_beqz (a : BitVec 6) (off : BitVec 16) (s : State) : exec (.beqz a off) s = execBeqz a off s := rfl
@[simp] theorem exec_bnez (a : BitVec 6) (off : BitVec 16) (s : State) : exec (.bnez a off) s = execBnez a off s := rfl
@[simp] theorem exec_bltz (a : BitVec 6) (off : BitVec 16) (s : State) : exec (.bltz a off) s = execBltz a off s := rfl
@[simp] theorem exec_bgez (a : BitVec 6) (off : BitVec 16) (s : State) : exec (.bgez a off) s = execBgez a off s := rfl
@[simp] theorem exec_bgtz (a : BitVec 6) (off : BitVec 16) (s : State) : exec (.bgtz a off) s = execBgtz a off s := rfl
@[simp] theorem exec_blez (a : BitVec 6) (off : BitVec 16) (s : State) : exec (.blez a off) s = execBlez a off s := rfl
@[simp] theorem exec_bkany (k : BitVec 3) (off : BitVec 16) (s : State) : exec (.bkany k off) s = execBkany k off s := rfl
@[simp] theorem exec_bknone (k : BitVec 3) (off : BitVec 16) (s : State) : exec (.bknone k off) s = execBknone k off s := rfl
@[simp] theorem exec_call (d : BitVec 6) (imm : BitVec 20) (s : State) : exec (.call d imm) s = execCall d imm s := rfl
@[simp] theorem exec_jmp (a : BitVec 6) (s : State) : exec (.jmp a) s = execJmp a s := rfl
@[simp] theorem exec_callr (d a : BitVec 6) (s : State) : exec (.callr d a) s = execCallr d a s := rfl
@[simp] theorem exec_rwaitH (q : BitVec 4) (b : BitVec 6) (s : State) : exec (.rwaitH q b) s = execRwaitH q b s := rfl
@[simp] theorem exec_rwaitT (q : BitVec 4) (b : BitVec 6) (s : State) : exec (.rwaitT q b) s = execRwaitT q b s := rfl
@[simp] theorem exec_radvH (q : BitVec 4) (b : BitVec 6) (s : State) : exec (.radvH q b) s = execRadvH q b s := rfl
@[simp] theorem exec_radvT (q : BitVec 4) (b : BitVec 6) (s : State) : exec (.radvT q b) s = execRadvT q b s := rfl
@[simp] theorem exec_rfill (d : BitVec 6) (q : BitVec 4) (s : State) : exec (.rfill d q) s = execRfill d q s := rfl
@[simp] theorem exec_rfree (d : BitVec 6) (q : BitVec 4) (s : State) : exec (.rfree d q) s = execRfree d q s := rfl
@[simp] theorem exec_rbind (q : BitVec 4) (a : BitVec 4) (s : State) : exec (.rbind q a) s = execRbind q a s := rfl
@[simp] theorem exec_sysrd (d : BitVec 6) (num : BitVec 12) (s : State) : exec (.sysrd d num) s = execSysrd d num s := rfl
@[simp] theorem exec_syswr (num : BitVec 12) (a : BitVec 6) (s : State) : exec (.syswr num a) s = execSyswr num a s := rfl
@[simp] theorem exec_trap (imm : BitVec 18) (s : State) : exec (.trap imm) s = execTrap imm s := rfl
@[simp] theorem exec_eret (s : State) : exec (.eret) s = execEret s := rfl
@[simp] theorem exec_sleep (a : BitVec 6) (s : State) : exec (.sleep a) s = execSleep a s := rfl
@[simp] theorem exec_movb (ad sa : BitVec 4) (n : BitVec 6) (s : State) : exec (.movb ad sa n) s = execMovb ad sa n s := rfl
@[simp] theorem exec_rep (n : BitVec 6) (s : State) : exec (.rep n) s = execRep n s := rfl
@[simp] theorem exec_vadd (f : Fmt) (vd va vb : BitVec 5) (k : BitVec 3) (s : State) : exec (.vadd f vd va vb k) s = execVadd f vd va vb k s := rfl
@[simp] theorem exec_vsub (f : Fmt) (vd va vb : BitVec 5) (k : BitVec 3) (s : State) : exec (.vsub f vd va vb k) s = execVsub f vd va vb k s := rfl
@[simp] theorem exec_vmul (f : Fmt) (vd va vb : BitVec 5) (k : BitVec 3) (s : State) : exec (.vmul f vd va vb k) s = execVmul f vd va vb k s := rfl
@[simp] theorem exec_vmin (f : Fmt) (vd va vb : BitVec 5) (k : BitVec 3) (s : State) : exec (.vmin f vd va vb k) s = execVmin f vd va vb k s := rfl
@[simp] theorem exec_vmax (f : Fmt) (vd va vb : BitVec 5) (k : BitVec 3) (s : State) : exec (.vmax f vd va vb k) s = execVmax f vd va vb k s := rfl
@[simp] theorem exec_vabs (f : Fmt) (vd va : BitVec 5) (k : BitVec 3) (s : State) : exec (.vabs f vd va k) s = execVabs f vd va k s := rfl
@[simp] theorem exec_vneg (f : Fmt) (vd va : BitVec 5) (k : BitVec 3) (s : State) : exec (.vneg f vd va k) s = execVneg f vd va k s := rfl
@[simp] theorem exec_vfma (f : Fmt) (vd va vb : BitVec 5) (k : BitVec 3) (s : State) : exec (.vfma f vd va vb k) s = execVfma f vd va vb k s := rfl
@[simp] theorem exec_vfms (f : Fmt) (vd va vb : BitVec 5) (k : BitVec 3) (s : State) : exec (.vfms f vd va vb k) s = execVfms f vd va vb k s := rfl
@[simp] theorem exec_vfnma (f : Fmt) (vd va vb : BitVec 5) (k : BitVec 3) (s : State) : exec (.vfnma f vd va vb k) s = execVfnma f vd va vb k s := rfl
@[simp] theorem exec_vceq (f : Fmt) (kd : BitVec 3) (va vb : BitVec 5) (k : BitVec 3) (s : State) : exec (.vceq f kd va vb k) s = execVceq f kd va vb k s := rfl
@[simp] theorem exec_vcne (f : Fmt) (kd : BitVec 3) (va vb : BitVec 5) (k : BitVec 3) (s : State) : exec (.vcne f kd va vb k) s = execVcne f kd va vb k s := rfl
@[simp] theorem exec_vclt (f : Fmt) (kd : BitVec 3) (va vb : BitVec 5) (k : BitVec 3) (s : State) : exec (.vclt f kd va vb k) s = execVclt f kd va vb k s := rfl
@[simp] theorem exec_vcle (f : Fmt) (kd : BitVec 3) (va vb : BitVec 5) (k : BitVec 3) (s : State) : exec (.vcle f kd va vb k) s = execVcle f kd va vb k s := rfl
@[simp] theorem exec_vcgt (f : Fmt) (kd : BitVec 3) (va vb : BitVec 5) (k : BitVec 3) (s : State) : exec (.vcgt f kd va vb k) s = execVcgt f kd va vb k s := rfl
@[simp] theorem exec_vcge (f : Fmt) (kd : BitVec 3) (va vb : BitVec 5) (k : BitVec 3) (s : State) : exec (.vcge f kd va vb k) s = execVcge f kd va vb k s := rfl
@[simp] theorem exec_vrsum (f : Fmt) (vd va : BitVec 5) (k : BitVec 3) (s : State) : exec (.vrsum f vd va k) s = execVrsum f vd va k s := rfl
@[simp] theorem exec_vrmax (f : Fmt) (vd va : BitVec 5) (k : BitVec 3) (s : State) : exec (.vrmax f vd va k) s = execVrmax f vd va k s := rfl
@[simp] theorem exec_vrmin (f : Fmt) (vd va : BitVec 5) (k : BitVec 3) (s : State) : exec (.vrmin f vd va k) s = execVrmin f vd va k s := rfl
@[simp] theorem exec_vperm (f : Fmt) (vd va vb : BitVec 5) (k : BitVec 3) (s : State) : exec (.vperm f vd va vb k) s = execVperm f vd va vb k s := rfl
@[simp] theorem exec_vbcast (f : Fmt) (vd va gb : BitVec 5) (k : BitVec 3) (s : State) : exec (.vbcast f vd va gb k) s = execVbcast f vd va gb k s := rfl
@[simp] theorem exec_vslideup (f : Fmt) (vd va gb : BitVec 5) (k : BitVec 3) (s : State) : exec (.vslideup f vd va gb k) s = execVslideup f vd va gb k s := rfl
@[simp] theorem exec_vslidedn (f : Fmt) (vd va gb : BitVec 5) (k : BitVec 3) (s : State) : exec (.vslidedn f vd va gb k) s = execVslidedn f vd va gb k s := rfl
@[simp] theorem exec_vcvt (dst src : Fmt) (rnd : Rnd) (vd va : BitVec 5) (k : BitVec 3) (s : State) : exec (.vcvt dst src rnd vd va k) s = execVcvt dst src rnd vd va k s := rfl
@[simp] theorem exec_vrcp (vd va : BitVec 5) (k : BitVec 3) (s : State) : exec (.vrcp vd va k) s = execVrcp vd va k s := rfl
@[simp] theorem exec_vrsq (vd va : BitVec 5) (k : BitVec 3) (s : State) : exec (.vrsq vd va k) s = execVrsq vd va k s := rfl
@[simp] theorem exec_vexp2 (vd va : BitVec 5) (k : BitVec 3) (s : State) : exec (.vexp2 vd va k) s = execVexp2 vd va k s := rfl
@[simp] theorem exec_vlog2 (vd va : BitVec 5) (k : BitVec 3) (s : State) : exec (.vlog2 vd va k) s = execVlog2 vd va k s := rfl
@[simp] theorem exec_vld (vd : BitVec 5) (a : BitVec 4) (disp : BitVec 5) (k : BitVec 3) (s : State) : exec (.vld vd a disp k) s = execVld vd a disp k s := rfl
@[simp] theorem exec_vst (vd : BitVec 5) (a : BitVec 4) (disp : BitVec 5) (k : BitVec 3) (s : State) : exec (.vst vd a disp k) s = execVst vd a disp k s := rfl
@[simp] theorem exec_vldBc (f : Fmt) (vd : BitVec 5) (a : BitVec 4) (disp : BitVec 5) (k : BitVec 3) (s : State) : exec (.vldBc f vd a disp k) s = execVldBc f vd a disp k s := rfl
@[simp] theorem exec_kand (kd ka kb : BitVec 3) (s : State) : exec (.kand kd ka kb) s = execKand kd ka kb s := rfl
@[simp] theorem exec_kor (kd ka kb : BitVec 3) (s : State) : exec (.kor kd ka kb) s = execKor kd ka kb s := rfl
@[simp] theorem exec_kxor (kd ka kb : BitVec 3) (s : State) : exec (.kxor kd ka kb) s = execKxor kd ka kb s := rfl
@[simp] theorem exec_knot (kd ka : BitVec 3) (s : State) : exec (.knot kd ka) s = execKnot kd ka s := rfl
@[simp] theorem exec_kmov (kd ka : BitVec 3) (s : State) : exec (.kmov kd ka) s = execKmov kd ka s := rfl
@[simp] theorem exec_vmovg (f : Fmt) (vd : BitVec 5) (ga gb : BitVec 6) (s : State) : exec (.vmovg f vd ga gb) s = execVmovg f vd ga gb s := rfl
@[simp] theorem exec_vext (f : Fmt) (gd : BitVec 6) (va : BitVec 5) (gb : BitVec 6) (s : State) : exec (.vext f gd va gb) s = execVext f gd va gb s := rfl
@[simp] theorem exec_ksetg (f : Fmt) (kd : BitVec 3) (ga gb : BitVec 6) (s : State) : exec (.ksetg f kd ga gb) s = execKsetg f kd ga gb s := rfl
@[simp] theorem exec_kgetg (f : Fmt) (gd : BitVec 6) (ka : BitVec 3) (gb : BitVec 6) (s : State) : exec (.kgetg f gd ka gb) s = execKgetg f gd ka gb s := rfl
@[simp] theorem exec_vand (f : Fmt) (vd va vb : BitVec 5) (k : BitVec 3) (s : State) : exec (.vand f vd va vb k) s = execVand f vd va vb k s := rfl
@[simp] theorem exec_vor (f : Fmt) (vd va vb : BitVec 5) (k : BitVec 3) (s : State) : exec (.vor f vd va vb k) s = execVor f vd va vb k s := rfl
@[simp] theorem exec_vxor (f : Fmt) (vd va vb : BitVec 5) (k : BitVec 3) (s : State) : exec (.vxor f vd va vb k) s = execVxor f vd va vb k s := rfl
@[simp] theorem exec_vshl (f : Fmt) (vd va vb : BitVec 5) (k : BitVec 3) (s : State) : exec (.vshl f vd va vb k) s = execVshl f vd va vb k s := rfl
@[simp] theorem exec_vshr (f : Fmt) (vd va vb : BitVec 5) (k : BitVec 3) (s : State) : exec (.vshr f vd va vb k) s = execVshr f vd va vb k s := rfl
@[simp] theorem exec_vsra (f : Fmt) (vd va vb : BitVec 5) (k : BitVec 3) (s : State) : exec (.vsra f vd va vb k) s = execVsra f vd va vb k s := rfl
@[simp] theorem exec_agld (ad : BitVec 4) (ga : BitVec 6) (s : State) : exec (.agld ad ga) s = execAgld ad ga s := rfl
@[simp] theorem exec_anew (gd ga : BitVec 6) (s : State) : exec (.anew gd ga) s = execAnew gd ga s := rfl
@[simp] theorem exec_afree (ga : BitVec 6) (s : State) : exec (.afree ga) s = execAfree ga s := rfl
@[simp] theorem exec_wire (gd : BitVec 6) (s : State) : exec (.wire gd) s = execWire gd s := rfl
@[simp] theorem exec_link (gd ga gb : BitVec 6) (s : State) : exec (.link gd ga gb) s = execLink gd ga gb s := rfl
@[simp] theorem exec_adup (gd ga gb : BitVec 6) (s : State) : exec (.adup gd ga gb) s = execAdup gd ga gb s := rfl
@[simp] theorem exec_aera (gd ga gb : BitVec 6) (s : State) : exec (.aera gd ga gb) s = execAera gd ga gb s := rfl
@[simp] theorem exec_payshare (gd ga : BitVec 6) (s : State) : exec (.payshare gd ga) s = execPayshare gd ga s := rfl
@[simp] theorem exec_paydrop (gd ga : BitVec 6) (s : State) : exec (.paydrop gd ga) s = execPaydrop gd ga s := rfl
@[simp] theorem exec_ruleset (a : BitVec 4) (s : State) : exec (.ruleset a) s = execRuleset a s := rfl
@[simp] theorem exec_rulepub (s : State) : exec (.rulepub) s = execRulepub s := rfl
@[simp] theorem exec_launch (e : EFlags) (gd : BitVec 6) (a : BitVec 4) (s : State) : exec (.launch e gd a) s = execLaunch e gd a s := rfl
@[simp] theorem exec_launchInd (e : EFlags) (gd : BitVec 6) (a : BitVec 4) (s : State) : exec (.launchInd e gd a) s = execLaunchInd e gd a s := rfl
@[simp] theorem exec_retire (s : State) : exec (.retire) s = execRetire s := rfl
@[simp] theorem exec_retireS (s : State) : exec (.retireS) s = execRetireS s := rfl
@[simp] theorem exec_yieldSlot (s : State) : exec (.yieldSlot) s = execYieldSlot s := rfl
@[simp] theorem exec_krel (gd ga : BitVec 6) (s : State) : exec (.krel gd ga) s = execKrel gd ga s := rfl
@[simp] theorem exec_govset (ga gb : BitVec 6) (s : State) : exec (.govset ga gb) s = execGovset ga gb s := rfl
@[simp] theorem exec_profrd (gd ga : BitVec 6) (s : State) : exec (.profrd gd ga) s = execProfrd gd ga s := rfl
@[simp] theorem exec_mma (e : EFlags) (shape : BitVec 3) (f : Fmt) (acc : BitVec 2) (src : ASrc) (gb : BitVec 6) (s : State) : exec (.mma e shape f acc src gb) s = execMma e shape f acc src gb s := rfl
@[simp] theorem exec_mmaRg (e : EFlags) (shape : BitVec 3) (f : Fmt) (acc : BitVec 2) (q : BitVec 4) (gb : BitVec 6) (s : State) : exec (.mmaRg e shape f acc q gb) s = execMmaRg e shape f acc q gb s := rfl
@[simp] theorem exec_bld (e : EFlags) (tr : Bool) (f : Fmt) (tid : BitVec 16) (ga gb gc : BitVec 6) (s : State) : exec (.bld e tr f tid ga gb gc) s = execBld e tr f tid ga gb gc s := rfl
@[simp] theorem exec_aclr (acc : BitVec 2) (s : State) : exec (.aclr acc) s = execAclr acc s := rfl
@[simp] theorem exec_mxw (ga : BitVec 6) (s : State) : exec (.mxw ga) s = execMxw ga s := rfl
@[simp] theorem exec_mxwait (s : State) : exec (.mxwait) s = execMxwait s := rfl
@[simp] theorem exec_ast (e : EFlags) (z : Bool) (f : Fmt) (rnd : Rnd) (tid : BitVec 16) (acc : BitVec 2) (ga gb : BitVec 6) (s : State) : exec (.ast e z f rnd tid acc ga gb) s = execAst e z f rnd tid acc ga gb s := rfl
@[simp] theorem exec_cpy (e : EFlags) (ad sa : BitVec 4) (gb : BitVec 6) (s : State) : exec (.cpy e ad sa gb) s = execCpy e ad sa gb s := rfl
@[simp] theorem exec_cpyAdd (e : EFlags) (ad sa : BitVec 4) (gb : BitVec 6) (s : State) : exec (.cpyAdd e ad sa gb) s = execCpyAdd e ad sa gb s := rfl
@[simp] theorem exec_cpyMc (e : EFlags) (wx wy : BitVec 5) (gm : BitVec 6) (sa : BitVec 4) (gb : BitVec 6) (s : State) : exec (.cpyMc e wx wy gm sa gb) s = execCpyMc e wx wy gm sa gb s := rfl
@[simp] theorem exec_post (e : EFlags) (gr : BitVec 6) (sa : BitVec 4) (gb : BitVec 6) (s : State) : exec (.post e gr sa gb) s = execPost e gr sa gb s := rfl
@[simp] theorem exec_postMb (e : EFlags) (ge gb : BitVec 6) (s : State) : exec (.postMb e ge gb) s = execPostMb e ge gb s := rfl
@[simp] theorem exec_postQ (e : EFlags) (tag : BitVec 16) (ad sa : BitVec 4) (gb : BitVec 6) (s : State) : exec (.postQ e tag ad sa gb) s = execPostQ e tag ad sa gb s := rfl
@[simp] theorem exec_toksend (e : EFlags) (gt : BitVec 6) (sa : BitVec 4) (gb : BitVec 6) (s : State) : exec (.toksend e gt sa gb) s = execToksend e gt sa gb s := rfl
@[simp] theorem exec_mboxCfg (ga : BitVec 6) (s : State) : exec (.mboxCfg ga) s = execMboxCfg ga s := rfl
@[simp] theorem exec_mboxRd (gd ga : BitVec 6) (s : State) : exec (.mboxRd gd ga) s = execMboxRd gd ga s := rfl
@[simp] theorem exec_csnap (a : BitVec 4) (ga : BitVec 6) (s : State) : exec (.csnap a ga) s = execCsnap a ga s := rfl
@[simp] theorem exec_barInit (bar : BitVec 7) (ga gb : BitVec 6) (s : State) : exec (.barInit bar ga gb) s = execBarInit bar ga gb s := rfl
@[simp] theorem exec_barArrive (bar : BitVec 7) (ga gk : BitVec 6) (s : State) : exec (.barArrive bar ga gk) s = execBarArrive bar ga gk s := rfl
@[simp] theorem exec_barWait (bar : BitVec 7) (gt : BitVec 6) (s : State) : exec (.barWait bar gt) s = execBarWait bar gt s := rfl
@[simp] theorem exec_extensionPrefix (ext : BitVec 26) (next : BitVec 32) (s : State) : exec (.extensionPrefix ext next) s = execExtensionPrefix ext next s := rfl
@[simp] theorem exec_hint (bits : BitVec 26) (s : State) : exec (.hint bits) s = execHint bits s := rfl
@[simp] theorem exec_illegalInstruction (info : BitVec 64) (s : State) : exec (.illegalInstruction info) s = execIllegalInstruction info s := rfl
@[simp] theorem exec_instructionFetch (s : State) : exec (.instructionFetch) s = execInstructionFetch s := rfl
@[simp] theorem exec_reset (s : State) : exec (.reset) s = execReset s := rfl
@[simp] theorem exec_routerPowerGate (tower : Fin 4) (router : Fin 64) (s : State) : exec (.routerPowerGate tower router) s = execRouterPowerGate tower router s := rfl
@[simp] theorem exec_routerWake (tower : Fin 4) (router : Fin 64) (s : State) : exec (.routerWake tower router) s = execRouterWake tower router s := rfl
@[simp] theorem exec_portRequestLeave (core pick : Nat) (s : State) : exec (.portRequestLeave core pick) s = execPortRequestLeave core pick s := rfl
@[simp] theorem exec_shaperRefill (tower : Fin 4) (s : State) : exec (.shaperRefill tower) s = execShaperRefill tower s := rfl
@[simp] theorem exec_sliceRequest (id : Nat) (s : State) : exec (.sliceRequest id) s = execSliceRequest id s := rfl
@[simp] theorem exec_translationWalk (q : WalkArgs) (s : State) : exec (.translationWalk q) s = execTranslationWalk q s := rfl
@[simp] theorem exec_remoteDataCacheRequest (id : Nat) (s : State) : exec (.remoteDataCacheRequest id) s = execRemoteDataCacheRequest id s := rfl
@[simp] theorem exec_performAtHome (id : Nat) (s : State) : exec (.performAtHome id) s = execPerformAtHome id s := rfl
@[simp] theorem exec_responseDelivery (id : Nat) (s : State) : exec (.responseDelivery id) s = execResponseDelivery id s := rfl
@[simp] theorem exec_announcementApply (dst home : Fin 4) (s : State) : exec (.announcementApply dst home) s = execAnnouncementApply dst home s := rfl
@[simp] theorem exec_clockGapWriteResume (id : Nat) (s : State) : exec (.clockGapWriteResume id) s = execClockGapWriteResume id s := rfl
@[simp] theorem exec_l1LineExpiry (core asid vline : Nat) (s : State) : exec (.l1LineExpiry core asid vline) s = execL1LineExpiry core asid vline s := rfl
@[simp] theorem exec_accessRetry (key : Nat) (s : State) : exec (.accessRetry key) s = execAccessRetry key s := rfl
@[simp] theorem exec_watchMessage (cluster line : Nat) (s : State) : exec (.watchMessage cluster line) s = execWatchMessage cluster line s := rfl
@[simp] theorem exec_watchWithdrawal (cluster line : Nat) (s : State) : exec (.watchWithdrawal cluster line) s = execWatchWithdrawal cluster line s := rfl
@[simp] theorem exec_watchWithdrawalAck (cluster line : Nat) (s : State) : exec (.watchWithdrawalAck cluster line) s = execWatchWithdrawalAck cluster line s := rfl
@[simp] theorem exec_wakeWrite (cluster line : Nat) (s : State) : exec (.wakeWrite cluster line) s = execWakeWrite cluster line s := rfl
@[simp] theorem exec_waitTimeout (key : Nat) (s : State) : exec (.waitTimeout key) s = execWaitTimeout key s := rfl
@[simp] theorem exec_sleepExpiry (key : Nat) (s : State) : exec (.sleepExpiry key) s = execSleepExpiry key s := rfl
@[simp] theorem exec_barWaitTimeout (key : Nat) (s : State) : exec (.barWaitTimeout key) s = execBarWaitTimeout key s := rfl
@[simp] theorem exec_busySlotPoll (key : Nat) (s : State) : exec (.busySlotPoll key) s = execBusySlotPoll key s := rfl
@[simp] theorem exec_busyWaitReport (key : Nat) (s : State) : exec (.busyWaitReport key) s = execBusyWaitReport key s := rfl
@[simp] theorem exec_shootdownDescriptor (sd : Shootdown) (tower : Fin 4) (slice : Fin 64) (s : State) : exec (.shootdownDescriptor sd tower slice) s = execShootdownDescriptor sd tower slice s := rfl
@[simp] theorem exec_shootdownDrainComplete (id : Nat) (tower : Fin 4) (slice : Fin 64) (s : State) : exec (.shootdownDrainComplete id tower slice) s = execShootdownDrainComplete id tower slice s := rfl
@[simp] theorem exec_shootdownAck (id : Nat) (tower : Fin 4) (slice : Fin 64) (s : State) : exec (.shootdownAck id tower slice) s = execShootdownAck id tower slice s := rfl
@[simp] theorem exec_migrationWriteStall (frame bytes : Nat) (s : State) : exec (.migrationWriteStall frame bytes) s = execMigrationWriteStall frame bytes s := rfl
@[simp] theorem exec_migrationStallLift (frame bytes : Nat) (moved : Option Nat) (s : State) : exec (.migrationStallLift frame bytes) s = execMigrationStallLift frame bytes s := rfl
@[simp] theorem exec_uncorrectableError (place : ErrorPlace) (s : State) : exec (.uncorrectableError place) s = execUncorrectableError place s := rfl
@[simp] theorem exec_meetEnqueue (asid core x y : Nat) (s : State) : exec (.meetEnqueue asid x y) s = execMeetEnqueue asid x y s := rfl
@[simp] theorem exec_heldEnqueueEntry (tower : Fin 4) (s : State) : exec (.heldEnqueueEntry tower) s = execHeldEnqueueEntry tower s := rfl
@[simp] theorem exec_slotFill (key : Nat) (s : State) : exec (.slotFill key) s = execSlotFill key s := rfl
@[simp] theorem exec_keyRequest (unit lockKey : Nat) (s : State) : exec (.keyRequest unit lockKey) s = execKeyRequest unit lockKey s := rfl
@[simp] theorem exec_keyGrant (unit lockKey : Nat) (s : State) : exec (.keyGrant unit lockKey) s = execKeyGrant unit lockKey s := rfl
@[simp] theorem exec_keyRelease (lockKey : Nat) (s : State) : exec (.keyRelease lockKey) s = execKeyRelease lockKey s := rfl
@[simp] theorem exec_keyTableEntryFree (tower : Fin 4) (s : State) : exec (.keyTableEntryFree tower) s = execKeyTableEntryFree tower s := rfl
@[simp] theorem exec_groupPlacement (launch : Nat) (s : State) : exec (.groupPlacement launch) s = execGroupPlacement launch s := rfl
@[simp] theorem exec_groupDispatch (gid core : Nat) (s : State) : exec (.groupDispatch gid core) s = execGroupDispatch gid core s := rfl
@[simp] theorem exec_successorStart (gid : Nat) (s : State) : exec (.successorStart gid) s = execSuccessorStart gid s := rfl
@[simp] theorem exec_governorEvaluation (tower : Fin 4) (s : State) : exec (.governorEvaluation tower) s = execGovernorEvaluation tower s := rfl
@[simp] theorem exec_governorSetting (tower : Fin 4) (key : Nat) (ga gb : BitVec 64) (s : State) : exec (.governorSetting tower key ga gb) s = execGovernorSetting tower key ga gb s := rfl
@[simp] theorem exec_rulePublicationFlip (tower : Fin 4) (asid key : Nat) (s : State) : exec (.rulePublicationFlip tower asid key) s = execRulePublicationFlip tower asid key s := rfl
@[simp] theorem exec_preemptionRequest (key : Nat) (s : State) : exec (.preemptionRequest key) s = execPreemptionRequest key s := rfl
@[simp] theorem exec_taskSuspension (key : Nat) (s : State) : exec (.taskSuspension key) s = execTaskSuspension key s := rfl
@[simp] theorem exec_taskRelease (tid : Nat) (s : State) : exec (.taskRelease tid) s = execTaskRelease tid s := rfl
@[simp] theorem exec_taskRestore (tid : Nat) (s : State) : exec (.taskRestore tid) s = execTaskRestore tid s := rfl
@[simp] theorem exec_courierEndTask (tid : Nat) (s : State) : exec (.courierEndTask tid) s = execCourierEndTask tid s := rfl
@[simp] theorem exec_coreFault (core : Nat) (readable passes : Bool) (s : State) : exec (.coreFault core readable passes) s = execCoreFault core readable passes s := rfl
@[simp] theorem exec_coreStallDetect (core : Nat) (readable passes : Bool) (s : State) : exec (.coreStallDetect core readable passes) s = execCoreStallDetect core readable passes s := rfl
@[simp] theorem exec_remoteRegisterAccess (tower : Fin 4) (write : Bool) (num : BitVec 12) (val : BitVec 64) (s : State) : exec (.remoteRegisterAccess tower write num val) s = execRemoteRegisterAccess tower write num val s := rfl
@[simp] theorem exec_matrixArbiterSelect (cluster : Nat) (s : State) : exec (.matrixArbiterSelect cluster) s = execMatrixArbiterSelect cluster s := rfl
@[simp] theorem exec_mmaKStep (cluster : Nat) (s : State) : exec (.mmaKStep cluster) s = execMmaKStep cluster s := rfl
@[simp] theorem exec_mmaRgChunkStart (cluster : Nat) (s : State) : exec (.mmaRgChunkStart cluster) s = execMmaRgChunkStart cluster s := rfl
@[simp] theorem exec_matrixCommandStop (cluster : Nat) (s : State) : exec (.matrixCommandStop cluster) s = execMatrixCommandStop cluster s := rfl
@[simp] theorem exec_matrixCommandComplete (cluster : Nat) (s : State) : exec (.matrixCommandComplete cluster) s = execMatrixCommandComplete cluster s := rfl
@[simp] theorem exec_engineCommandStart (cluster pieces : Nat) (s : State) : exec (.engineCommandStart cluster pieces) s = execEngineCommandStart cluster pieces s := rfl
@[simp] theorem exec_enginePieceWrite (id : Nat) (s : State) : exec (.enginePieceWrite id) s = execEnginePieceWrite id s := rfl
@[simp] theorem exec_heldWriteRelease (id : Nat) (s : State) : exec (.heldWriteRelease id) s = execHeldWriteRelease id s := rfl
@[simp] theorem exec_heldWriteAbandon (id : Nat) (s : State) : exec (.heldWriteAbandon id) s = execHeldWriteAbandon id s := rfl
@[simp] theorem exec_heldWriteRoomFree (id : Nat) (s : State) : exec (.heldWriteRoomFree id) s = execHeldWriteRoomFree id s := rfl
@[simp] theorem exec_completionWordWrite (id : Nat) (s : State) : exec (.completionWordWrite id) s = execCompletionWordWrite id s := rfl
@[simp] theorem exec_multicastReplicate (id : Nat) (s : State) : exec (.multicastReplicate id) s = execMulticastReplicate id s := rfl
@[simp] theorem exec_postDelivery (id : Nat) (s : State) : exec (.postDelivery id) s = execPostDelivery id s := rfl
@[simp] theorem exec_ringReservationResume (id : Nat) (s : State) : exec (.ringReservationResume id) s = execRingReservationResume id s := rfl
@[simp] theorem exec_fillReport (id : Nat) (s : State) : exec (.fillReport id) s = execFillReport id s := rfl
@[simp] theorem exec_postQRecordSend (id : Nat) (s : State) : exec (.postQRecordSend id) s = execPostQRecordSend id s := rfl
@[simp] theorem exec_tokenRowArrival (id : Nat) (s : State) : exec (.tokenRowArrival id) s = execTokenRowArrival id s := rfl
@[simp] theorem exec_mailboxArrival (id : Nat) (s : State) : exec (.mailboxArrival id) s = execMailboxArrival id s := rfl
@[simp] theorem exec_barrierArrival (arr : Arrival) (s : State) : exec (.barrierArrival arr) s = execBarrierArrival arr s := rfl
@[simp] theorem exec_frameBarrierArrival (tid : Nat) (arr : Arrival) (s : State) : exec (.frameBarrierArrival tid arr) s = execFrameBarrierArrival tid arr s := rfl
@[simp] theorem exec_freeRingHeldPublish (tower : Fin 4) (s : State) : exec (.freeRingHeldPublish tower) s = execFreeRingHeldPublish tower s := rfl
@[simp] theorem exec_peerAcknowledge (id : Nat) (s : State) : exec (.peerAcknowledge id) s = execPeerAcknowledge id s := rfl
@[simp] theorem exec_ewefonisLinkFailure (link : Fin 12) (s : State) : exec (.ewefonisLinkFailure link) s = execEwefonisLinkFailure link s := rfl
@[simp] theorem exec_linkTrainingComplete (link : Fin 12) (peer : Fin 8) (peerLink : BitVec 4) (s : State) : exec (.linkTrainingComplete link peer peerLink) s = execLinkTrainingComplete link peer peerLink s := rfl
@[simp] theorem exec_droopDetect (tower : Fin 4) (s : State) : exec (.droopDetect tower) s = execDroopDetect tower s := rfl
@[simp] theorem exec_droopRecover (tower : Fin 4) (s : State) : exec (.droopRecover tower) s = execDroopRecover tower s := rfl
@[simp] theorem exec_ringTailDoorbell (ring : Fin 16) (tail : BitVec 32) (s : State) : exec (.ringTailDoorbell ring tail) s = execRingTailDoorbell ring tail s := rfl
@[simp] theorem exec_ringRestart (ring : Fin 16) (newhead : BitVec 32) (s : State) : exec (.ringRestart ring newhead) s = execRingRestart ring newhead s := rfl
@[simp] theorem exec_ringEnable (ring : Fin 16) (enable : Bool) (s : State) : exec (.ringEnable ring enable) s = execRingEnable ring enable s := rfl
@[simp] theorem exec_packetNop (ring : Fin 16) (s : State) : exec (.packetNop ring) s = execPacketNop ring s := rfl
@[simp] theorem exec_packetLaunch (ring : Fin 16) (s : State) : exec (.packetLaunch ring) s = execPacketLaunch ring s := rfl
@[simp] theorem exec_packetLaunchInd (ring : Fin 16) (s : State) : exec (.packetLaunchInd ring) s = execPacketLaunchInd ring s := rfl
@[simp] theorem exec_packetCopy (ring : Fin 16) (s : State) : exec (.packetCopy ring) s = execPacketCopy ring s := rfl
@[simp] theorem exec_packetCopyAdd (ring : Fin 16) (s : State) : exec (.packetCopyAdd ring) s = execPacketCopyAdd ring s := rfl
@[simp] theorem exec_packetSignalWrite (ring : Fin 16) (s : State) : exec (.packetSignalWrite ring) s = execPacketSignalWrite ring s := rfl
@[simp] theorem exec_packetSignalAdd (ring : Fin 16) (s : State) : exec (.packetSignalAdd ring) s = execPacketSignalAdd ring s := rfl
@[simp] theorem exec_packetWaitNe (ring : Fin 16) (s : State) : exec (.packetWaitNe ring) s = execPacketWaitNe ring s := rfl
@[simp] theorem exec_packetWaitGe (ring : Fin 16) (s : State) : exec (.packetWaitGe ring) s = execPacketWaitGe ring s := rfl
@[simp] theorem exec_packetWaitTimeout (ring : Fin 16) (s : State) : exec (.packetWaitTimeout ring) s = execPacketWaitTimeout ring s := rfl
@[simp] theorem exec_identity (s : State) : exec (.identity) s = execIdentity s := rfl
@[simp] theorem exec_attest (nonce : List (BitVec 8)) (bus : Nat) (s : State) : exec (.attest nonce bus) s = execAttest nonce bus s := rfl
@[simp] theorem exec_createAs (tenant : Fin 4) (seed : BitVec 64) (grant : AsGrant) (s : State) : exec (.createAs tenant seed grant) s = execCreateAs tenant seed grant s := rfl
@[simp] theorem exec_destroyAs (asid : Nat) (s : State) : exec (.destroyAs asid) s = execDestroyAs asid s := rfl
@[simp] theorem exec_ringSetup (ring : Fin 16) (loc : Bool) (base : BitVec 56) (size : BitVec 5) (asid : BitVec 16) (s : State) : exec (.ringSetup ring loc base size asid) s = execRingSetup ring loc base size asid s := rfl
@[simp] theorem exec_tensorSet (asid id : Nat) (image : List (BitVec 8)) (s : State) : exec (.tensorSet asid id image) s = execTensorSet asid id image s := rfl
@[simp] theorem exec_bar2Write (addr : Nat) (data : List (BitVec 8)) (s : State) : exec (.bar2Write addr data) s = execBar2Write addr data s := rfl
@[simp] theorem exec_bar2Read (addr len : Nat) (s : State) : exec (.bar2Read addr len) s = execBar2Read addr len s := rfl
@[simp] theorem exec_bar0RegisterWrite (off : BitVec 20) (data : List (BitVec 8)) (s : State) : exec (.bar0RegisterWrite off data) s = execBar0RegisterWrite off data s := rfl
@[simp] theorem exec_enumerationUpdate (s : State) : exec (.enumerationUpdate) s = execEnumerationUpdate s := rfl
@[simp] theorem exec_dieLinkStateChange (die : Fin 4) (st : DieState) (s : State) : exec (.dieLinkStateChange die st) s = execDieLinkStateChange die st s := rfl
@[simp] theorem exec_sliceMarkedDead (tower : Fin 4) (slice : Fin 64) (s : State) : exec (.sliceMarkedDead tower slice) s = execSliceMarkedDead tower slice s := rfl
@[simp] theorem exec_memoryTrainingComplete (fail : Option TrainFail) (s : State) : exec (.memoryTrainingComplete fail) s = execMemoryTrainingComplete fail s := rfl

end Sys2Proof.Machine
end

