-- ==== Sys2Proof/Laws/Memory.lean ====
section
/-! SUPPORT. Tables, number sets and sparse memory: reading after writing, and the canonical form of a memory. -/

namespace Sys2Proof.Machine

/-! ## Tables -/

@[simp] theorem tget_tset (d : α) (t : Table α) (k : Nat) (x : α) : tget d (tset t k x) k = x := by
  induction t with
  | nil => simp [tset, tget]
  | cons p t ih =>
    obtain ⟨j, v⟩ := p
    rcases Nat.lt_trichotomy k j with h | h | h
    · simp [tset, tget, h, Nat.ne_of_lt h]
    · simp [tset, tget, h]
    · simp [tset, tget, Nat.ne_of_gt h, Nat.not_lt.2 (Nat.le_of_lt h), ih]

theorem tget_tset_ne (d : α) (t : Table α) {k k' : Nat} (x : α) (h : k' ≠ k) : tget d (tset t k x) k' = tget d t k' := by
  induction t with
  | nil => simp [tset, tget, h]
  | cons p t ih =>
    obtain ⟨j, v⟩ := p
    simp only [tset]
    split
    · subst_vars; simp [tget, h]
    · split
      · simp only [tget]
        rw [if_neg h]
        by_cases h1 : k' < k
        · rw [if_pos h1, if_neg (by omega), if_pos (by omega)]
        · rw [if_neg h1]
      · simp only [tget, ih]

/-! ## Sets of numbers -/

@[simp] theorem smem_sins (l : List Nat) (k : Nat) : smem (sins l k) k = true := by
  induction l with
  | nil => simp [sins, smem]
  | cons j t ih =>
    rcases Nat.lt_trichotomy k j with h | h | h
    · simp [sins, smem, h, Nat.ne_of_lt h]
    · simp [sins, smem, h]
    · simp [sins, smem, Nat.ne_of_gt h, Nat.not_lt.2 (Nat.le_of_lt h), ih]

theorem smem_sins_ne (l : List Nat) {k k' : Nat} (h : k' ≠ k) : smem (sins l k) k' = smem l k' := by
  induction l with
  | nil => simp [sins, smem, h]
  | cons j t ih =>
    simp only [sins]
    split
    · subst_vars; rfl
    · split
      · simp only [smem, if_neg h]
        by_cases h1 : k' < k
        · rw [if_pos h1, if_neg (by omega), if_pos (by omega)]
        · rw [if_neg h1]
      · simp only [smem, ih]

/-! ## Sparse memory -/

theorem mget_dropWhile (t : List Host.Cell) {a a' : Nat} (h : a < a') :
    mget (t.dropWhile fun p => p.1 ≤ a) a' = mget t a' := by
  induction t with
  | nil => rfl
  | cons p t ih =>
    obtain ⟨j, v⟩ := p
    by_cases hj : j ≤ a
    · simp [List.dropWhile, hj, ih, mget, Nat.ne_of_gt (Nat.lt_of_le_of_lt hj h), Nat.not_lt.2 (Nat.le_of_lt (Nat.lt_of_le_of_lt hj h))]
    · simp [List.dropWhile, hj]

theorem mget_dropWhile_le (t : List Host.Cell) {a a' : Nat} (h : a' ≤ a) :
    mget (t.dropWhile fun p => p.1 ≤ a) a' = unlisted := by
  induction t with
  | nil => rfl
  | cons p t ih =>
    obtain ⟨j, v⟩ := p
    by_cases hj : j ≤ a
    · simp [List.dropWhile, hj, ih]
    · have : a' < j := by omega
      simp [List.dropWhile, hj, mget, this, Nat.ne_of_lt this]

/-- A byte reads as it was last written. -/
@[simp] theorem mget_mset (m : List Host.Cell) (a : Nat) (b : Byte) : mget (mset m a b) a = b := by
  induction m with
  | nil =>
    by_cases hb : b = unlisted
    · simp [mset, mget, hb]
    · simp [mset, mget, hb]
  | cons p t ih =>
    obtain ⟨j, v⟩ := p
    rcases Nat.lt_trichotomy a j with h | h | h
    · by_cases hb : b = unlisted
      · simp [mset, mget, h, Nat.ne_of_lt h, hb]
      · simp [mset, mget, h, Nat.ne_of_lt h, hb]
    · subst h
      by_cases hb : b = unlisted
      · simp only [mset, if_true, hb]
        exact mget_dropWhile_le t (Nat.le_refl _)
      · simp [mset, mget, hb]
    · simp [mset, mget, Nat.ne_of_gt h, Nat.not_lt.2 (Nat.le_of_lt h), ih]

/-- Writing a byte leaves every other byte alone. -/
theorem mget_mset_ne (m : List Host.Cell) {a a' : Nat} (b : Byte) (h : a' ≠ a) : mget (mset m a b) a' = mget m a' := by
  induction m with
  | nil => by_cases hb : b = unlisted <;> simp [mset, mget, hb, h]
  | cons p t ih =>
    obtain ⟨j, v⟩ := p
    rcases Nat.lt_trichotomy a j with hj | hj | hj
    · by_cases hb : b = unlisted
      · simp [mset, hj, Nat.ne_of_lt hj, hb]
      · simp only [mset, Nat.ne_of_lt hj, hj, hb, if_false, if_true]
        simp only [mget, if_neg h]
        by_cases h1 : a' < a
        · rw [if_pos h1, if_neg (by omega), if_pos (by omega)]
        · rw [if_neg h1]
    · subst hj
      by_cases hb : b = unlisted
      · simp only [mset, if_true, hb]
        rcases Nat.lt_or_gt_of_ne h with hlt | hgt
        · rw [mget_dropWhile_le t (Nat.le_of_lt hlt)]
          simp [mget, hlt, Nat.ne_of_lt hlt]
        · rw [mget_dropWhile t hgt]
          simp [mget, Nat.ne_of_gt hgt, Nat.not_lt.2 (Nat.le_of_lt hgt)]
      · simp [mset, mget, hb, h]
    · simp only [mset, Nat.ne_of_gt hj, Nat.not_lt.2 (Nat.le_of_lt hj), if_false, mget, ih]

theorem mget_msets_lt (d : List Byte) : ∀ (m : List Host.Cell) {a a' : Nat}, a' < a → mget (msets m a d) a' = mget m a' := by
  induction d with
  | nil => intros; rfl
  | cons b t ih =>
    intro m a a' h
    rw [msets, ih _ (Nat.lt_succ_of_lt h), mget_mset_ne m b (Nat.ne_of_lt h)]

/-- A write of several bytes leaves the bytes outside it alone. -/
theorem mget_msets_out (d : List Byte) : ∀ (m : List Host.Cell) {a a' : Nat}, a' < a ∨ a + d.length ≤ a' →
    mget (msets m a d) a' = mget m a' := by
  induction d with
  | nil => intros; rfl
  | cons b t ih =>
    intro m a a' h
    rw [List.length_cons] at h
    rw [msets, ih _ (by omega), mget_mset_ne m b (by omega)]

/-- A write of several bytes is read back. -/
theorem mget_msets_in (d : List Byte) : ∀ (m : List Host.Cell) (a i : Nat) (h : i < d.length),
    mget (msets m a d) (a + i) = d[i] := by
  induction d with
  | nil => intro m a i h; exact absurd h (Nat.not_lt_zero _)
  | cons b t ih =>
    intro m a i h
    cases i with
    | zero => simp only [Nat.add_zero]; rw [msets, mget_msets_lt t _ (Nat.lt_succ_self a), mget_mset]; rfl
    | succ i =>
      have := ih (mset m a b) (a + 1) i (by simpa using h)
      rw [msets, show a + (i + 1) = a + 1 + i by omega, this]; rfl

theorem mgets_length (m : List Host.Cell) : ∀ (n a : Nat), (mgets m a n).length = n
  | 0, _ => rfl
  | n + 1, a => by rw [mgets, List.length_cons, mgets_length m n]

/-- Reading back what was written. -/
theorem mgets_msets (d : List Byte) (m : List Host.Cell) (a : Nat) : mgets (msets m a d) a d.length = d := by
  induction d generalizing m a with
  | nil => rfl
  | cons b t ih =>
    rw [List.length_cons, mgets, msets, mget_msets_lt t _ (Nat.lt_succ_self a), mget_mset, ih]

/-! ## The canonical form -/

theorem wfAbove_mono {lo lo' : Nat} (h : lo' ≤ lo) : ∀ {m : List Host.Cell}, wfAbove lo m = true → wfAbove lo' m = true
  | [], _ => rfl
  | (a, b) :: t, hm => by
    simp only [wfAbove, Bool.and_eq_true, decide_eq_true_eq] at hm ⊢
    exact ⟨⟨Nat.le_trans h hm.1.1, hm.1.2⟩, hm.2⟩

theorem dropWhile_of_wfAbove {m : List Host.Cell} {a : Nat} (h : wfAbove (a + 1) m = true) :
    (m.dropWhile fun p => p.1 ≤ a) = m := by
  cases m with
  | nil => rfl
  | cons p t =>
    obtain ⟨j, v⟩ := p
    simp only [wfAbove, Bool.and_eq_true, decide_eq_true_eq] at h
    have : ¬ j ≤ a := by omega
    simp [List.dropWhile, this]

theorem wfAbove_mset {lo a : Nat} (b : Byte) (ha : lo ≤ a) : ∀ {m : List Host.Cell}, wfAbove lo m = true →
    wfAbove lo (mset m a b) = true
  | [], _ => by
    by_cases hb : b = unlisted
    · simp [mset, hb, wfAbove]
    · simp [mset, hb, wfAbove, ha]
  | (j, v) :: t, h => by
    simp only [wfAbove, Bool.and_eq_true, decide_eq_true_eq] at h
    obtain ⟨⟨hl, hv⟩, ht⟩ := h
    rcases Nat.lt_trichotomy a j with hj | hj | hj
    · by_cases hb : b = unlisted
      · simp [mset, Nat.ne_of_lt hj, hj, hb, wfAbove, hl, hv, ht]
      · simp only [mset, Nat.ne_of_lt hj, hj, hb, if_true, if_false, wfAbove, Bool.and_eq_true, decide_eq_true_eq]
        exact ⟨⟨ha, hb⟩, ⟨by omega, hv⟩, ht⟩
    · subst hj
      by_cases hb : b = unlisted
      · simp only [mset, hb, if_true]
        rw [dropWhile_of_wfAbove ht]
        exact wfAbove_mono (by omega) ht
      · simp [mset, hb, wfAbove, hl, ht]
    · simp only [mset, Nat.ne_of_gt hj, Nat.not_lt.2 (Nat.le_of_lt hj), if_false, wfAbove, Bool.and_eq_true, decide_eq_true_eq]
      exact ⟨⟨hl, hv⟩, wfAbove_mset b hj ht⟩

/-- Writing a byte keeps the canonical form. -/
theorem wf_mset {m : List Host.Cell} (a : Nat) (b : Byte) (h : Memory.wf m = true) : Memory.wf (mset m a b) = true :=
  wfAbove_mset b (Nat.zero_le a) h

/-- Writing bytes upward keeps the canonical form. -/
theorem wf_msets (d : List Byte) : ∀ {m : List Host.Cell} (a : Nat), Memory.wf m = true → Memory.wf (msets m a d) = true := by
  induction d with
  | nil => intro m a h; exact h
  | cons b t ih => intro m a h; exact ih _ (wf_mset a b h)

/-- Writing bytes to listed addresses keeps the canonical form. -/
theorem wf_mputs (l : List (Nat × Byte)) : ∀ {m : List Host.Cell}, Memory.wf m = true → Memory.wf (mputs m l) = true := by
  induction l with
  | nil => intro m h; exact h
  | cons p t ih => intro m h; exact ih (wf_mset p.1 p.2 h)

theorem wfAbove_filter (p : Host.Cell → Bool) : ∀ {lo : Nat} {m : List Host.Cell}, wfAbove lo m = true →
    wfAbove lo (m.filter p) = true
  | _, [], _ => rfl
  | lo, (j, v) :: t, h => by
    simp only [wfAbove, Bool.and_eq_true, decide_eq_true_eq] at h
    obtain ⟨⟨hl, hv⟩, ht⟩ := h
    have ih := wfAbove_filter p ht
    by_cases hp : p (j, v) = true
    · simp only [List.filter, hp, wfAbove, Bool.and_eq_true, decide_eq_true_eq]
      exact ⟨⟨hl, hv⟩, ih⟩
    · simp only [List.filter, hp]
      exact wfAbove_mono (by omega) ih

/-- Dropping cells keeps the canonical form. -/
theorem wf_filter (p : Host.Cell → Bool) {m : List Host.Cell} (h : Memory.wf m = true) : Memory.wf (m.filter p) = true :=
  wfAbove_filter p h

/-- Equal contents are equal memories. -/
theorem wfAbove_ext : ∀ {m m' : List Host.Cell} {lo : Nat}, wfAbove lo m = true → wfAbove lo m' = true →
    (∀ a, mget m a = mget m' a) → m = m'
  | [], [], _, _, _, _ => rfl
  | [], (j, v) :: t, _, _, h', e => by
    simp only [wfAbove, Bool.and_eq_true, decide_eq_true_eq] at h'
    have := e j
    simp only [mget, if_true] at this
    exact absurd this.symm h'.1.2
  | (j, v) :: t, [], _, h, _, e => by
    simp only [wfAbove, Bool.and_eq_true, decide_eq_true_eq] at h
    have := e j
    simp only [mget, if_true] at this
    exact absurd this h.1.2
  | (j, v) :: t, (j', v') :: t', lo, h, h', e => by
    simp only [wfAbove, Bool.and_eq_true, decide_eq_true_eq] at h h'
    have hjj : j = j' := by
      rcases Nat.lt_trichotomy j j' with hlt | heq | hlt
      · have := e j
        simp only [mget, if_true, Nat.ne_of_lt hlt, if_false, hlt] at this
        exact absurd this h.1.2
      · exact heq
      · have := e j'
        simp only [mget, if_true, Nat.ne_of_lt hlt, if_false, hlt] at this
        exact absurd this.symm h'.1.2
    subst hjj
    have hv : v = v' := by
      have := e j
      simpa only [mget, if_true] using this
    subst hv
    have ht : t = t' := by
      refine wfAbove_ext h.2 h'.2 fun a => ?_
      have hlow : ∀ {l : List Host.Cell}, wfAbove (j + 1) l = true → ∀ a, a ≤ j → mget l a = unlisted := by
        intro l hl a ha
        cases l with
        | nil => rfl
        | cons q l =>
          simp only [wfAbove, Bool.and_eq_true, decide_eq_true_eq] at hl
          have : a < q.1 := by omega
          simp [mget, this, Nat.ne_of_lt this]
      by_cases ha : a ≤ j
      · rw [hlow h.2 a ha, hlow h'.2 a ha]
      · have := e a
        simpa only [mget, if_neg (show ¬ a = j by omega), if_neg (show ¬ a < j by omega)] using this
    rw [ht]

/-- Two memories in canonical form that read alike are the same data. -/
theorem wf_ext {m m' : List Host.Cell} (h : Memory.wf m = true) (h' : Memory.wf m' = true) (e : ∀ a, mget m a = mget m' a) :
    m = m' := wfAbove_ext h h' e

/-! ## The operations of the machine on memory -/

theorem reset_mem_wf : Memory.wf State.reset.mem = true := rfl

theorem putBytes_wf (s : State) (pa : Nat) (d : List Byte) (c : Bool) (bad : List Nat) (h : Memory.wf s.mem = true) :
    Memory.wf (s.putBytes pa d c bad).mem = true := wf_msets d pa h

@[simp] theorem wakeRouter_mem (s : State) (t h : Nat) : (s.wakeRouter t h).mem = s.mem := by
  unfold State.wakeRouter
  dsimp only
  split
  · split <;> rfl
  · rfl

@[simp] theorem wakeHome_mem (s : State) (pa : Nat) : (s.wakeHome pa).mem = s.mem := by
  unfold State.wakeHome
  split
  · rw [wakeRouter_mem]
  · rfl

@[simp] theorem mscAdd_mem (s : State) (l : Nat) : (s.mscAdd l).mem = s.mem := by
  unfold State.mscAdd
  dsimp only
  split
  · rfl
  · split <;> rfl

/-- A fold of steps that leave memory alone leaves it alone. -/
theorem foldl_mem {f : State → α → State} (hf : ∀ s a, (f s a).mem = s.mem) : ∀ (l : List α) (s : State), (l.foldl f s).mem = s.mem
  | [], _ => rfl
  | a :: l, s => by rw [List.foldl_cons, foldl_mem hf l, hf]

/-- A fold of steps that keep the canonical form keeps it. -/
theorem foldl_wf {f : State → α → State} (hf : ∀ s a, Memory.wf s.mem = true → Memory.wf (f s a).mem = true) :
    ∀ (l : List α) (s : State), Memory.wf s.mem = true → Memory.wf (l.foldl f s).mem = true
  | [], _, h => h
  | a :: l, s, h => by rw [List.foldl_cons]; exact foldl_wf hf l _ (hf s a h)

@[simp] theorem raise_mem (s : State) (i : Raised) : (s.raise i).mem = s.mem := rfl
@[simp] theorem raises_mem (s : State) (l : List Raised) : (s.raises l).mem = s.mem := rfl
@[simp] theorem setTower_mem (s : State) (t : Nat) (x : Tower) : (s.setTower t x).mem = s.mem := rfl

@[simp] theorem announceTo_mem (s : State) (h pa : Nat) (d : List Byte) (c : Bool) (u : Nat) : (s.announceTo h pa d c u).mem = s.mem := by
  unfold State.announceTo
  dsimp only
  split
  · split <;> rfl
  · rfl

@[simp] theorem announce_mem (s : State) (h pa : Nat) (d : List Byte) (c : Bool) : (s.announce h pa d c).mem = s.mem := by
  unfold State.announce
  dsimp only
  rw [foldl_mem (fun s u => announceTo_mem s h pa d c u), setTower_mem]

/-- A write performed at its home keeps the canonical form. -/
theorem performAt_wf (s : State) (pa : Nat) (d : List Byte) (c : Bool) (bad : List Nat) (h : Memory.wf s.mem = true) :
    Memory.wf (s.performAt pa d c bad).mem = true := by
  unfold State.performAt
  split
  · rw [announce_mem, mscAdd_mem]; exact putBytes_wf _ pa d c bad (by rwa [wakeRouter_mem])
  · exact putBytes_wf s pa d c bad h
  · split
    · exact putBytes_wf s pa d c bad h
    · exact h
  · exact h

@[simp] theorem applyAnn_mem (s : State) (a : Announcement) : (s.applyAnn a).mem = s.mem := rfl

@[simp] theorem bringUp_mem (t : Nat) (need : Vector (BitVec 20) 4) : ∀ (n : Nat) (s : State), (s.bringUp t need n).mem = s.mem
  | 0, _ => rfl
  | n + 1, s => by
    unfold State.bringUp
    split
    · rfl
    · split
      · rw [bringUp_mem t need n, applyAnn_mem]
      · rfl

@[simp] theorem clockMoved_mem (s : State) (u : Nat) : (s.clockMoved u).mem = s.mem := by
  unfold State.clockMoved
  dsimp only
  rw [foldl_mem, foldl_mem]
  · intro s k
    split
    · split <;> rfl
    · rfl
  · intro s r
    split
    · split <;> rfl
    · split <;> rfl
    · rfl
    all_goals rfl

/-- Bringing a tower's clock up moves no byte of memory. -/
@[simp] theorem reach_mem (s : State) (t : Nat) (need : Vector (BitVec 20) 4) : (s.reach t need).mem = s.mem := by
  unfold State.reach
  split
  · rfl
  · rw [clockMoved_mem, bringUp_mem]

@[simp] theorem openGap_mem (s : State) (h : Nat) : (s.openGap h).mem = s.mem := by
  unfold State.openGap
  split
  · rfl
  · exact foldl_mem (fun s u => reach_mem s u _) _ s

/-- A write performed for an agent that is no slot keeps the canonical form. -/
theorem performFrom_wf (s : State) (w pa : Nat) (d : List Byte) (c : Bool) (bad : List Nat) (h : Memory.wf s.mem = true) :
    Memory.wf (s.performFrom w pa d c bad).mem = true := by
  unfold State.performFrom
  split
  · dsimp only
    have k : ∀ (x : State), x.mem = s.mem → Memory.wf (x.performAt pa d c bad).mem = true :=
      fun x hx => performAt_wf x pa d c bad (by rw [hx]; exact h)
    split
    · exact k _ (by simp)
    · rw [reach_mem]; exact k _ (by simp)
  · exact performAt_wf s pa d c bad h

@[simp] theorem putPin_mem (s : State) (pa : Nat) (d : List Byte) (c : Bool) (bad : List Nat) : (s.putPin pa d c bad).mem = s.mem := rfl

@[simp] theorem pinLine_mem (s : State) (cl l tid : Nat) : (s.pinLine cl l tid).mem = s.mem := by
  unfold State.pinLine
  split
  · rfl
  · dsimp only
    split <;> simp

@[simp] theorem addWatch_mem (s : State) (cl line : Nat) : (s.addWatch cl line).mem = s.mem := by
  unfold State.addWatch
  dsimp only
  split
  · rw [wakeHome_mem]
  · dsimp only
    split
    · split <;> simp
    · simp

/-- A write at its place, the pin store or the home, keeps the canonical form. -/
theorem place_wf (s : State) (w pa : Nat) (d : List Byte) (c : Bool) (bad : List Nat) (h : Memory.wf s.mem = true) :
    Memory.wf (s.place w pa d c bad).mem = true := by
  unfold State.place
  split
  · exact h
  · exact performFrom_wf s w pa d c bad h

@[simp] theorem retryDones_mem (s : State) : s.retryDones.mem = s.mem := foldl_mem (fun s h => by split <;> rfl) _ s

/-- The end of a pin keeps the canonical form. -/
theorem endPin_wf (s : State) (p : Pin) (h : Memory.wf s.mem = true) : Memory.wf (s.endPin p).mem = true := by
  unfold State.endPin
  dsimp only
  rw [retryDones_mem, foldl_mem]
  · split
    · rw [addWatch_mem]; exact performFrom_wf _ _ _ _ _ _ h
    · exact performFrom_wf _ _ _ _ _ _ h
  · intro s r; rfl

/-- The end of a task's pins keeps the canonical form. -/
theorem unpinTask_wf (s : State) (tid : Nat) (h : Memory.wf s.mem = true) : Memory.wf (s.unpinTask tid).mem = true :=
  foldl_wf (fun s p hs => endPin_wf s p hs) _ s h

/-- A write to scratch keeps the canonical form of the task's scratch. -/
theorem writeScratch_wf (s : State) (va : Nat) (d : List Byte) (h : Memory.wf s.me.mem = true) :
    Memory.wf (s.writeScratch va d).me.mem = true := wf_msets d va h

/-- An engine's write to scratch keeps its canonical form. -/
theorem putScratch_wf (c : Ctx) (l : List (Nat × PByte)) (h : Memory.wf c.mem = true) : Memory.wf (c.putScratch l).mem = true :=
  wf_mputs _ h

/-- A BLD keeps the canonical form of the B-store. -/
theorem putB_wf (s : State) (l : List (Nat × PByte)) (h : Memory.wf s.bstore = true) : Memory.wf (s.putB l).bstore = true :=
  wf_mputs _ h

end Sys2Proof.Machine
end

