-- ==== Sys2Proof/Laws/Ops.lean ====
section
/-! SUPPORT. What the shared operations can do, said once: the outcomes of a check, a charge, a translation, a read, a write and
a release; sets, tables and lists of bytes. -/

namespace Sys2Proof.Machine

/-! ## Sequencing -/

@[simp] theorem andThen_ok (a : α) (s : State) (f : α → State → State) : (Res.ok a s).andThen f = f a s := rfl
@[simp] theorem andThen_done (s : State) (f : α → State → State) : (Res.done s).andThen f = s := rfl
@[simp] theorem bind_ok (a : α) (s : State) (f : α → State → Res β) : (Res.ok a s).bind f = f a s := rfl
@[simp] theorem bind_done (s : State) (f : α → State → Res β) : (Res.done s).bind f = .done s := rfl
@[simp] theorem eng_bind_ok (a : α) (s : State) (f : α → State → Eng β) : (Eng.ok a s).bind f = f a s := rfl
@[simp] theorem eng_bind_fault (va : Nat) (s : State) (f : α → State → Eng β) : (Eng.fault va s).bind f = .fault va s := rfl
@[simp] theorem eng_bind_denied (va : Nat) (s : State) (f : α → State → Eng β) : (Eng.denied va s).bind f = .denied va s := rfl
@[simp] theorem eng_bind_wait (s : State) (f : α → State → Eng β) : (Eng.wait s).bind f = .wait s := rfl

/-- A sequence succeeds exactly through its two parts. -/
theorem bind_eq_ok {r : Res α} {f : α → State → Res β} {b : β} {t : State} :
    r.bind f = .ok b t ↔ ∃ a u, r = .ok a u ∧ f a u = .ok b t := by
  cases r with
  | ok a s =>
    constructor
    · intro h; exact ⟨a, s, rfl, h⟩
    · rintro ⟨a', u, h, h'⟩; cases h; exact h'
  | done s =>
    constructor
    · intro h; cases h
    · rintro ⟨_, _, h, _⟩; cases h

theorem eng_bind_eq_ok {r : Eng α} {f : α → State → Eng β} {b : β} {t : State} :
    r.bind f = .ok b t ↔ ∃ a u, r = .ok a u ∧ f a u = .ok b t := by
  cases r with
  | ok a s =>
    constructor
    · intro h; exact ⟨a, s, rfl, h⟩
    · rintro ⟨a', u, h, h'⟩; cases h; exact h'
  | fault _ _ | denied _ _ | wait _ =>
    constructor
    · intro h; cases h
    · rintro ⟨_, _, h, _⟩; cases h

/-! ## Checks 1 to 4 of R88 -/

/-- A check passes exactly when the range, the rights, the alignment and the task's pages allow the access, and then changes
nothing. -/
theorem check_eq_ok {s u : State} {num : BitVec 4} {ea : Int} {n : Nat} {rd wr : Bool} {align : Nat} {o : Opnd} :
    s.check num ea n rd wr align = .ok o u ↔
      ((s.me.getA num).base.toNat : Int) ≤ ea ∧ ea + n ≤ (s.me.getA num).limit.toNat ∧
      ((rd && !(s.me.getA num).r) || (wr && !(s.me.getA num).w)) = false ∧ ¬ (align ≠ 0 ∧ ea % align ≠ 0) ∧
      ((s.me.getA num).scratch && decide (4096 * (s.me.scratch : Int) < ea + n)) = false ∧
      o = ⟨(s.me.getA num).scratch, ea.toNat, (s.me.getA num).cls, 0, num.toNat, []⟩ ∧
      u = (if (s.me.getA num).scratch then s.bringPages s.cur ea.toNat n else s) := by
  unfold State.check
  dsimp only
  by_cases h1 : ((s.me.getA num).base.toNat : Int) ≤ ea ∧ ea + n ≤ (s.me.getA num).limit.toNat
  · rw [if_neg (not_not_intro h1)]
    by_cases h2 : ((rd && !(s.me.getA num).r) || (wr && !(s.me.getA num).w)) = true
    · rw [if_pos h2]
      constructor
      · intro h; cases h
      · rintro ⟨_, _, h, _⟩; rw [h2] at h; cases h
    · rw [if_neg h2]
      by_cases h3 : align ≠ 0 ∧ ea % align ≠ 0
      · rw [if_pos h3]
        constructor
        · intro h; cases h
        · rintro ⟨_, _, _, h, _⟩; exact absurd h3 h
      · rw [if_neg h3]
        by_cases h4 : ((s.me.getA num).scratch && decide (4096 * (s.me.scratch : Int) < ea + n)) = true
        · rw [if_pos h4]
          constructor
          · intro h; cases h
          · rintro ⟨_, _, _, _, h, _⟩; rw [h4] at h; cases h
        · rw [if_neg h4]
          constructor
          · intro h; cases h
            exact ⟨h1.1, h1.2, Bool.eq_false_iff.mpr h2, h3, Bool.eq_false_iff.mpr h4, rfl, rfl⟩
          · rintro ⟨_, _, _, _, _, rfl, rfl⟩; rfl
  · rw [if_pos h1]
    constructor
    · intro h; cases h
    · rintro ⟨a, b, _⟩; exact absurd ⟨a, b⟩ h1

/-! ## The port (09 R160) -/

/-- A charge that is taken, or that has been, leaves everything but the core's port and the slot's mark that it has paid. -/
theorem chargeFor_eq_ok {s u : State} {item : PortItem} {cost : Nat} (h : s.chargeFor item cost = .ok () u) :
    u = s ∨ ∃ c, u = { s.setCore s.myCore c with me := s.me.paidFor item } := by
  unfold State.chargeFor at h
  by_cases h1 : cost = 0 ∨ s.me.isPaid item = true
  · rw [if_pos h1] at h; cases h; exact .inl rfl
  · rw [if_neg h1] at h
    dsimp only at h
    by_cases h2 : (((s.core s.myCore).busyBy (s.tenantOf s.me.asid)).passes (s.cycleAt s.myCore) (s.tenantOf s.me.asid) cost) = true
    · rw [if_pos h2] at h; cases h; exact .inr ⟨_, rfl⟩
    · rw [if_neg h2] at h; cases h

/-- A charge that is not taken holds the slot at the port. -/
theorem chargeFor_eq_done {s u : State} {item : PortItem} {cost : Nat} (h : s.chargeFor item cost = .done u) :
    ∃ c, u = ((s.setCore s.myCore c).hold (.port cost)).raise (.portRequestLeave s.myCore 0) := by
  unfold State.chargeFor at h
  by_cases h1 : cost = 0 ∨ s.me.isPaid item = true
  · rw [if_pos h1] at h; cases h
  · rw [if_neg h1] at h
    dsimp only at h
    by_cases h2 : (((s.core s.myCore).busyBy (s.tenantOf s.me.asid)).passes (s.cycleAt s.myCore) (s.tenantOf s.me.asid) cost) = true
    · rw [if_pos h2] at h; cases h
    · rw [if_neg h2] at h; cases h; exact ⟨_, rfl⟩

/-- An access whose charge has been paid is not charged again. -/
theorem charge_paid {s : State} (cost : Nat) (h : s.me.paid = true) : s.charge cost = .ok () s := by
  unfold State.charge State.chargeFor
  rw [if_pos (.inr h)]

/-! ## Translation, reads and writes of a slot -/

theorem xlate_eq_ok {s u : State} {o : Opnd} {va pa : Nat} {acc : Acc} :
    s.xlate o va acc = .ok pa u ↔ s.translate s.meWho va o.cls acc = .ok pa u := by
  unfold State.xlate
  cases s.translate s.meWho va o.cls acc with
  | ok p t => constructor <;> (intro h; cases h; rfl)
  | fault t => constructor <;> (intro h; cases h)
  | denied t => constructor <;> (intro h; cases h)

/-- A read of scratch gives its bytes, or traps on poison. -/
theorem read_scratch {s : State} {o : Opnd} (n : Nat) (h : o.scratch = true) : s.read o n = s.readScratch o n := by
  unfold State.read; rw [if_pos h]

theorem readScratch_clean {s : State} {o : Opnd} {n : Nat}
    (h : ((upFrom o.va n).any fun a => smem s.me.poison (a / 32) && !o.skip.contains a) = false) :
    s.readScratch o n = .ok (mgets s.me.mem o.va n) s := by
  unfold State.readScratch; rw [h]; rfl

theorem writeReady_scratch {s : State} {o : Opnd} (n : Nat) (h : o.scratch = true) : s.writeReady o n = .ok [] s := by
  unfold State.writeReady State.writeParts; rw [if_pos h, bind_ok, h]; rfl

theorem write_scratch {s : State} {o : Opnd} (d : List Byte) (sig : Bool) (h : o.scratch = true) :
    s.write o d sig = .ok () (s.writeScratch o.va d) := by
  unfold State.write
  rw [writeReady_scratch _ h, bind_ok]
  unfold State.writeNow
  rw [if_pos h]

theorem writeScratch_eq (s : State) (va : Nat) (d : List Byte) : s.writeScratch va d =
    { s with me := { s.me with mem := msets s.me.mem va d, poison := clearPoison s.me.poison va d.length } } := rfl

/-- A release answers when, its task's pins ended at device and system scope, the slot's earlier accesses are performed at its scope; at system
scope every tower has applied what the slot's tower has. -/
theorem release_eq_ok {s u : State} {scope : BitVec 2} (h : s.release scope = .ok () u) :
    u = (if narrow scope then s else s.unpinTask s.me.tid) ∧ u.drainedAt u.cur scope = true ∧
      (scope = 0b11 → u.allApplied (u.vc u.myTower) = true) := by
  unfold State.release at h
  dsimp only at h
  generalize (if narrow scope = true then s else s.unpinTask s.me.tid) = v at h ⊢
  by_cases h1 : (!v.drainedAt v.cur scope) = true
  · rw [if_pos h1] at h; cases h
  · rw [if_neg h1] at h
    by_cases h2 : scope = 0b11 ∧ (!v.allApplied (v.vc v.myTower)) = true
    · rw [if_pos h2] at h; cases h
    · rw [if_neg h2] at h; cases h
      refine ⟨rfl, by simpa using h1, fun hs => ?_⟩
      by_contra hn
      exact h2 ⟨hs, by simpa using hn⟩

/-! ## Lists of bytes and addresses -/

@[simp] theorem upFrom_length : ∀ (n a : Nat), (upFrom a n).length = n
  | 0, _ => rfl
  | n + 1, a => by rw [upFrom, List.length_cons, upFrom_length n]

theorem mem_upFrom : ∀ {n a x : Nat}, x ∈ upFrom a n ↔ a ≤ x ∧ x < a + n
  | 0, a, x => by
    constructor
    · intro h; exact absurd h List.not_mem_nil
    · omega
  | n + 1, a, x => by rw [upFrom, List.mem_cons, mem_upFrom]; omega

@[simp] theorem leBytes_length : ∀ (n v : Nat), (leBytes n v).length = n
  | 0, _ => rfl
  | n + 1, v => by rw [leBytes, List.length_cons, leBytes_length n]

/-- The bytes of a number stand for its low part. -/
theorem leNat_leBytes : ∀ (n v : Nat), leNat (leBytes n v) = v % 256 ^ n
  | 0, v => by simp [leBytes, leNat, Nat.mod_one]
  | n + 1, v => by
    have e : (256 : Nat) ^ (n + 1) = 256 * 256 ^ n := by rw [Nat.pow_succ, Nat.mul_comm]
    rw [leBytes, leNat, leNat_leBytes n, BitVec.toNat_ofNat, e, Nat.mod_mul]

theorem leNat_lt : ∀ (l : List Byte), leNat l < 256 ^ l.length
  | [] => by simp [leNat]
  | b :: t => by
    have h := leNat_lt t
    have hb := b.isLt
    rw [leNat, List.length_cons, Nat.pow_succ]
    omega

/-- The number that bytes stand for has those bytes. -/
theorem leBytes_leNat : ∀ (l : List Byte), leBytes l.length (leNat l) = l
  | [] => rfl
  | b :: t => by
    rw [List.length_cons, leBytes, leNat]
    have h1 : BitVec.ofNat 8 (b.toNat + 256 * leNat t) = b := by
      apply BitVec.eq_of_toNat_eq
      have := b.isLt
      rw [BitVec.toNat_ofNat]
      omega
    have h2 : (b.toNat + 256 * leNat t) / 256 = leNat t := by have := b.isLt; omega
    rw [h1, h2, leBytes_leNat t]

theorem upFrom_map_mget (m : List Host.Cell) : ∀ (n a : Nat), (upFrom a n).map (mget m) = mgets m a n
  | 0, _ => rfl
  | n + 1, a => by rw [upFrom, List.map_cons, upFrom_map_mget m n, mgets]

/-- An access inside one part of a size has one part. -/
theorem splitAtSize_one {size f va n : Nat} (h0 : 0 < n) (h : n ≤ size - va % size) : splitAtSize size (f + 2) va n = [(va, n)] := by
  unfold splitAtSize
  rw [if_neg (by omega)]
  dsimp only
  rw [Nat.min_eq_left h, Nat.sub_self]
  unfold splitAtSize
  rw [if_pos rfl]

theorem linesOf_one {va n : Nat} (h0 : 0 < n) (h : n ≤ 128 - va % 128) : linesOf va n = [(va, n)] := splitAtSize_one h0 h
theorem piecesOf_one {va n : Nat} (h0 : 0 < n) (h : n ≤ 32 - va % 32) : piecesOf va n = [(va, n)] := splitAtSize_one h0 h

/-! ## Tables -/

@[simp] theorem tfind_tset (t : Table α) (k : Nat) (x : α) : tfind (tset t k x) k = some x := by
  induction t with
  | nil => simp [tset, tfind]
  | cons p t ih =>
    obtain ⟨j, v⟩ := p
    unfold tset
    by_cases h1 : k = j
    · rw [if_pos h1]; simp [tfind]
    · rw [if_neg h1]
      by_cases h2 : k < j
      · rw [if_pos h2]; simp [tfind]
      · rw [if_neg h2]; unfold tfind; rw [if_neg h1, if_neg h2]; exact ih

theorem tfind_tset_ne (t : Table α) {k k' : Nat} (x : α) (h : k' ≠ k) : tfind (tset t k x) k' = tfind t k' := by
  induction t with
  | nil => simp [tset, tfind, h]
  | cons p t ih =>
    obtain ⟨j, v⟩ := p
    unfold tset
    by_cases h1 : k = j
    · subst h1; rw [if_pos rfl]; simp [tfind, h]
    · rw [if_neg h1]
      by_cases h2 : k < j
      · rw [if_pos h2]; unfold tfind
        rw [if_neg h]
        by_cases h3 : k' < k
        · rw [if_pos h3, if_neg (by omega), if_pos (by omega)]
        · rw [if_neg h3, tfind]
      · rw [if_neg h2]; unfold tfind; rw [ih]

theorem tfind_dropWhile_le (t : Table α) {k k' : Nat} (h : k' ≤ k) : tfind (t.dropWhile fun p => p.1 ≤ k) k' = none := by
  induction t with
  | nil => rfl
  | cons p t ih =>
    by_cases hp : p.1 ≤ k
    · rw [List.dropWhile_cons_of_pos (by simpa using hp)]; exact ih
    · rw [List.dropWhile_cons_of_neg (by simpa using hp)]
      unfold tfind
      rw [if_neg (by omega), if_pos (by omega)]

@[simp] theorem tfind_tdel (t : Table α) (k : Nat) : tfind (tdel t k) k = none := by
  induction t with
  | nil => rfl
  | cons p t ih =>
    obtain ⟨j, v⟩ := p
    unfold tdel
    by_cases h1 : k = j
    · rw [if_pos h1]; exact tfind_dropWhile_le t (Nat.le_refl k)
    · rw [if_neg h1]
      by_cases h2 : k < j
      · rw [if_pos h2]; unfold tfind; rw [if_neg h1, if_pos h2]
      · rw [if_neg h2]; unfold tfind; rw [if_neg h1, if_neg h2]; exact ih

theorem tget_eq_tfind (d : α) (t : Table α) (k : Nat) : tget d t k = (tfind t k).getD d := by
  induction t with
  | nil => rfl
  | cons p t ih =>
    unfold tget tfind
    split
    · rfl
    · split
      · rfl
      · exact ih

/-! ## A meet on its way -/

theorem takeMeet_sent (s : State) (asid core x y : Nat) :
    ({ s with raised := .meetEnqueue asid core x y :: s.raised } : State).takeMeet asid x y = some (core, s) := by
  simp [State.takeMeet, firstSome]

theorem firstSome_none {f : α → Option β} : ∀ {l : List α}, (∀ x ∈ l, f x = none) → firstSome f l = none
  | [], _ => rfl
  | x :: l, h => by
    rw [firstSome, h x (List.mem_cons_self ..)]
    exact firstSome_none fun y hy => h y (List.mem_cons_of_mem _ hy)

theorem takeMeet_unsent {s : State} {asid x y : Nat} (h : ∀ c, Raised.meetEnqueue asid c x y ∉ s.raised) : s.takeMeet asid x y = none := by
  refine firstSome_none fun r hr => ?_
  split
  · rename_i a core x' y'
    exact if_neg fun ⟨e1, e2, e3⟩ => h core (e1 ▸ e2 ▸ e3 ▸ hr)
  · rfl

/-! ## Reads piece by piece (01 R16) -/

theorem takeAny_eq_none {n : Nat} {l : List α} : takeAny n l = none ↔ l = [] := by
  unfold takeAny
  cases l with
  | nil => simp
  | cons a t =>
    have h : Config.pieceOrder n % (a :: t).length < (a :: t).length := Nat.mod_lt _ (by simp)
    simp only [List.getElem?_eq_getElem h, reduceCtorEq]

/-- A piece that is taken is one of the list's; the others are left. -/
theorem takeAny_eq_some {n : Nat} {l r : List α} {x : α} (h : takeAny n l = some (x, r)) : l.Perm (x :: r) := by
  unfold takeAny at h
  split at h
  · rename_i y hy
    obtain ⟨hlt, rfl⟩ := List.getElem?_eq_some_iff.1 hy
    simp only [Option.some.injEq, Prod.mk.injEq] at h
    obtain ⟨rfl, rfl⟩ := h
    exact (List.getElem_cons_eraseIdx_perm hlt).symm
  · cases h

/-- A command that reads on has read all, or reads one piece of those that are left, and has then read all if none is left. -/
theorem readOn_eq_ok {s u : State} {c : MCmd} {l : List (Nat × Nat)} {r : Option MCmd} (h : s.readOn c l = .ok r u) :
    (c.unread l = [] ∧ r = some c ∧ u = s) ∨
    ∃ p rest bs t, takeAny s.free (c.unread l) = some (p, rest) ∧
      ({ s with free := s.free + 1 } : State).engRead (s.mWho c) p.1 p.2 = .ok bs t ∧ u = t.putM { c with got := c.got ++ [(p.1, bs)] } ∧
      r = if rest = [] then some { c with got := c.got ++ [(p.1, bs)] } else none := by
  unfold State.readOn at h
  split at h
  · rename_i hn
    cases h
    exact .inl ⟨takeAny_eq_none.1 hn, rfl, rfl⟩
  · rename_i p rest ht
    obtain ⟨bs, t, hr, h⟩ := eng_bind_eq_ok.1 h
    cases h
    exact .inr ⟨p, rest, bs, t, ht, hr, rfl, rfl⟩

/-- A read that is over had no piece left, or one, which no line bars and no poison stands in; the caches then take the lines. -/
theorem readPiecewise_eq_ok {s u : State} {n : Nat} {o : Opnd} {home : Bool} {ps : List (Nat × Nat × ReadAt)} {bs : List Byte}
    (h : s.readPiecewise n o home ps = .ok bs u) :
    let left := ps.filter fun p => s.me.got.all (·.1 ≠ gotKey n p.1)
    (left = [] ∧ bs = gotBytes n ps s.me.got ∧ u = s) ∨
    ∃ p, left = [p] ∧ s.partBar home p = none ∧ s.partPoison o home p = false ∧
      bs = gotBytes n ps (s.me.got ++ [(gotKey n p.1, s.partBytes home p)]) ∧
      u = ps.foldl (fun s p => s.partFill home p)
        { s with free := s.free + 1, me := { s.me with got := s.me.got ++ [(gotKey n p.1, s.partBytes home p)] } } := by
  intro left
  simp only [State.readPiecewise] at h
  change (match firstSome (s.partBar home) left with | some _ => _ | none => _) = _ at h
  split at h
  · cases h
  · rename_i hb
    split at h
    · cases h
    · rename_i hp
      split at h
      · rename_i hn
        cases h
        refine .inl ⟨?_, rfl, rfl⟩
        change left[if left.length = 1 then 0 else _ % left.length]? = none at hn
        match left, hn with
        | [], _ => rfl
        | [_], hn => simp at hn
        | a :: b :: t, hn =>
          rw [if_neg (by simp), List.getElem?_eq_none_iff] at hn
          exact absurd hn (Nat.not_le.2 (Nat.mod_lt _ (by simp)))
      · rename_i p hn
        split at h
        · rename_i h1
          cases h
          obtain ⟨q, hq⟩ := List.length_eq_one_iff.1 h1
          change left = [q] at hq
          change ¬ (left.any _ = true) at hp
          change left[if left.length = 1 then 0 else _ % left.length]? = some p at hn
          rw [hq] at hb hn hp
          simp at hn
          subst hn
          exact .inr ⟨q, hq, by revert hb; cases hpb : s.partBar home q <;> simp [firstSome, hpb], by simpa using hp, rfl, rfl⟩
        · cases h
end Sys2Proof.Machine
end

