-- ==== Sys2Proof/Laws/State.lean ====
section
/-! SUPPORT. What each named update of State leaves unchanged: one lemma per field. -/

namespace Sys2Proof.Machine

@[simp] theorem State.setG_cur (s : State) (n : BitVec 6) (v : Word) : (s.setG n v).cur = s.cur := rfl
@[simp] theorem State.setG_slots (s : State) (n : BitVec 6) (v : Word) : (s.setG n v).slots = s.slots := rfl
@[simp] theorem State.setG_cores (s : State) (n : BitVec 6) (v : Word) : (s.setG n v).cores = s.cores := rfl
@[simp] theorem State.setG_clusters (s : State) (n : BitVec 6) (v : Word) : (s.setG n v).clusters = s.clusters := rfl
@[simp] theorem State.setG_towers (s : State) (n : BitVec 6) (v : Word) : (s.setG n v).towers = s.towers := rfl
@[simp] theorem State.setG_spaces (s : State) (n : BitVec 6) (v : Word) : (s.setG n v).spaces = s.spaces := rfl
@[simp] theorem State.setG_mem (s : State) (n : BitVec 6) (v : Word) : (s.setG n v).mem = s.mem := rfl
@[simp] theorem State.setG_poison (s : State) (n : BitVec 6) (v : Word) : (s.setG n v).poison = s.poison := rfl
@[simp] theorem State.setG_tlb (s : State) (n : BitVec 6) (v : Word) : (s.setG n v).tlb = s.tlb := rfl
@[simp] theorem State.setG_l2 (s : State) (n : BitVec 6) (v : Word) : (s.setG n v).l2 = s.l2 := rfl
@[simp] theorem State.setG_rdc (s : State) (n : BitVec 6) (v : Word) : (s.setG n v).rdc = s.rdc := rfl
@[simp] theorem State.setG_msc (s : State) (n : BitVec 6) (v : Word) : (s.setG n v).msc = s.msc := rfl
@[simp] theorem State.setG_misses (s : State) (n : BitVec 6) (v : Word) : (s.setG n v).misses = s.misses := rfl
@[simp] theorem State.setG_pins (s : State) (n : BitVec 6) (v : Word) : (s.setG n v).pins = s.pins := rfl
@[simp] theorem State.setG_reqs (s : State) (n : BitVec 6) (v : Word) : (s.setG n v).reqs = s.reqs := rfl
@[simp] theorem State.setG_anns (s : State) (n : BitVec 6) (v : Word) : (s.setG n v).anns = s.anns := rfl
@[simp] theorem State.setG_watches (s : State) (n : BitVec 6) (v : Word) : (s.setG n v).watches = s.watches := rfl
@[simp] theorem State.setG_monitors (s : State) (n : BitVec 6) (v : Word) : (s.setG n v).monitors = s.monitors := rfl
@[simp] theorem State.setG_stallFrames (s : State) (n : BitVec 6) (v : Word) : (s.setG n v).stallFrames = s.stallFrames := rfl
@[simp] theorem State.setG_shoots (s : State) (n : BitVec 6) (v : Word) : (s.setG n v).shoots = s.shoots := rfl
@[simp] theorem State.setG_gated (s : State) (n : BitVec 6) (v : Word) : (s.setG n v).gated = s.gated := rfl
@[simp] theorem State.setG_stale (s : State) (n : BitVec 6) (v : Word) : (s.setG n v).stale = s.stale := rfl
@[simp] theorem State.setG_routed (s : State) (n : BitVec 6) (v : Word) : (s.setG n v).routed = s.routed := rfl
@[simp] theorem State.setG_deadSlices (s : State) (n : BitVec 6) (v : Word) : (s.setG n v).deadSlices = s.deadSlices := rfl
@[simp] theorem State.setG_courier (s : State) (n : BitVec 6) (v : Word) : (s.setG n v).courier = s.courier := rfl
@[simp] theorem State.setG_alloc (s : State) (n : BitVec 6) (v : Word) : (s.setG n v).alloc = s.alloc := rfl
@[simp] theorem State.setG_bars (s : State) (n : BitVec 6) (v : Word) : (s.setG n v).bars = s.bars := rfl
@[simp] theorem State.setG_boxes (s : State) (n : BitVec 6) (v : Word) : (s.setG n v).boxes = s.boxes := rfl
@[simp] theorem State.setG_counters (s : State) (n : BitVec 6) (v : Word) : (s.setG n v).counters = s.counters := rfl
@[simp] theorem State.setG_profile (s : State) (n : BitVec 6) (v : Word) : (s.setG n v).profile = s.profile := rfl
@[simp] theorem State.setG_acc (s : State) (n : BitVec 6) (v : Word) : (s.setG n v).acc = s.acc := rfl
@[simp] theorem State.setG_accPoison (s : State) (n : BitVec 6) (v : Word) : (s.setG n v).accPoison = s.accPoison := rfl
@[simp] theorem State.setG_tileOwner (s : State) (n : BitVec 6) (v : Word) : (s.setG n v).tileOwner = s.tileOwner := rfl
@[simp] theorem State.setG_bstore (s : State) (n : BitVec 6) (v : Word) : (s.setG n v).bstore = s.bstore := rfl
@[simp] theorem State.setG_bstorePoison (s : State) (n : BitVec 6) (v : Word) : (s.setG n v).bstorePoison = s.bstorePoison := rfl
@[simp] theorem State.setG_mcmds (s : State) (n : BitVec 6) (v : Word) : (s.setG n v).mcmds = s.mcmds := rfl
@[simp] theorem State.setG_ecmds (s : State) (n : BitVec 6) (v : Word) : (s.setG n v).ecmds = s.ecmds := rfl
@[simp] theorem State.setG_msgs (s : State) (n : BitVec 6) (v : Word) : (s.setG n v).msgs = s.msgs := rfl
@[simp] theorem State.setG_held (s : State) (n : BitVec 6) (v : Word) : (s.setG n v).held = s.held := rfl
@[simp] theorem State.setG_windows (s : State) (n : BitVec 6) (v : Word) : (s.setG n v).windows = s.windows := rfl
@[simp] theorem State.setG_units (s : State) (n : BitVec 6) (v : Word) : (s.setG n v).units = s.units := rfl
@[simp] theorem State.setG_launches (s : State) (n : BitVec 6) (v : Word) : (s.setG n v).launches = s.launches := rfl
@[simp] theorem State.setG_triggers (s : State) (n : BitVec 6) (v : Word) : (s.setG n v).triggers = s.triggers := rfl
@[simp] theorem State.setG_partials (s : State) (n : BitVec 6) (v : Word) : (s.setG n v).partials = s.partials := rfl
@[simp] theorem State.setG_groups (s : State) (n : BitVec 6) (v : Word) : (s.setG n v).groups = s.groups := rfl
@[simp] theorem State.setG_reserved (s : State) (n : BitVec 6) (v : Word) : (s.setG n v).reserved = s.reserved := rfl
@[simp] theorem State.setG_suspended (s : State) (n : BitVec 6) (v : Word) : (s.setG n v).suspended = s.suspended := rfl
@[simp] theorem State.setG_backing (s : State) (n : BitVec 6) (v : Word) : (s.setG n v).backing = s.backing := rfl
@[simp] theorem State.setG_rings (s : State) (n : BitVec 6) (v : Word) : (s.setG n v).rings = s.rings := rfl
@[simp] theorem State.setG_packets (s : State) (n : BitVec 6) (v : Word) : (s.setG n v).packets = s.packets := rfl
@[simp] theorem State.setG_phase (s : State) (n : BitVec 6) (v : Word) : (s.setG n v).phase = s.phase := rfl
@[simp] theorem State.setG_failCode (s : State) (n : BitVec 6) (v : Word) : (s.setG n v).failCode = s.failCode := rfl
@[simp] theorem State.setG_stretch (s : State) (n : BitVec 6) (v : Word) : (s.setG n v).stretch = s.stretch := rfl
@[simp] theorem State.setG_mbox (s : State) (n : BitVec 6) (v : Word) : (s.setG n v).mbox = s.mbox := rfl
@[simp] theorem State.setG_mboxBusy (s : State) (n : BitVec 6) (v : Word) : (s.setG n v).mboxBusy = s.mboxBusy := rfl
@[simp] theorem State.setG_mboxSd (s : State) (n : BitVec 6) (v : Word) : (s.setG n v).mboxSd = s.mboxSd := rfl
@[simp] theorem State.setG_msix (s : State) (n : BitVec 6) (v : Word) : (s.setG n v).msix = s.msix := rfl
@[simp] theorem State.setG_msixPending (s : State) (n : BitVec 6) (v : Word) : (s.setG n v).msixPending = s.msixPending := rfl
@[simp] theorem State.setG_aperture (s : State) (n : BitVec 6) (v : Word) : (s.setG n v).aperture = s.aperture := rfl
@[simp] theorem State.setG_lastRing (s : State) (n : BitVec 6) (v : Word) : (s.setG n v).lastRing = s.lastRing := rfl
@[simp] theorem State.setG_enumTab (s : State) (n : BitVec 6) (v : Word) : (s.setG n v).enumTab = s.enumTab := rfl
@[simp] theorem State.setG_dies (s : State) (n : BitVec 6) (v : Word) : (s.setG n v).dies = s.dies := rfl
@[simp] theorem State.setG_links (s : State) (n : BitVec 6) (v : Word) : (s.setG n v).links = s.links := rfl
@[simp] theorem State.setG_grade (s : State) (n : BitVec 6) (v : Word) : (s.setG n v).grade = s.grade := rfl
@[simp] theorem State.setG_bar0 (s : State) (n : BitVec 6) (v : Word) : (s.setG n v).bar0 = s.bar0 := rfl
@[simp] theorem State.setG_hostIn (s : State) (n : BitVec 6) (v : Word) : (s.setG n v).hostIn = s.hostIn := rfl
@[simp] theorem State.setG_raised (s : State) (n : BitVec 6) (v : Word) : (s.setG n v).raised = s.raised := rfl
@[simp] theorem State.setG_turns (s : State) (n : BitVec 6) (v : Word) : (s.setG n v).turns = s.turns := rfl
@[simp] theorem State.setG_ticks (s : State) (n : BitVec 6) (v : Word) : (s.setG n v).ticks = s.ticks := rfl
@[simp] theorem State.setG_nextId (s : State) (n : BitVec 6) (v : Word) : (s.setG n v).nextId = s.nextId := rfl
@[simp] theorem State.setG_free (s : State) (n : BitVec 6) (v : Word) : (s.setG n v).free = s.free := rfl
@[simp] theorem State.setG_boots (s : State) (n : BitVec 6) (v : Word) : (s.setG n v).boots = s.boots := rfl

@[simp] theorem State.setA_cur (s : State) (n : BitVec 4) (v : AReg) : (s.setA n v).cur = s.cur := rfl
@[simp] theorem State.setA_slots (s : State) (n : BitVec 4) (v : AReg) : (s.setA n v).slots = s.slots := rfl
@[simp] theorem State.setA_cores (s : State) (n : BitVec 4) (v : AReg) : (s.setA n v).cores = s.cores := rfl
@[simp] theorem State.setA_clusters (s : State) (n : BitVec 4) (v : AReg) : (s.setA n v).clusters = s.clusters := rfl
@[simp] theorem State.setA_towers (s : State) (n : BitVec 4) (v : AReg) : (s.setA n v).towers = s.towers := rfl
@[simp] theorem State.setA_spaces (s : State) (n : BitVec 4) (v : AReg) : (s.setA n v).spaces = s.spaces := rfl
@[simp] theorem State.setA_mem (s : State) (n : BitVec 4) (v : AReg) : (s.setA n v).mem = s.mem := rfl
@[simp] theorem State.setA_poison (s : State) (n : BitVec 4) (v : AReg) : (s.setA n v).poison = s.poison := rfl
@[simp] theorem State.setA_tlb (s : State) (n : BitVec 4) (v : AReg) : (s.setA n v).tlb = s.tlb := rfl
@[simp] theorem State.setA_l2 (s : State) (n : BitVec 4) (v : AReg) : (s.setA n v).l2 = s.l2 := rfl
@[simp] theorem State.setA_rdc (s : State) (n : BitVec 4) (v : AReg) : (s.setA n v).rdc = s.rdc := rfl
@[simp] theorem State.setA_msc (s : State) (n : BitVec 4) (v : AReg) : (s.setA n v).msc = s.msc := rfl
@[simp] theorem State.setA_misses (s : State) (n : BitVec 4) (v : AReg) : (s.setA n v).misses = s.misses := rfl
@[simp] theorem State.setA_pins (s : State) (n : BitVec 4) (v : AReg) : (s.setA n v).pins = s.pins := rfl
@[simp] theorem State.setA_reqs (s : State) (n : BitVec 4) (v : AReg) : (s.setA n v).reqs = s.reqs := rfl
@[simp] theorem State.setA_anns (s : State) (n : BitVec 4) (v : AReg) : (s.setA n v).anns = s.anns := rfl
@[simp] theorem State.setA_watches (s : State) (n : BitVec 4) (v : AReg) : (s.setA n v).watches = s.watches := rfl
@[simp] theorem State.setA_monitors (s : State) (n : BitVec 4) (v : AReg) : (s.setA n v).monitors = s.monitors := rfl
@[simp] theorem State.setA_stallFrames (s : State) (n : BitVec 4) (v : AReg) : (s.setA n v).stallFrames = s.stallFrames := rfl
@[simp] theorem State.setA_shoots (s : State) (n : BitVec 4) (v : AReg) : (s.setA n v).shoots = s.shoots := rfl
@[simp] theorem State.setA_gated (s : State) (n : BitVec 4) (v : AReg) : (s.setA n v).gated = s.gated := rfl
@[simp] theorem State.setA_stale (s : State) (n : BitVec 4) (v : AReg) : (s.setA n v).stale = s.stale := rfl
@[simp] theorem State.setA_routed (s : State) (n : BitVec 4) (v : AReg) : (s.setA n v).routed = s.routed := rfl
@[simp] theorem State.setA_deadSlices (s : State) (n : BitVec 4) (v : AReg) : (s.setA n v).deadSlices = s.deadSlices := rfl
@[simp] theorem State.setA_courier (s : State) (n : BitVec 4) (v : AReg) : (s.setA n v).courier = s.courier := rfl
@[simp] theorem State.setA_alloc (s : State) (n : BitVec 4) (v : AReg) : (s.setA n v).alloc = s.alloc := rfl
@[simp] theorem State.setA_bars (s : State) (n : BitVec 4) (v : AReg) : (s.setA n v).bars = s.bars := rfl
@[simp] theorem State.setA_boxes (s : State) (n : BitVec 4) (v : AReg) : (s.setA n v).boxes = s.boxes := rfl
@[simp] theorem State.setA_counters (s : State) (n : BitVec 4) (v : AReg) : (s.setA n v).counters = s.counters := rfl
@[simp] theorem State.setA_profile (s : State) (n : BitVec 4) (v : AReg) : (s.setA n v).profile = s.profile := rfl
@[simp] theorem State.setA_acc (s : State) (n : BitVec 4) (v : AReg) : (s.setA n v).acc = s.acc := rfl
@[simp] theorem State.setA_accPoison (s : State) (n : BitVec 4) (v : AReg) : (s.setA n v).accPoison = s.accPoison := rfl
@[simp] theorem State.setA_tileOwner (s : State) (n : BitVec 4) (v : AReg) : (s.setA n v).tileOwner = s.tileOwner := rfl
@[simp] theorem State.setA_bstore (s : State) (n : BitVec 4) (v : AReg) : (s.setA n v).bstore = s.bstore := rfl
@[simp] theorem State.setA_bstorePoison (s : State) (n : BitVec 4) (v : AReg) : (s.setA n v).bstorePoison = s.bstorePoison := rfl
@[simp] theorem State.setA_mcmds (s : State) (n : BitVec 4) (v : AReg) : (s.setA n v).mcmds = s.mcmds := rfl
@[simp] theorem State.setA_ecmds (s : State) (n : BitVec 4) (v : AReg) : (s.setA n v).ecmds = s.ecmds := rfl
@[simp] theorem State.setA_msgs (s : State) (n : BitVec 4) (v : AReg) : (s.setA n v).msgs = s.msgs := rfl
@[simp] theorem State.setA_held (s : State) (n : BitVec 4) (v : AReg) : (s.setA n v).held = s.held := rfl
@[simp] theorem State.setA_windows (s : State) (n : BitVec 4) (v : AReg) : (s.setA n v).windows = s.windows := rfl
@[simp] theorem State.setA_units (s : State) (n : BitVec 4) (v : AReg) : (s.setA n v).units = s.units := rfl
@[simp] theorem State.setA_launches (s : State) (n : BitVec 4) (v : AReg) : (s.setA n v).launches = s.launches := rfl
@[simp] theorem State.setA_triggers (s : State) (n : BitVec 4) (v : AReg) : (s.setA n v).triggers = s.triggers := rfl
@[simp] theorem State.setA_partials (s : State) (n : BitVec 4) (v : AReg) : (s.setA n v).partials = s.partials := rfl
@[simp] theorem State.setA_groups (s : State) (n : BitVec 4) (v : AReg) : (s.setA n v).groups = s.groups := rfl
@[simp] theorem State.setA_reserved (s : State) (n : BitVec 4) (v : AReg) : (s.setA n v).reserved = s.reserved := rfl
@[simp] theorem State.setA_suspended (s : State) (n : BitVec 4) (v : AReg) : (s.setA n v).suspended = s.suspended := rfl
@[simp] theorem State.setA_backing (s : State) (n : BitVec 4) (v : AReg) : (s.setA n v).backing = s.backing := rfl
@[simp] theorem State.setA_rings (s : State) (n : BitVec 4) (v : AReg) : (s.setA n v).rings = s.rings := rfl
@[simp] theorem State.setA_packets (s : State) (n : BitVec 4) (v : AReg) : (s.setA n v).packets = s.packets := rfl
@[simp] theorem State.setA_phase (s : State) (n : BitVec 4) (v : AReg) : (s.setA n v).phase = s.phase := rfl
@[simp] theorem State.setA_failCode (s : State) (n : BitVec 4) (v : AReg) : (s.setA n v).failCode = s.failCode := rfl
@[simp] theorem State.setA_stretch (s : State) (n : BitVec 4) (v : AReg) : (s.setA n v).stretch = s.stretch := rfl
@[simp] theorem State.setA_mbox (s : State) (n : BitVec 4) (v : AReg) : (s.setA n v).mbox = s.mbox := rfl
@[simp] theorem State.setA_mboxBusy (s : State) (n : BitVec 4) (v : AReg) : (s.setA n v).mboxBusy = s.mboxBusy := rfl
@[simp] theorem State.setA_mboxSd (s : State) (n : BitVec 4) (v : AReg) : (s.setA n v).mboxSd = s.mboxSd := rfl
@[simp] theorem State.setA_msix (s : State) (n : BitVec 4) (v : AReg) : (s.setA n v).msix = s.msix := rfl
@[simp] theorem State.setA_msixPending (s : State) (n : BitVec 4) (v : AReg) : (s.setA n v).msixPending = s.msixPending := rfl
@[simp] theorem State.setA_aperture (s : State) (n : BitVec 4) (v : AReg) : (s.setA n v).aperture = s.aperture := rfl
@[simp] theorem State.setA_lastRing (s : State) (n : BitVec 4) (v : AReg) : (s.setA n v).lastRing = s.lastRing := rfl
@[simp] theorem State.setA_enumTab (s : State) (n : BitVec 4) (v : AReg) : (s.setA n v).enumTab = s.enumTab := rfl
@[simp] theorem State.setA_dies (s : State) (n : BitVec 4) (v : AReg) : (s.setA n v).dies = s.dies := rfl
@[simp] theorem State.setA_links (s : State) (n : BitVec 4) (v : AReg) : (s.setA n v).links = s.links := rfl
@[simp] theorem State.setA_grade (s : State) (n : BitVec 4) (v : AReg) : (s.setA n v).grade = s.grade := rfl
@[simp] theorem State.setA_bar0 (s : State) (n : BitVec 4) (v : AReg) : (s.setA n v).bar0 = s.bar0 := rfl
@[simp] theorem State.setA_hostIn (s : State) (n : BitVec 4) (v : AReg) : (s.setA n v).hostIn = s.hostIn := rfl
@[simp] theorem State.setA_raised (s : State) (n : BitVec 4) (v : AReg) : (s.setA n v).raised = s.raised := rfl
@[simp] theorem State.setA_turns (s : State) (n : BitVec 4) (v : AReg) : (s.setA n v).turns = s.turns := rfl
@[simp] theorem State.setA_ticks (s : State) (n : BitVec 4) (v : AReg) : (s.setA n v).ticks = s.ticks := rfl
@[simp] theorem State.setA_nextId (s : State) (n : BitVec 4) (v : AReg) : (s.setA n v).nextId = s.nextId := rfl
@[simp] theorem State.setA_free (s : State) (n : BitVec 4) (v : AReg) : (s.setA n v).free = s.free := rfl
@[simp] theorem State.setA_boots (s : State) (n : BitVec 4) (v : AReg) : (s.setA n v).boots = s.boots := rfl

@[simp] theorem State.setQ_cur (s : State) (n : BitVec 4) (v : QReg) : (s.setQ n v).cur = s.cur := rfl
@[simp] theorem State.setQ_slots (s : State) (n : BitVec 4) (v : QReg) : (s.setQ n v).slots = s.slots := rfl
@[simp] theorem State.setQ_cores (s : State) (n : BitVec 4) (v : QReg) : (s.setQ n v).cores = s.cores := rfl
@[simp] theorem State.setQ_clusters (s : State) (n : BitVec 4) (v : QReg) : (s.setQ n v).clusters = s.clusters := rfl
@[simp] theorem State.setQ_towers (s : State) (n : BitVec 4) (v : QReg) : (s.setQ n v).towers = s.towers := rfl
@[simp] theorem State.setQ_spaces (s : State) (n : BitVec 4) (v : QReg) : (s.setQ n v).spaces = s.spaces := rfl
@[simp] theorem State.setQ_mem (s : State) (n : BitVec 4) (v : QReg) : (s.setQ n v).mem = s.mem := rfl
@[simp] theorem State.setQ_poison (s : State) (n : BitVec 4) (v : QReg) : (s.setQ n v).poison = s.poison := rfl
@[simp] theorem State.setQ_tlb (s : State) (n : BitVec 4) (v : QReg) : (s.setQ n v).tlb = s.tlb := rfl
@[simp] theorem State.setQ_l2 (s : State) (n : BitVec 4) (v : QReg) : (s.setQ n v).l2 = s.l2 := rfl
@[simp] theorem State.setQ_rdc (s : State) (n : BitVec 4) (v : QReg) : (s.setQ n v).rdc = s.rdc := rfl
@[simp] theorem State.setQ_msc (s : State) (n : BitVec 4) (v : QReg) : (s.setQ n v).msc = s.msc := rfl
@[simp] theorem State.setQ_misses (s : State) (n : BitVec 4) (v : QReg) : (s.setQ n v).misses = s.misses := rfl
@[simp] theorem State.setQ_pins (s : State) (n : BitVec 4) (v : QReg) : (s.setQ n v).pins = s.pins := rfl
@[simp] theorem State.setQ_reqs (s : State) (n : BitVec 4) (v : QReg) : (s.setQ n v).reqs = s.reqs := rfl
@[simp] theorem State.setQ_anns (s : State) (n : BitVec 4) (v : QReg) : (s.setQ n v).anns = s.anns := rfl
@[simp] theorem State.setQ_watches (s : State) (n : BitVec 4) (v : QReg) : (s.setQ n v).watches = s.watches := rfl
@[simp] theorem State.setQ_monitors (s : State) (n : BitVec 4) (v : QReg) : (s.setQ n v).monitors = s.monitors := rfl
@[simp] theorem State.setQ_stallFrames (s : State) (n : BitVec 4) (v : QReg) : (s.setQ n v).stallFrames = s.stallFrames := rfl
@[simp] theorem State.setQ_shoots (s : State) (n : BitVec 4) (v : QReg) : (s.setQ n v).shoots = s.shoots := rfl
@[simp] theorem State.setQ_gated (s : State) (n : BitVec 4) (v : QReg) : (s.setQ n v).gated = s.gated := rfl
@[simp] theorem State.setQ_stale (s : State) (n : BitVec 4) (v : QReg) : (s.setQ n v).stale = s.stale := rfl
@[simp] theorem State.setQ_routed (s : State) (n : BitVec 4) (v : QReg) : (s.setQ n v).routed = s.routed := rfl
@[simp] theorem State.setQ_deadSlices (s : State) (n : BitVec 4) (v : QReg) : (s.setQ n v).deadSlices = s.deadSlices := rfl
@[simp] theorem State.setQ_courier (s : State) (n : BitVec 4) (v : QReg) : (s.setQ n v).courier = s.courier := rfl
@[simp] theorem State.setQ_alloc (s : State) (n : BitVec 4) (v : QReg) : (s.setQ n v).alloc = s.alloc := rfl
@[simp] theorem State.setQ_bars (s : State) (n : BitVec 4) (v : QReg) : (s.setQ n v).bars = s.bars := rfl
@[simp] theorem State.setQ_boxes (s : State) (n : BitVec 4) (v : QReg) : (s.setQ n v).boxes = s.boxes := rfl
@[simp] theorem State.setQ_counters (s : State) (n : BitVec 4) (v : QReg) : (s.setQ n v).counters = s.counters := rfl
@[simp] theorem State.setQ_profile (s : State) (n : BitVec 4) (v : QReg) : (s.setQ n v).profile = s.profile := rfl
@[simp] theorem State.setQ_acc (s : State) (n : BitVec 4) (v : QReg) : (s.setQ n v).acc = s.acc := rfl
@[simp] theorem State.setQ_accPoison (s : State) (n : BitVec 4) (v : QReg) : (s.setQ n v).accPoison = s.accPoison := rfl
@[simp] theorem State.setQ_tileOwner (s : State) (n : BitVec 4) (v : QReg) : (s.setQ n v).tileOwner = s.tileOwner := rfl
@[simp] theorem State.setQ_bstore (s : State) (n : BitVec 4) (v : QReg) : (s.setQ n v).bstore = s.bstore := rfl
@[simp] theorem State.setQ_bstorePoison (s : State) (n : BitVec 4) (v : QReg) : (s.setQ n v).bstorePoison = s.bstorePoison := rfl
@[simp] theorem State.setQ_mcmds (s : State) (n : BitVec 4) (v : QReg) : (s.setQ n v).mcmds = s.mcmds := rfl
@[simp] theorem State.setQ_ecmds (s : State) (n : BitVec 4) (v : QReg) : (s.setQ n v).ecmds = s.ecmds := rfl
@[simp] theorem State.setQ_msgs (s : State) (n : BitVec 4) (v : QReg) : (s.setQ n v).msgs = s.msgs := rfl
@[simp] theorem State.setQ_held (s : State) (n : BitVec 4) (v : QReg) : (s.setQ n v).held = s.held := rfl
@[simp] theorem State.setQ_windows (s : State) (n : BitVec 4) (v : QReg) : (s.setQ n v).windows = s.windows := rfl
@[simp] theorem State.setQ_units (s : State) (n : BitVec 4) (v : QReg) : (s.setQ n v).units = s.units := rfl
@[simp] theorem State.setQ_launches (s : State) (n : BitVec 4) (v : QReg) : (s.setQ n v).launches = s.launches := rfl
@[simp] theorem State.setQ_triggers (s : State) (n : BitVec 4) (v : QReg) : (s.setQ n v).triggers = s.triggers := rfl
@[simp] theorem State.setQ_partials (s : State) (n : BitVec 4) (v : QReg) : (s.setQ n v).partials = s.partials := rfl
@[simp] theorem State.setQ_groups (s : State) (n : BitVec 4) (v : QReg) : (s.setQ n v).groups = s.groups := rfl
@[simp] theorem State.setQ_reserved (s : State) (n : BitVec 4) (v : QReg) : (s.setQ n v).reserved = s.reserved := rfl
@[simp] theorem State.setQ_suspended (s : State) (n : BitVec 4) (v : QReg) : (s.setQ n v).suspended = s.suspended := rfl
@[simp] theorem State.setQ_backing (s : State) (n : BitVec 4) (v : QReg) : (s.setQ n v).backing = s.backing := rfl
@[simp] theorem State.setQ_rings (s : State) (n : BitVec 4) (v : QReg) : (s.setQ n v).rings = s.rings := rfl
@[simp] theorem State.setQ_packets (s : State) (n : BitVec 4) (v : QReg) : (s.setQ n v).packets = s.packets := rfl
@[simp] theorem State.setQ_phase (s : State) (n : BitVec 4) (v : QReg) : (s.setQ n v).phase = s.phase := rfl
@[simp] theorem State.setQ_failCode (s : State) (n : BitVec 4) (v : QReg) : (s.setQ n v).failCode = s.failCode := rfl
@[simp] theorem State.setQ_stretch (s : State) (n : BitVec 4) (v : QReg) : (s.setQ n v).stretch = s.stretch := rfl
@[simp] theorem State.setQ_mbox (s : State) (n : BitVec 4) (v : QReg) : (s.setQ n v).mbox = s.mbox := rfl
@[simp] theorem State.setQ_mboxBusy (s : State) (n : BitVec 4) (v : QReg) : (s.setQ n v).mboxBusy = s.mboxBusy := rfl
@[simp] theorem State.setQ_mboxSd (s : State) (n : BitVec 4) (v : QReg) : (s.setQ n v).mboxSd = s.mboxSd := rfl
@[simp] theorem State.setQ_msix (s : State) (n : BitVec 4) (v : QReg) : (s.setQ n v).msix = s.msix := rfl
@[simp] theorem State.setQ_msixPending (s : State) (n : BitVec 4) (v : QReg) : (s.setQ n v).msixPending = s.msixPending := rfl
@[simp] theorem State.setQ_aperture (s : State) (n : BitVec 4) (v : QReg) : (s.setQ n v).aperture = s.aperture := rfl
@[simp] theorem State.setQ_lastRing (s : State) (n : BitVec 4) (v : QReg) : (s.setQ n v).lastRing = s.lastRing := rfl
@[simp] theorem State.setQ_enumTab (s : State) (n : BitVec 4) (v : QReg) : (s.setQ n v).enumTab = s.enumTab := rfl
@[simp] theorem State.setQ_dies (s : State) (n : BitVec 4) (v : QReg) : (s.setQ n v).dies = s.dies := rfl
@[simp] theorem State.setQ_links (s : State) (n : BitVec 4) (v : QReg) : (s.setQ n v).links = s.links := rfl
@[simp] theorem State.setQ_grade (s : State) (n : BitVec 4) (v : QReg) : (s.setQ n v).grade = s.grade := rfl
@[simp] theorem State.setQ_bar0 (s : State) (n : BitVec 4) (v : QReg) : (s.setQ n v).bar0 = s.bar0 := rfl
@[simp] theorem State.setQ_hostIn (s : State) (n : BitVec 4) (v : QReg) : (s.setQ n v).hostIn = s.hostIn := rfl
@[simp] theorem State.setQ_raised (s : State) (n : BitVec 4) (v : QReg) : (s.setQ n v).raised = s.raised := rfl
@[simp] theorem State.setQ_turns (s : State) (n : BitVec 4) (v : QReg) : (s.setQ n v).turns = s.turns := rfl
@[simp] theorem State.setQ_ticks (s : State) (n : BitVec 4) (v : QReg) : (s.setQ n v).ticks = s.ticks := rfl
@[simp] theorem State.setQ_nextId (s : State) (n : BitVec 4) (v : QReg) : (s.setQ n v).nextId = s.nextId := rfl
@[simp] theorem State.setQ_free (s : State) (n : BitVec 4) (v : QReg) : (s.setQ n v).free = s.free := rfl
@[simp] theorem State.setQ_boots (s : State) (n : BitVec 4) (v : QReg) : (s.setQ n v).boots = s.boots := rfl

@[simp] theorem State.setK_cur (s : State) (n : BitVec 3) (v : KWord) : (s.setK n v).cur = s.cur := rfl
@[simp] theorem State.setK_slots (s : State) (n : BitVec 3) (v : KWord) : (s.setK n v).slots = s.slots := rfl
@[simp] theorem State.setK_cores (s : State) (n : BitVec 3) (v : KWord) : (s.setK n v).cores = s.cores := rfl
@[simp] theorem State.setK_clusters (s : State) (n : BitVec 3) (v : KWord) : (s.setK n v).clusters = s.clusters := rfl
@[simp] theorem State.setK_towers (s : State) (n : BitVec 3) (v : KWord) : (s.setK n v).towers = s.towers := rfl
@[simp] theorem State.setK_spaces (s : State) (n : BitVec 3) (v : KWord) : (s.setK n v).spaces = s.spaces := rfl
@[simp] theorem State.setK_mem (s : State) (n : BitVec 3) (v : KWord) : (s.setK n v).mem = s.mem := rfl
@[simp] theorem State.setK_poison (s : State) (n : BitVec 3) (v : KWord) : (s.setK n v).poison = s.poison := rfl
@[simp] theorem State.setK_tlb (s : State) (n : BitVec 3) (v : KWord) : (s.setK n v).tlb = s.tlb := rfl
@[simp] theorem State.setK_l2 (s : State) (n : BitVec 3) (v : KWord) : (s.setK n v).l2 = s.l2 := rfl
@[simp] theorem State.setK_rdc (s : State) (n : BitVec 3) (v : KWord) : (s.setK n v).rdc = s.rdc := rfl
@[simp] theorem State.setK_msc (s : State) (n : BitVec 3) (v : KWord) : (s.setK n v).msc = s.msc := rfl
@[simp] theorem State.setK_misses (s : State) (n : BitVec 3) (v : KWord) : (s.setK n v).misses = s.misses := rfl
@[simp] theorem State.setK_pins (s : State) (n : BitVec 3) (v : KWord) : (s.setK n v).pins = s.pins := rfl
@[simp] theorem State.setK_reqs (s : State) (n : BitVec 3) (v : KWord) : (s.setK n v).reqs = s.reqs := rfl
@[simp] theorem State.setK_anns (s : State) (n : BitVec 3) (v : KWord) : (s.setK n v).anns = s.anns := rfl
@[simp] theorem State.setK_watches (s : State) (n : BitVec 3) (v : KWord) : (s.setK n v).watches = s.watches := rfl
@[simp] theorem State.setK_monitors (s : State) (n : BitVec 3) (v : KWord) : (s.setK n v).monitors = s.monitors := rfl
@[simp] theorem State.setK_stallFrames (s : State) (n : BitVec 3) (v : KWord) : (s.setK n v).stallFrames = s.stallFrames := rfl
@[simp] theorem State.setK_shoots (s : State) (n : BitVec 3) (v : KWord) : (s.setK n v).shoots = s.shoots := rfl
@[simp] theorem State.setK_gated (s : State) (n : BitVec 3) (v : KWord) : (s.setK n v).gated = s.gated := rfl
@[simp] theorem State.setK_stale (s : State) (n : BitVec 3) (v : KWord) : (s.setK n v).stale = s.stale := rfl
@[simp] theorem State.setK_routed (s : State) (n : BitVec 3) (v : KWord) : (s.setK n v).routed = s.routed := rfl
@[simp] theorem State.setK_deadSlices (s : State) (n : BitVec 3) (v : KWord) : (s.setK n v).deadSlices = s.deadSlices := rfl
@[simp] theorem State.setK_courier (s : State) (n : BitVec 3) (v : KWord) : (s.setK n v).courier = s.courier := rfl
@[simp] theorem State.setK_alloc (s : State) (n : BitVec 3) (v : KWord) : (s.setK n v).alloc = s.alloc := rfl
@[simp] theorem State.setK_bars (s : State) (n : BitVec 3) (v : KWord) : (s.setK n v).bars = s.bars := rfl
@[simp] theorem State.setK_boxes (s : State) (n : BitVec 3) (v : KWord) : (s.setK n v).boxes = s.boxes := rfl
@[simp] theorem State.setK_counters (s : State) (n : BitVec 3) (v : KWord) : (s.setK n v).counters = s.counters := rfl
@[simp] theorem State.setK_profile (s : State) (n : BitVec 3) (v : KWord) : (s.setK n v).profile = s.profile := rfl
@[simp] theorem State.setK_acc (s : State) (n : BitVec 3) (v : KWord) : (s.setK n v).acc = s.acc := rfl
@[simp] theorem State.setK_accPoison (s : State) (n : BitVec 3) (v : KWord) : (s.setK n v).accPoison = s.accPoison := rfl
@[simp] theorem State.setK_tileOwner (s : State) (n : BitVec 3) (v : KWord) : (s.setK n v).tileOwner = s.tileOwner := rfl
@[simp] theorem State.setK_bstore (s : State) (n : BitVec 3) (v : KWord) : (s.setK n v).bstore = s.bstore := rfl
@[simp] theorem State.setK_bstorePoison (s : State) (n : BitVec 3) (v : KWord) : (s.setK n v).bstorePoison = s.bstorePoison := rfl
@[simp] theorem State.setK_mcmds (s : State) (n : BitVec 3) (v : KWord) : (s.setK n v).mcmds = s.mcmds := rfl
@[simp] theorem State.setK_ecmds (s : State) (n : BitVec 3) (v : KWord) : (s.setK n v).ecmds = s.ecmds := rfl
@[simp] theorem State.setK_msgs (s : State) (n : BitVec 3) (v : KWord) : (s.setK n v).msgs = s.msgs := rfl
@[simp] theorem State.setK_held (s : State) (n : BitVec 3) (v : KWord) : (s.setK n v).held = s.held := rfl
@[simp] theorem State.setK_windows (s : State) (n : BitVec 3) (v : KWord) : (s.setK n v).windows = s.windows := rfl
@[simp] theorem State.setK_units (s : State) (n : BitVec 3) (v : KWord) : (s.setK n v).units = s.units := rfl
@[simp] theorem State.setK_launches (s : State) (n : BitVec 3) (v : KWord) : (s.setK n v).launches = s.launches := rfl
@[simp] theorem State.setK_triggers (s : State) (n : BitVec 3) (v : KWord) : (s.setK n v).triggers = s.triggers := rfl
@[simp] theorem State.setK_partials (s : State) (n : BitVec 3) (v : KWord) : (s.setK n v).partials = s.partials := rfl
@[simp] theorem State.setK_groups (s : State) (n : BitVec 3) (v : KWord) : (s.setK n v).groups = s.groups := rfl
@[simp] theorem State.setK_reserved (s : State) (n : BitVec 3) (v : KWord) : (s.setK n v).reserved = s.reserved := rfl
@[simp] theorem State.setK_suspended (s : State) (n : BitVec 3) (v : KWord) : (s.setK n v).suspended = s.suspended := rfl
@[simp] theorem State.setK_backing (s : State) (n : BitVec 3) (v : KWord) : (s.setK n v).backing = s.backing := rfl
@[simp] theorem State.setK_rings (s : State) (n : BitVec 3) (v : KWord) : (s.setK n v).rings = s.rings := rfl
@[simp] theorem State.setK_packets (s : State) (n : BitVec 3) (v : KWord) : (s.setK n v).packets = s.packets := rfl
@[simp] theorem State.setK_phase (s : State) (n : BitVec 3) (v : KWord) : (s.setK n v).phase = s.phase := rfl
@[simp] theorem State.setK_failCode (s : State) (n : BitVec 3) (v : KWord) : (s.setK n v).failCode = s.failCode := rfl
@[simp] theorem State.setK_stretch (s : State) (n : BitVec 3) (v : KWord) : (s.setK n v).stretch = s.stretch := rfl
@[simp] theorem State.setK_mbox (s : State) (n : BitVec 3) (v : KWord) : (s.setK n v).mbox = s.mbox := rfl
@[simp] theorem State.setK_mboxBusy (s : State) (n : BitVec 3) (v : KWord) : (s.setK n v).mboxBusy = s.mboxBusy := rfl
@[simp] theorem State.setK_mboxSd (s : State) (n : BitVec 3) (v : KWord) : (s.setK n v).mboxSd = s.mboxSd := rfl
@[simp] theorem State.setK_msix (s : State) (n : BitVec 3) (v : KWord) : (s.setK n v).msix = s.msix := rfl
@[simp] theorem State.setK_msixPending (s : State) (n : BitVec 3) (v : KWord) : (s.setK n v).msixPending = s.msixPending := rfl
@[simp] theorem State.setK_aperture (s : State) (n : BitVec 3) (v : KWord) : (s.setK n v).aperture = s.aperture := rfl
@[simp] theorem State.setK_lastRing (s : State) (n : BitVec 3) (v : KWord) : (s.setK n v).lastRing = s.lastRing := rfl
@[simp] theorem State.setK_enumTab (s : State) (n : BitVec 3) (v : KWord) : (s.setK n v).enumTab = s.enumTab := rfl
@[simp] theorem State.setK_dies (s : State) (n : BitVec 3) (v : KWord) : (s.setK n v).dies = s.dies := rfl
@[simp] theorem State.setK_links (s : State) (n : BitVec 3) (v : KWord) : (s.setK n v).links = s.links := rfl
@[simp] theorem State.setK_grade (s : State) (n : BitVec 3) (v : KWord) : (s.setK n v).grade = s.grade := rfl
@[simp] theorem State.setK_bar0 (s : State) (n : BitVec 3) (v : KWord) : (s.setK n v).bar0 = s.bar0 := rfl
@[simp] theorem State.setK_hostIn (s : State) (n : BitVec 3) (v : KWord) : (s.setK n v).hostIn = s.hostIn := rfl
@[simp] theorem State.setK_raised (s : State) (n : BitVec 3) (v : KWord) : (s.setK n v).raised = s.raised := rfl
@[simp] theorem State.setK_turns (s : State) (n : BitVec 3) (v : KWord) : (s.setK n v).turns = s.turns := rfl
@[simp] theorem State.setK_ticks (s : State) (n : BitVec 3) (v : KWord) : (s.setK n v).ticks = s.ticks := rfl
@[simp] theorem State.setK_nextId (s : State) (n : BitVec 3) (v : KWord) : (s.setK n v).nextId = s.nextId := rfl
@[simp] theorem State.setK_free (s : State) (n : BitVec 3) (v : KWord) : (s.setK n v).free = s.free := rfl
@[simp] theorem State.setK_boots (s : State) (n : BitVec 3) (v : KWord) : (s.setK n v).boots = s.boots := rfl

@[simp] theorem State.setV_cur (s : State) (n : BitVec 5) (v : VWord) : (s.setV n v).cur = s.cur := rfl
@[simp] theorem State.setV_slots (s : State) (n : BitVec 5) (v : VWord) : (s.setV n v).slots = s.slots := rfl
@[simp] theorem State.setV_cores (s : State) (n : BitVec 5) (v : VWord) : (s.setV n v).cores = s.cores := rfl
@[simp] theorem State.setV_clusters (s : State) (n : BitVec 5) (v : VWord) : (s.setV n v).clusters = s.clusters := rfl
@[simp] theorem State.setV_towers (s : State) (n : BitVec 5) (v : VWord) : (s.setV n v).towers = s.towers := rfl
@[simp] theorem State.setV_spaces (s : State) (n : BitVec 5) (v : VWord) : (s.setV n v).spaces = s.spaces := rfl
@[simp] theorem State.setV_mem (s : State) (n : BitVec 5) (v : VWord) : (s.setV n v).mem = s.mem := rfl
@[simp] theorem State.setV_poison (s : State) (n : BitVec 5) (v : VWord) : (s.setV n v).poison = s.poison := rfl
@[simp] theorem State.setV_tlb (s : State) (n : BitVec 5) (v : VWord) : (s.setV n v).tlb = s.tlb := rfl
@[simp] theorem State.setV_l2 (s : State) (n : BitVec 5) (v : VWord) : (s.setV n v).l2 = s.l2 := rfl
@[simp] theorem State.setV_rdc (s : State) (n : BitVec 5) (v : VWord) : (s.setV n v).rdc = s.rdc := rfl
@[simp] theorem State.setV_msc (s : State) (n : BitVec 5) (v : VWord) : (s.setV n v).msc = s.msc := rfl
@[simp] theorem State.setV_misses (s : State) (n : BitVec 5) (v : VWord) : (s.setV n v).misses = s.misses := rfl
@[simp] theorem State.setV_pins (s : State) (n : BitVec 5) (v : VWord) : (s.setV n v).pins = s.pins := rfl
@[simp] theorem State.setV_reqs (s : State) (n : BitVec 5) (v : VWord) : (s.setV n v).reqs = s.reqs := rfl
@[simp] theorem State.setV_anns (s : State) (n : BitVec 5) (v : VWord) : (s.setV n v).anns = s.anns := rfl
@[simp] theorem State.setV_watches (s : State) (n : BitVec 5) (v : VWord) : (s.setV n v).watches = s.watches := rfl
@[simp] theorem State.setV_monitors (s : State) (n : BitVec 5) (v : VWord) : (s.setV n v).monitors = s.monitors := rfl
@[simp] theorem State.setV_stallFrames (s : State) (n : BitVec 5) (v : VWord) : (s.setV n v).stallFrames = s.stallFrames := rfl
@[simp] theorem State.setV_shoots (s : State) (n : BitVec 5) (v : VWord) : (s.setV n v).shoots = s.shoots := rfl
@[simp] theorem State.setV_gated (s : State) (n : BitVec 5) (v : VWord) : (s.setV n v).gated = s.gated := rfl
@[simp] theorem State.setV_stale (s : State) (n : BitVec 5) (v : VWord) : (s.setV n v).stale = s.stale := rfl
@[simp] theorem State.setV_routed (s : State) (n : BitVec 5) (v : VWord) : (s.setV n v).routed = s.routed := rfl
@[simp] theorem State.setV_deadSlices (s : State) (n : BitVec 5) (v : VWord) : (s.setV n v).deadSlices = s.deadSlices := rfl
@[simp] theorem State.setV_courier (s : State) (n : BitVec 5) (v : VWord) : (s.setV n v).courier = s.courier := rfl
@[simp] theorem State.setV_alloc (s : State) (n : BitVec 5) (v : VWord) : (s.setV n v).alloc = s.alloc := rfl
@[simp] theorem State.setV_bars (s : State) (n : BitVec 5) (v : VWord) : (s.setV n v).bars = s.bars := rfl
@[simp] theorem State.setV_boxes (s : State) (n : BitVec 5) (v : VWord) : (s.setV n v).boxes = s.boxes := rfl
@[simp] theorem State.setV_counters (s : State) (n : BitVec 5) (v : VWord) : (s.setV n v).counters = s.counters := rfl
@[simp] theorem State.setV_profile (s : State) (n : BitVec 5) (v : VWord) : (s.setV n v).profile = s.profile := rfl
@[simp] theorem State.setV_acc (s : State) (n : BitVec 5) (v : VWord) : (s.setV n v).acc = s.acc := rfl
@[simp] theorem State.setV_accPoison (s : State) (n : BitVec 5) (v : VWord) : (s.setV n v).accPoison = s.accPoison := rfl
@[simp] theorem State.setV_tileOwner (s : State) (n : BitVec 5) (v : VWord) : (s.setV n v).tileOwner = s.tileOwner := rfl
@[simp] theorem State.setV_bstore (s : State) (n : BitVec 5) (v : VWord) : (s.setV n v).bstore = s.bstore := rfl
@[simp] theorem State.setV_bstorePoison (s : State) (n : BitVec 5) (v : VWord) : (s.setV n v).bstorePoison = s.bstorePoison := rfl
@[simp] theorem State.setV_mcmds (s : State) (n : BitVec 5) (v : VWord) : (s.setV n v).mcmds = s.mcmds := rfl
@[simp] theorem State.setV_ecmds (s : State) (n : BitVec 5) (v : VWord) : (s.setV n v).ecmds = s.ecmds := rfl
@[simp] theorem State.setV_msgs (s : State) (n : BitVec 5) (v : VWord) : (s.setV n v).msgs = s.msgs := rfl
@[simp] theorem State.setV_held (s : State) (n : BitVec 5) (v : VWord) : (s.setV n v).held = s.held := rfl
@[simp] theorem State.setV_windows (s : State) (n : BitVec 5) (v : VWord) : (s.setV n v).windows = s.windows := rfl
@[simp] theorem State.setV_units (s : State) (n : BitVec 5) (v : VWord) : (s.setV n v).units = s.units := rfl
@[simp] theorem State.setV_launches (s : State) (n : BitVec 5) (v : VWord) : (s.setV n v).launches = s.launches := rfl
@[simp] theorem State.setV_triggers (s : State) (n : BitVec 5) (v : VWord) : (s.setV n v).triggers = s.triggers := rfl
@[simp] theorem State.setV_partials (s : State) (n : BitVec 5) (v : VWord) : (s.setV n v).partials = s.partials := rfl
@[simp] theorem State.setV_groups (s : State) (n : BitVec 5) (v : VWord) : (s.setV n v).groups = s.groups := rfl
@[simp] theorem State.setV_reserved (s : State) (n : BitVec 5) (v : VWord) : (s.setV n v).reserved = s.reserved := rfl
@[simp] theorem State.setV_suspended (s : State) (n : BitVec 5) (v : VWord) : (s.setV n v).suspended = s.suspended := rfl
@[simp] theorem State.setV_backing (s : State) (n : BitVec 5) (v : VWord) : (s.setV n v).backing = s.backing := rfl
@[simp] theorem State.setV_rings (s : State) (n : BitVec 5) (v : VWord) : (s.setV n v).rings = s.rings := rfl
@[simp] theorem State.setV_packets (s : State) (n : BitVec 5) (v : VWord) : (s.setV n v).packets = s.packets := rfl
@[simp] theorem State.setV_phase (s : State) (n : BitVec 5) (v : VWord) : (s.setV n v).phase = s.phase := rfl
@[simp] theorem State.setV_failCode (s : State) (n : BitVec 5) (v : VWord) : (s.setV n v).failCode = s.failCode := rfl
@[simp] theorem State.setV_stretch (s : State) (n : BitVec 5) (v : VWord) : (s.setV n v).stretch = s.stretch := rfl
@[simp] theorem State.setV_mbox (s : State) (n : BitVec 5) (v : VWord) : (s.setV n v).mbox = s.mbox := rfl
@[simp] theorem State.setV_mboxBusy (s : State) (n : BitVec 5) (v : VWord) : (s.setV n v).mboxBusy = s.mboxBusy := rfl
@[simp] theorem State.setV_mboxSd (s : State) (n : BitVec 5) (v : VWord) : (s.setV n v).mboxSd = s.mboxSd := rfl
@[simp] theorem State.setV_msix (s : State) (n : BitVec 5) (v : VWord) : (s.setV n v).msix = s.msix := rfl
@[simp] theorem State.setV_msixPending (s : State) (n : BitVec 5) (v : VWord) : (s.setV n v).msixPending = s.msixPending := rfl
@[simp] theorem State.setV_aperture (s : State) (n : BitVec 5) (v : VWord) : (s.setV n v).aperture = s.aperture := rfl
@[simp] theorem State.setV_lastRing (s : State) (n : BitVec 5) (v : VWord) : (s.setV n v).lastRing = s.lastRing := rfl
@[simp] theorem State.setV_enumTab (s : State) (n : BitVec 5) (v : VWord) : (s.setV n v).enumTab = s.enumTab := rfl
@[simp] theorem State.setV_dies (s : State) (n : BitVec 5) (v : VWord) : (s.setV n v).dies = s.dies := rfl
@[simp] theorem State.setV_links (s : State) (n : BitVec 5) (v : VWord) : (s.setV n v).links = s.links := rfl
@[simp] theorem State.setV_grade (s : State) (n : BitVec 5) (v : VWord) : (s.setV n v).grade = s.grade := rfl
@[simp] theorem State.setV_bar0 (s : State) (n : BitVec 5) (v : VWord) : (s.setV n v).bar0 = s.bar0 := rfl
@[simp] theorem State.setV_hostIn (s : State) (n : BitVec 5) (v : VWord) : (s.setV n v).hostIn = s.hostIn := rfl
@[simp] theorem State.setV_raised (s : State) (n : BitVec 5) (v : VWord) : (s.setV n v).raised = s.raised := rfl
@[simp] theorem State.setV_turns (s : State) (n : BitVec 5) (v : VWord) : (s.setV n v).turns = s.turns := rfl
@[simp] theorem State.setV_ticks (s : State) (n : BitVec 5) (v : VWord) : (s.setV n v).ticks = s.ticks := rfl
@[simp] theorem State.setV_nextId (s : State) (n : BitVec 5) (v : VWord) : (s.setV n v).nextId = s.nextId := rfl
@[simp] theorem State.setV_free (s : State) (n : BitVec 5) (v : VWord) : (s.setV n v).free = s.free := rfl
@[simp] theorem State.setV_boots (s : State) (n : BitVec 5) (v : VWord) : (s.setV n v).boots = s.boots := rfl

@[simp] theorem State.advance_cur (s : State) (len : Nat) : (s.advance len).cur = s.cur := rfl
@[simp] theorem State.advance_slots (s : State) (len : Nat) : (s.advance len).slots = s.slots := rfl
@[simp] theorem State.advance_cores (s : State) (len : Nat) : (s.advance len).cores = s.cores := rfl
@[simp] theorem State.advance_clusters (s : State) (len : Nat) : (s.advance len).clusters = s.clusters := rfl
@[simp] theorem State.advance_towers (s : State) (len : Nat) : (s.advance len).towers = s.towers := rfl
@[simp] theorem State.advance_spaces (s : State) (len : Nat) : (s.advance len).spaces = s.spaces := rfl
@[simp] theorem State.advance_mem (s : State) (len : Nat) : (s.advance len).mem = s.mem := rfl
@[simp] theorem State.advance_poison (s : State) (len : Nat) : (s.advance len).poison = s.poison := rfl
@[simp] theorem State.advance_tlb (s : State) (len : Nat) : (s.advance len).tlb = s.tlb := rfl
@[simp] theorem State.advance_l2 (s : State) (len : Nat) : (s.advance len).l2 = s.l2 := rfl
@[simp] theorem State.advance_rdc (s : State) (len : Nat) : (s.advance len).rdc = s.rdc := rfl
@[simp] theorem State.advance_msc (s : State) (len : Nat) : (s.advance len).msc = s.msc := rfl
@[simp] theorem State.advance_misses (s : State) (len : Nat) : (s.advance len).misses = s.misses := rfl
@[simp] theorem State.advance_pins (s : State) (len : Nat) : (s.advance len).pins = s.pins := rfl
@[simp] theorem State.advance_reqs (s : State) (len : Nat) : (s.advance len).reqs = s.reqs := rfl
@[simp] theorem State.advance_anns (s : State) (len : Nat) : (s.advance len).anns = s.anns := rfl
@[simp] theorem State.advance_watches (s : State) (len : Nat) : (s.advance len).watches = s.watches := rfl
@[simp] theorem State.advance_monitors (s : State) (len : Nat) : (s.advance len).monitors = s.monitors := rfl
@[simp] theorem State.advance_stallFrames (s : State) (len : Nat) : (s.advance len).stallFrames = s.stallFrames := rfl
@[simp] theorem State.advance_shoots (s : State) (len : Nat) : (s.advance len).shoots = s.shoots := rfl
@[simp] theorem State.advance_gated (s : State) (len : Nat) : (s.advance len).gated = s.gated := rfl
@[simp] theorem State.advance_stale (s : State) (len : Nat) : (s.advance len).stale = s.stale := rfl
@[simp] theorem State.advance_routed (s : State) (len : Nat) : (s.advance len).routed = s.routed := rfl
@[simp] theorem State.advance_deadSlices (s : State) (len : Nat) : (s.advance len).deadSlices = s.deadSlices := rfl
@[simp] theorem State.advance_courier (s : State) (len : Nat) : (s.advance len).courier = s.courier := rfl
@[simp] theorem State.advance_alloc (s : State) (len : Nat) : (s.advance len).alloc = s.alloc := rfl
@[simp] theorem State.advance_bars (s : State) (len : Nat) : (s.advance len).bars = s.bars := rfl
@[simp] theorem State.advance_boxes (s : State) (len : Nat) : (s.advance len).boxes = s.boxes := rfl
@[simp] theorem State.advance_counters (s : State) (len : Nat) : (s.advance len).counters = s.counters := rfl
@[simp] theorem State.advance_profile (s : State) (len : Nat) : (s.advance len).profile = s.profile := rfl
@[simp] theorem State.advance_acc (s : State) (len : Nat) : (s.advance len).acc = s.acc := rfl
@[simp] theorem State.advance_accPoison (s : State) (len : Nat) : (s.advance len).accPoison = s.accPoison := rfl
@[simp] theorem State.advance_tileOwner (s : State) (len : Nat) : (s.advance len).tileOwner = s.tileOwner := rfl
@[simp] theorem State.advance_bstore (s : State) (len : Nat) : (s.advance len).bstore = s.bstore := rfl
@[simp] theorem State.advance_bstorePoison (s : State) (len : Nat) : (s.advance len).bstorePoison = s.bstorePoison := rfl
@[simp] theorem State.advance_mcmds (s : State) (len : Nat) : (s.advance len).mcmds = s.mcmds := rfl
@[simp] theorem State.advance_ecmds (s : State) (len : Nat) : (s.advance len).ecmds = s.ecmds := rfl
@[simp] theorem State.advance_msgs (s : State) (len : Nat) : (s.advance len).msgs = s.msgs := rfl
@[simp] theorem State.advance_held (s : State) (len : Nat) : (s.advance len).held = s.held := rfl
@[simp] theorem State.advance_windows (s : State) (len : Nat) : (s.advance len).windows = s.windows := rfl
@[simp] theorem State.advance_units (s : State) (len : Nat) : (s.advance len).units = s.units := rfl
@[simp] theorem State.advance_launches (s : State) (len : Nat) : (s.advance len).launches = s.launches := rfl
@[simp] theorem State.advance_triggers (s : State) (len : Nat) : (s.advance len).triggers = s.triggers := rfl
@[simp] theorem State.advance_partials (s : State) (len : Nat) : (s.advance len).partials = s.partials := rfl
@[simp] theorem State.advance_groups (s : State) (len : Nat) : (s.advance len).groups = s.groups := rfl
@[simp] theorem State.advance_reserved (s : State) (len : Nat) : (s.advance len).reserved = s.reserved := rfl
@[simp] theorem State.advance_suspended (s : State) (len : Nat) : (s.advance len).suspended = s.suspended := rfl
@[simp] theorem State.advance_backing (s : State) (len : Nat) : (s.advance len).backing = s.backing := rfl
@[simp] theorem State.advance_rings (s : State) (len : Nat) : (s.advance len).rings = s.rings := rfl
@[simp] theorem State.advance_packets (s : State) (len : Nat) : (s.advance len).packets = s.packets := rfl
@[simp] theorem State.advance_phase (s : State) (len : Nat) : (s.advance len).phase = s.phase := rfl
@[simp] theorem State.advance_failCode (s : State) (len : Nat) : (s.advance len).failCode = s.failCode := rfl
@[simp] theorem State.advance_stretch (s : State) (len : Nat) : (s.advance len).stretch = s.stretch := rfl
@[simp] theorem State.advance_mbox (s : State) (len : Nat) : (s.advance len).mbox = s.mbox := rfl
@[simp] theorem State.advance_mboxBusy (s : State) (len : Nat) : (s.advance len).mboxBusy = s.mboxBusy := rfl
@[simp] theorem State.advance_mboxSd (s : State) (len : Nat) : (s.advance len).mboxSd = s.mboxSd := rfl
@[simp] theorem State.advance_msix (s : State) (len : Nat) : (s.advance len).msix = s.msix := rfl
@[simp] theorem State.advance_msixPending (s : State) (len : Nat) : (s.advance len).msixPending = s.msixPending := rfl
@[simp] theorem State.advance_aperture (s : State) (len : Nat) : (s.advance len).aperture = s.aperture := rfl
@[simp] theorem State.advance_lastRing (s : State) (len : Nat) : (s.advance len).lastRing = s.lastRing := rfl
@[simp] theorem State.advance_enumTab (s : State) (len : Nat) : (s.advance len).enumTab = s.enumTab := rfl
@[simp] theorem State.advance_dies (s : State) (len : Nat) : (s.advance len).dies = s.dies := rfl
@[simp] theorem State.advance_links (s : State) (len : Nat) : (s.advance len).links = s.links := rfl
@[simp] theorem State.advance_grade (s : State) (len : Nat) : (s.advance len).grade = s.grade := rfl
@[simp] theorem State.advance_bar0 (s : State) (len : Nat) : (s.advance len).bar0 = s.bar0 := rfl
@[simp] theorem State.advance_hostIn (s : State) (len : Nat) : (s.advance len).hostIn = s.hostIn := rfl
@[simp] theorem State.advance_raised (s : State) (len : Nat) : (s.advance len).raised = s.raised := rfl
@[simp] theorem State.advance_turns (s : State) (len : Nat) : (s.advance len).turns = s.turns := rfl
@[simp] theorem State.advance_ticks (s : State) (len : Nat) : (s.advance len).ticks = s.ticks := rfl
@[simp] theorem State.advance_nextId (s : State) (len : Nat) : (s.advance len).nextId = s.nextId := rfl
@[simp] theorem State.advance_free (s : State) (len : Nat) : (s.advance len).free = s.free := rfl
@[simp] theorem State.advance_boots (s : State) (len : Nat) : (s.advance len).boots = s.boots := rfl

@[simp] theorem State.jump_cur (s : State) (p : Addr) : (s.jump p).cur = s.cur := rfl
@[simp] theorem State.jump_slots (s : State) (p : Addr) : (s.jump p).slots = s.slots := rfl
@[simp] theorem State.jump_cores (s : State) (p : Addr) : (s.jump p).cores = s.cores := rfl
@[simp] theorem State.jump_clusters (s : State) (p : Addr) : (s.jump p).clusters = s.clusters := rfl
@[simp] theorem State.jump_towers (s : State) (p : Addr) : (s.jump p).towers = s.towers := rfl
@[simp] theorem State.jump_spaces (s : State) (p : Addr) : (s.jump p).spaces = s.spaces := rfl
@[simp] theorem State.jump_mem (s : State) (p : Addr) : (s.jump p).mem = s.mem := rfl
@[simp] theorem State.jump_poison (s : State) (p : Addr) : (s.jump p).poison = s.poison := rfl
@[simp] theorem State.jump_tlb (s : State) (p : Addr) : (s.jump p).tlb = s.tlb := rfl
@[simp] theorem State.jump_l2 (s : State) (p : Addr) : (s.jump p).l2 = s.l2 := rfl
@[simp] theorem State.jump_rdc (s : State) (p : Addr) : (s.jump p).rdc = s.rdc := rfl
@[simp] theorem State.jump_msc (s : State) (p : Addr) : (s.jump p).msc = s.msc := rfl
@[simp] theorem State.jump_misses (s : State) (p : Addr) : (s.jump p).misses = s.misses := rfl
@[simp] theorem State.jump_pins (s : State) (p : Addr) : (s.jump p).pins = s.pins := rfl
@[simp] theorem State.jump_reqs (s : State) (p : Addr) : (s.jump p).reqs = s.reqs := rfl
@[simp] theorem State.jump_anns (s : State) (p : Addr) : (s.jump p).anns = s.anns := rfl
@[simp] theorem State.jump_watches (s : State) (p : Addr) : (s.jump p).watches = s.watches := rfl
@[simp] theorem State.jump_monitors (s : State) (p : Addr) : (s.jump p).monitors = s.monitors := rfl
@[simp] theorem State.jump_stallFrames (s : State) (p : Addr) : (s.jump p).stallFrames = s.stallFrames := rfl
@[simp] theorem State.jump_shoots (s : State) (p : Addr) : (s.jump p).shoots = s.shoots := rfl
@[simp] theorem State.jump_gated (s : State) (p : Addr) : (s.jump p).gated = s.gated := rfl
@[simp] theorem State.jump_stale (s : State) (p : Addr) : (s.jump p).stale = s.stale := rfl
@[simp] theorem State.jump_routed (s : State) (p : Addr) : (s.jump p).routed = s.routed := rfl
@[simp] theorem State.jump_deadSlices (s : State) (p : Addr) : (s.jump p).deadSlices = s.deadSlices := rfl
@[simp] theorem State.jump_courier (s : State) (p : Addr) : (s.jump p).courier = s.courier := rfl
@[simp] theorem State.jump_alloc (s : State) (p : Addr) : (s.jump p).alloc = s.alloc := rfl
@[simp] theorem State.jump_bars (s : State) (p : Addr) : (s.jump p).bars = s.bars := rfl
@[simp] theorem State.jump_boxes (s : State) (p : Addr) : (s.jump p).boxes = s.boxes := rfl
@[simp] theorem State.jump_counters (s : State) (p : Addr) : (s.jump p).counters = s.counters := rfl
@[simp] theorem State.jump_profile (s : State) (p : Addr) : (s.jump p).profile = s.profile := rfl
@[simp] theorem State.jump_acc (s : State) (p : Addr) : (s.jump p).acc = s.acc := rfl
@[simp] theorem State.jump_accPoison (s : State) (p : Addr) : (s.jump p).accPoison = s.accPoison := rfl
@[simp] theorem State.jump_tileOwner (s : State) (p : Addr) : (s.jump p).tileOwner = s.tileOwner := rfl
@[simp] theorem State.jump_bstore (s : State) (p : Addr) : (s.jump p).bstore = s.bstore := rfl
@[simp] theorem State.jump_bstorePoison (s : State) (p : Addr) : (s.jump p).bstorePoison = s.bstorePoison := rfl
@[simp] theorem State.jump_mcmds (s : State) (p : Addr) : (s.jump p).mcmds = s.mcmds := rfl
@[simp] theorem State.jump_ecmds (s : State) (p : Addr) : (s.jump p).ecmds = s.ecmds := rfl
@[simp] theorem State.jump_msgs (s : State) (p : Addr) : (s.jump p).msgs = s.msgs := rfl
@[simp] theorem State.jump_held (s : State) (p : Addr) : (s.jump p).held = s.held := rfl
@[simp] theorem State.jump_windows (s : State) (p : Addr) : (s.jump p).windows = s.windows := rfl
@[simp] theorem State.jump_units (s : State) (p : Addr) : (s.jump p).units = s.units := rfl
@[simp] theorem State.jump_launches (s : State) (p : Addr) : (s.jump p).launches = s.launches := rfl
@[simp] theorem State.jump_triggers (s : State) (p : Addr) : (s.jump p).triggers = s.triggers := rfl
@[simp] theorem State.jump_partials (s : State) (p : Addr) : (s.jump p).partials = s.partials := rfl
@[simp] theorem State.jump_groups (s : State) (p : Addr) : (s.jump p).groups = s.groups := rfl
@[simp] theorem State.jump_reserved (s : State) (p : Addr) : (s.jump p).reserved = s.reserved := rfl
@[simp] theorem State.jump_suspended (s : State) (p : Addr) : (s.jump p).suspended = s.suspended := rfl
@[simp] theorem State.jump_backing (s : State) (p : Addr) : (s.jump p).backing = s.backing := rfl
@[simp] theorem State.jump_rings (s : State) (p : Addr) : (s.jump p).rings = s.rings := rfl
@[simp] theorem State.jump_packets (s : State) (p : Addr) : (s.jump p).packets = s.packets := rfl
@[simp] theorem State.jump_phase (s : State) (p : Addr) : (s.jump p).phase = s.phase := rfl
@[simp] theorem State.jump_failCode (s : State) (p : Addr) : (s.jump p).failCode = s.failCode := rfl
@[simp] theorem State.jump_stretch (s : State) (p : Addr) : (s.jump p).stretch = s.stretch := rfl
@[simp] theorem State.jump_mbox (s : State) (p : Addr) : (s.jump p).mbox = s.mbox := rfl
@[simp] theorem State.jump_mboxBusy (s : State) (p : Addr) : (s.jump p).mboxBusy = s.mboxBusy := rfl
@[simp] theorem State.jump_mboxSd (s : State) (p : Addr) : (s.jump p).mboxSd = s.mboxSd := rfl
@[simp] theorem State.jump_msix (s : State) (p : Addr) : (s.jump p).msix = s.msix := rfl
@[simp] theorem State.jump_msixPending (s : State) (p : Addr) : (s.jump p).msixPending = s.msixPending := rfl
@[simp] theorem State.jump_aperture (s : State) (p : Addr) : (s.jump p).aperture = s.aperture := rfl
@[simp] theorem State.jump_lastRing (s : State) (p : Addr) : (s.jump p).lastRing = s.lastRing := rfl
@[simp] theorem State.jump_enumTab (s : State) (p : Addr) : (s.jump p).enumTab = s.enumTab := rfl
@[simp] theorem State.jump_dies (s : State) (p : Addr) : (s.jump p).dies = s.dies := rfl
@[simp] theorem State.jump_links (s : State) (p : Addr) : (s.jump p).links = s.links := rfl
@[simp] theorem State.jump_grade (s : State) (p : Addr) : (s.jump p).grade = s.grade := rfl
@[simp] theorem State.jump_bar0 (s : State) (p : Addr) : (s.jump p).bar0 = s.bar0 := rfl
@[simp] theorem State.jump_hostIn (s : State) (p : Addr) : (s.jump p).hostIn = s.hostIn := rfl
@[simp] theorem State.jump_raised (s : State) (p : Addr) : (s.jump p).raised = s.raised := rfl
@[simp] theorem State.jump_turns (s : State) (p : Addr) : (s.jump p).turns = s.turns := rfl
@[simp] theorem State.jump_ticks (s : State) (p : Addr) : (s.jump p).ticks = s.ticks := rfl
@[simp] theorem State.jump_nextId (s : State) (p : Addr) : (s.jump p).nextId = s.nextId := rfl
@[simp] theorem State.jump_free (s : State) (p : Addr) : (s.jump p).free = s.free := rfl
@[simp] theorem State.jump_boots (s : State) (p : Addr) : (s.jump p).boots = s.boots := rfl

@[simp] theorem State.hold_cur (s : State) (y : Stall) : (s.hold y).cur = s.cur := rfl
@[simp] theorem State.hold_slots (s : State) (y : Stall) : (s.hold y).slots = s.slots := rfl
@[simp] theorem State.hold_cores (s : State) (y : Stall) : (s.hold y).cores = s.cores := rfl
@[simp] theorem State.hold_clusters (s : State) (y : Stall) : (s.hold y).clusters = s.clusters := rfl
@[simp] theorem State.hold_towers (s : State) (y : Stall) : (s.hold y).towers = s.towers := rfl
@[simp] theorem State.hold_spaces (s : State) (y : Stall) : (s.hold y).spaces = s.spaces := rfl
@[simp] theorem State.hold_mem (s : State) (y : Stall) : (s.hold y).mem = s.mem := rfl
@[simp] theorem State.hold_poison (s : State) (y : Stall) : (s.hold y).poison = s.poison := rfl
@[simp] theorem State.hold_tlb (s : State) (y : Stall) : (s.hold y).tlb = s.tlb := rfl
@[simp] theorem State.hold_l2 (s : State) (y : Stall) : (s.hold y).l2 = s.l2 := rfl
@[simp] theorem State.hold_rdc (s : State) (y : Stall) : (s.hold y).rdc = s.rdc := rfl
@[simp] theorem State.hold_msc (s : State) (y : Stall) : (s.hold y).msc = s.msc := rfl
@[simp] theorem State.hold_misses (s : State) (y : Stall) : (s.hold y).misses = s.misses := rfl
@[simp] theorem State.hold_pins (s : State) (y : Stall) : (s.hold y).pins = s.pins := rfl
@[simp] theorem State.hold_reqs (s : State) (y : Stall) : (s.hold y).reqs = s.reqs := rfl
@[simp] theorem State.hold_anns (s : State) (y : Stall) : (s.hold y).anns = s.anns := rfl
@[simp] theorem State.hold_watches (s : State) (y : Stall) : (s.hold y).watches = s.watches := rfl
@[simp] theorem State.hold_monitors (s : State) (y : Stall) : (s.hold y).monitors = s.monitors := rfl
@[simp] theorem State.hold_stallFrames (s : State) (y : Stall) : (s.hold y).stallFrames = s.stallFrames := rfl
@[simp] theorem State.hold_shoots (s : State) (y : Stall) : (s.hold y).shoots = s.shoots := rfl
@[simp] theorem State.hold_gated (s : State) (y : Stall) : (s.hold y).gated = s.gated := rfl
@[simp] theorem State.hold_stale (s : State) (y : Stall) : (s.hold y).stale = s.stale := rfl
@[simp] theorem State.hold_routed (s : State) (y : Stall) : (s.hold y).routed = s.routed := rfl
@[simp] theorem State.hold_deadSlices (s : State) (y : Stall) : (s.hold y).deadSlices = s.deadSlices := rfl
@[simp] theorem State.hold_courier (s : State) (y : Stall) : (s.hold y).courier = s.courier := rfl
@[simp] theorem State.hold_alloc (s : State) (y : Stall) : (s.hold y).alloc = s.alloc := rfl
@[simp] theorem State.hold_bars (s : State) (y : Stall) : (s.hold y).bars = s.bars := rfl
@[simp] theorem State.hold_boxes (s : State) (y : Stall) : (s.hold y).boxes = s.boxes := rfl
@[simp] theorem State.hold_counters (s : State) (y : Stall) : (s.hold y).counters = s.counters := rfl
@[simp] theorem State.hold_profile (s : State) (y : Stall) : (s.hold y).profile = s.profile := rfl
@[simp] theorem State.hold_acc (s : State) (y : Stall) : (s.hold y).acc = s.acc := rfl
@[simp] theorem State.hold_accPoison (s : State) (y : Stall) : (s.hold y).accPoison = s.accPoison := rfl
@[simp] theorem State.hold_tileOwner (s : State) (y : Stall) : (s.hold y).tileOwner = s.tileOwner := rfl
@[simp] theorem State.hold_bstore (s : State) (y : Stall) : (s.hold y).bstore = s.bstore := rfl
@[simp] theorem State.hold_bstorePoison (s : State) (y : Stall) : (s.hold y).bstorePoison = s.bstorePoison := rfl
@[simp] theorem State.hold_mcmds (s : State) (y : Stall) : (s.hold y).mcmds = s.mcmds := rfl
@[simp] theorem State.hold_ecmds (s : State) (y : Stall) : (s.hold y).ecmds = s.ecmds := rfl
@[simp] theorem State.hold_msgs (s : State) (y : Stall) : (s.hold y).msgs = s.msgs := rfl
@[simp] theorem State.hold_held (s : State) (y : Stall) : (s.hold y).held = s.held := rfl
@[simp] theorem State.hold_windows (s : State) (y : Stall) : (s.hold y).windows = s.windows := rfl
@[simp] theorem State.hold_units (s : State) (y : Stall) : (s.hold y).units = s.units := rfl
@[simp] theorem State.hold_launches (s : State) (y : Stall) : (s.hold y).launches = s.launches := rfl
@[simp] theorem State.hold_triggers (s : State) (y : Stall) : (s.hold y).triggers = s.triggers := rfl
@[simp] theorem State.hold_partials (s : State) (y : Stall) : (s.hold y).partials = s.partials := rfl
@[simp] theorem State.hold_groups (s : State) (y : Stall) : (s.hold y).groups = s.groups := rfl
@[simp] theorem State.hold_reserved (s : State) (y : Stall) : (s.hold y).reserved = s.reserved := rfl
@[simp] theorem State.hold_suspended (s : State) (y : Stall) : (s.hold y).suspended = s.suspended := rfl
@[simp] theorem State.hold_backing (s : State) (y : Stall) : (s.hold y).backing = s.backing := rfl
@[simp] theorem State.hold_rings (s : State) (y : Stall) : (s.hold y).rings = s.rings := rfl
@[simp] theorem State.hold_packets (s : State) (y : Stall) : (s.hold y).packets = s.packets := rfl
@[simp] theorem State.hold_phase (s : State) (y : Stall) : (s.hold y).phase = s.phase := rfl
@[simp] theorem State.hold_failCode (s : State) (y : Stall) : (s.hold y).failCode = s.failCode := rfl
@[simp] theorem State.hold_stretch (s : State) (y : Stall) : (s.hold y).stretch = s.stretch := rfl
@[simp] theorem State.hold_mbox (s : State) (y : Stall) : (s.hold y).mbox = s.mbox := rfl
@[simp] theorem State.hold_mboxBusy (s : State) (y : Stall) : (s.hold y).mboxBusy = s.mboxBusy := rfl
@[simp] theorem State.hold_mboxSd (s : State) (y : Stall) : (s.hold y).mboxSd = s.mboxSd := rfl
@[simp] theorem State.hold_msix (s : State) (y : Stall) : (s.hold y).msix = s.msix := rfl
@[simp] theorem State.hold_msixPending (s : State) (y : Stall) : (s.hold y).msixPending = s.msixPending := rfl
@[simp] theorem State.hold_aperture (s : State) (y : Stall) : (s.hold y).aperture = s.aperture := rfl
@[simp] theorem State.hold_lastRing (s : State) (y : Stall) : (s.hold y).lastRing = s.lastRing := rfl
@[simp] theorem State.hold_enumTab (s : State) (y : Stall) : (s.hold y).enumTab = s.enumTab := rfl
@[simp] theorem State.hold_dies (s : State) (y : Stall) : (s.hold y).dies = s.dies := rfl
@[simp] theorem State.hold_links (s : State) (y : Stall) : (s.hold y).links = s.links := rfl
@[simp] theorem State.hold_grade (s : State) (y : Stall) : (s.hold y).grade = s.grade := rfl
@[simp] theorem State.hold_bar0 (s : State) (y : Stall) : (s.hold y).bar0 = s.bar0 := rfl
@[simp] theorem State.hold_hostIn (s : State) (y : Stall) : (s.hold y).hostIn = s.hostIn := rfl
@[simp] theorem State.hold_raised (s : State) (y : Stall) : (s.hold y).raised = s.raised := rfl
@[simp] theorem State.hold_turns (s : State) (y : Stall) : (s.hold y).turns = s.turns := rfl
@[simp] theorem State.hold_ticks (s : State) (y : Stall) : (s.hold y).ticks = s.ticks := rfl
@[simp] theorem State.hold_nextId (s : State) (y : Stall) : (s.hold y).nextId = s.nextId := rfl
@[simp] theorem State.hold_free (s : State) (y : Stall) : (s.hold y).free = s.free := rfl
@[simp] theorem State.hold_boots (s : State) (y : Stall) : (s.hold y).boots = s.boots := rfl

@[simp] theorem State.park_cur (s : State) (p : Park) : (s.park p).cur = s.cur := rfl
@[simp] theorem State.park_slots (s : State) (p : Park) : (s.park p).slots = s.slots := rfl
@[simp] theorem State.park_cores (s : State) (p : Park) : (s.park p).cores = s.cores := rfl
@[simp] theorem State.park_clusters (s : State) (p : Park) : (s.park p).clusters = s.clusters := rfl
@[simp] theorem State.park_towers (s : State) (p : Park) : (s.park p).towers = s.towers := rfl
@[simp] theorem State.park_spaces (s : State) (p : Park) : (s.park p).spaces = s.spaces := rfl
@[simp] theorem State.park_mem (s : State) (p : Park) : (s.park p).mem = s.mem := rfl
@[simp] theorem State.park_poison (s : State) (p : Park) : (s.park p).poison = s.poison := rfl
@[simp] theorem State.park_tlb (s : State) (p : Park) : (s.park p).tlb = s.tlb := rfl
@[simp] theorem State.park_l2 (s : State) (p : Park) : (s.park p).l2 = s.l2 := rfl
@[simp] theorem State.park_rdc (s : State) (p : Park) : (s.park p).rdc = s.rdc := rfl
@[simp] theorem State.park_msc (s : State) (p : Park) : (s.park p).msc = s.msc := rfl
@[simp] theorem State.park_misses (s : State) (p : Park) : (s.park p).misses = s.misses := rfl
@[simp] theorem State.park_pins (s : State) (p : Park) : (s.park p).pins = s.pins := rfl
@[simp] theorem State.park_reqs (s : State) (p : Park) : (s.park p).reqs = s.reqs := rfl
@[simp] theorem State.park_anns (s : State) (p : Park) : (s.park p).anns = s.anns := rfl
@[simp] theorem State.park_watches (s : State) (p : Park) : (s.park p).watches = s.watches := rfl
@[simp] theorem State.park_monitors (s : State) (p : Park) : (s.park p).monitors = s.monitors := rfl
@[simp] theorem State.park_stallFrames (s : State) (p : Park) : (s.park p).stallFrames = s.stallFrames := rfl
@[simp] theorem State.park_shoots (s : State) (p : Park) : (s.park p).shoots = s.shoots := rfl
@[simp] theorem State.park_gated (s : State) (p : Park) : (s.park p).gated = s.gated := rfl
@[simp] theorem State.park_stale (s : State) (p : Park) : (s.park p).stale = s.stale := rfl
@[simp] theorem State.park_routed (s : State) (p : Park) : (s.park p).routed = s.routed := rfl
@[simp] theorem State.park_deadSlices (s : State) (p : Park) : (s.park p).deadSlices = s.deadSlices := rfl
@[simp] theorem State.park_courier (s : State) (p : Park) : (s.park p).courier = s.courier := rfl
@[simp] theorem State.park_alloc (s : State) (p : Park) : (s.park p).alloc = s.alloc := rfl
@[simp] theorem State.park_bars (s : State) (p : Park) : (s.park p).bars = s.bars := rfl
@[simp] theorem State.park_boxes (s : State) (p : Park) : (s.park p).boxes = s.boxes := rfl
@[simp] theorem State.park_counters (s : State) (p : Park) : (s.park p).counters = s.counters := rfl
@[simp] theorem State.park_profile (s : State) (p : Park) : (s.park p).profile = s.profile := rfl
@[simp] theorem State.park_acc (s : State) (p : Park) : (s.park p).acc = s.acc := rfl
@[simp] theorem State.park_accPoison (s : State) (p : Park) : (s.park p).accPoison = s.accPoison := rfl
@[simp] theorem State.park_tileOwner (s : State) (p : Park) : (s.park p).tileOwner = s.tileOwner := rfl
@[simp] theorem State.park_bstore (s : State) (p : Park) : (s.park p).bstore = s.bstore := rfl
@[simp] theorem State.park_bstorePoison (s : State) (p : Park) : (s.park p).bstorePoison = s.bstorePoison := rfl
@[simp] theorem State.park_mcmds (s : State) (p : Park) : (s.park p).mcmds = s.mcmds := rfl
@[simp] theorem State.park_ecmds (s : State) (p : Park) : (s.park p).ecmds = s.ecmds := rfl
@[simp] theorem State.park_msgs (s : State) (p : Park) : (s.park p).msgs = s.msgs := rfl
@[simp] theorem State.park_held (s : State) (p : Park) : (s.park p).held = s.held := rfl
@[simp] theorem State.park_windows (s : State) (p : Park) : (s.park p).windows = s.windows := rfl
@[simp] theorem State.park_units (s : State) (p : Park) : (s.park p).units = s.units := rfl
@[simp] theorem State.park_launches (s : State) (p : Park) : (s.park p).launches = s.launches := rfl
@[simp] theorem State.park_triggers (s : State) (p : Park) : (s.park p).triggers = s.triggers := rfl
@[simp] theorem State.park_partials (s : State) (p : Park) : (s.park p).partials = s.partials := rfl
@[simp] theorem State.park_groups (s : State) (p : Park) : (s.park p).groups = s.groups := rfl
@[simp] theorem State.park_reserved (s : State) (p : Park) : (s.park p).reserved = s.reserved := rfl
@[simp] theorem State.park_suspended (s : State) (p : Park) : (s.park p).suspended = s.suspended := rfl
@[simp] theorem State.park_backing (s : State) (p : Park) : (s.park p).backing = s.backing := rfl
@[simp] theorem State.park_rings (s : State) (p : Park) : (s.park p).rings = s.rings := rfl
@[simp] theorem State.park_packets (s : State) (p : Park) : (s.park p).packets = s.packets := rfl
@[simp] theorem State.park_phase (s : State) (p : Park) : (s.park p).phase = s.phase := rfl
@[simp] theorem State.park_failCode (s : State) (p : Park) : (s.park p).failCode = s.failCode := rfl
@[simp] theorem State.park_stretch (s : State) (p : Park) : (s.park p).stretch = s.stretch := rfl
@[simp] theorem State.park_mbox (s : State) (p : Park) : (s.park p).mbox = s.mbox := rfl
@[simp] theorem State.park_mboxBusy (s : State) (p : Park) : (s.park p).mboxBusy = s.mboxBusy := rfl
@[simp] theorem State.park_mboxSd (s : State) (p : Park) : (s.park p).mboxSd = s.mboxSd := rfl
@[simp] theorem State.park_msix (s : State) (p : Park) : (s.park p).msix = s.msix := rfl
@[simp] theorem State.park_msixPending (s : State) (p : Park) : (s.park p).msixPending = s.msixPending := rfl
@[simp] theorem State.park_aperture (s : State) (p : Park) : (s.park p).aperture = s.aperture := rfl
@[simp] theorem State.park_lastRing (s : State) (p : Park) : (s.park p).lastRing = s.lastRing := rfl
@[simp] theorem State.park_enumTab (s : State) (p : Park) : (s.park p).enumTab = s.enumTab := rfl
@[simp] theorem State.park_dies (s : State) (p : Park) : (s.park p).dies = s.dies := rfl
@[simp] theorem State.park_links (s : State) (p : Park) : (s.park p).links = s.links := rfl
@[simp] theorem State.park_grade (s : State) (p : Park) : (s.park p).grade = s.grade := rfl
@[simp] theorem State.park_bar0 (s : State) (p : Park) : (s.park p).bar0 = s.bar0 := rfl
@[simp] theorem State.park_hostIn (s : State) (p : Park) : (s.park p).hostIn = s.hostIn := rfl
@[simp] theorem State.park_raised (s : State) (p : Park) : (s.park p).raised = s.raised := rfl
@[simp] theorem State.park_turns (s : State) (p : Park) : (s.park p).turns = s.turns := rfl
@[simp] theorem State.park_ticks (s : State) (p : Park) : (s.park p).ticks = s.ticks := rfl
@[simp] theorem State.park_nextId (s : State) (p : Park) : (s.park p).nextId = s.nextId := rfl
@[simp] theorem State.park_free (s : State) (p : Park) : (s.park p).free = s.free := rfl
@[simp] theorem State.park_boots (s : State) (p : Park) : (s.park p).boots = s.boots := rfl

@[simp] theorem State.writeScratch_cur (s : State) (va : Nat) (d : List Byte) : (s.writeScratch va d).cur = s.cur := rfl
@[simp] theorem State.writeScratch_slots (s : State) (va : Nat) (d : List Byte) : (s.writeScratch va d).slots = s.slots := rfl
@[simp] theorem State.writeScratch_cores (s : State) (va : Nat) (d : List Byte) : (s.writeScratch va d).cores = s.cores := rfl
@[simp] theorem State.writeScratch_clusters (s : State) (va : Nat) (d : List Byte) : (s.writeScratch va d).clusters = s.clusters := rfl
@[simp] theorem State.writeScratch_towers (s : State) (va : Nat) (d : List Byte) : (s.writeScratch va d).towers = s.towers := rfl
@[simp] theorem State.writeScratch_spaces (s : State) (va : Nat) (d : List Byte) : (s.writeScratch va d).spaces = s.spaces := rfl
@[simp] theorem State.writeScratch_mem (s : State) (va : Nat) (d : List Byte) : (s.writeScratch va d).mem = s.mem := rfl
@[simp] theorem State.writeScratch_poison (s : State) (va : Nat) (d : List Byte) : (s.writeScratch va d).poison = s.poison := rfl
@[simp] theorem State.writeScratch_tlb (s : State) (va : Nat) (d : List Byte) : (s.writeScratch va d).tlb = s.tlb := rfl
@[simp] theorem State.writeScratch_l2 (s : State) (va : Nat) (d : List Byte) : (s.writeScratch va d).l2 = s.l2 := rfl
@[simp] theorem State.writeScratch_rdc (s : State) (va : Nat) (d : List Byte) : (s.writeScratch va d).rdc = s.rdc := rfl
@[simp] theorem State.writeScratch_msc (s : State) (va : Nat) (d : List Byte) : (s.writeScratch va d).msc = s.msc := rfl
@[simp] theorem State.writeScratch_misses (s : State) (va : Nat) (d : List Byte) : (s.writeScratch va d).misses = s.misses := rfl
@[simp] theorem State.writeScratch_pins (s : State) (va : Nat) (d : List Byte) : (s.writeScratch va d).pins = s.pins := rfl
@[simp] theorem State.writeScratch_reqs (s : State) (va : Nat) (d : List Byte) : (s.writeScratch va d).reqs = s.reqs := rfl
@[simp] theorem State.writeScratch_anns (s : State) (va : Nat) (d : List Byte) : (s.writeScratch va d).anns = s.anns := rfl
@[simp] theorem State.writeScratch_watches (s : State) (va : Nat) (d : List Byte) : (s.writeScratch va d).watches = s.watches := rfl
@[simp] theorem State.writeScratch_monitors (s : State) (va : Nat) (d : List Byte) : (s.writeScratch va d).monitors = s.monitors := rfl
@[simp] theorem State.writeScratch_stallFrames (s : State) (va : Nat) (d : List Byte) : (s.writeScratch va d).stallFrames = s.stallFrames := rfl
@[simp] theorem State.writeScratch_shoots (s : State) (va : Nat) (d : List Byte) : (s.writeScratch va d).shoots = s.shoots := rfl
@[simp] theorem State.writeScratch_gated (s : State) (va : Nat) (d : List Byte) : (s.writeScratch va d).gated = s.gated := rfl
@[simp] theorem State.writeScratch_stale (s : State) (va : Nat) (d : List Byte) : (s.writeScratch va d).stale = s.stale := rfl
@[simp] theorem State.writeScratch_routed (s : State) (va : Nat) (d : List Byte) : (s.writeScratch va d).routed = s.routed := rfl
@[simp] theorem State.writeScratch_deadSlices (s : State) (va : Nat) (d : List Byte) : (s.writeScratch va d).deadSlices = s.deadSlices := rfl
@[simp] theorem State.writeScratch_courier (s : State) (va : Nat) (d : List Byte) : (s.writeScratch va d).courier = s.courier := rfl
@[simp] theorem State.writeScratch_alloc (s : State) (va : Nat) (d : List Byte) : (s.writeScratch va d).alloc = s.alloc := rfl
@[simp] theorem State.writeScratch_bars (s : State) (va : Nat) (d : List Byte) : (s.writeScratch va d).bars = s.bars := rfl
@[simp] theorem State.writeScratch_boxes (s : State) (va : Nat) (d : List Byte) : (s.writeScratch va d).boxes = s.boxes := rfl
@[simp] theorem State.writeScratch_counters (s : State) (va : Nat) (d : List Byte) : (s.writeScratch va d).counters = s.counters := rfl
@[simp] theorem State.writeScratch_profile (s : State) (va : Nat) (d : List Byte) : (s.writeScratch va d).profile = s.profile := rfl
@[simp] theorem State.writeScratch_acc (s : State) (va : Nat) (d : List Byte) : (s.writeScratch va d).acc = s.acc := rfl
@[simp] theorem State.writeScratch_accPoison (s : State) (va : Nat) (d : List Byte) : (s.writeScratch va d).accPoison = s.accPoison := rfl
@[simp] theorem State.writeScratch_tileOwner (s : State) (va : Nat) (d : List Byte) : (s.writeScratch va d).tileOwner = s.tileOwner := rfl
@[simp] theorem State.writeScratch_bstore (s : State) (va : Nat) (d : List Byte) : (s.writeScratch va d).bstore = s.bstore := rfl
@[simp] theorem State.writeScratch_bstorePoison (s : State) (va : Nat) (d : List Byte) : (s.writeScratch va d).bstorePoison = s.bstorePoison := rfl
@[simp] theorem State.writeScratch_mcmds (s : State) (va : Nat) (d : List Byte) : (s.writeScratch va d).mcmds = s.mcmds := rfl
@[simp] theorem State.writeScratch_ecmds (s : State) (va : Nat) (d : List Byte) : (s.writeScratch va d).ecmds = s.ecmds := rfl
@[simp] theorem State.writeScratch_msgs (s : State) (va : Nat) (d : List Byte) : (s.writeScratch va d).msgs = s.msgs := rfl
@[simp] theorem State.writeScratch_held (s : State) (va : Nat) (d : List Byte) : (s.writeScratch va d).held = s.held := rfl
@[simp] theorem State.writeScratch_windows (s : State) (va : Nat) (d : List Byte) : (s.writeScratch va d).windows = s.windows := rfl
@[simp] theorem State.writeScratch_units (s : State) (va : Nat) (d : List Byte) : (s.writeScratch va d).units = s.units := rfl
@[simp] theorem State.writeScratch_launches (s : State) (va : Nat) (d : List Byte) : (s.writeScratch va d).launches = s.launches := rfl
@[simp] theorem State.writeScratch_triggers (s : State) (va : Nat) (d : List Byte) : (s.writeScratch va d).triggers = s.triggers := rfl
@[simp] theorem State.writeScratch_partials (s : State) (va : Nat) (d : List Byte) : (s.writeScratch va d).partials = s.partials := rfl
@[simp] theorem State.writeScratch_groups (s : State) (va : Nat) (d : List Byte) : (s.writeScratch va d).groups = s.groups := rfl
@[simp] theorem State.writeScratch_reserved (s : State) (va : Nat) (d : List Byte) : (s.writeScratch va d).reserved = s.reserved := rfl
@[simp] theorem State.writeScratch_suspended (s : State) (va : Nat) (d : List Byte) : (s.writeScratch va d).suspended = s.suspended := rfl
@[simp] theorem State.writeScratch_backing (s : State) (va : Nat) (d : List Byte) : (s.writeScratch va d).backing = s.backing := rfl
@[simp] theorem State.writeScratch_rings (s : State) (va : Nat) (d : List Byte) : (s.writeScratch va d).rings = s.rings := rfl
@[simp] theorem State.writeScratch_packets (s : State) (va : Nat) (d : List Byte) : (s.writeScratch va d).packets = s.packets := rfl
@[simp] theorem State.writeScratch_phase (s : State) (va : Nat) (d : List Byte) : (s.writeScratch va d).phase = s.phase := rfl
@[simp] theorem State.writeScratch_failCode (s : State) (va : Nat) (d : List Byte) : (s.writeScratch va d).failCode = s.failCode := rfl
@[simp] theorem State.writeScratch_stretch (s : State) (va : Nat) (d : List Byte) : (s.writeScratch va d).stretch = s.stretch := rfl
@[simp] theorem State.writeScratch_mbox (s : State) (va : Nat) (d : List Byte) : (s.writeScratch va d).mbox = s.mbox := rfl
@[simp] theorem State.writeScratch_mboxBusy (s : State) (va : Nat) (d : List Byte) : (s.writeScratch va d).mboxBusy = s.mboxBusy := rfl
@[simp] theorem State.writeScratch_mboxSd (s : State) (va : Nat) (d : List Byte) : (s.writeScratch va d).mboxSd = s.mboxSd := rfl
@[simp] theorem State.writeScratch_msix (s : State) (va : Nat) (d : List Byte) : (s.writeScratch va d).msix = s.msix := rfl
@[simp] theorem State.writeScratch_msixPending (s : State) (va : Nat) (d : List Byte) : (s.writeScratch va d).msixPending = s.msixPending := rfl
@[simp] theorem State.writeScratch_aperture (s : State) (va : Nat) (d : List Byte) : (s.writeScratch va d).aperture = s.aperture := rfl
@[simp] theorem State.writeScratch_lastRing (s : State) (va : Nat) (d : List Byte) : (s.writeScratch va d).lastRing = s.lastRing := rfl
@[simp] theorem State.writeScratch_enumTab (s : State) (va : Nat) (d : List Byte) : (s.writeScratch va d).enumTab = s.enumTab := rfl
@[simp] theorem State.writeScratch_dies (s : State) (va : Nat) (d : List Byte) : (s.writeScratch va d).dies = s.dies := rfl
@[simp] theorem State.writeScratch_links (s : State) (va : Nat) (d : List Byte) : (s.writeScratch va d).links = s.links := rfl
@[simp] theorem State.writeScratch_grade (s : State) (va : Nat) (d : List Byte) : (s.writeScratch va d).grade = s.grade := rfl
@[simp] theorem State.writeScratch_bar0 (s : State) (va : Nat) (d : List Byte) : (s.writeScratch va d).bar0 = s.bar0 := rfl
@[simp] theorem State.writeScratch_hostIn (s : State) (va : Nat) (d : List Byte) : (s.writeScratch va d).hostIn = s.hostIn := rfl
@[simp] theorem State.writeScratch_raised (s : State) (va : Nat) (d : List Byte) : (s.writeScratch va d).raised = s.raised := rfl
@[simp] theorem State.writeScratch_turns (s : State) (va : Nat) (d : List Byte) : (s.writeScratch va d).turns = s.turns := rfl
@[simp] theorem State.writeScratch_ticks (s : State) (va : Nat) (d : List Byte) : (s.writeScratch va d).ticks = s.ticks := rfl
@[simp] theorem State.writeScratch_nextId (s : State) (va : Nat) (d : List Byte) : (s.writeScratch va d).nextId = s.nextId := rfl
@[simp] theorem State.writeScratch_free (s : State) (va : Nat) (d : List Byte) : (s.writeScratch va d).free = s.free := rfl
@[simp] theorem State.writeScratch_boots (s : State) (va : Nat) (d : List Byte) : (s.writeScratch va d).boots = s.boots := rfl

@[simp] theorem State.raise_me (s : State) (r : Raised) : (s.raise r).me = s.me := rfl
@[simp] theorem State.raise_cur (s : State) (r : Raised) : (s.raise r).cur = s.cur := rfl
@[simp] theorem State.raise_slots (s : State) (r : Raised) : (s.raise r).slots = s.slots := rfl
@[simp] theorem State.raise_cores (s : State) (r : Raised) : (s.raise r).cores = s.cores := rfl
@[simp] theorem State.raise_clusters (s : State) (r : Raised) : (s.raise r).clusters = s.clusters := rfl
@[simp] theorem State.raise_towers (s : State) (r : Raised) : (s.raise r).towers = s.towers := rfl
@[simp] theorem State.raise_spaces (s : State) (r : Raised) : (s.raise r).spaces = s.spaces := rfl
@[simp] theorem State.raise_mem (s : State) (r : Raised) : (s.raise r).mem = s.mem := rfl
@[simp] theorem State.raise_poison (s : State) (r : Raised) : (s.raise r).poison = s.poison := rfl
@[simp] theorem State.raise_tlb (s : State) (r : Raised) : (s.raise r).tlb = s.tlb := rfl
@[simp] theorem State.raise_l2 (s : State) (r : Raised) : (s.raise r).l2 = s.l2 := rfl
@[simp] theorem State.raise_rdc (s : State) (r : Raised) : (s.raise r).rdc = s.rdc := rfl
@[simp] theorem State.raise_msc (s : State) (r : Raised) : (s.raise r).msc = s.msc := rfl
@[simp] theorem State.raise_misses (s : State) (r : Raised) : (s.raise r).misses = s.misses := rfl
@[simp] theorem State.raise_pins (s : State) (r : Raised) : (s.raise r).pins = s.pins := rfl
@[simp] theorem State.raise_reqs (s : State) (r : Raised) : (s.raise r).reqs = s.reqs := rfl
@[simp] theorem State.raise_anns (s : State) (r : Raised) : (s.raise r).anns = s.anns := rfl
@[simp] theorem State.raise_watches (s : State) (r : Raised) : (s.raise r).watches = s.watches := rfl
@[simp] theorem State.raise_monitors (s : State) (r : Raised) : (s.raise r).monitors = s.monitors := rfl
@[simp] theorem State.raise_stallFrames (s : State) (r : Raised) : (s.raise r).stallFrames = s.stallFrames := rfl
@[simp] theorem State.raise_shoots (s : State) (r : Raised) : (s.raise r).shoots = s.shoots := rfl
@[simp] theorem State.raise_gated (s : State) (r : Raised) : (s.raise r).gated = s.gated := rfl
@[simp] theorem State.raise_stale (s : State) (r : Raised) : (s.raise r).stale = s.stale := rfl
@[simp] theorem State.raise_routed (s : State) (r : Raised) : (s.raise r).routed = s.routed := rfl
@[simp] theorem State.raise_deadSlices (s : State) (r : Raised) : (s.raise r).deadSlices = s.deadSlices := rfl
@[simp] theorem State.raise_courier (s : State) (r : Raised) : (s.raise r).courier = s.courier := rfl
@[simp] theorem State.raise_alloc (s : State) (r : Raised) : (s.raise r).alloc = s.alloc := rfl
@[simp] theorem State.raise_bars (s : State) (r : Raised) : (s.raise r).bars = s.bars := rfl
@[simp] theorem State.raise_boxes (s : State) (r : Raised) : (s.raise r).boxes = s.boxes := rfl
@[simp] theorem State.raise_counters (s : State) (r : Raised) : (s.raise r).counters = s.counters := rfl
@[simp] theorem State.raise_profile (s : State) (r : Raised) : (s.raise r).profile = s.profile := rfl
@[simp] theorem State.raise_acc (s : State) (r : Raised) : (s.raise r).acc = s.acc := rfl
@[simp] theorem State.raise_accPoison (s : State) (r : Raised) : (s.raise r).accPoison = s.accPoison := rfl
@[simp] theorem State.raise_tileOwner (s : State) (r : Raised) : (s.raise r).tileOwner = s.tileOwner := rfl
@[simp] theorem State.raise_bstore (s : State) (r : Raised) : (s.raise r).bstore = s.bstore := rfl
@[simp] theorem State.raise_bstorePoison (s : State) (r : Raised) : (s.raise r).bstorePoison = s.bstorePoison := rfl
@[simp] theorem State.raise_mcmds (s : State) (r : Raised) : (s.raise r).mcmds = s.mcmds := rfl
@[simp] theorem State.raise_ecmds (s : State) (r : Raised) : (s.raise r).ecmds = s.ecmds := rfl
@[simp] theorem State.raise_msgs (s : State) (r : Raised) : (s.raise r).msgs = s.msgs := rfl
@[simp] theorem State.raise_held (s : State) (r : Raised) : (s.raise r).held = s.held := rfl
@[simp] theorem State.raise_windows (s : State) (r : Raised) : (s.raise r).windows = s.windows := rfl
@[simp] theorem State.raise_units (s : State) (r : Raised) : (s.raise r).units = s.units := rfl
@[simp] theorem State.raise_launches (s : State) (r : Raised) : (s.raise r).launches = s.launches := rfl
@[simp] theorem State.raise_triggers (s : State) (r : Raised) : (s.raise r).triggers = s.triggers := rfl
@[simp] theorem State.raise_partials (s : State) (r : Raised) : (s.raise r).partials = s.partials := rfl
@[simp] theorem State.raise_groups (s : State) (r : Raised) : (s.raise r).groups = s.groups := rfl
@[simp] theorem State.raise_reserved (s : State) (r : Raised) : (s.raise r).reserved = s.reserved := rfl
@[simp] theorem State.raise_suspended (s : State) (r : Raised) : (s.raise r).suspended = s.suspended := rfl
@[simp] theorem State.raise_backing (s : State) (r : Raised) : (s.raise r).backing = s.backing := rfl
@[simp] theorem State.raise_rings (s : State) (r : Raised) : (s.raise r).rings = s.rings := rfl
@[simp] theorem State.raise_packets (s : State) (r : Raised) : (s.raise r).packets = s.packets := rfl
@[simp] theorem State.raise_phase (s : State) (r : Raised) : (s.raise r).phase = s.phase := rfl
@[simp] theorem State.raise_failCode (s : State) (r : Raised) : (s.raise r).failCode = s.failCode := rfl
@[simp] theorem State.raise_stretch (s : State) (r : Raised) : (s.raise r).stretch = s.stretch := rfl
@[simp] theorem State.raise_mbox (s : State) (r : Raised) : (s.raise r).mbox = s.mbox := rfl
@[simp] theorem State.raise_mboxBusy (s : State) (r : Raised) : (s.raise r).mboxBusy = s.mboxBusy := rfl
@[simp] theorem State.raise_mboxSd (s : State) (r : Raised) : (s.raise r).mboxSd = s.mboxSd := rfl
@[simp] theorem State.raise_msix (s : State) (r : Raised) : (s.raise r).msix = s.msix := rfl
@[simp] theorem State.raise_msixPending (s : State) (r : Raised) : (s.raise r).msixPending = s.msixPending := rfl
@[simp] theorem State.raise_aperture (s : State) (r : Raised) : (s.raise r).aperture = s.aperture := rfl
@[simp] theorem State.raise_lastRing (s : State) (r : Raised) : (s.raise r).lastRing = s.lastRing := rfl
@[simp] theorem State.raise_enumTab (s : State) (r : Raised) : (s.raise r).enumTab = s.enumTab := rfl
@[simp] theorem State.raise_dies (s : State) (r : Raised) : (s.raise r).dies = s.dies := rfl
@[simp] theorem State.raise_links (s : State) (r : Raised) : (s.raise r).links = s.links := rfl
@[simp] theorem State.raise_grade (s : State) (r : Raised) : (s.raise r).grade = s.grade := rfl
@[simp] theorem State.raise_bar0 (s : State) (r : Raised) : (s.raise r).bar0 = s.bar0 := rfl
@[simp] theorem State.raise_hostIn (s : State) (r : Raised) : (s.raise r).hostIn = s.hostIn := rfl
@[simp] theorem State.raise_turns (s : State) (r : Raised) : (s.raise r).turns = s.turns := rfl
@[simp] theorem State.raise_ticks (s : State) (r : Raised) : (s.raise r).ticks = s.ticks := rfl
@[simp] theorem State.raise_nextId (s : State) (r : Raised) : (s.raise r).nextId = s.nextId := rfl
@[simp] theorem State.raise_free (s : State) (r : Raised) : (s.raise r).free = s.free := rfl
@[simp] theorem State.raise_boots (s : State) (r : Raised) : (s.raise r).boots = s.boots := rfl

@[simp] theorem State.raises_me (s : State) (l : List Raised) : (s.raises l).me = s.me := rfl
@[simp] theorem State.raises_cur (s : State) (l : List Raised) : (s.raises l).cur = s.cur := rfl
@[simp] theorem State.raises_slots (s : State) (l : List Raised) : (s.raises l).slots = s.slots := rfl
@[simp] theorem State.raises_cores (s : State) (l : List Raised) : (s.raises l).cores = s.cores := rfl
@[simp] theorem State.raises_clusters (s : State) (l : List Raised) : (s.raises l).clusters = s.clusters := rfl
@[simp] theorem State.raises_towers (s : State) (l : List Raised) : (s.raises l).towers = s.towers := rfl
@[simp] theorem State.raises_spaces (s : State) (l : List Raised) : (s.raises l).spaces = s.spaces := rfl
@[simp] theorem State.raises_mem (s : State) (l : List Raised) : (s.raises l).mem = s.mem := rfl
@[simp] theorem State.raises_poison (s : State) (l : List Raised) : (s.raises l).poison = s.poison := rfl
@[simp] theorem State.raises_tlb (s : State) (l : List Raised) : (s.raises l).tlb = s.tlb := rfl
@[simp] theorem State.raises_l2 (s : State) (l : List Raised) : (s.raises l).l2 = s.l2 := rfl
@[simp] theorem State.raises_rdc (s : State) (l : List Raised) : (s.raises l).rdc = s.rdc := rfl
@[simp] theorem State.raises_msc (s : State) (l : List Raised) : (s.raises l).msc = s.msc := rfl
@[simp] theorem State.raises_misses (s : State) (l : List Raised) : (s.raises l).misses = s.misses := rfl
@[simp] theorem State.raises_pins (s : State) (l : List Raised) : (s.raises l).pins = s.pins := rfl
@[simp] theorem State.raises_reqs (s : State) (l : List Raised) : (s.raises l).reqs = s.reqs := rfl
@[simp] theorem State.raises_anns (s : State) (l : List Raised) : (s.raises l).anns = s.anns := rfl
@[simp] theorem State.raises_watches (s : State) (l : List Raised) : (s.raises l).watches = s.watches := rfl
@[simp] theorem State.raises_monitors (s : State) (l : List Raised) : (s.raises l).monitors = s.monitors := rfl
@[simp] theorem State.raises_stallFrames (s : State) (l : List Raised) : (s.raises l).stallFrames = s.stallFrames := rfl
@[simp] theorem State.raises_shoots (s : State) (l : List Raised) : (s.raises l).shoots = s.shoots := rfl
@[simp] theorem State.raises_gated (s : State) (l : List Raised) : (s.raises l).gated = s.gated := rfl
@[simp] theorem State.raises_stale (s : State) (l : List Raised) : (s.raises l).stale = s.stale := rfl
@[simp] theorem State.raises_routed (s : State) (l : List Raised) : (s.raises l).routed = s.routed := rfl
@[simp] theorem State.raises_deadSlices (s : State) (l : List Raised) : (s.raises l).deadSlices = s.deadSlices := rfl
@[simp] theorem State.raises_courier (s : State) (l : List Raised) : (s.raises l).courier = s.courier := rfl
@[simp] theorem State.raises_alloc (s : State) (l : List Raised) : (s.raises l).alloc = s.alloc := rfl
@[simp] theorem State.raises_bars (s : State) (l : List Raised) : (s.raises l).bars = s.bars := rfl
@[simp] theorem State.raises_boxes (s : State) (l : List Raised) : (s.raises l).boxes = s.boxes := rfl
@[simp] theorem State.raises_counters (s : State) (l : List Raised) : (s.raises l).counters = s.counters := rfl
@[simp] theorem State.raises_profile (s : State) (l : List Raised) : (s.raises l).profile = s.profile := rfl
@[simp] theorem State.raises_acc (s : State) (l : List Raised) : (s.raises l).acc = s.acc := rfl
@[simp] theorem State.raises_accPoison (s : State) (l : List Raised) : (s.raises l).accPoison = s.accPoison := rfl
@[simp] theorem State.raises_tileOwner (s : State) (l : List Raised) : (s.raises l).tileOwner = s.tileOwner := rfl
@[simp] theorem State.raises_bstore (s : State) (l : List Raised) : (s.raises l).bstore = s.bstore := rfl
@[simp] theorem State.raises_bstorePoison (s : State) (l : List Raised) : (s.raises l).bstorePoison = s.bstorePoison := rfl
@[simp] theorem State.raises_mcmds (s : State) (l : List Raised) : (s.raises l).mcmds = s.mcmds := rfl
@[simp] theorem State.raises_ecmds (s : State) (l : List Raised) : (s.raises l).ecmds = s.ecmds := rfl
@[simp] theorem State.raises_msgs (s : State) (l : List Raised) : (s.raises l).msgs = s.msgs := rfl
@[simp] theorem State.raises_held (s : State) (l : List Raised) : (s.raises l).held = s.held := rfl
@[simp] theorem State.raises_windows (s : State) (l : List Raised) : (s.raises l).windows = s.windows := rfl
@[simp] theorem State.raises_units (s : State) (l : List Raised) : (s.raises l).units = s.units := rfl
@[simp] theorem State.raises_launches (s : State) (l : List Raised) : (s.raises l).launches = s.launches := rfl
@[simp] theorem State.raises_triggers (s : State) (l : List Raised) : (s.raises l).triggers = s.triggers := rfl
@[simp] theorem State.raises_partials (s : State) (l : List Raised) : (s.raises l).partials = s.partials := rfl
@[simp] theorem State.raises_groups (s : State) (l : List Raised) : (s.raises l).groups = s.groups := rfl
@[simp] theorem State.raises_reserved (s : State) (l : List Raised) : (s.raises l).reserved = s.reserved := rfl
@[simp] theorem State.raises_suspended (s : State) (l : List Raised) : (s.raises l).suspended = s.suspended := rfl
@[simp] theorem State.raises_backing (s : State) (l : List Raised) : (s.raises l).backing = s.backing := rfl
@[simp] theorem State.raises_rings (s : State) (l : List Raised) : (s.raises l).rings = s.rings := rfl
@[simp] theorem State.raises_packets (s : State) (l : List Raised) : (s.raises l).packets = s.packets := rfl
@[simp] theorem State.raises_phase (s : State) (l : List Raised) : (s.raises l).phase = s.phase := rfl
@[simp] theorem State.raises_failCode (s : State) (l : List Raised) : (s.raises l).failCode = s.failCode := rfl
@[simp] theorem State.raises_stretch (s : State) (l : List Raised) : (s.raises l).stretch = s.stretch := rfl
@[simp] theorem State.raises_mbox (s : State) (l : List Raised) : (s.raises l).mbox = s.mbox := rfl
@[simp] theorem State.raises_mboxBusy (s : State) (l : List Raised) : (s.raises l).mboxBusy = s.mboxBusy := rfl
@[simp] theorem State.raises_mboxSd (s : State) (l : List Raised) : (s.raises l).mboxSd = s.mboxSd := rfl
@[simp] theorem State.raises_msix (s : State) (l : List Raised) : (s.raises l).msix = s.msix := rfl
@[simp] theorem State.raises_msixPending (s : State) (l : List Raised) : (s.raises l).msixPending = s.msixPending := rfl
@[simp] theorem State.raises_aperture (s : State) (l : List Raised) : (s.raises l).aperture = s.aperture := rfl
@[simp] theorem State.raises_lastRing (s : State) (l : List Raised) : (s.raises l).lastRing = s.lastRing := rfl
@[simp] theorem State.raises_enumTab (s : State) (l : List Raised) : (s.raises l).enumTab = s.enumTab := rfl
@[simp] theorem State.raises_dies (s : State) (l : List Raised) : (s.raises l).dies = s.dies := rfl
@[simp] theorem State.raises_links (s : State) (l : List Raised) : (s.raises l).links = s.links := rfl
@[simp] theorem State.raises_grade (s : State) (l : List Raised) : (s.raises l).grade = s.grade := rfl
@[simp] theorem State.raises_bar0 (s : State) (l : List Raised) : (s.raises l).bar0 = s.bar0 := rfl
@[simp] theorem State.raises_hostIn (s : State) (l : List Raised) : (s.raises l).hostIn = s.hostIn := rfl
@[simp] theorem State.raises_turns (s : State) (l : List Raised) : (s.raises l).turns = s.turns := rfl
@[simp] theorem State.raises_ticks (s : State) (l : List Raised) : (s.raises l).ticks = s.ticks := rfl
@[simp] theorem State.raises_nextId (s : State) (l : List Raised) : (s.raises l).nextId = s.nextId := rfl
@[simp] theorem State.raises_free (s : State) (l : List Raised) : (s.raises l).free = s.free := rfl
@[simp] theorem State.raises_boots (s : State) (l : List Raised) : (s.raises l).boots = s.boots := rfl

@[simp] theorem State.report_me (s : State) (r : CourierRec) : (s.report r).me = s.me := rfl
@[simp] theorem State.report_cur (s : State) (r : CourierRec) : (s.report r).cur = s.cur := rfl
@[simp] theorem State.report_slots (s : State) (r : CourierRec) : (s.report r).slots = s.slots := rfl
@[simp] theorem State.report_cores (s : State) (r : CourierRec) : (s.report r).cores = s.cores := rfl
@[simp] theorem State.report_clusters (s : State) (r : CourierRec) : (s.report r).clusters = s.clusters := rfl
@[simp] theorem State.report_towers (s : State) (r : CourierRec) : (s.report r).towers = s.towers := rfl
@[simp] theorem State.report_spaces (s : State) (r : CourierRec) : (s.report r).spaces = s.spaces := rfl
@[simp] theorem State.report_mem (s : State) (r : CourierRec) : (s.report r).mem = s.mem := rfl
@[simp] theorem State.report_poison (s : State) (r : CourierRec) : (s.report r).poison = s.poison := rfl
@[simp] theorem State.report_tlb (s : State) (r : CourierRec) : (s.report r).tlb = s.tlb := rfl
@[simp] theorem State.report_l2 (s : State) (r : CourierRec) : (s.report r).l2 = s.l2 := rfl
@[simp] theorem State.report_rdc (s : State) (r : CourierRec) : (s.report r).rdc = s.rdc := rfl
@[simp] theorem State.report_msc (s : State) (r : CourierRec) : (s.report r).msc = s.msc := rfl
@[simp] theorem State.report_misses (s : State) (r : CourierRec) : (s.report r).misses = s.misses := rfl
@[simp] theorem State.report_pins (s : State) (r : CourierRec) : (s.report r).pins = s.pins := rfl
@[simp] theorem State.report_reqs (s : State) (r : CourierRec) : (s.report r).reqs = s.reqs := rfl
@[simp] theorem State.report_anns (s : State) (r : CourierRec) : (s.report r).anns = s.anns := rfl
@[simp] theorem State.report_watches (s : State) (r : CourierRec) : (s.report r).watches = s.watches := rfl
@[simp] theorem State.report_monitors (s : State) (r : CourierRec) : (s.report r).monitors = s.monitors := rfl
@[simp] theorem State.report_stallFrames (s : State) (r : CourierRec) : (s.report r).stallFrames = s.stallFrames := rfl
@[simp] theorem State.report_shoots (s : State) (r : CourierRec) : (s.report r).shoots = s.shoots := rfl
@[simp] theorem State.report_gated (s : State) (r : CourierRec) : (s.report r).gated = s.gated := rfl
@[simp] theorem State.report_stale (s : State) (r : CourierRec) : (s.report r).stale = s.stale := rfl
@[simp] theorem State.report_routed (s : State) (r : CourierRec) : (s.report r).routed = s.routed := rfl
@[simp] theorem State.report_deadSlices (s : State) (r : CourierRec) : (s.report r).deadSlices = s.deadSlices := rfl
@[simp] theorem State.report_alloc (s : State) (r : CourierRec) : (s.report r).alloc = s.alloc := rfl
@[simp] theorem State.report_bars (s : State) (r : CourierRec) : (s.report r).bars = s.bars := rfl
@[simp] theorem State.report_boxes (s : State) (r : CourierRec) : (s.report r).boxes = s.boxes := rfl
@[simp] theorem State.report_counters (s : State) (r : CourierRec) : (s.report r).counters = s.counters := rfl
@[simp] theorem State.report_profile (s : State) (r : CourierRec) : (s.report r).profile = s.profile := rfl
@[simp] theorem State.report_acc (s : State) (r : CourierRec) : (s.report r).acc = s.acc := rfl
@[simp] theorem State.report_accPoison (s : State) (r : CourierRec) : (s.report r).accPoison = s.accPoison := rfl
@[simp] theorem State.report_tileOwner (s : State) (r : CourierRec) : (s.report r).tileOwner = s.tileOwner := rfl
@[simp] theorem State.report_bstore (s : State) (r : CourierRec) : (s.report r).bstore = s.bstore := rfl
@[simp] theorem State.report_bstorePoison (s : State) (r : CourierRec) : (s.report r).bstorePoison = s.bstorePoison := rfl
@[simp] theorem State.report_mcmds (s : State) (r : CourierRec) : (s.report r).mcmds = s.mcmds := rfl
@[simp] theorem State.report_ecmds (s : State) (r : CourierRec) : (s.report r).ecmds = s.ecmds := rfl
@[simp] theorem State.report_msgs (s : State) (r : CourierRec) : (s.report r).msgs = s.msgs := rfl
@[simp] theorem State.report_held (s : State) (r : CourierRec) : (s.report r).held = s.held := rfl
@[simp] theorem State.report_windows (s : State) (r : CourierRec) : (s.report r).windows = s.windows := rfl
@[simp] theorem State.report_units (s : State) (r : CourierRec) : (s.report r).units = s.units := rfl
@[simp] theorem State.report_launches (s : State) (r : CourierRec) : (s.report r).launches = s.launches := rfl
@[simp] theorem State.report_triggers (s : State) (r : CourierRec) : (s.report r).triggers = s.triggers := rfl
@[simp] theorem State.report_partials (s : State) (r : CourierRec) : (s.report r).partials = s.partials := rfl
@[simp] theorem State.report_groups (s : State) (r : CourierRec) : (s.report r).groups = s.groups := rfl
@[simp] theorem State.report_reserved (s : State) (r : CourierRec) : (s.report r).reserved = s.reserved := rfl
@[simp] theorem State.report_suspended (s : State) (r : CourierRec) : (s.report r).suspended = s.suspended := rfl
@[simp] theorem State.report_backing (s : State) (r : CourierRec) : (s.report r).backing = s.backing := rfl
@[simp] theorem State.report_rings (s : State) (r : CourierRec) : (s.report r).rings = s.rings := rfl
@[simp] theorem State.report_packets (s : State) (r : CourierRec) : (s.report r).packets = s.packets := rfl
@[simp] theorem State.report_phase (s : State) (r : CourierRec) : (s.report r).phase = s.phase := rfl
@[simp] theorem State.report_failCode (s : State) (r : CourierRec) : (s.report r).failCode = s.failCode := rfl
@[simp] theorem State.report_stretch (s : State) (r : CourierRec) : (s.report r).stretch = s.stretch := rfl
@[simp] theorem State.report_mbox (s : State) (r : CourierRec) : (s.report r).mbox = s.mbox := rfl
@[simp] theorem State.report_mboxBusy (s : State) (r : CourierRec) : (s.report r).mboxBusy = s.mboxBusy := rfl
@[simp] theorem State.report_mboxSd (s : State) (r : CourierRec) : (s.report r).mboxSd = s.mboxSd := rfl
@[simp] theorem State.report_msix (s : State) (r : CourierRec) : (s.report r).msix = s.msix := rfl
@[simp] theorem State.report_msixPending (s : State) (r : CourierRec) : (s.report r).msixPending = s.msixPending := rfl
@[simp] theorem State.report_aperture (s : State) (r : CourierRec) : (s.report r).aperture = s.aperture := rfl
@[simp] theorem State.report_lastRing (s : State) (r : CourierRec) : (s.report r).lastRing = s.lastRing := rfl
@[simp] theorem State.report_enumTab (s : State) (r : CourierRec) : (s.report r).enumTab = s.enumTab := rfl
@[simp] theorem State.report_dies (s : State) (r : CourierRec) : (s.report r).dies = s.dies := rfl
@[simp] theorem State.report_links (s : State) (r : CourierRec) : (s.report r).links = s.links := rfl
@[simp] theorem State.report_grade (s : State) (r : CourierRec) : (s.report r).grade = s.grade := rfl
@[simp] theorem State.report_bar0 (s : State) (r : CourierRec) : (s.report r).bar0 = s.bar0 := rfl
@[simp] theorem State.report_hostIn (s : State) (r : CourierRec) : (s.report r).hostIn = s.hostIn := rfl
@[simp] theorem State.report_raised (s : State) (r : CourierRec) : (s.report r).raised = s.raised := rfl
@[simp] theorem State.report_turns (s : State) (r : CourierRec) : (s.report r).turns = s.turns := rfl
@[simp] theorem State.report_ticks (s : State) (r : CourierRec) : (s.report r).ticks = s.ticks := rfl
@[simp] theorem State.report_nextId (s : State) (r : CourierRec) : (s.report r).nextId = s.nextId := rfl
@[simp] theorem State.report_free (s : State) (r : CourierRec) : (s.report r).free = s.free := rfl
@[simp] theorem State.report_boots (s : State) (r : CourierRec) : (s.report r).boots = s.boots := rfl

@[simp] theorem State.setTower_me (s : State) (t : Nat) (x : Tower) : (s.setTower t x).me = s.me := rfl
@[simp] theorem State.setTower_cur (s : State) (t : Nat) (x : Tower) : (s.setTower t x).cur = s.cur := rfl
@[simp] theorem State.setTower_slots (s : State) (t : Nat) (x : Tower) : (s.setTower t x).slots = s.slots := rfl
@[simp] theorem State.setTower_cores (s : State) (t : Nat) (x : Tower) : (s.setTower t x).cores = s.cores := rfl
@[simp] theorem State.setTower_clusters (s : State) (t : Nat) (x : Tower) : (s.setTower t x).clusters = s.clusters := rfl
@[simp] theorem State.setTower_spaces (s : State) (t : Nat) (x : Tower) : (s.setTower t x).spaces = s.spaces := rfl
@[simp] theorem State.setTower_mem (s : State) (t : Nat) (x : Tower) : (s.setTower t x).mem = s.mem := rfl
@[simp] theorem State.setTower_poison (s : State) (t : Nat) (x : Tower) : (s.setTower t x).poison = s.poison := rfl
@[simp] theorem State.setTower_tlb (s : State) (t : Nat) (x : Tower) : (s.setTower t x).tlb = s.tlb := rfl
@[simp] theorem State.setTower_l2 (s : State) (t : Nat) (x : Tower) : (s.setTower t x).l2 = s.l2 := rfl
@[simp] theorem State.setTower_rdc (s : State) (t : Nat) (x : Tower) : (s.setTower t x).rdc = s.rdc := rfl
@[simp] theorem State.setTower_msc (s : State) (t : Nat) (x : Tower) : (s.setTower t x).msc = s.msc := rfl
@[simp] theorem State.setTower_misses (s : State) (t : Nat) (x : Tower) : (s.setTower t x).misses = s.misses := rfl
@[simp] theorem State.setTower_pins (s : State) (t : Nat) (x : Tower) : (s.setTower t x).pins = s.pins := rfl
@[simp] theorem State.setTower_reqs (s : State) (t : Nat) (x : Tower) : (s.setTower t x).reqs = s.reqs := rfl
@[simp] theorem State.setTower_anns (s : State) (t : Nat) (x : Tower) : (s.setTower t x).anns = s.anns := rfl
@[simp] theorem State.setTower_watches (s : State) (t : Nat) (x : Tower) : (s.setTower t x).watches = s.watches := rfl
@[simp] theorem State.setTower_monitors (s : State) (t : Nat) (x : Tower) : (s.setTower t x).monitors = s.monitors := rfl
@[simp] theorem State.setTower_stallFrames (s : State) (t : Nat) (x : Tower) : (s.setTower t x).stallFrames = s.stallFrames := rfl
@[simp] theorem State.setTower_shoots (s : State) (t : Nat) (x : Tower) : (s.setTower t x).shoots = s.shoots := rfl
@[simp] theorem State.setTower_gated (s : State) (t : Nat) (x : Tower) : (s.setTower t x).gated = s.gated := rfl
@[simp] theorem State.setTower_stale (s : State) (t : Nat) (x : Tower) : (s.setTower t x).stale = s.stale := rfl
@[simp] theorem State.setTower_routed (s : State) (t : Nat) (x : Tower) : (s.setTower t x).routed = s.routed := rfl
@[simp] theorem State.setTower_deadSlices (s : State) (t : Nat) (x : Tower) : (s.setTower t x).deadSlices = s.deadSlices := rfl
@[simp] theorem State.setTower_courier (s : State) (t : Nat) (x : Tower) : (s.setTower t x).courier = s.courier := rfl
@[simp] theorem State.setTower_alloc (s : State) (t : Nat) (x : Tower) : (s.setTower t x).alloc = s.alloc := rfl
@[simp] theorem State.setTower_bars (s : State) (t : Nat) (x : Tower) : (s.setTower t x).bars = s.bars := rfl
@[simp] theorem State.setTower_boxes (s : State) (t : Nat) (x : Tower) : (s.setTower t x).boxes = s.boxes := rfl
@[simp] theorem State.setTower_counters (s : State) (t : Nat) (x : Tower) : (s.setTower t x).counters = s.counters := rfl
@[simp] theorem State.setTower_profile (s : State) (t : Nat) (x : Tower) : (s.setTower t x).profile = s.profile := rfl
@[simp] theorem State.setTower_acc (s : State) (t : Nat) (x : Tower) : (s.setTower t x).acc = s.acc := rfl
@[simp] theorem State.setTower_accPoison (s : State) (t : Nat) (x : Tower) : (s.setTower t x).accPoison = s.accPoison := rfl
@[simp] theorem State.setTower_tileOwner (s : State) (t : Nat) (x : Tower) : (s.setTower t x).tileOwner = s.tileOwner := rfl
@[simp] theorem State.setTower_bstore (s : State) (t : Nat) (x : Tower) : (s.setTower t x).bstore = s.bstore := rfl
@[simp] theorem State.setTower_bstorePoison (s : State) (t : Nat) (x : Tower) : (s.setTower t x).bstorePoison = s.bstorePoison := rfl
@[simp] theorem State.setTower_mcmds (s : State) (t : Nat) (x : Tower) : (s.setTower t x).mcmds = s.mcmds := rfl
@[simp] theorem State.setTower_ecmds (s : State) (t : Nat) (x : Tower) : (s.setTower t x).ecmds = s.ecmds := rfl
@[simp] theorem State.setTower_msgs (s : State) (t : Nat) (x : Tower) : (s.setTower t x).msgs = s.msgs := rfl
@[simp] theorem State.setTower_held (s : State) (t : Nat) (x : Tower) : (s.setTower t x).held = s.held := rfl
@[simp] theorem State.setTower_windows (s : State) (t : Nat) (x : Tower) : (s.setTower t x).windows = s.windows := rfl
@[simp] theorem State.setTower_units (s : State) (t : Nat) (x : Tower) : (s.setTower t x).units = s.units := rfl
@[simp] theorem State.setTower_launches (s : State) (t : Nat) (x : Tower) : (s.setTower t x).launches = s.launches := rfl
@[simp] theorem State.setTower_triggers (s : State) (t : Nat) (x : Tower) : (s.setTower t x).triggers = s.triggers := rfl
@[simp] theorem State.setTower_partials (s : State) (t : Nat) (x : Tower) : (s.setTower t x).partials = s.partials := rfl
@[simp] theorem State.setTower_groups (s : State) (t : Nat) (x : Tower) : (s.setTower t x).groups = s.groups := rfl
@[simp] theorem State.setTower_reserved (s : State) (t : Nat) (x : Tower) : (s.setTower t x).reserved = s.reserved := rfl
@[simp] theorem State.setTower_suspended (s : State) (t : Nat) (x : Tower) : (s.setTower t x).suspended = s.suspended := rfl
@[simp] theorem State.setTower_backing (s : State) (t : Nat) (x : Tower) : (s.setTower t x).backing = s.backing := rfl
@[simp] theorem State.setTower_rings (s : State) (t : Nat) (x : Tower) : (s.setTower t x).rings = s.rings := rfl
@[simp] theorem State.setTower_packets (s : State) (t : Nat) (x : Tower) : (s.setTower t x).packets = s.packets := rfl
@[simp] theorem State.setTower_phase (s : State) (t : Nat) (x : Tower) : (s.setTower t x).phase = s.phase := rfl
@[simp] theorem State.setTower_failCode (s : State) (t : Nat) (x : Tower) : (s.setTower t x).failCode = s.failCode := rfl
@[simp] theorem State.setTower_stretch (s : State) (t : Nat) (x : Tower) : (s.setTower t x).stretch = s.stretch := rfl
@[simp] theorem State.setTower_mbox (s : State) (t : Nat) (x : Tower) : (s.setTower t x).mbox = s.mbox := rfl
@[simp] theorem State.setTower_mboxBusy (s : State) (t : Nat) (x : Tower) : (s.setTower t x).mboxBusy = s.mboxBusy := rfl
@[simp] theorem State.setTower_mboxSd (s : State) (t : Nat) (x : Tower) : (s.setTower t x).mboxSd = s.mboxSd := rfl
@[simp] theorem State.setTower_msix (s : State) (t : Nat) (x : Tower) : (s.setTower t x).msix = s.msix := rfl
@[simp] theorem State.setTower_msixPending (s : State) (t : Nat) (x : Tower) : (s.setTower t x).msixPending = s.msixPending := rfl
@[simp] theorem State.setTower_aperture (s : State) (t : Nat) (x : Tower) : (s.setTower t x).aperture = s.aperture := rfl
@[simp] theorem State.setTower_lastRing (s : State) (t : Nat) (x : Tower) : (s.setTower t x).lastRing = s.lastRing := rfl
@[simp] theorem State.setTower_enumTab (s : State) (t : Nat) (x : Tower) : (s.setTower t x).enumTab = s.enumTab := rfl
@[simp] theorem State.setTower_dies (s : State) (t : Nat) (x : Tower) : (s.setTower t x).dies = s.dies := rfl
@[simp] theorem State.setTower_links (s : State) (t : Nat) (x : Tower) : (s.setTower t x).links = s.links := rfl
@[simp] theorem State.setTower_grade (s : State) (t : Nat) (x : Tower) : (s.setTower t x).grade = s.grade := rfl
@[simp] theorem State.setTower_bar0 (s : State) (t : Nat) (x : Tower) : (s.setTower t x).bar0 = s.bar0 := rfl
@[simp] theorem State.setTower_hostIn (s : State) (t : Nat) (x : Tower) : (s.setTower t x).hostIn = s.hostIn := rfl
@[simp] theorem State.setTower_raised (s : State) (t : Nat) (x : Tower) : (s.setTower t x).raised = s.raised := rfl
@[simp] theorem State.setTower_turns (s : State) (t : Nat) (x : Tower) : (s.setTower t x).turns = s.turns := rfl
@[simp] theorem State.setTower_ticks (s : State) (t : Nat) (x : Tower) : (s.setTower t x).ticks = s.ticks := rfl
@[simp] theorem State.setTower_nextId (s : State) (t : Nat) (x : Tower) : (s.setTower t x).nextId = s.nextId := rfl
@[simp] theorem State.setTower_free (s : State) (t : Nat) (x : Tower) : (s.setTower t x).free = s.free := rfl
@[simp] theorem State.setTower_boots (s : State) (t : Nat) (x : Tower) : (s.setTower t x).boots = s.boots := rfl

@[simp] theorem State.setCore_me (s : State) (c : Nat) (x : Core) : (s.setCore c x).me = s.me := rfl
@[simp] theorem State.setCore_cur (s : State) (c : Nat) (x : Core) : (s.setCore c x).cur = s.cur := rfl
@[simp] theorem State.setCore_slots (s : State) (c : Nat) (x : Core) : (s.setCore c x).slots = s.slots := rfl
@[simp] theorem State.setCore_clusters (s : State) (c : Nat) (x : Core) : (s.setCore c x).clusters = s.clusters := rfl
@[simp] theorem State.setCore_towers (s : State) (c : Nat) (x : Core) : (s.setCore c x).towers = s.towers := rfl
@[simp] theorem State.setCore_spaces (s : State) (c : Nat) (x : Core) : (s.setCore c x).spaces = s.spaces := rfl
@[simp] theorem State.setCore_mem (s : State) (c : Nat) (x : Core) : (s.setCore c x).mem = s.mem := rfl
@[simp] theorem State.setCore_poison (s : State) (c : Nat) (x : Core) : (s.setCore c x).poison = s.poison := rfl
@[simp] theorem State.setCore_tlb (s : State) (c : Nat) (x : Core) : (s.setCore c x).tlb = s.tlb := rfl
@[simp] theorem State.setCore_l2 (s : State) (c : Nat) (x : Core) : (s.setCore c x).l2 = s.l2 := rfl
@[simp] theorem State.setCore_rdc (s : State) (c : Nat) (x : Core) : (s.setCore c x).rdc = s.rdc := rfl
@[simp] theorem State.setCore_msc (s : State) (c : Nat) (x : Core) : (s.setCore c x).msc = s.msc := rfl
@[simp] theorem State.setCore_misses (s : State) (c : Nat) (x : Core) : (s.setCore c x).misses = s.misses := rfl
@[simp] theorem State.setCore_pins (s : State) (c : Nat) (x : Core) : (s.setCore c x).pins = s.pins := rfl
@[simp] theorem State.setCore_reqs (s : State) (c : Nat) (x : Core) : (s.setCore c x).reqs = s.reqs := rfl
@[simp] theorem State.setCore_anns (s : State) (c : Nat) (x : Core) : (s.setCore c x).anns = s.anns := rfl
@[simp] theorem State.setCore_watches (s : State) (c : Nat) (x : Core) : (s.setCore c x).watches = s.watches := rfl
@[simp] theorem State.setCore_monitors (s : State) (c : Nat) (x : Core) : (s.setCore c x).monitors = s.monitors := rfl
@[simp] theorem State.setCore_stallFrames (s : State) (c : Nat) (x : Core) : (s.setCore c x).stallFrames = s.stallFrames := rfl
@[simp] theorem State.setCore_shoots (s : State) (c : Nat) (x : Core) : (s.setCore c x).shoots = s.shoots := rfl
@[simp] theorem State.setCore_gated (s : State) (c : Nat) (x : Core) : (s.setCore c x).gated = s.gated := rfl
@[simp] theorem State.setCore_stale (s : State) (c : Nat) (x : Core) : (s.setCore c x).stale = s.stale := rfl
@[simp] theorem State.setCore_routed (s : State) (c : Nat) (x : Core) : (s.setCore c x).routed = s.routed := rfl
@[simp] theorem State.setCore_deadSlices (s : State) (c : Nat) (x : Core) : (s.setCore c x).deadSlices = s.deadSlices := rfl
@[simp] theorem State.setCore_courier (s : State) (c : Nat) (x : Core) : (s.setCore c x).courier = s.courier := rfl
@[simp] theorem State.setCore_alloc (s : State) (c : Nat) (x : Core) : (s.setCore c x).alloc = s.alloc := rfl
@[simp] theorem State.setCore_bars (s : State) (c : Nat) (x : Core) : (s.setCore c x).bars = s.bars := rfl
@[simp] theorem State.setCore_boxes (s : State) (c : Nat) (x : Core) : (s.setCore c x).boxes = s.boxes := rfl
@[simp] theorem State.setCore_counters (s : State) (c : Nat) (x : Core) : (s.setCore c x).counters = s.counters := rfl
@[simp] theorem State.setCore_profile (s : State) (c : Nat) (x : Core) : (s.setCore c x).profile = s.profile := rfl
@[simp] theorem State.setCore_acc (s : State) (c : Nat) (x : Core) : (s.setCore c x).acc = s.acc := rfl
@[simp] theorem State.setCore_accPoison (s : State) (c : Nat) (x : Core) : (s.setCore c x).accPoison = s.accPoison := rfl
@[simp] theorem State.setCore_tileOwner (s : State) (c : Nat) (x : Core) : (s.setCore c x).tileOwner = s.tileOwner := rfl
@[simp] theorem State.setCore_bstore (s : State) (c : Nat) (x : Core) : (s.setCore c x).bstore = s.bstore := rfl
@[simp] theorem State.setCore_bstorePoison (s : State) (c : Nat) (x : Core) : (s.setCore c x).bstorePoison = s.bstorePoison := rfl
@[simp] theorem State.setCore_mcmds (s : State) (c : Nat) (x : Core) : (s.setCore c x).mcmds = s.mcmds := rfl
@[simp] theorem State.setCore_ecmds (s : State) (c : Nat) (x : Core) : (s.setCore c x).ecmds = s.ecmds := rfl
@[simp] theorem State.setCore_msgs (s : State) (c : Nat) (x : Core) : (s.setCore c x).msgs = s.msgs := rfl
@[simp] theorem State.setCore_held (s : State) (c : Nat) (x : Core) : (s.setCore c x).held = s.held := rfl
@[simp] theorem State.setCore_windows (s : State) (c : Nat) (x : Core) : (s.setCore c x).windows = s.windows := rfl
@[simp] theorem State.setCore_units (s : State) (c : Nat) (x : Core) : (s.setCore c x).units = s.units := rfl
@[simp] theorem State.setCore_launches (s : State) (c : Nat) (x : Core) : (s.setCore c x).launches = s.launches := rfl
@[simp] theorem State.setCore_triggers (s : State) (c : Nat) (x : Core) : (s.setCore c x).triggers = s.triggers := rfl
@[simp] theorem State.setCore_partials (s : State) (c : Nat) (x : Core) : (s.setCore c x).partials = s.partials := rfl
@[simp] theorem State.setCore_groups (s : State) (c : Nat) (x : Core) : (s.setCore c x).groups = s.groups := rfl
@[simp] theorem State.setCore_reserved (s : State) (c : Nat) (x : Core) : (s.setCore c x).reserved = s.reserved := rfl
@[simp] theorem State.setCore_suspended (s : State) (c : Nat) (x : Core) : (s.setCore c x).suspended = s.suspended := rfl
@[simp] theorem State.setCore_backing (s : State) (c : Nat) (x : Core) : (s.setCore c x).backing = s.backing := rfl
@[simp] theorem State.setCore_rings (s : State) (c : Nat) (x : Core) : (s.setCore c x).rings = s.rings := rfl
@[simp] theorem State.setCore_packets (s : State) (c : Nat) (x : Core) : (s.setCore c x).packets = s.packets := rfl
@[simp] theorem State.setCore_phase (s : State) (c : Nat) (x : Core) : (s.setCore c x).phase = s.phase := rfl
@[simp] theorem State.setCore_failCode (s : State) (c : Nat) (x : Core) : (s.setCore c x).failCode = s.failCode := rfl
@[simp] theorem State.setCore_stretch (s : State) (c : Nat) (x : Core) : (s.setCore c x).stretch = s.stretch := rfl
@[simp] theorem State.setCore_mbox (s : State) (c : Nat) (x : Core) : (s.setCore c x).mbox = s.mbox := rfl
@[simp] theorem State.setCore_mboxBusy (s : State) (c : Nat) (x : Core) : (s.setCore c x).mboxBusy = s.mboxBusy := rfl
@[simp] theorem State.setCore_mboxSd (s : State) (c : Nat) (x : Core) : (s.setCore c x).mboxSd = s.mboxSd := rfl
@[simp] theorem State.setCore_msix (s : State) (c : Nat) (x : Core) : (s.setCore c x).msix = s.msix := rfl
@[simp] theorem State.setCore_msixPending (s : State) (c : Nat) (x : Core) : (s.setCore c x).msixPending = s.msixPending := rfl
@[simp] theorem State.setCore_aperture (s : State) (c : Nat) (x : Core) : (s.setCore c x).aperture = s.aperture := rfl
@[simp] theorem State.setCore_lastRing (s : State) (c : Nat) (x : Core) : (s.setCore c x).lastRing = s.lastRing := rfl
@[simp] theorem State.setCore_enumTab (s : State) (c : Nat) (x : Core) : (s.setCore c x).enumTab = s.enumTab := rfl
@[simp] theorem State.setCore_dies (s : State) (c : Nat) (x : Core) : (s.setCore c x).dies = s.dies := rfl
@[simp] theorem State.setCore_links (s : State) (c : Nat) (x : Core) : (s.setCore c x).links = s.links := rfl
@[simp] theorem State.setCore_grade (s : State) (c : Nat) (x : Core) : (s.setCore c x).grade = s.grade := rfl
@[simp] theorem State.setCore_bar0 (s : State) (c : Nat) (x : Core) : (s.setCore c x).bar0 = s.bar0 := rfl
@[simp] theorem State.setCore_hostIn (s : State) (c : Nat) (x : Core) : (s.setCore c x).hostIn = s.hostIn := rfl
@[simp] theorem State.setCore_raised (s : State) (c : Nat) (x : Core) : (s.setCore c x).raised = s.raised := rfl
@[simp] theorem State.setCore_turns (s : State) (c : Nat) (x : Core) : (s.setCore c x).turns = s.turns := rfl
@[simp] theorem State.setCore_ticks (s : State) (c : Nat) (x : Core) : (s.setCore c x).ticks = s.ticks := rfl
@[simp] theorem State.setCore_nextId (s : State) (c : Nat) (x : Core) : (s.setCore c x).nextId = s.nextId := rfl
@[simp] theorem State.setCore_free (s : State) (c : Nat) (x : Core) : (s.setCore c x).free = s.free := rfl
@[simp] theorem State.setCore_boots (s : State) (c : Nat) (x : Core) : (s.setCore c x).boots = s.boots := rfl

@[simp] theorem State.setCluster_me (s : State) (c : Nat) (x : Cluster) : (s.setCluster c x).me = s.me := rfl
@[simp] theorem State.setCluster_cur (s : State) (c : Nat) (x : Cluster) : (s.setCluster c x).cur = s.cur := rfl
@[simp] theorem State.setCluster_slots (s : State) (c : Nat) (x : Cluster) : (s.setCluster c x).slots = s.slots := rfl
@[simp] theorem State.setCluster_cores (s : State) (c : Nat) (x : Cluster) : (s.setCluster c x).cores = s.cores := rfl
@[simp] theorem State.setCluster_towers (s : State) (c : Nat) (x : Cluster) : (s.setCluster c x).towers = s.towers := rfl
@[simp] theorem State.setCluster_spaces (s : State) (c : Nat) (x : Cluster) : (s.setCluster c x).spaces = s.spaces := rfl
@[simp] theorem State.setCluster_mem (s : State) (c : Nat) (x : Cluster) : (s.setCluster c x).mem = s.mem := rfl
@[simp] theorem State.setCluster_poison (s : State) (c : Nat) (x : Cluster) : (s.setCluster c x).poison = s.poison := rfl
@[simp] theorem State.setCluster_tlb (s : State) (c : Nat) (x : Cluster) : (s.setCluster c x).tlb = s.tlb := rfl
@[simp] theorem State.setCluster_l2 (s : State) (c : Nat) (x : Cluster) : (s.setCluster c x).l2 = s.l2 := rfl
@[simp] theorem State.setCluster_rdc (s : State) (c : Nat) (x : Cluster) : (s.setCluster c x).rdc = s.rdc := rfl
@[simp] theorem State.setCluster_msc (s : State) (c : Nat) (x : Cluster) : (s.setCluster c x).msc = s.msc := rfl
@[simp] theorem State.setCluster_misses (s : State) (c : Nat) (x : Cluster) : (s.setCluster c x).misses = s.misses := rfl
@[simp] theorem State.setCluster_pins (s : State) (c : Nat) (x : Cluster) : (s.setCluster c x).pins = s.pins := rfl
@[simp] theorem State.setCluster_reqs (s : State) (c : Nat) (x : Cluster) : (s.setCluster c x).reqs = s.reqs := rfl
@[simp] theorem State.setCluster_anns (s : State) (c : Nat) (x : Cluster) : (s.setCluster c x).anns = s.anns := rfl
@[simp] theorem State.setCluster_watches (s : State) (c : Nat) (x : Cluster) : (s.setCluster c x).watches = s.watches := rfl
@[simp] theorem State.setCluster_monitors (s : State) (c : Nat) (x : Cluster) : (s.setCluster c x).monitors = s.monitors := rfl
@[simp] theorem State.setCluster_stallFrames (s : State) (c : Nat) (x : Cluster) : (s.setCluster c x).stallFrames = s.stallFrames := rfl
@[simp] theorem State.setCluster_shoots (s : State) (c : Nat) (x : Cluster) : (s.setCluster c x).shoots = s.shoots := rfl
@[simp] theorem State.setCluster_gated (s : State) (c : Nat) (x : Cluster) : (s.setCluster c x).gated = s.gated := rfl
@[simp] theorem State.setCluster_stale (s : State) (c : Nat) (x : Cluster) : (s.setCluster c x).stale = s.stale := rfl
@[simp] theorem State.setCluster_routed (s : State) (c : Nat) (x : Cluster) : (s.setCluster c x).routed = s.routed := rfl
@[simp] theorem State.setCluster_deadSlices (s : State) (c : Nat) (x : Cluster) : (s.setCluster c x).deadSlices = s.deadSlices := rfl
@[simp] theorem State.setCluster_courier (s : State) (c : Nat) (x : Cluster) : (s.setCluster c x).courier = s.courier := rfl
@[simp] theorem State.setCluster_alloc (s : State) (c : Nat) (x : Cluster) : (s.setCluster c x).alloc = s.alloc := rfl
@[simp] theorem State.setCluster_bars (s : State) (c : Nat) (x : Cluster) : (s.setCluster c x).bars = s.bars := rfl
@[simp] theorem State.setCluster_boxes (s : State) (c : Nat) (x : Cluster) : (s.setCluster c x).boxes = s.boxes := rfl
@[simp] theorem State.setCluster_counters (s : State) (c : Nat) (x : Cluster) : (s.setCluster c x).counters = s.counters := rfl
@[simp] theorem State.setCluster_profile (s : State) (c : Nat) (x : Cluster) : (s.setCluster c x).profile = s.profile := rfl
@[simp] theorem State.setCluster_acc (s : State) (c : Nat) (x : Cluster) : (s.setCluster c x).acc = s.acc := rfl
@[simp] theorem State.setCluster_accPoison (s : State) (c : Nat) (x : Cluster) : (s.setCluster c x).accPoison = s.accPoison := rfl
@[simp] theorem State.setCluster_tileOwner (s : State) (c : Nat) (x : Cluster) : (s.setCluster c x).tileOwner = s.tileOwner := rfl
@[simp] theorem State.setCluster_bstore (s : State) (c : Nat) (x : Cluster) : (s.setCluster c x).bstore = s.bstore := rfl
@[simp] theorem State.setCluster_bstorePoison (s : State) (c : Nat) (x : Cluster) : (s.setCluster c x).bstorePoison = s.bstorePoison := rfl
@[simp] theorem State.setCluster_mcmds (s : State) (c : Nat) (x : Cluster) : (s.setCluster c x).mcmds = s.mcmds := rfl
@[simp] theorem State.setCluster_ecmds (s : State) (c : Nat) (x : Cluster) : (s.setCluster c x).ecmds = s.ecmds := rfl
@[simp] theorem State.setCluster_msgs (s : State) (c : Nat) (x : Cluster) : (s.setCluster c x).msgs = s.msgs := rfl
@[simp] theorem State.setCluster_held (s : State) (c : Nat) (x : Cluster) : (s.setCluster c x).held = s.held := rfl
@[simp] theorem State.setCluster_windows (s : State) (c : Nat) (x : Cluster) : (s.setCluster c x).windows = s.windows := rfl
@[simp] theorem State.setCluster_units (s : State) (c : Nat) (x : Cluster) : (s.setCluster c x).units = s.units := rfl
@[simp] theorem State.setCluster_launches (s : State) (c : Nat) (x : Cluster) : (s.setCluster c x).launches = s.launches := rfl
@[simp] theorem State.setCluster_triggers (s : State) (c : Nat) (x : Cluster) : (s.setCluster c x).triggers = s.triggers := rfl
@[simp] theorem State.setCluster_partials (s : State) (c : Nat) (x : Cluster) : (s.setCluster c x).partials = s.partials := rfl
@[simp] theorem State.setCluster_groups (s : State) (c : Nat) (x : Cluster) : (s.setCluster c x).groups = s.groups := rfl
@[simp] theorem State.setCluster_reserved (s : State) (c : Nat) (x : Cluster) : (s.setCluster c x).reserved = s.reserved := rfl
@[simp] theorem State.setCluster_suspended (s : State) (c : Nat) (x : Cluster) : (s.setCluster c x).suspended = s.suspended := rfl
@[simp] theorem State.setCluster_backing (s : State) (c : Nat) (x : Cluster) : (s.setCluster c x).backing = s.backing := rfl
@[simp] theorem State.setCluster_rings (s : State) (c : Nat) (x : Cluster) : (s.setCluster c x).rings = s.rings := rfl
@[simp] theorem State.setCluster_packets (s : State) (c : Nat) (x : Cluster) : (s.setCluster c x).packets = s.packets := rfl
@[simp] theorem State.setCluster_phase (s : State) (c : Nat) (x : Cluster) : (s.setCluster c x).phase = s.phase := rfl
@[simp] theorem State.setCluster_failCode (s : State) (c : Nat) (x : Cluster) : (s.setCluster c x).failCode = s.failCode := rfl
@[simp] theorem State.setCluster_stretch (s : State) (c : Nat) (x : Cluster) : (s.setCluster c x).stretch = s.stretch := rfl
@[simp] theorem State.setCluster_mbox (s : State) (c : Nat) (x : Cluster) : (s.setCluster c x).mbox = s.mbox := rfl
@[simp] theorem State.setCluster_mboxBusy (s : State) (c : Nat) (x : Cluster) : (s.setCluster c x).mboxBusy = s.mboxBusy := rfl
@[simp] theorem State.setCluster_mboxSd (s : State) (c : Nat) (x : Cluster) : (s.setCluster c x).mboxSd = s.mboxSd := rfl
@[simp] theorem State.setCluster_msix (s : State) (c : Nat) (x : Cluster) : (s.setCluster c x).msix = s.msix := rfl
@[simp] theorem State.setCluster_msixPending (s : State) (c : Nat) (x : Cluster) : (s.setCluster c x).msixPending = s.msixPending := rfl
@[simp] theorem State.setCluster_aperture (s : State) (c : Nat) (x : Cluster) : (s.setCluster c x).aperture = s.aperture := rfl
@[simp] theorem State.setCluster_lastRing (s : State) (c : Nat) (x : Cluster) : (s.setCluster c x).lastRing = s.lastRing := rfl
@[simp] theorem State.setCluster_enumTab (s : State) (c : Nat) (x : Cluster) : (s.setCluster c x).enumTab = s.enumTab := rfl
@[simp] theorem State.setCluster_dies (s : State) (c : Nat) (x : Cluster) : (s.setCluster c x).dies = s.dies := rfl
@[simp] theorem State.setCluster_links (s : State) (c : Nat) (x : Cluster) : (s.setCluster c x).links = s.links := rfl
@[simp] theorem State.setCluster_grade (s : State) (c : Nat) (x : Cluster) : (s.setCluster c x).grade = s.grade := rfl
@[simp] theorem State.setCluster_bar0 (s : State) (c : Nat) (x : Cluster) : (s.setCluster c x).bar0 = s.bar0 := rfl
@[simp] theorem State.setCluster_hostIn (s : State) (c : Nat) (x : Cluster) : (s.setCluster c x).hostIn = s.hostIn := rfl
@[simp] theorem State.setCluster_raised (s : State) (c : Nat) (x : Cluster) : (s.setCluster c x).raised = s.raised := rfl
@[simp] theorem State.setCluster_turns (s : State) (c : Nat) (x : Cluster) : (s.setCluster c x).turns = s.turns := rfl
@[simp] theorem State.setCluster_ticks (s : State) (c : Nat) (x : Cluster) : (s.setCluster c x).ticks = s.ticks := rfl
@[simp] theorem State.setCluster_nextId (s : State) (c : Nat) (x : Cluster) : (s.setCluster c x).nextId = s.nextId := rfl
@[simp] theorem State.setCluster_free (s : State) (c : Nat) (x : Cluster) : (s.setCluster c x).free = s.free := rfl
@[simp] theorem State.setCluster_boots (s : State) (c : Nat) (x : Cluster) : (s.setCluster c x).boots = s.boots := rfl

@[simp] theorem State.setSpace_me (s : State) (a : Nat) (x : Space) : (s.setSpace a x).me = s.me := rfl
@[simp] theorem State.setSpace_cur (s : State) (a : Nat) (x : Space) : (s.setSpace a x).cur = s.cur := rfl
@[simp] theorem State.setSpace_slots (s : State) (a : Nat) (x : Space) : (s.setSpace a x).slots = s.slots := rfl
@[simp] theorem State.setSpace_cores (s : State) (a : Nat) (x : Space) : (s.setSpace a x).cores = s.cores := rfl
@[simp] theorem State.setSpace_clusters (s : State) (a : Nat) (x : Space) : (s.setSpace a x).clusters = s.clusters := rfl
@[simp] theorem State.setSpace_towers (s : State) (a : Nat) (x : Space) : (s.setSpace a x).towers = s.towers := rfl
@[simp] theorem State.setSpace_mem (s : State) (a : Nat) (x : Space) : (s.setSpace a x).mem = s.mem := rfl
@[simp] theorem State.setSpace_poison (s : State) (a : Nat) (x : Space) : (s.setSpace a x).poison = s.poison := rfl
@[simp] theorem State.setSpace_tlb (s : State) (a : Nat) (x : Space) : (s.setSpace a x).tlb = s.tlb := rfl
@[simp] theorem State.setSpace_l2 (s : State) (a : Nat) (x : Space) : (s.setSpace a x).l2 = s.l2 := rfl
@[simp] theorem State.setSpace_rdc (s : State) (a : Nat) (x : Space) : (s.setSpace a x).rdc = s.rdc := rfl
@[simp] theorem State.setSpace_msc (s : State) (a : Nat) (x : Space) : (s.setSpace a x).msc = s.msc := rfl
@[simp] theorem State.setSpace_misses (s : State) (a : Nat) (x : Space) : (s.setSpace a x).misses = s.misses := rfl
@[simp] theorem State.setSpace_pins (s : State) (a : Nat) (x : Space) : (s.setSpace a x).pins = s.pins := rfl
@[simp] theorem State.setSpace_reqs (s : State) (a : Nat) (x : Space) : (s.setSpace a x).reqs = s.reqs := rfl
@[simp] theorem State.setSpace_anns (s : State) (a : Nat) (x : Space) : (s.setSpace a x).anns = s.anns := rfl
@[simp] theorem State.setSpace_watches (s : State) (a : Nat) (x : Space) : (s.setSpace a x).watches = s.watches := rfl
@[simp] theorem State.setSpace_monitors (s : State) (a : Nat) (x : Space) : (s.setSpace a x).monitors = s.monitors := rfl
@[simp] theorem State.setSpace_stallFrames (s : State) (a : Nat) (x : Space) : (s.setSpace a x).stallFrames = s.stallFrames := rfl
@[simp] theorem State.setSpace_shoots (s : State) (a : Nat) (x : Space) : (s.setSpace a x).shoots = s.shoots := rfl
@[simp] theorem State.setSpace_gated (s : State) (a : Nat) (x : Space) : (s.setSpace a x).gated = s.gated := rfl
@[simp] theorem State.setSpace_stale (s : State) (a : Nat) (x : Space) : (s.setSpace a x).stale = s.stale := rfl
@[simp] theorem State.setSpace_routed (s : State) (a : Nat) (x : Space) : (s.setSpace a x).routed = s.routed := rfl
@[simp] theorem State.setSpace_deadSlices (s : State) (a : Nat) (x : Space) : (s.setSpace a x).deadSlices = s.deadSlices := rfl
@[simp] theorem State.setSpace_courier (s : State) (a : Nat) (x : Space) : (s.setSpace a x).courier = s.courier := rfl
@[simp] theorem State.setSpace_alloc (s : State) (a : Nat) (x : Space) : (s.setSpace a x).alloc = s.alloc := rfl
@[simp] theorem State.setSpace_bars (s : State) (a : Nat) (x : Space) : (s.setSpace a x).bars = s.bars := rfl
@[simp] theorem State.setSpace_boxes (s : State) (a : Nat) (x : Space) : (s.setSpace a x).boxes = s.boxes := rfl
@[simp] theorem State.setSpace_counters (s : State) (a : Nat) (x : Space) : (s.setSpace a x).counters = s.counters := rfl
@[simp] theorem State.setSpace_profile (s : State) (a : Nat) (x : Space) : (s.setSpace a x).profile = s.profile := rfl
@[simp] theorem State.setSpace_acc (s : State) (a : Nat) (x : Space) : (s.setSpace a x).acc = s.acc := rfl
@[simp] theorem State.setSpace_accPoison (s : State) (a : Nat) (x : Space) : (s.setSpace a x).accPoison = s.accPoison := rfl
@[simp] theorem State.setSpace_tileOwner (s : State) (a : Nat) (x : Space) : (s.setSpace a x).tileOwner = s.tileOwner := rfl
@[simp] theorem State.setSpace_bstore (s : State) (a : Nat) (x : Space) : (s.setSpace a x).bstore = s.bstore := rfl
@[simp] theorem State.setSpace_bstorePoison (s : State) (a : Nat) (x : Space) : (s.setSpace a x).bstorePoison = s.bstorePoison := rfl
@[simp] theorem State.setSpace_mcmds (s : State) (a : Nat) (x : Space) : (s.setSpace a x).mcmds = s.mcmds := rfl
@[simp] theorem State.setSpace_ecmds (s : State) (a : Nat) (x : Space) : (s.setSpace a x).ecmds = s.ecmds := rfl
@[simp] theorem State.setSpace_msgs (s : State) (a : Nat) (x : Space) : (s.setSpace a x).msgs = s.msgs := rfl
@[simp] theorem State.setSpace_held (s : State) (a : Nat) (x : Space) : (s.setSpace a x).held = s.held := rfl
@[simp] theorem State.setSpace_windows (s : State) (a : Nat) (x : Space) : (s.setSpace a x).windows = s.windows := rfl
@[simp] theorem State.setSpace_units (s : State) (a : Nat) (x : Space) : (s.setSpace a x).units = s.units := rfl
@[simp] theorem State.setSpace_launches (s : State) (a : Nat) (x : Space) : (s.setSpace a x).launches = s.launches := rfl
@[simp] theorem State.setSpace_triggers (s : State) (a : Nat) (x : Space) : (s.setSpace a x).triggers = s.triggers := rfl
@[simp] theorem State.setSpace_partials (s : State) (a : Nat) (x : Space) : (s.setSpace a x).partials = s.partials := rfl
@[simp] theorem State.setSpace_groups (s : State) (a : Nat) (x : Space) : (s.setSpace a x).groups = s.groups := rfl
@[simp] theorem State.setSpace_reserved (s : State) (a : Nat) (x : Space) : (s.setSpace a x).reserved = s.reserved := rfl
@[simp] theorem State.setSpace_suspended (s : State) (a : Nat) (x : Space) : (s.setSpace a x).suspended = s.suspended := rfl
@[simp] theorem State.setSpace_backing (s : State) (a : Nat) (x : Space) : (s.setSpace a x).backing = s.backing := rfl
@[simp] theorem State.setSpace_rings (s : State) (a : Nat) (x : Space) : (s.setSpace a x).rings = s.rings := rfl
@[simp] theorem State.setSpace_packets (s : State) (a : Nat) (x : Space) : (s.setSpace a x).packets = s.packets := rfl
@[simp] theorem State.setSpace_phase (s : State) (a : Nat) (x : Space) : (s.setSpace a x).phase = s.phase := rfl
@[simp] theorem State.setSpace_failCode (s : State) (a : Nat) (x : Space) : (s.setSpace a x).failCode = s.failCode := rfl
@[simp] theorem State.setSpace_stretch (s : State) (a : Nat) (x : Space) : (s.setSpace a x).stretch = s.stretch := rfl
@[simp] theorem State.setSpace_mbox (s : State) (a : Nat) (x : Space) : (s.setSpace a x).mbox = s.mbox := rfl
@[simp] theorem State.setSpace_mboxBusy (s : State) (a : Nat) (x : Space) : (s.setSpace a x).mboxBusy = s.mboxBusy := rfl
@[simp] theorem State.setSpace_mboxSd (s : State) (a : Nat) (x : Space) : (s.setSpace a x).mboxSd = s.mboxSd := rfl
@[simp] theorem State.setSpace_msix (s : State) (a : Nat) (x : Space) : (s.setSpace a x).msix = s.msix := rfl
@[simp] theorem State.setSpace_msixPending (s : State) (a : Nat) (x : Space) : (s.setSpace a x).msixPending = s.msixPending := rfl
@[simp] theorem State.setSpace_aperture (s : State) (a : Nat) (x : Space) : (s.setSpace a x).aperture = s.aperture := rfl
@[simp] theorem State.setSpace_lastRing (s : State) (a : Nat) (x : Space) : (s.setSpace a x).lastRing = s.lastRing := rfl
@[simp] theorem State.setSpace_enumTab (s : State) (a : Nat) (x : Space) : (s.setSpace a x).enumTab = s.enumTab := rfl
@[simp] theorem State.setSpace_dies (s : State) (a : Nat) (x : Space) : (s.setSpace a x).dies = s.dies := rfl
@[simp] theorem State.setSpace_links (s : State) (a : Nat) (x : Space) : (s.setSpace a x).links = s.links := rfl
@[simp] theorem State.setSpace_grade (s : State) (a : Nat) (x : Space) : (s.setSpace a x).grade = s.grade := rfl
@[simp] theorem State.setSpace_bar0 (s : State) (a : Nat) (x : Space) : (s.setSpace a x).bar0 = s.bar0 := rfl
@[simp] theorem State.setSpace_hostIn (s : State) (a : Nat) (x : Space) : (s.setSpace a x).hostIn = s.hostIn := rfl
@[simp] theorem State.setSpace_raised (s : State) (a : Nat) (x : Space) : (s.setSpace a x).raised = s.raised := rfl
@[simp] theorem State.setSpace_turns (s : State) (a : Nat) (x : Space) : (s.setSpace a x).turns = s.turns := rfl
@[simp] theorem State.setSpace_ticks (s : State) (a : Nat) (x : Space) : (s.setSpace a x).ticks = s.ticks := rfl
@[simp] theorem State.setSpace_nextId (s : State) (a : Nat) (x : Space) : (s.setSpace a x).nextId = s.nextId := rfl
@[simp] theorem State.setSpace_free (s : State) (a : Nat) (x : Space) : (s.setSpace a x).free = s.free := rfl
@[simp] theorem State.setSpace_boots (s : State) (a : Nat) (x : Space) : (s.setSpace a x).boots = s.boots := rfl

end Sys2Proof.Machine
end

