-- ==== Sys2Proof/Tests/Slice0.lean ====
section
/-! SUPPORT. Tests: ill-formed terms, words written out from the spec's encodings, small steps with results worked out from the
rules, and for each statement states and operands that meet its hypotheses. -/

open Sys2Proof Sys2Proof.Machine

namespace Sys2Proof.Tests

set_option Elab.async false

/-! ## Small states -/

/-- A task in slot 0 of core 0: tower 0, four scratch pages, every vector register, no handler. -/
def task : Ctx := { Ctx.empty with run := .running, pc := 0x40, regs := 32, scratch := 4, tid := 1 }
def base : State := { State.reset with me := task, nextId := 10 }

/-- An address register over the task's scratch, and one over global addresses up to 2 MiB. -/
def scr (ptr : Nat) : AReg := ⟨BitVec.ofNat 56 ptr, 0, 0x4000, false, true, true, true, true⟩
def glob (ptr : Nat) : AReg := ⟨BitVec.ofNat 56 ptr, 0, 0x200000, false, false, true, true, true⟩

/-- Virtual page 0 of address space 0 is device page 0, as the translation cache of the slice of `va` on tower 0 has it. -/
def mapped (s : State) (va : Nat) : State :=
  { s with tlb := s.tlb ++ [⟨0, s.sliceOf 0 va, 0, false, 0, 0, true, true, true, true⟩] }

/-- The same translation for every slice that serves one of the addresses. -/
def mappedAll (s : State) (vas : List Nat) : State :=
  { s with tlb := ((vas.map fun va => s.sliceOf 0 va).foldl sins []).map fun sl => ⟨0, sl, 0, false, 0, 0, true, true, true, true⟩ }

/-- Tests of outcomes. -/
def okAnd (r : Res α) (p : α → State → Bool) : Bool := match r with | .ok a s => p a s | .done _ => false
def engAnd (r : Eng α) (p : α → State → Bool) : Bool := match r with | .ok a s => p a s | _ => false
def okLook (r : Look) (p : Nat → State → Bool) : Bool := match r with | .ok a s => p a s | .fault _ | .denied _ => false
def gotAnd (r : Got α) (p : α → State → Bool) : Bool := match r with | .ok a s => p a s | .wait _ | .none _ => false
def isNext (o : Out) (p : State → Bool) : Bool := match o with | .next s => p s | .fault _ | .refused _ => false

/-! ## Ill-formed terms, refused encodings -/

def e0 : EFlags := ⟨2, false, false, false⟩

theorem test_wf_laneArith : (Instr.vadd .e4m3 0 0 0 0).wf = false ∧ (Instr.vneg .mk8 0 0 0).wf = false := by decide +kernel
theorem test_wf_fma : (Instr.vfma .int8 0 0 0 0).wf = false := by decide +kernel
theorem test_wf_reduce : (Instr.vrsum .uint8 0 0 0).wf = false := by decide +kernel
theorem test_wf_bitwise : (Instr.vand .fp32 0 0 0 0).wf = false := by decide +kernel
theorem test_wf_matrix : (Instr.mma e0 0 .fp32 0 (.ring 0) 0).wf = false ∧ (Instr.bld e0 false .int8 0 0 0 0).wf = false := by decide +kernel
theorem test_wf_shape : (Instr.mma e0 5 .bf16 0 (.ring 0) 0).wf = false ∧ (Instr.mmaRg e0 7 .fp16 0 0 0).wf = false := by decide +kernel
theorem test_wf_astDst : (Instr.ast e0 false .int32 .rne 0 0 0 0).wf = false := by decide +kernel

/-- A word that R41 rejects, with its information word. -/
def rejects (w w1 : IWord) (info : Word) : Bool := match decode w w1 with | .ok _ => false | .error r => decide (r.info = info)

theorem test_reject_majors :
    [0x0B, 0x0F, 0x16, 0x17, 0x1F, 0x2B, 0x2F, 0x35, 0x3F].all (fun m => rejects (BitVec.ofNat 32 (m * 2 ^ 26)) 0 (BitVec.ofNat 64 (m * 2 ^ 26))) =
      true := by decide +kernel
theorem test_reject_values :
    (rejects 0x0000001A 0 0x0000001A && rejects 0x40000007 0 0x40000007 && rejects 0x140000C0 0 0x140000C0 && rejects 0x62400000 0 0x62400000 &&
      rejects 0x80000009 0 0x80000009 && rejects 0x94000050 0 0x94000050 && rejects 0x4800000D 0 0x4800000D && rejects 0x4C000009 0 0x4C000009 &&
      rejects 0x50000010 0 0x50000010 && rejects 0xF0001800 0 0xF0001800) = true := by decide +kernel
theorem test_reject_matrix :
    (rejects 0xD8000001 0x00A00000 0x00A00000D8000001 && rejects 0xD8000031 0 0xD8000031 && rejects 0xD8000000 0 0xD8000000) = true := by
  decide +kernel
theorem test_reserved_bits_ignored : decode 0x60070001 0 = .ok (.bra 1) := by decide +kernel
theorem test_reserved_field_clz : decode 0x00908E17 0 = .ok (.clz 9 2) ∧ decode 0x00908017 0 = .ok (.clz 9 2) := by decide +kernel

/-! ## Words of every instruction, written out by R28's layouts and R38-R40's tables -/

def allDecode (l : List (IWord × IWord × Instr)) : Bool := l.all fun p => decide (decode p.1 p.2.1 = .ok p.2.2)

theorem test_words_major00 : allDecode [
    (0x00108300, 0x00000000, .add 1 2 3),
    (0x0020C401, 0x00000000, .sub 2 3 4),
    (0x00310502, 0x00000000, .and 3 4 5),
    (0x00414603, 0x00000000, .or 4 5 6),
    (0x00518704, 0x00000000, .xor 5 6 7),
    (0x0061C805, 0x00000000, .sll 6 7 8),
    (0x00720906, 0x00000000, .srl 7 8 9),
    (0x00824A07, 0x00000000, .sra 8 9 10),
    (0x00928B08, 0x00000000, .mul 9 10 11),
    (0x00A2CC09, 0x00000000, .mulh 10 11 12),
    (0x00B30D0A, 0x00000000, .mulhu 11 12 13),
    (0x00C34E0B, 0x00000000, .div 12 13 14),
    (0x00D38F0C, 0x00000000, .divu 13 14 15),
    (0x00E3D00D, 0x00000000, .rem 14 15 16),
    (0x00F4110E, 0x00000000, .remu 15 16 17),
    (0x0104520F, 0x00000000, .min 16 17 18),
    (0x01149310, 0x00000000, .max 17 18 19),
    (0x0124D411, 0x00000000, .minu 18 19 20),
    (0x01351512, 0x00000000, .maxu 19 20 21),
    (0x01455613, 0x00000000, .seq 20 21 22),
    (0x01559714, 0x00000000, .sne 21 22 23),
    (0x0165D815, 0x00000000, .slt 22 23 24),
    (0x01761916, 0x00000000, .sltu 23 24 25),
    (0x00928017, 0x00000000, .clz 9 10),
    (0x00928018, 0x00000000, .ctz 9 10),
    (0x00928019, 0x00000000, .popc 9 10)] = true := by decide +kernel
theorem test_words_immediates : allDecode [
    (0x04313FFF, 0x00000000, .addi 3 4 0x3FFF),
    (0x08312001, 0x00000000, .andi 3 4 0x2001),
    (0x0C519234, 0x00000000, .ori 5 6 0x1234),
    (0x13FF8001, 0x00000000, .xori 63 62 1),
    (0x1410803F, 0x00000000, .slli 1 2 63),
    (0x14108045, 0x00000000, .srli 1 2 5),
    (0x14108087, 0x00000000, .srai 1 2 7),
    (0x18826000, 0x00000000, .slti 8 9 0x2000),
    (0x1C82404D, 0x00000000, .sltiu 8 9 77),
    (0x22180001, 0x00000000, .lui 33 0x80001)] = true := by decide +kernel
theorem test_words_address : allDecode [
    (0x24108000, 0x00000000, .amov 1 2),
    (0x24310501, 0x00000000, .aset 3 4 5),
    (0x2461C002, 0x00000000, .asetl 6 7),
    (0x24824003, 0x00000000, .aperm 8 9),
    (0x24A2C004, 0x00000000, .aadv 10 11),
    (0x24C34005, 0x00000000, .aget 12 13),
    (0x24E3C006, 0x00000000, .agetb 14 15),
    (0x25004007, 0x00000000, .agetl 16 1),
    (0x25108008, 0x00000000, .agetp 17 2),
    (0x28313FF8, 0x00000000, .aaddi 3 4 0x3FF8)] = true := by decide +kernel
theorem test_words_loads_stores : allDecode [
    (0x41417FF8, 0x00000000, .ldB 20 5 0x7FF),
    (0x41417FF9, 0x00000000, .ldH 20 5 0x7FF),
    (0x41417FFA, 0x00000000, .ldW 20 5 0x7FF),
    (0x41417FFB, 0x00000000, .ldD 20 5 0x7FF),
    (0x41417FFC, 0x00000000, .ldBu 20 5 0x7FF),
    (0x41417FFD, 0x00000000, .ldHu 20 5 0x7FF),
    (0x41417FFE, 0x00000000, .ldWu 20 5 0x7FF),
    (0x4551A00C, 0x00000000, .stB true 21 6 0x401),
    (0x4551A009, 0x00000000, .stH false 21 6 0x401),
    (0x4551A00E, 0x00000000, .stW true 21 6 0x401),
    (0x4551A00B, 0x00000000, .stD false 21 6 0x401)] = true := by decide +kernel
theorem test_words_atomics : allDecode [
    (0x4870C900, 0x00000000, .amoAdd 0 false false 7 3 9),
    (0x4870C961, 0x00000000, .amoAnd 1 true false 7 3 9),
    (0x4870C992, 0x00000000, .amoOr 2 false true 7 3 9),
    (0x4870C9F3, 0x00000000, .amoXor 3 true true 7 3 9),
    (0x4870C904, 0x00000000, .amoMin 0 false false 7 3 9),
    (0x4870C965, 0x00000000, .amoMax 1 true false 7 3 9),
    (0x4870C996, 0x00000000, .amoMinu 2 false true 7 3 9),
    (0x4870C9F7, 0x00000000, .amoMaxu 3 true true 7 3 9),
    (0x4870C908, 0x00000000, .amoSwap 0 false false 7 3 9),
    (0x4870C969, 0x00000000, .cas 1 true false 7 3 9),
    (0x4870C99A, 0x00000000, .casGt 2 false true 7 3 9),
    (0x4870C9FB, 0x00000000, .casVer 3 true true 7 3 9),
    (0x4870C90C, 0x00000000, .casPtag 0 false false 7 3 9)] = true := by decide +kernel
theorem test_words_reductions : allDecode [
    (0x4C00C900, 0x00000000, .redAdd 0 false false 3 9),
    (0x4C00C961, 0x00000000, .redAnd 1 true false 3 9),
    (0x4C00C992, 0x00000000, .redOr 2 false true 3 9),
    (0x4C00C9F3, 0x00000000, .redXor 3 true true 3 9),
    (0x4C00C904, 0x00000000, .redMin 0 false false 3 9),
    (0x4C00C965, 0x00000000, .redMax 1 true false 3 9),
    (0x4C00C996, 0x00000000, .redMinu 2 false true 3 9),
    (0x4C00C9F7, 0x00000000, .redMaxu 3 true true 3 9),
    (0x4C00C9B8, 0x00000000, .redFadd 2 true 3 9)] = true := by decide +kernel
theorem test_words_acquire_release : allDecode [
    (0x50414042, 0x00000000, .lda 1 2 4 5),
    (0x504140B3, 0x00000000, .stl 2 true 3 4 5),
    (0x54000003, 0x00000000, .fence 3),
    (0x54108310, 0x00000000, .waitW 1 2 3),
    (0x54108311, 0x00000000, .waitD 1 2 3)] = true := by decide +kernel
theorem test_words_branches : allDecode [
    (0x60008000, 0x00000000, .bra 0x8000),
    (0x604B0102, 0x00000000, .beqz 11 0x0102),
    (0x608B0102, 0x00000000, .bnez 11 0x0102),
    (0x60CB0102, 0x00000000, .bltz 11 0x0102),
    (0x610B0102, 0x00000000, .bgez 11 0x0102),
    (0x614B0102, 0x00000000, .bgtz 11 0x0102),
    (0x618B0102, 0x00000000, .blez 11 0x0102),
    (0x61C50003, 0x00000000, .bkany 5 3),
    (0x62060004, 0x00000000, .bknone 6 4),
    (0x641FFFFF, 0x00000000, .call 1 0xFFFFF),
    (0x6807C000, 0x00000000, .jmp 31),
    (0x69E7C001, 0x00000000, .callr 30 31)] = true := by decide +kernel
theorem test_words_rings : allDecode [
    (0x6C010500, 0x00000000, .rwaitH 4 5),
    (0x6C010501, 0x00000000, .rwaitT 4 5),
    (0x6C010502, 0x00000000, .radvH 4 5),
    (0x6C010503, 0x00000000, .radvT 4 5),
    (0x6C610004, 0x00000000, .rfill 6 4),
    (0x6C610005, 0x00000000, .rfree 6 4),
    (0x6C720006, 0x00000000, .rbind 7 8)] = true := by decide +kernel
theorem test_words_system : allDecode [
    (0x70C00020, 0x00000000, .sysrd 12 0x020),
    (0x74034004, 0x00000000, .syswr 0x004 13),
    (0x7AABCD00, 0x00000000, .trap 0x2ABCD),
    (0x78000001, 0x00000000, .eret),
    (0x78038002, 0x00000000, .sleep 14),
    (0x78108F03, 0x00000000, .movb 1 2 15),
    (0x78040004, 0x00000000, .rep 16)] = true := by decide +kernel
theorem test_words_lanes : allDecode [
    (0x80221C00, 0x00000000, .vadd .fp32 1 2 3 4),
    (0x80221C11, 0x00000000, .vsub .bf16 1 2 3 4),
    (0x80221C22, 0x00000000, .vmul .fp16 1 2 3 4),
    (0x80221C36, 0x00000000, .vmin .int8 1 2 3 4),
    (0x80221C47, 0x00000000, .vmax .uint8 1 2 3 4),
    (0x80220458, 0x00000000, .vabs .int32 1 2 4),
    (0x80220460, 0x00000000, .vneg .fp32 1 2 4),
    (0x87FEEF00, 0x00000000, .vfma .fp32 31 30 29 7),
    (0x87FEEF11, 0x00000000, .vfms .bf16 31 30 29 7),
    (0x87FEEF22, 0x00000000, .vfnma .fp16 31 30 29 7)] = true := by decide +kernel
theorem test_words_compares : allDecode [
    (0x88A63903, 0x00000000, .vceq .e4m3 5 6 7 1),
    (0x88A63914, 0x00000000, .vcne .e5m2 5 6 7 1),
    (0x88A63925, 0x00000000, .vclt .mk8 5 6 7 1),
    (0x88A63936, 0x00000000, .vcle .int8 5 6 7 1),
    (0x88A63947, 0x00000000, .vcgt .uint8 5 6 7 1),
    (0x88A63958, 0x00000000, .vcge .int32 5 6 7 1)] = true := by decide +kernel
theorem test_words_vector_moves : allDecode [
    (0x8D090201, 0x00000000, .vrsum .bf16 8 9 2),
    (0x8D090211, 0x00000000, .vrmax .bf16 8 9 2),
    (0x8D090221, 0x00000000, .vrmin .bf16 8 9 2),
    (0x91095205, 0x00000000, .vperm .mk8 8 9 10 2),
    (0x91095215, 0x00000000, .vbcast .mk8 8 9 10 2),
    (0x91095225, 0x00000000, .vslideup .mk8 8 9 10 2),
    (0x91095235, 0x00000000, .vslidedn .mk8 8 9 10 2),
    (0x94640843, 0x00000000, .vcvt .e4m3 .bf16 .sr 3 4 0),
    (0x98640600, 0x00000000, .vrcp 3 4 6),
    (0x98640610, 0x00000000, .vrsq 3 4 6),
    (0x98640620, 0x00000000, .vexp2 3 4 6),
    (0x98640630, 0x00000000, .vlog2 3 4 6)] = true := by decide +kernel
theorem test_words_vector_memory : allDecode [
    (0x9C64FE00, 0x00000000, .vld 3 4 31 6),
    (0x9C64F610, 0x00000000, .vst 3 4 30 6),
    (0x9C64EE22, 0x00000000, .vldBc .fp16 3 4 29 6)] = true := by decide +kernel
theorem test_words_masks : allDecode [
    (0xA0221800, 0x00000000, .kand 1 2 3),
    (0xA0221810, 0x00000000, .kor 1 2 3),
    (0xA0221820, 0x00000000, .kxor 1 2 3),
    (0xA0220030, 0x00000000, .knot 1 2),
    (0xA0220040, 0x00000000, .kmov 1 2),
    (0xA5559708, 0x00000000, .vmovg .int32 21 22 23),
    (0xA5865A16, 0x00000000, .vext .int8 24 25 26),
    (0xA456DC20, 0x00000000, .ksetg .fp32 5 27 28),
    (0xA5D19E33, 0x00000000, .kgetg .e4m3 29 6 30),
    (0xA8221C06, 0x00000000, .vand .int8 1 2 3 4),
    (0xA8221C17, 0x00000000, .vor .uint8 1 2 3 4),
    (0xA8221C28, 0x00000000, .vxor .int32 1 2 3 4),
    (0xA8221C36, 0x00000000, .vshl .int8 1 2 3 4),
    (0xA8221C47, 0x00000000, .vshr .uint8 1 2 3 4),
    (0xA8221C58, 0x00000000, .vsra .int32 1 2 3 4)] = true := by decide +kernel
theorem test_words_net : allDecode [
    (0xC0108000, 0x00000000, .agld 1 2),
    (0xC0310001, 0x00000000, .anew 3 4),
    (0xC0014002, 0x00000000, .afree 5),
    (0xC0600003, 0x00000000, .wire 6),
    (0xC0720904, 0x00000000, .link 7 8 9),
    (0xC0A2CC05, 0x00000000, .adup 10 11 12),
    (0xC0D38F06, 0x00000000, .aera 13 14 15),
    (0xC1044007, 0x00000000, .payshare 16 17),
    (0xC124C008, 0x00000000, .paydrop 18 19)] = true := by decide +kernel
theorem test_words_office : allDecode [
    (0xC4008000, 0x00000000, .ruleset 2),
    (0xC4000001, 0x00000000, .rulepub),
    (0xC8310000, 0x000A0000, .launch ⟨2, false, true, false⟩ 3 4),
    (0xC8310001, 0x00070000, .launchInd ⟨3, false, false, true⟩ 3 4),
    (0xCC000000, 0x00000000, .retire),
    (0xCC000001, 0x00000000, .retireS),
    (0xCC000002, 0x00000000, .yieldSlot),
    (0xCC518003, 0x00000000, .krel 5 6),
    (0xD001C800, 0x00000000, .govset 7 8),
    (0xD0928001, 0x00000000, .profrd 9 10)] = true := by decide +kernel
theorem test_words_matrix : allDecode [
    (0xD8114603, 0x00C50000, .mma ⟨1, false, false, true⟩ 6 .e4m3 1 (.ring 5) 6),
    (0xD821C821, 0x008AABCD, .mma ⟨2, false, true, false⟩ 4 .bf16 2 (.tensor 0xABCD 7) 8),
    (0xD8324A12, 0x00720000, .mmaRg ⟨2, true, false, false⟩ 3 .fp16 3 9 10),
    (0xDCB30D05, 0x00261234, .bld ⟨2, false, false, true⟩ true .mk8 0x1234 12 13 11),
    (0xE0200000, 0x00000000, .aclr 2),
    (0xE0038001, 0x00000000, .mxw 14),
    (0xE0000002, 0x00000000, .mxwait),
    (0xE413D040, 0x002A0042, .ast ⟨2, false, true, false⟩ true .fp32 .sr 0x0042 1 15 16)] = true := by decide +kernel
theorem test_words_copies : allDecode [
    (0xE8108300, 0x00120000, .cpy ⟨2, true, false, false⟩ 1 2 3),
    (0xE8108300, 0x002F0000, .cpyAdd ⟨3, false, true, true⟩ 1 2 3),
    (0xEA808301, 0x00021F05, .cpyMc ⟨2, false, false, false⟩ 5 31 40 2 3),
    (0xEE910500, 0x000A0000, .post ⟨2, false, true, false⟩ 41 4 5),
    (0xEEA00600, 0x00290000, .postMb ⟨1, false, true, false⟩ 42 6),
    (0xEC11C801, 0x0002BEEF, .postQ ⟨2, false, false, false⟩ 0xBEEF 1 7 8),
    (0xEEB24A02, 0x00060000, .toksend ⟨2, false, false, true⟩ 43 9 10)] = true := by decide +kernel
theorem test_words_mailboxes : allDecode [
    (0xF002C000, 0x00000000, .mboxCfg 11),
    (0xF0C34400, 0x00000000, .mboxRd 12 13),
    (0xF0338800, 0x00000000, .csnap 3 14),
    (0xF0F40C7F, 0x00000000, .barInit 127 16 15),
    (0xF1149040, 0x00000000, .barArrive 64 18 17),
    (0xF1301401, 0x00000000, .barWait 1 19)] = true := by decide +kernel
theorem test_words_prefix_hint : allDecode [
    (0xF7FFFFFF, 0x04300064, .extensionPrefix 0x3FFFFFF 0x04300064),
    (0xF8000155, 0x00000000, .hint 0x155)] = true := by decide +kernel

/-- An encoder's words decode to the instruction, in one term of each format. -/
theorem test_encode_of_formats : ([.add 1 2 3, .addi 1 2 0x3FFF, .lui 4 0x80000, .bkany 3 0xFFFE, .vadd .bf16 4 5 6 2, .fence 3, .trap 0x3FFFF,
    .amoAdd 1 true true 3 4 5] : List Instr).all (fun i => decide (encode i ≠ [] ∧ decode ((encode i).headD 0) 0 = .ok i)) = true := by
  decide +kernel

/-! ## States and operands that meet the statements' hypotheses -/

theorem meets_RegisterFiles : (1 : BitVec 6) ≠ 0 ∧ (2 : BitVec 6) ≠ 1 ∧ (7 : BitVec 3) ≠ 0 ∧ (0 : BitVec 3) ≠ 7 ∧ (15 : BitVec 4) ≠ 0 ∧
    (31 : BitVec 5) ≠ 0 := by decide +kernel

def repeating (n : Word) : State := { base.setG 5 n with me := { (base.setG 5 n).me with rep := some (0x3C, 5) } }

theorem meets_Completion : base.me.rep = none ∧ (repeating 2).me.rep = some (0x3C, 5) ∧ (5 : BitVec 6) ≠ 0 ∧ (repeating 2).getG 5 ≠ 1 ∧
    (repeating 1).getG 5 = 1 := by decide +kernel

theorem meets_Division : (base.setG 1 7).getG 2 = 0 ∧ (base.setG 2 3).getG 2 ≠ 0 ∧
    ((base.setG 1 0x8000000000000000).setG 2 0xFFFFFFFFFFFFFFFF).getG 1 = 0x8000000000000000 ∧
    ((base.setG 1 0x8000000000000000).setG 2 0xFFFFFFFFFFFFFFFF).getG 2 = BitVec.allOnes 64 := by decide +kernel

theorem meets_BitCounts : base.getG 1 = 0 ∧ (base.setG 1 1).getG 1 ≠ 0 := by decide +kernel

/-- a1 is a register over [0x100, 0x200], g1 an amount. -/
def ranged (p v : Nat) : State := (base.setA 1 ⟨BitVec.ofNat 56 p, 0x100, 0x200, false, false, true, true, true⟩).setG 1 (BitVec.ofNat 64 v)

theorem meets_AddressRegisters :
    (let s := (base.setG 1 0xFFFFFFFFFFFFFF).setG 2 0
     (s.getG 1).toNat < 2 ^ 56 ∧ (s.getG 1).toNat + (s.getG 2).toNat < 2 ^ 56) ∧
    (let s := ranged 0x180 0x100
     (s.me.getA 1).base.toNat ≤ (s.getG 1).toNat ∧ (s.getG 1).toNat < 2 ^ 56) ∧
    (let s := ranged 0x180 0x80
     ((0x200 : Nat) : Int) = (s.me.getA 1).ptr.toNat + (s.getG 1).toInt ∧ (s.me.getA 1).base.toNat ≤ 0x200 ∧ 0x200 ≤ (s.me.getA 1).limit.toNat) ∧
    (let s := ranged 0x108 0
     ((0x100 : Nat) : Int) = (s.me.getA 1).ptr.toNat + (0x3FF8 : BitVec 14).toInt ∧ (s.me.getA 1).base.toNat ≤ 0x100) ∧
    (let s := (base.setG 1 0xFFFFFFFFFFFFFF).setG 2 1
     2 ^ 56 ≤ (s.getG 1).toNat + (s.getG 2).toNat) ∧
    (let s := base.setG 1 0x100000000000000
     2 ^ 56 ≤ (s.getG 1).toNat) ∧
    (let s := ranged 0x180 0xFF
     (s.getG 1).toNat < (s.me.getA 1).base.toNat) ∧
    (let s := ranged 0x180 0x81
     (s.me.getA 1).limit.toNat < (s.me.getA 1).ptr.toNat + (s.getG 1).toInt) ∧
    (let s := ranged 0x107 0
     (s.me.getA 1).ptr.toNat + (0x3FF8 : BitVec 14).toInt < (s.me.getA 1).base.toNat) := by decide +kernel

/-- ScratchOk and ScratchClean as a test, at an address. -/
def scratchAt (s : State) (a : BitVec 4) (ea : Int) (n : Nat) (rd wr : Bool) (align : Nat) : Bool :=
  let r := s.me.getA a
  r.scratch && decide (r.base.toNat ≤ ea ∧ ea + n ≤ r.limit.toNat) && (!rd || r.r) && (!wr || r.w) &&
    (align == 0 || ea % align == 0) && decide (ea + n ≤ 4096 * s.me.scratch ∧ s.me.absentIn ea.toNat n = []) &&
    (upFrom ea.toNat n).all fun x => !smem s.me.poison (x / 32)

/-- ScratchOk and ScratchClean at a register's pointer. -/
def scratchOk (s : State) (a : BitVec 4) (n : Nat) (rd wr : Bool) (align : Nat) : Bool :=
  scratchAt s a (s.me.getA a).ptr.toNat n rd wr align

/-- An AADDI that stays in range, and one beyond each end; loads and stores two units below the pointer. -/
theorem meets_PrefixedForms : extendable (fMajor (packA 0x00#6 1 2 3 0#8)) = false ∧ extendable (fMajor 0xF8000000) = false ∧
    (let q := (ranged 0x180 0).me.getA 1
     let se (ext : BitVec 26) (imm : BitVec 14) : Int := ((ext ++ imm).signExtend 64 : Word).toInt
     (((0x200 : Nat) : Int) = q.ptr.toNat + se 0 0x80 ∧ q.base.toNat ≤ 0x200 ∧ 0x200 ≤ q.limit.toNat) ∧
       q.ptr.toNat + se 0x3FFFFFF 0x3F7F < q.base.toNat ∧ q.limit.toNat < q.ptr.toNat + se 0 0x81) ∧
    (∀ n ∈ ([1, 2, 4, 8] : List Nat), (let s := base.setA 1 (scr 0x100)
      let at_ : Int := (s.me.getA 1).ptr.toNat + ((0x3FFFFFF : BitVec 26) ++ (0x7FE : BitVec 11)).toInt * n
      at_ = ((0x100 - 2 * n : Nat) : Int) ∧ scratchAt s 1 at_ n true false n = true ∧ scratchAt s 1 at_ n false true n = true)) := by decide +kernel

/-- A slot that may store to address 0x1000 of device memory. -/
def storing : State := mapped (base.setA 1 (glob 0x1000)) 0x1000

/-- Every form that AccessChecks names, at a1; and its checks as a test. -/
def forms (s : State) : List AccessForm :=
  s.loadForms 3 1 0 0 ++ s.storeForms true 3 1 0 0 ++ s.atomicForms 0b10 3 true false 3 4 1 ++ s.vectorForms .bf16 0 1 0 0 ++ s.ringForms 2 1
def passed (q : AccessForm) : List Bool :=
  let r := q.st.me.getA q.areg
  [decide (r.base.toNat ≤ q.ea ∧ q.ea + q.n ≤ r.limit.toNat), (!q.rd || r.r) && (!q.wr || r.w), q.align == 0 || decide (q.ea % q.align = 0),
    !r.scratch || decide (q.ea + q.n ≤ 4096 * q.st.me.scratch)]

theorem meets_AccessChecks_range : base.me.ownsV 0 = true ∧
    (forms (base.setA 1 (scr 0x4000))).all (fun q => passed q == [false, true, true, false]) = true ∧
    (forms (base.setA 1 { scr 0x80 with r := false, w := false })).all (fun q => passed q == [true, false, true, true]) = true ∧
    (forms (base.setA 1 (scr 0x81))).all (fun q => decide (q.n = 1 ∨ q.align = 0) || passed q == [true, true, false, true]) = true ∧
    (forms (base.setA 1 { scr 0x4000 with limit := 0x5000 })).all (fun q => passed q == [true, true, true, false]) = true := by decide +kernel

/-- A page that no table has, and one whose leaf gives no right. -/
def barred : State := { base.setA 1 (glob 0x1000) with tlb := [⟨0, base.sliceOf 0 0x1000, 0, false, 0, 0, false, false, false, true⟩] }

theorem meets_AccessChecks_pages :
    (forms (base.setA 1 (glob 0x1000))).all (fun q => q.goes && passed q == [true, true, true, true] && !q.opnd.scratch &&
      okAnd (q.on.charge q.cost) fun _ s => decide (s.l1Find s.me.asid 32 false = none) && (s.translate s.meWho 0x1000 q.opnd.cls q.acc matches .fault _)) =
        true ∧
    (forms barred).all (fun q => okAnd (q.on.charge q.cost) fun _ s => (s.translate s.meWho 0x1000 q.opnd.cls q.acc matches .denied _)) = true := by
  decide +kernel

/-- Poison at 0x1000: in scratch, in a line of the L1 region, past it, at an access's place. -/
theorem meets_AccessChecks_poison :
    (let s := base.setA 1 (scr 0x1000)
     (forms { s with me := { s.me with poison := [128] } }).all (fun q => passed q == [true, true, true, true] &&
       decide (q.st.me.absentIn 0x1000 q.n = []) &&
       q.sees 0 && smem q.st.me.poison (0x1000 / 32)) = true) ∧
    (let l : L1Line := ⟨0, 32, 32, List.replicate 128 0, [128], true, false, 0⟩
     let s := mappedAll (base.setA 1 (glob 0x1000)) [0x1000]
     [s.setCore 0 { Core.reset with l1 := [l] }, { s with poison := [128] }].all fun s => (forms s).all fun q => decide (q.kind ≠ .load) ||
       okAnd (q.on.charge q.cost) fun _ s1 => okAnd (s1.findParts q.opnd false (piecesOf 0x1000 q.n)) fun ps s2 => decide (s2.me.got = []) &&
         ps.all (fun p => decide (s2.partBar false p = none)) && (ps.head?).any fun p => decide (p.1 = 0x1000) && q.sees 0 && (match p.2.2 with
           | .l1 l => l.poison.contains ((l.pline * 128 + p.1 % 128) / 32)
           | .mem pa => s2.viewPoison (s2.slotReqs s2.cur) s2.myTower false pa)) ∧
    (let s := { mappedAll (base.setA 1 (glob 0x1000)) [0x1000] with poison := [128] }
     (forms s).all (fun q => okAnd (q.on.charge q.cost) fun _ s1 => match q.kind with
       | .place sc => okAnd (s1.xlate q.opnd 0x1000 .read) fun pa s2 => okAnd (s2.leavePin sc pa) fun _ s3 => !s3.ownStore pa q.n &&
           decide (s3.readBar pa true = none) && s3.placePoison pa
       | .rmw => okAnd (s1.xlate q.opnd 0x1000 .write) fun pa s2 => decide (homeOf pa ≠ some .host ∧ s2.readBar pa true = none) && s2.placeBad pa q.n
       | _ => true) = true) := by decide +kernel

/-- What HitsL1 and ReadsMemory ask. -/
def hitsL1 (s : State) (o : Opnd) (n : Nat) (p : L1Line → Bool) : Bool :=
  !o.scratch && decide (0 < n ∧ o.va % 32 + n ≤ 32) && (s.l1Find s.me.asid (o.va / 128) false).any fun l =>
    !s.redPending l.pline && !l.poison.contains ((l.pline * 128 + o.va % 128) / 32) && p l
def readsMemory (s : State) (o : Opnd) (n : Nat) (p : Nat → State → Bool) : Bool :=
  !o.scratch && decide (0 < n ∧ o.va % 32 + n ≤ 32 ∧ s.l1Find s.me.asid (o.va / 128) false = none) && okAnd (s.charge (round32 n)) fun _ v =>
    okAnd (v.xlate o o.va .read) fun pa u => decide (u.readBar pa false = none) &&
      ((upFrom pa n).all fun x => !u.viewPoison (u.slotReqs u.cur) u.myTower false x) && p pa u
def lined (s : State) : State := s.setCore 0 { Core.reset with l1 := [⟨0, 32, 32, List.replicate 128 9, [], true, false, 0⟩] }

/-- Scratch; a page away since a restore; a line of the L1 region; memory past it, with no store of the slot's own there and with one. -/
theorem meets_Loads :
    (let s (n : Nat) := base.setA 1 (scr (0x4000 - n))
     [1, 2, 4, 8].all (fun n => scratchOk (s n) 1 n true false n && ((s n).loadForms 3 1 0 0).any fun q => decide (q.n = n)) = true) ∧
    (let s := { base.setA 1 (scr 0x10) with me := { (base.setA 1 (scr 0x10)).me with absent := [0], frames := [5] } }
     (s.loadForms 3 1 0 0).all (fun q => passed q == [true, true, true, true] && decide (s.me.absent = [0x10 / 4096] ∧ s.me.frames[0x10 / 4096]? = some 5 ∧
       homeOf (framePa 5) = some (.tower s.myTower) ∧ s.pins = [] ∧ s.poison = [] ∧ s.me.poison = [])) = true) ∧
    (((lined storing).loadForms 3 1 0 0).all fun q => passed q == [true, true, true, true] && hitsL1 q.st q.opnd q.n fun _ => true) = true ∧
    (storing.loadForms 3 1 0 0).all (fun q => passed q == [true, true, true, true] && readsMemory q.st q.opnd q.n fun pa u => decide (pa = 0x1000 ∧
      pendingByte (u.slotReqs u.cur) pa = none ∧ u.pinOf (pa / 128) = none ∧ homeOf pa = some (.tower u.myTower))) = true ∧
    (let s := storing.pushReq 0x1000 false 0x1000 (.store [some 7]) 0b10 false false
     pendingByte (s.slotReqs s.cur) 0x1000 = some 7) := by decide +kernel

theorem meets_ScratchStores :
    [1, 2, 4, 8].all (fun n => scratchOk (base.setA 1 (scr 0)) 1 n false true n &&
      ((base.setA 1 (scr 0)).storeForms true 3 1 0 0).any fun q => decide (q.n = n)) =
      true := by decide +kernel

/-- A store of each size, plain and under a prefix, and VST. -/
theorem meets_GlobalStores : base.me.ownsV 0 = true ∧
    (storing.storeForms true 3 1 0 0 ++ (storing.vectorForms .bf16 0 1 0 0).filter fun q => decide (q.kind = .store)).all (fun q =>
      q.goes && passed q == [true, true, true, true] && !q.opnd.scratch &&
        okAnd (q.on.writeReady q.opnd q.n) fun l _ => decide (l = [(0x1000, 0x1000, q.n)])) =
        true := by decide +kernel

/-- MOVB's count is g3, its source a1 and its destination a2; pieces in flight. -/
def moving (src dst : AReg) (count : Word) (l : List MovPiece) : State :=
  let s := (((mapped base 0x1000).setA 1 src).setA 2 dst).setG 3 count
  { s with me := { s.me with movb := l } }
def flying : MovPiece := ⟨true, [(0, 32)], List.replicate 32 7⟩

theorem meets_BlockMove :
    (2 : BitVec 4) ≠ 1 ∧ base.getG 3 = 0 ∧
    (let s := moving (scr 0x3FE0) (scr 0) 32 []
     s.getG 3 ≠ 0 ∧ s.me.movb = [] ∧ 32 = min 32 (s.getG 3).toNat ∧ scratchOk s 1 32 true false 0 = true ∧
       scratchOk s 2 32 false true 0 = true ∧ s.me.rep = none) ∧
    (let s := moving (glob 0x1000) (scr 0) 7 []
     7 = min 32 (s.getG 3).toNat ∧ okAnd (s.movbRead 2 1 0 7) (fun _ t => decide (t.me.movb.length = 1)) = true) ∧
    (let s := moving (scr 0x3FE0) (scr 0) 32 [flying]
     s.me.movb = [flying] ∧ flying.data.length = 32 ∧ s.movbNext 3 = none ∧ scratchOk s 2 32 false true 0 = true) ∧
    (let s := moving (scr 0) (scr 0x100) 33 [flying]
     s.movbNext 3 = some (32, 1) ∧ scratchOk s 2 32 false true 0 = true ∧ okAnd (s.movbRead 2 1 32 1) (fun _ _ => true) = true) ∧
    (let s := moving (scr 0) (glob 0x1000) 32 [flying]
     s.movbNext 3 = none ∧ okAnd (s.check 2 0x1000 32 false true 0) (fun o s1 => okAnd (s1.writeParts o 32) fun _ _ => true) =
       true) := by decide +kernel

/-- The checks of MOVB's two pointers: each of 1, 2 and 4 that fails; a page that no table has and one without the right; poison; a source that is
read; a write that may leave, and one that waits for the port. -/
theorem meets_BlockMove_checks :
    (let bad : List (AReg × List Bool) := [(scr 0x4000, [false, true, true, false]), ({ scr 0x80 with r := false, w := false }, [true, false, true, true]),
       ({ scr 0x4000 with limit := 0x5000 }, [true, true, true, false])]
     bad.all (fun p => passed ((moving p.1 (scr 0) 32 []).movbFrom 2 1 3 32) == p.2 &&
       okAnd ((moving (scr 0) p.1 32 []).movbSource ((moving (scr 0) p.1 32 []).movbFrom 2 1 3 32).opnd 32) (fun _ t => passed (t.movbInto 2 1 3 32) == p.2) &&
       decide ((moving (scr 0) p.1 32 [flying]).movbNext 3 = none) && passed ((moving (scr 0) p.1 32 [flying]).movbInto 2 1 3 32) == p.2) = true) ∧
    (let away (s : State) : State := { s with tlb := [] }
     let shut (s : State) : State := { s with tlb := [⟨0, base.sliceOf 0 0x1000, 0, false, 0, 0, false, false, false, true⟩] }
     let refuses (s : State) (cost : Nat) (acc : Acc) : List Bool := [away s, shut s].map fun s => okAnd (s.charge cost) fun _ u =>
       decide (u.l1Find u.me.asid 32 false = none) && (match u.translate u.meWho 0x1000 false acc with
         | .fault _ => decide (s.tlb = []) | .denied _ => decide (s.tlb ≠ []) | .ok .. => false)
     let src := moving (glob 0x1000) (scr 0) 32 []
     let dst (l : List MovPiece) := moving (scr 0) (glob 0x1000) 32 l
     passed (src.movbFrom 2 1 3 32) = [true, true, true, true] ∧ refuses src 32 .read = [true, true] ∧
     passed ((dst []).movbInto 2 1 3 32) = [true, true, true, true] ∧ refuses (dst []) 32 .write = [true, true] ∧
     passed ((dst [flying]).movbInto 2 1 3 32) = [true, true, true, true] ∧ (dst [flying]).movbNext 3 = none ∧ refuses (dst [flying]) 0 .write = [true, true] ∧
     ((dst [flying]).core (dst [flying]).myCore).portFree ((dst [flying]).cycleAt (dst [flying]).myCore) = true ∧
     (let t := (dst [flying]).setCore 0 { Core.reset with sentAt := 1 }
      (t.core t.myCore).portFree (t.cycleAt t.myCore) = false ∧ okAnd (t.check 2 0x1000 32 false true 0) (fun o _ => !o.scratch) = true)) ∧
    (let s := moving (scr 0x1000) (scr 0) 32 []
     let u := { s with me := { s.me with poison := [128] } }
     passed (u.movbFrom 2 1 3 32) = [true, true, true, true] ∧ smem u.me.poison ((0x1000 + 31) / 32) = true ∧ u.me.absentIn 0x1000 32 = [] ∧
       okAnd (u.charge (u.pieceCost 2 1)) (fun _ _ => true) = true) ∧
    (let s := { moving (glob 0x1000) (scr 0) 32 [] with poison := [128] }
     okAnd (s.charge (s.pieceCost 2 1)) fun _ s1 => okAnd (s1.findParts (s.movbFrom 2 1 3 32).opnd false (piecesOf 0x1000 32)) fun ps s2 =>
       decide (s2.me.got = [] ∧ ∀ p ∈ ps, s2.partBar false p = none) && ps.any fun p => s2.partPoison (s.movbFrom 2 1 3 32).opnd false p) := by
  decide +kernel

/-- Both outcomes of each branch condition are met. -/
theorem meets_Branches :
    (let x : Word := 0; x = 0 ∧ ¬ x ≠ 0 ∧ ¬ x.toInt < 0 ∧ 0 ≤ x.toInt ∧ ¬ 0 < x.toInt ∧ x.toInt ≤ 0) ∧
    (let x : Word := 0xFFFFFFFFFFFFFFFF; ¬ x = 0 ∧ x ≠ 0 ∧ x.toInt < 0 ∧ ¬ 0 ≤ x.toInt) ∧
    (let x : Word := 1; 0 < x.toInt ∧ ¬ x.toInt ≤ 0) ∧
    (base.me.getK 0).getLsbD 127 = true ∧ (∀ i < 128, (base.me.getK 1).getLsbD i = false) := by decide +kernel

theorem meets_CallsAndJumps : (0x40 : Nat) % 4 = 0 ∧ (0x42 : Nat) % 4 ≠ 0 ∧ ((base.setG 1 0x42).getG 1).setWidth 56 = (0x42 : Addr) := by
  decide +kernel

def handling (inh : Bool) : State := { base with me := { task with tvec := 0x800, inh := inh, epc := 0x44 } }

theorem meets_TrapDelivery : base.me.rep = none ∧ (handling false).me.inh = false ∧ (handling false).me.tvec ≠ 0 ∧
    (handling true).me.inh = true ∧ base.me.tvec = 0 ∧ (∀ c ∈ [(0x04 : BitVec 8), 0x07, 0x0E], c ≠ 0x05 ∧ c ≠ 0x08 ∧ c ≠ 0x0F) := by decide +kernel
theorem meets_TrapAndReturn : (handling false).me.inh = false ∧ (handling false).me.tvec ≠ 0 ∧ base.me.tvec = 0 ∧ (handling true).me.inh = true :=
  by decide +kernel

/-- Code at address 0 of address space 0 in the L1 region of core 0. -/
def coded (s : State) (pc : Addr) (ws : List IWord) : State :=
  let l : L1Line := ⟨0, 0, 0, (ws.flatMap fun w => leBytes 4 w.toNat) ++ List.replicate (128 - 4 * ws.length) 0, [], true, true, 0⟩
  { s with me := { s.me with pc := pc }, cores := tset s.cores 0 { tget Core.reset s.cores 0 with l1 := [l] } }

/-- A REP of ADD, of a branch, and of a prefixed LUI. -/
theorem meets_RepAndSleep :
    okAnd (coded base 0 [0x78000004, 0x00000000]).repWord (fun p s => decide (p = (0x00000000, 4)) && !notRepeatable (fMajor p.1) && s.getG 5 == 0) = true ∧
    okAnd (coded (base.setG 5 3) 0 [0x78000004, 0x00000000]).repWord (fun p s => !notRepeatable (fMajor p.1) && s.getG 5 != 0) = true ∧
    okAnd (coded base 0 [0x78000004, 0x60000000]).repWord (fun p _ => notRepeatable (fMajor p.1)) = true ∧
    (base.getG 1).toNat % 2 ^ 32 = 0 ∧ ((base.setG 1 1).getG 1).toNat % 2 ^ 32 ≠ 0 := by decide +kernel

theorem meets_SystemRegisters : isReadOnlyReg 0x000 = true ∧ base.getG 1 = 0 ∧ (base.setG 1 5).getG 1 ≠ 0 ∧ isSup base.myCore = false ∧
    isCourierReg 0x050 = true ∧ (∀ j < 4, nget (base.core 0).shares j < 256) ∧
    (let s : State := { base with cur := 4096 }
     let at_ (v : Word) : State := s.setCore 1024 { Core.reset with target := v }
     isSup s.myCore = true ∧ (at_ 0).targetOf ((at_ 0).core (at_ 0).myCore).target = some 0 ∧
       (at_ 0x8000).targetOf ((at_ 0x8000).core (at_ 0x8000).myCore).target = some 1028 ∧
       (let t := (at_ 0).setCore 0 { Core.reset with dead := true }; t.targetOf (t.core t.myCore).target = none)) := by decide +kernel

/-- What State.Released and a clean place ask for an access of `n` bytes to a page of device memory. -/
def released (s : State) (o : Opnd) (n : Nat) (scope : BitVec 2) (pa : Nat) (p : Place → State → Bool) : Bool :=
  !o.scratch && inHbm pa && okAnd (s.charge (round32 n)) fun _ s1 => okAnd (s1.xlate o o.va .write) fun q v =>
    decide (q = pa) && decide (pa % 128 + n ≤ 128) && !v.placeBad pa n && okAnd (v.releaseAt scope pa) fun pl u =>
      (u.pins.all fun x => decide (x.data.length = 128)) && p pl u

/-- Memory with a number at an address. -/
def holding (s : State) (pa n v : Nat) : State := { s with mem := msets s.mem pa (leBytes n v) }
def scratchHolding (s : State) (a n v : Nat) : State := { s with me := { s.me with mem := msets s.me.mem a (leBytes n v) } }

/-- What an atomic reads at a line: the old value's bytes, through the line's place, and its release or its place. -/
def reads (s : State) (n : Nat) (scope : BitVec 2) (p : Nat → Place → State → Bool) : Bool :=
  okAnd (s.check 1 0x1000 n false true n) fun o t => decide (t.me = s.me ∧ t.mem = s.mem ∧ t.pins = s.pins ∧ t.reqs = s.reqs) &&
    okAnd (t.charge (round32 n)) fun _ s1 => okAnd (s1.xlate o o.va .write) fun _ v =>
    decide (v.readBar 0x1000 true = none) && released t o n scope 0x1000 (p (leNat ((upFrom 0x1000 n).map v.homeView)))

/-- Each place that a release may have: the pin store, the cluster's unit at a line another task has pinned, and the home, at a narrow
scope where lines did not fit; and a compare that fails, which only releases. -/
theorem meets_Atomics :
    [4, 8].all (fun n => scratchOk (base.setA 3 (scr (0x4000 - n))) 3 n false true n) = true ∧
    [(0, 4), (1, 8), (2, 8), (3, 4)].all (fun (p : Nat × Nat) => reads (holding storing 0x1000 8 5) p.2 (BitVec.ofNat 2 p.1) fun old pl u =>
      decide (old = 5 ∧ pl = if p.1 ≤ 1 then .pin 0 else .home) && u.drained u.cur) = true ∧
    reads { storing with pins := [⟨0, 32, List.replicate 128 0, [9]⟩] } 8 0b10 (fun _ pl _ => decide (pl = .unit)) = true ∧
    reads { storing with me := { storing.me with wide := true } } 8 0b01 (fun _ pl u => decide (pl = .home) && u.drained u.cur) = true ∧
    (∀ sc ∈ [0, 1, 2, 3], (storing.getG 3).toNat ≠ 5 ∧ okAnd (storing.release (BitVec.ofNat 2 sc)) (fun _ _ => true) = true) := by
  decide +kernel

theorem meets_Reductions :
    [4, 8].all (fun n => scratchOk (base.setA 3 (scr (0x4000 - n))) 3 n false true n) = true ∧
    (let s := base.setA 3 (scr 0x100)
     scratchOk s 3 8 false true 8 = true ∧ smem ({ s with me := { s.me with poison := [8] } } : State).me.poison ((0x100 + 7) / 32) = true) ∧
    (∀ l ∈ [([] : List Pin), [⟨0, 32, List.replicate 128 0, [1]⟩]], okAnd (storing.check 1 0x1000 8 false true 8) (fun o s => !o.scratch &&
      okAnd (({ s with pins := l } : State).xlate o 0x1000 .write) fun pa u => decide (pa = 0x1000 ∧ homeOf pa ≠ some .host ∧
        u.writeBar pa = none ∧ u.reqs = []) &&
        [0, 1, 2, 3].all fun sc => okAnd (u.leavePin (BitVec.ofNat 2 sc) pa) fun _ _ => true) = true) := by decide +kernel

theorem meets_AcquireRelease :
    [1, 2, 4, 8].all (fun n => scratchOk (base.setA 3 (scr (0x4000 - n))) 3 n true true n) = true ∧
    [0, 1, 2, 3].all (fun sc => okAnd (storing.check 1 0x1000 8 true false 8) fun o s => !o.scratch &&
      okAnd (s.readHome o 8 (BitVec.ofNat 2 sc)) fun r _ => decide (r.1 = 0x1000 ∧ leNat r.2 = 0)) = true ∧
    [0, 1, 2, 3].all (fun sc => okAnd (storing.check 1 0x1000 8 false true 8) fun o s =>
      released s o 8 (BitVec.ofNat 2 sc) 0x1000 fun pl _ => decide (pl = if sc ≤ 1 then .pin 0 else .home)) = true ∧
    (base.reqs = [] ∧ base.allApplied (base.vc base.myTower) = true ∧ base.pins = []) ∧
    (let s := storing.pushReq 0x1000 false 0x1000 (.store [some 0]) 0b10 false false
     ∃ r ∈ s.reqs, r.key = s.cur ∧ r.stage ≠ .pinned) ∧
    (let s : State := { base with reqs := (storing.pushReq 0x1000 false 0x1000 (.store [some 0]) 0b10 false false).reqs.map fun r => { r with stage := .pinned } }
     ∀ r ∈ s.reqs, r.key = s.cur ∧ r.stage = .pinned) ∧
    (let s := base.setTower 0 { base.tower 0 with vc := #v[1, 0, 0, 0] }
     s.reqs = [] ∧ (s.unpinTask s.me.tid).allApplied ((s.unpinTask s.me.tid).vc s.myTower) = false) := by decide +kernel

theorem meets_Waits :
    okAnd (storing.check 1 0x1000 4 true false 4) (fun o s => !o.scratch && okAnd (s.readHome o 4 0b10) fun p u =>
      decide (p.1 = 0x1000) && decide (leNat p.2 = ((u.arm (p.1 / 128)).getG 2).toNat % 256 ^ 4)) = true ∧
    (let s := holding storing 0x1000 8 5
     okAnd (s.check 1 0x1000 8 true false 8) fun o s => okAnd (s.readHome o 8 0b10) fun p u =>
      decide (leNat p.2 ≠ ((u.arm (p.1 / 128)).getG 2).toNat % 256 ^ 8)) = true := by decide +kernel

/-- RBIND's three words in scratch at 0. -/
def bindWords (w0 w1 w2 : Nat) : State := scratchHolding (scratchHolding (scratchHolding (base.setA 1 (scr 0)) 0 8 w0) 8 8 w1) 16 8 w2

/-- Words in scratch, in a line of the L1 region, past it, and across two pieces, before the charge is paid and when the second is left. -/
theorem meets_RingBind :
    (let s := bindWords 0x2000 0x4000 (10 + 2 ^ 8 * 13 + 2 ^ 16 * 3)
     scratchOk s 1 24 true false 0 = true ∧ s.scratchVal 0 8 % 32 = 0 ∧ s.scratchVal 8 8 % 2 ^ 13 = 0 ∧ s.scratchVal 16 8 / 2 ^ 16 % 4 = 3) ∧
    (bindWords 0x2000 0x4000 0).scratchVal 16 8 / 2 ^ 16 % 4 = 0 ∧
    (let s := bindWords 0x2010 0x4000 (17 + 2 ^ 8 * 14 + 2 ^ 16)
     scratchOk s 1 24 true false 0 = true ∧ s.scratchVal 16 8 / 2 ^ 16 % 4 ≠ 0 ∧ s.scratchVal 0 8 % 32 ≠ 0) ∧
    (let o (va : Nat) : Opnd := ⟨false, va, false, 0, 1, []⟩
     let r := storing.me.getA 1
     let s := mappedAll (base.setA 1 (glob 0x1010)) [0x1000]
     (r.scratch = false ∧ r.base.toNat ≤ 0x1000 ∧ 0x1000 + 24 ≤ r.limit.toNat ∧ r.r = true ∧ r.cls = false) ∧
       hitsL1 (lined storing) (o 0x1000) 24 (fun _ => true) = true ∧ readsMemory storing (o 0x1000) 24 (fun pa _ => decide (pa = 0x1000)) = true ∧
       ((s.setCore 0 { Core.reset with bucket := Vector.replicate 4 0 }).read (o 0x1010) 24 matches .done _) = true ∧
       okAnd (({ s with me := { s.me with got := [(0x1010, List.replicate 16 0)] } } : State).read (o 0x1010) 24) (fun _ _ => true) = true) := by
  decide +kernel

/-- q4 is bound to a ring of 4 slots whose control block, at 0x2000, has these counters. -/
def ringed (role : BitVec 2) (tail resv head : Nat) : State :=
  let s := holding (holding (holding (mapped base 0x2000) 0x2000 4 tail) 0x2004 4 resv) 0x2008 4 head
  s.setQ 4 ⟨0x2000, 0x4000, 2, 5, role, 2, 2⟩

def countsAre (s : State) (filled : Nat) (free : Int) : Bool :=
  okAnd (s.readCounts 4) fun p _ => decide (p.1 = 0x2000) && decide ((p.2.tail - p.2.head).toNat = filled) &&
    decide (4 - ((p.2.resv - p.2.head).toNat : Int) = free)

theorem meets_RingCounters :
    countsAre (ringed 3 5 5 2) 3 1 = true ∧ countsAre ((ringed 3 5 5 2).setG 1 3) 3 1 = true ∧ countsAre ((ringed 3 0 0 0).setG 1 4) 0 4 = true ∧
    countsAre (ringed 3 5 9 2) 3 (-3) = true ∧ ((ringed 3 5 9 2).getG 1).toNat = 0 ∧ (((ringed 3 5 9 2).setG 1 1).getG 1).toNat ≠ 0 ∧
    ((ringed 1 0 0 0).me.getQ 4).role.getLsbD 1 = false ∧ ((ringed 2 0 0 0).me.getQ 4).role.getLsbD 0 = false ∧
    ((base.setG 1 5).getG 1).toNat > 2 ^ ((ringed 3 0 0 0).me.getQ 4).m.toNat ∧ (base.me.getQ 4).role = 0 := by decide +kernel

def advances (s : State) (p : RingCounts → Bool) : Bool :=
  released s (s.ctrlOpnd 4) 16 0b10 0x2000 fun pl _ => decide (pl = .home) && okAnd (s.charge 32) fun _ t =>
    okAnd (t.xlate (s.ctrlOpnd 4) 0x2000 .write) fun _ v => decide (v.readBar 0x2000 true = none) && p (ringCounts ((upFrom 0x2000 16).map v.homeView))

theorem meets_RingAdvance :
    (let s := (ringed 3 5 5 2).setG 1 2
     (s.me.getQ 4).role.getLsbD 0 = true ∧ (s.me.getQ 4).role.getLsbD 1 = true ∧ (s.getG 1).toNat ≤ (s.me.getQ 4).headSeen.toNat ∧
       ((s.getG 1).toNat : Int) ≤ max 0 (s.me.getQ 4).tailSeen.toInt ∧ advances s (fun c => decide (c.resv = c.tail)) = true) ∧
    advances ((ringed 3 5 6 2).setG 1 2) (fun c => decide (c.resv ≠ c.tail)) = true ∧
    (let s := (ringed 0 5 5 2).setG 1 3
     (s.me.getQ 4).role.getLsbD 0 = false ∧ (s.me.getQ 4).headSeen.toNat < (s.getG 1).toNat ∧
       max 0 (s.me.getQ 4).tailSeen.toInt < (s.getG 1).toNat) ∧
    (let s := (ringed 3 5 5 2).setQ 4 { (ringed 3 5 5 2).me.getQ 4 with tailSeen := BitVec.ofInt 32 (-4) }
     ((s.getG 1).toNat : Int) ≤ max 0 (s.me.getQ 4).tailSeen.toInt ∧ advances s (fun c => decide (c.resv = c.tail)) = true ∧
       max 0 (s.me.getQ 4).tailSeen.toInt < ((s.setG 1 1).getG 1).toNat) := by decide +kernel

/-! ### Vectors -/

theorem meets_vectors : (∀ r ∈ ([0, 15, 31] : List (BitVec 5)), base.me.ownsV r = true) ∧ (base.me.getK 0).getLsbD 127 = true ∧
    (base.me.getK 1).getLsbD 0 = false ∧ Fmt.isFloat .bf16 = true ∧ Fmt.isFloat .uint8 = false ∧
    Fmt.decode .bf16 0x7FC0 = .nan ∧ Fmt.decode .bf16 0x3F80 ≠ .nan ∧ (Rnd.rne ≠ .sr) := by decide +kernel

/-- One active lane, lanes 3 and 5 with one greater than the other, or with a NaN, and none. -/
theorem meets_VectorReductions :
    (let on (f : Fmt) (m : KWord) : List Nat := (List.range (lanesOf f)).filter fun i => ((base.setK 2 m).me.getK 2).getLsbD i
     let lanes (w : Nat) : State := { base with me := { task with v := task.v.set 1 (BitVec.ofNat 1024 w) } }
     let x (w i : Nat) : Nat := laneGet .fp32 ((lanes w).me.getV 1) i
     on .fp32 (1#128 <<< 5) = [5] ∧ on .fp32 0x28#128 = [3, 5] ∧ on .int32 0 = [] ∧ Fmt.isFloat .int32 = false ∧ Fmt.isFloat .fp32 = true ∧
     (let w := 0x3F800000 * 2 ^ 96 + 0xC0000000 * 2 ^ 160
      Fmt.decode .fp32 (x w 3) ≠ .nan ∧ Fmt.decode .fp32 (x w 5) ≠ .nan ∧ (Fmt.decode .fp32 (x w 5)).cmp (Fmt.decode .fp32 (x w 3)) = .lt) ∧
     Fmt.decode .fp32 (x (0x7FC00000 * 2 ^ 160) 5) = .nan) := by decide +kernel

/-- Conversions that are exact and that round; a NaN, a negative number, −0, an argument of VEXP2 whose result is too large, and each argument
in R137's table in a lane. -/
theorem meets_VectorConversions : exactConv .bf16 .fp32 = true ∧ exactConv .fp32 .bf16 = false ∧ Rnd.rne ≠ Rnd.sr ∧
    (let lane (w : Nat) : Nat := laneGet .fp32 (({ base with me := { task with v := task.v.set 1 (BitVec.ofNat 1024 w) } } : State).me.getV 1) 0
     (base.me.getK 0).getLsbD 0 = true ∧ 0x7F800000 < lane 0xFFC00001 % 2 ^ 31 ∧ 2 ^ 31 < lane 0xBF800000 ∧
     (0x43000000 ≤ lane 0x43000000 ∧ lane 0x43000000 ≤ 0x7F800000) ∧
     ∀ v ∈ [0, 2 ^ 31, 0x7F800000, 2 ^ 31 + 0x7F800000, 0x43000000, 0x3F800000], lane v = v) := by decide +kernel

/-- Scratch; no active lane; two of VLD's pieces left, and the last; VLD.BC from a line of the L1 region, and past it. -/
theorem meets_VectorMemory :
    scratchOk (base.setA 1 (scr 0x3F80)) 1 128 true true 128 = true ∧ [1, 2, 4].all (fun n => scratchOk (base.setA 1 (scr (0x4000 - n))) 1 n true false n) =
      true ∧
    (storing.vectorForms .bf16 0 1 0 1).all (fun q => passed q == [true, true, true, true] && !q.opnd.scratch && !q.goes) = true ∧
    [2, 3].all (fun (k : Nat) =>
      let got : List (Nat × List Byte) := (List.range k).map fun i => (0x1000 + 32 * i, List.replicate 32 0)
      let s : State := { storing with me := { storing.me with got := got } }
      (s.vectorForms .bf16 0 1 0 0).head?.any fun q => decide (q.instr = .vld 0 1 0 0) && q.goes && okAnd (q.on.charge q.cost) fun _ s1 =>
        okAnd (s1.findParts { q.opnd with skip := [] } false (piecesOf 0x1000 128)) fun ps u =>
          let left := ps.filter fun p => u.me.got.all (·.1 ≠ p.1)
          decide (left.length = 4 - k) && left.all fun p => decide (u.partBar false p = none) && (match p.2.2 with
            | .l1 _ => false
            | .mem pa => (List.range p.2.1).all fun j => !u.viewPoison (u.slotReqs u.cur) u.myTower false (pa + j))) = true ∧
    (∀ i < 128, (storing.me.getK 0).getLsbD i = true) ∧
    ((lined storing).vectorForms .bf16 0 1 0 0).any (fun q => decide (q.instr = .vldBc .bf16 0 1 0 0) && q.goes &&
      hitsL1 q.on q.opnd 2 fun _ => true) = true ∧
    (storing.vectorForms .bf16 0 1 0 0).any (fun q => decide (q.instr = .vldBc .bf16 0 1 0 0) &&
      readsMemory q.on q.opnd 2 fun pa _ => decide (pa = 0x1000)) =
      true := by decide +kernel

theorem meets_UnownedRegisters : ({ task with regs := 8 } : Ctx).ownsV 8 = false ∧ ({ task with regs := 0 } : Ctx).ownsV 0 = false := by decide +kernel

/-! ### The net -/

/-- Address space 0 with eight records from 0x10000 and eight cells from 0x20000 on tower 0, of which these stand allocated. -/
def space (agents cells : List (Nat × Nat × Nat)) : Space where
  root := 0
  tensorBase := 0x30000
  tenant := 0
  seed := 7
  ruleRight := true
  govRight := true
  agents := agents
  cells := cells
  freeRing := 0
  shadow := []
  pending := []
  published := Vector.replicate 4 []
def netted (nAgents nCells : Nat) (alloc : List Nat) : State :=
  { mappedAll base (upFrom 0x200 8 |>.map (· * 128)) with
    tlb := (mappedAll base ([0x10000, 0x10080, 0x10100, 0x20000])).tlb,
    spaces := [(0, space [(0, 0x10000, 64 * nAgents)] [(0, 0x20000, 8 * nCells)])], alloc := alloc }

/-- A record of an arity and kind with a principal port. -/
def recorded (s : State) (a : Nat) (header p : Nat) : State := holding (holding s a 8 header) (a + 8) 8 p

/-- A state in which the first accesses of a net instruction have been charged, and one in which pieces of its n-th read have been read. -/
def ahead (n : Nat) (s : State) : State := { s with me := { s.me with nth := n } }
def gotten (n : Nat) (l : List (Nat × Nat)) (s : State) : State :=
  { s with me := { s.me with got := l.map fun p => (gotKey n p.1, mgets s.mem p.1 p.2) } }

/-- An allocated agent of a header, which g1 refers to. -/
def agented (header : Nat) : State := (recorded (netted 1 0 [0x10000]) 0x10000 header 0).setG 1 0x2000000000010000

theorem meets_NetInstructions_named :
    okAnd ((agented 0x1001).checkAgent 0 0x10000) (fun h _ => decide (h.toNat < 2 ^ 22)) = true ∧
    okAnd ((agented 0x400000).checkAgent 0 0x10000) (fun h _ => decide (2 ^ 22 ≤ h.toNat)) = true ∧
    (agented 0x1001).me.cont = none := by decide +kernel

/-- The payload block's count word stands at 0x10040, among the records. -/
theorem meets_NetInstructions_share :
    okAnd (agented 0x1001).netStart (fun _ s1 => okAnd (s1.checkAgent 0 0x10000) fun h _ => decide (headerPaykind h ≠ 1)) = true ∧
    (let s (n : Nat) := ahead 2 <| holding (holding (holding (agented 0x11001) 0x10028 8 (2 ^ 56 + 0x5000)) 0x10030 8 0x10040) 0x10040 8 (4 * 2 ^ 32 + n)
     [(true, 1), (false, 2), (false, 1)].all fun (p : Bool × Nat) => okAnd (s p.2).netStart fun _ s1 => okAnd (s1.checkAgent 0 0x10000) fun h s2 =>
       decide (headerPaykind h = 1) && okAnd (s2.recordWords 1 32 0x10000 40 2) fun l s3 => decide (l.length = 2) &&
         okAnd (s3.shareStep 0x10040 p.1) fun r _ => decide (r = (if p.1 then p.2 + 1 else p.2 - 1, 4))) = true := by decide +kernel

theorem meets_NetInstructions_full :
    okAnd (netted 1 0 [0x10000]).netStart (fun _ s => (s.takeAgents 1).isNone && (s.takeCells 1).isNone) = true := by decide +kernel

/-- The state after one item is taken where one is free: which is taken is then no choice. -/
def tookOne (s : State) (size base total : Nat) : State :=
  let tk := s.taken s.me.asid base (size * total) size
  let s := { s with free := s.free + 1, alloc := sins s.alloc (allocKey s.me.asid (base + size * nthFree tk 0)) }
  { s with courier := s.courier ++ (if 0 = total / 8 then [CourierRec.lowPool s.myTower s.me.asid] else []) }

theorem takeItems_last (s : State) (agents : Bool) (size : Nat) (sp : Space) (base total : Nat) (hs : s.space s.me.asid = some sp)
    (hr : regionOf (if agents then sp.agents else sp.cells) s.myTower = some (base, size * total)) (hz : 0 < size)
    (h : (s.taken s.me.asid base (size * total) size).length + 1 = total) :
    s.takeItems agents size 1 =
      some ([base + size * nthFree (s.taken s.me.asid base (size * total) size) 0], tookOne s size base total) := by
  have h0 : size * total / size = total := Nat.mul_div_cancel_left _ hz
  have h1 : total - (s.taken s.me.asid base (size * total) size).length = 1 := by omega
  have h2 : ¬ total ≤ (s.taken s.me.asid base (size * total) size).length := by omega
  simp only [State.takeItems, hs, hr, h0, h1, if_neg h2, Nat.mod_one]
  rfl

theorem meets_NetInstructions_taken :
    okAnd (netted 1 1 []).netStart (fun _ s => decide (s.me.cont = none) &&
      decide (s.space s.me.asid = some (space [(0, 0x10000, 64)] [(0, 0x20000, 8)])) &&
      decide (s.myTower = 0) && decide (s.taken s.me.asid 0x10000 64 64 = []) && decide (s.taken s.me.asid 0x20000 8 8 = []) &&
      okAnd (((tookOne s 8 0x20000 1).setCont { NetCont.of 3 (some 0x6000000000020000) false with puts := [(0x20000, leBytes 8 0)] }).netWrite 0
        0x20000 (leBytes 8 0)) fun _ _ => true) = true := by decide +kernel

/-- The two halves of a record of zeros: whichever AFREE takes first, its write goes through; so does that of a record's other half. -/
def halves0 : List (Nat × List Byte) := [(0x10000, List.replicate 32 0), (0x10020, List.replicate 32 0)]

theorem meets_NetInstructions_halves (n : Nat) :
    (takeAny n halves0 = some ((0x10000, List.replicate 32 0), [(0x10020, List.replicate 32 0)]) ∨
      takeAny n halves0 = some ((0x10020, List.replicate 32 0), [(0x10000, List.replicate 32 0)])) ∧
    ((piecesOf 0x10000 64).map fun p => (p.1, ((List.replicate 64 (0 : Byte)).drop (p.1 - 0x10000)).take p.2)) = halves0 ∧
    halves0.all (fun p => okAnd ((ahead 1 (agented 0x1001)).checkAgent 0 0x10000) fun _ s2 =>
      okAnd ((s2.nextPart.setCont { NetCont.of 0 (some 0) false with puts := [(0x10000, List.replicate 64 0)], cell := some 0x10000 }).netWrite 0 p.1 p.2)
        fun _ _ => true) = true ∧
    halves0.all (fun p =>
      let c : NetCont := { NetCont.of 3 (some 1) false with puts := [(0x10000, List.replicate 64 0)] }
      let s := (agented 0x1001).setCont c
      decide (s.me.cont = some c ∧ c.build = none ∧ 32 < (List.replicate 64 (0 : Byte)).length) &&
        okAnd (s.netWrite 0 p.1 p.2) fun _ _ => true) = true := by
  refine ⟨?_, by decide +kernel, by decide +kernel, by decide +kernel⟩
  unfold takeAny
  have h : Config.pieceOrder n % 2 = 0 ∨ Config.pieceOrder n % 2 = 1 := by omega
  obtain h | h := h <;> simp [h, halves0]

/-- The last write of a step of ANEW, WIRE or AFREE; an exchange at a cell that is HALF with its second bit set, or that holds a wire, BUSY, or a
reserved tag. -/
theorem meets_NetInstructions_last :
    [none, some 0x10000].all (fun cell =>
      let c : NetCont := { NetCont.of 3 (some 1) false with puts := [(0x10000, List.replicate 32 0)], cell := cell }
      let s := (agented 0x1001).setCont c
      decide (s.me.cont = some c) && okAnd (s.netWrite 0 0x10000 (List.replicate 32 0)) fun _ _ => true) = true ∧
    [(0x3000000000010000, Tag.agent), (0x6000000000010000, .wire), (0xE000000000000000, .busy), (0xC000000000010000, .reserved)].all
      (fun (p : Nat × Tag) =>
        let c : NetCont := { NetCont.of 3 none true with exch := some (0x2000000000010000, 0x20000) }
        let s := (holding (netted 1 1 [0x10000, 0x20000]) 0x20000 8 p.1).setCont c
        decide (s.me.cont = some c ∧ c.build = none ∧ c.puts = [] ∧ c.trap = none ∧ s.drained s.cur = true) && okAnd (s.netRead 0 0x20000 true) fun w _ =>
          decide (tagOf w = p.2 ∧ w.getLsbD 60 = (p.2 = .agent))) = true := by decide +kernel

/-- LINK of an agent to a wire begins, looks at the cell, and leaves its reference there. -/
theorem meets_NetInstructions_link :
    let s := ((recorded (netted 1 1 [0x10000, 0x20000]) 0x10000 0x1001 0xE000000000000000).setG 1 0x2000000000010000).setG 2 0x6000000000020000
    let x : Word := 0x2000000000010000
    let y : Word := 0x6000000000020000
    let c := NetCont.of 3 none true
    s.me.cont = none ∧ tagOf (s.getG 1) = .agent ∧ tagOf (s.getG 2) = .wire ∧ refAddr y = 0x20000 ∧
    okAnd (ahead 2 s).linkStart (fun _ s1 => okAnd (s1.checkRef 0 x) fun _ s2 => okAnd (s2.checkRef 2 y) fun _ _ => true) = true ∧
    okAnd ((ahead 1 (s.setCont { c with links := [(x, y)] })).checkCell 0 0x20000) (fun w s1 => decide (w = 0) &&
      okAnd (s1.netRead 1 (slotVa x) false) fun g _ => decide (tagOf g ≠ .empty)) = true ∧
    (let u := s.setCont { c with exch := some (x, 0x20000) }
     u.drained u.cur = true ∧ okAnd (u.netRead 0 0x20000 true) (fun w s1 => decide (w = 0) &&
       okAnd (s1.netPut 0x20000 (leBytes 8 x.toNat)) fun _ _ => true) = true) := by
  decide +kernel

/-- Two agents that face each other, the second of arity 0 and with no payload, or with a shared one. -/
def faced (k header : Nat) : State :=
  let s := recorded (recorded (netted 4 0 [0x10000, 0x10040]) 0x10000 k 0x2000000000010040) 0x10040 header 0x2000000000010000
  (((holding (holding s 0x10010 8 0x6000000000020000) 0x10018 8 0x6000000000020008).setG 1 0x2000000000010000).setG 2 0x2000000000010040)

theorem meets_NetInstructions_facing :
    [0, 1].all (fun k => [0x7, 0x10007].all fun h =>
      let s := ahead 4 <| gotten 0 [(0x10008, 24), (0x10020, 24), (0x10048, 24), (0x10060, 24)] <|
        holding (holding (faced (0x2000 + k) h) 0x10070 8 0x10080) 0x10080 8 (4 * 2 ^ 32 + 1)
      okAnd s.linkStart fun _ s1 => okAnd (s1.facing 0x10000 0x10040 (BitVec.ofNat 12 k)) fun r s2 =>
        decide (headerArity r.1 = 0) && decide (badEnds [r.2.1.getD 1 0, r.2.1.getD 2 0] = none) &&
          okAnd (s2.shareFor r.1 r.2.2 (k == 1)) fun q _ => decide (q.1 = if h = 0x7 then 1 else 2 * k)) = true := by
  decide +kernel

theorem meets_NetInstructions_left :
    (let c := NetCont.of 3 (some 1) false
     let s := ({ base with me := { task with cont := some { c with enq := [(1, 2)] } }, raised := [.meetEnqueue 0 0 1 2] } : State)
     c.puts = [] ∧ base.meetsOwed c = false ∧ s.meetsOwed { c with enq := [(1, 2)] } = true) ∧
    (let c := { NetCont.of 3 (some 1) false with puts := [(0x10000, leBytes 8 1)] }
     let s := ({ netted 1 0 [0x10000] with me := { task with cont := some c } } : State)
     s.me.cont = some c ∧ c.build = none ∧ c.release = none ∧ okAnd (s.netWrite 0 0x10000 (leBytes 8 1)) (fun _ _ => true) = true) := by decide +kernel

/-- The state after the item of a number is taken. -/
def tookAt (s : State) (base i low : Nat) : State :=
  let s := { s with free := s.free + 1, alloc := sins s.alloc (allocKey s.me.asid (base + 64 * i)) }
  { s with courier := s.courier ++ (if low = 0 then [CourierRec.lowPool s.myTower s.me.asid] else []) }

/-- With two records free, ADUP of an agent of arity 0 takes both, in one order or the other. -/
theorem takeAgents_two (s : State) (sp : Space) (base : Nat) (hs : s.space s.me.asid = some sp)
    (hr : regionOf sp.agents s.myTower = some (base, 64 * 2)) (h : s.taken s.me.asid base (64 * 2) 64 = [])
    (h0 : (tookAt s base 0 1).taken s.me.asid base (64 * 2) 64 = [0]) (h1 : (tookAt s base 1 1).taken s.me.asid base (64 * 2) 64 = [1]) :
    s.takeAgents 2 = some ([base, base + 64], tookAt (tookAt s base 0 1) base 1 0) ∨
      s.takeAgents 2 = some ([base + 64, base], tookAt (tookAt s base 1 1) base 0 0) := by
  have hp : Config.allocPick s.free % 2 = 0 ∨ Config.allocPick s.free % 2 = 1 := by omega
  rcases hp with hp | hp
  · left
    have e1 : s.takeItems true 64 2 = (match (tookAt s base 0 1).takeItems true 64 1 with
        | none => none | some (l, s) => some (base :: l, s)) := by
      conv_lhs => rw [State.takeItems]
      simp only [hs, hr, h, if_true]
      simp [hp, nthFree, tookAt] <;> rfl
    have e2 : (tookAt s base 0 1).takeItems true 64 1 = some ([base + 64], tookAt (tookAt s base 0 1) base 1 0) := by
      have hs' : (tookAt s base 0 1).space (tookAt s base 0 1).me.asid = some sp := hs
      have hr' : regionOf sp.agents (tookAt s base 0 1).myTower = some (base, 64 * 2) := hr
      have h0' : (tookAt s base 0 1).taken (tookAt s base 0 1).me.asid base (64 * 2) 64 = [0] := h0
      conv_lhs => rw [State.takeItems]
      simp only [hs', hr', h0', if_true]
      simp [nthFree, tookAt, State.takeItems, Nat.mod_one]
    rw [State.takeAgents, e1, e2]
  · right
    have e1 : s.takeItems true 64 2 = (match (tookAt s base 1 1).takeItems true 64 1 with
        | none => none | some (l, s) => some ((base + 64) :: l, s)) := by
      conv_lhs => rw [State.takeItems]
      simp only [hs, hr, h, if_true]
      simp [hp, nthFree, tookAt] <;> rfl
    have e2 : (tookAt s base 1 1).takeItems true 64 1 = some ([base], tookAt (tookAt s base 1 1) base 0 0) := by
      have hs' : (tookAt s base 1 1).space (tookAt s base 1 1).me.asid = some sp := hs
      have hr' : regionOf sp.agents (tookAt s base 1 1).myTower = some (base, 64 * 2) := hr
      have h0' : (tookAt s base 1 1).taken (tookAt s base 1 1).me.asid base (64 * 2) 64 = [1] := h1
      conv_lhs => rw [State.takeItems]
      simp only [hs', hr', h0', if_true]
      simp [nthFree, tookAt, State.takeItems, Nat.mod_one]
    rw [State.takeAgents, e1, e2]

/-- What takeAgents_two asks for; an agent of arity 0 needs no cells, and AERA of it no agents. -/
theorem meets_NetInstructions_build :
    (let s := { netted 0 0 [0x10000, 0x10040] with spaces := [(0, space [(0, 0x10100, 128), (0, 0x10000, 128)] [(0, 0x20000, 8)])] }
     s.space s.me.asid = some (space [(0, 0x10100, 128), (0, 0x10000, 128)] [(0, 0x20000, 8)]) ∧ s.myTower = 0 ∧
       s.taken s.me.asid 0x10100 128 64 = [] ∧ (tookAt s 0x10100 0 1).taken s.me.asid 0x10100 128 64 = [0] ∧
       (tookAt s 0x10100 1 1).taken s.me.asid 0x10100 128 64 = [1]) ∧
    headerArity 0x7 = 0 ∧ (base.takeCells 0).isSome = true ∧ (base.takeAgents 0).isSome = true := by
  decide +kernel

/-! ### The Sorting Office's instructions -/

/-- 64 bytes of an image in scratch at 0, and a1 over it. -/
def imaged (w0 w1 : Nat) : State :=
  { scratchHolding (scratchHolding (base.setA 1 (scr 0)) 0 8 w0) 8 8 w1 with spaces := [(0, space [] [])] }

/-- A descriptor at 0x1000 of device memory (one register bank, release at device scope) and a launch block in scratch. -/
def launching (regs count cntaddr : Nat) : State :=
  let s := mappedAll (scratchHolding (scratchHolding (scratchHolding (base.setA 1 (scr 0)) 0 8 0x1000) 8 8 (count * 2 ^ 32)) 16 8 cntaddr)
    [0x1000, 0x1080, 0x1100]
  holding s 0x1000 16 (0x2000 + (2 * 2 ^ 56 + regs * 2 ^ 20) * 2 ^ 64)

/-- The pieces of the descriptor at 0x1000 have been read. -/
def described (s : State) : State := gotten 1 [(0x1000, 32), (0x1020, 32), (0x1040, 32), (0x1060, 32)] s

/-- What RulesAndLaunches assumes before it looks at the launch's reason. -/
def launchMeets (s : State) (scope : BitVec 2) (p : LBlock → KDesc → State → Bool) : Bool :=
  let s := described s
  okAnd (s.check 1 0 80 true false 16) fun o s0 => decide (s0.me = s.me) && okAnd (s0.read o 80) fun bs s1 =>
    okAnd (s1.release scope) fun _ s2 => okAnd (s2.officeRead (parseBlock bs).desc 128) fun ds s3 =>
      p (parseBlock bs) (parseDesc (parseBlock bs).desc ds) s3

theorem meets_RulesAndLaunches_rules :
    base.hasRule = false ∧
    (let s := imaged 0x2000 0
     s.hasRule = true ∧ okAnd (s.check 1 0 64 true false 64) (fun o t => decide (t.me = s.me) && okAnd (t.read o 64) fun bs u =>
       decide (ruleReason bs = none ∧ (parseRule bs).2 = false) && (u.space u.me.asid).isSome) = true) ∧
    (let e : RuleEntry := ⟨0, 0, 0, 0, 0, 0, 0, 0, 0, Vector.replicate 4 0⟩
     let s := { imaged 0x2000 (2 ^ 39) with spaces := [(0, { space [] [] with shadow := [e] })] }
     okAnd (s.check 1 0 64 true false 64) fun o t => okAnd (t.read o 64) fun bs u => decide (ruleReason bs = none ∧ (parseRule bs).2 = true) &&
       (u.space u.me.asid).any fun sp => sp.shadow.any fun x => decide (x.kindLo = (parseRule bs).1.kindLo ∧ x.kindHi = (parseRule bs).1.kindHi)) ∧
    (let s := imaged 0x2002 0
     s.hasRule = true ∧ okAnd (s.check 1 0 64 true false 64) (fun o t => okAnd (t.read o 64) fun bs _ => decide (ruleReason bs = some 0x0A)) =
       true) := by decide +kernel

theorem meets_RulesAndLaunches :
    launchMeets (launching 33 1 0) 0b10 (fun b d s => decide (s.launchReason b d = some 3)) = true ∧
    [0, 1].all (fun n => launchMeets (launching 1 n 0) 0b10 fun b d s =>
      decide (s.launchReason b d = none ∧ b.count = n) && (decide (n = 0) || s.somePosition b d)) = true ∧
    launchMeets (holding (launching 1 0 0x1100) 0x1100 4 2) 0b10 (fun b d s => decide (s.launchReason b d = none) &&
      okAnd (s.indCount b 0b10) fun n t => decide (n = 2) && t.somePosition b d) = true ∧
    launchMeets (holding (launching 1 0 0x1100) 0x1100 4 (2 ^ 24)) 0b10 (fun b d s => decide (s.launchReason b d = none) &&
      okAnd (s.indCount b 0b10) fun n _ => decide (n = 2 ^ 24)) = true := by decide +kernel

/-- The task belongs to a group whose descriptor names a successor, or none. -/
def grouped (succ live : Nat) : State :=
  let s := launching 1 0 0
  { s with
    me := { s.me with gid := some 5 },
    groups := [⟨5, 0, 0, { parseDesc 0 (List.replicate 128 0) with succ := BitVec.ofNat 56 succ }, 0, 0, 1, 1, 0, Vector.replicate 6 0, 0, 6, live, 0,
      false, none, [0]⟩] }

theorem meets_TaskEnds :
    (base.engineBusy base.me.tid = false ∧ okAnd (base.release 0b10) (fun _ s => decide (s.me.gid = none)) = true ∧ base.me.rep = none ∧
      base.me.gid = none) ∧
    (let c : MCmd := { base.newM .aclr ⟨0, false, false, false⟩ .fp32 0 with id := 1 }
     ({ base with mcmds := [c] } : State).engineBusy 1 = true) ∧
    ((grouped 0 1).me.gid = some 5 ∧ ((grouped 0 1).groupOf 5).isSome = true ∧ ((grouped 0 1).groupOf 5).all (fun g => g.desc.succ = 0) = true) ∧
    [1, 2].all (fun live =>
      let s := described (grouped 0x1000 live)
      decide (s.me.succ = none) && (s.groupOf 5).any fun g => decide (g.desc.succ ≠ 0 ∧ g.broken = false ∧ (g.held + 1 = g.live ↔ live = 1)) &&
        okAnd (s.officeRead g.desc.succ.toNat 128) fun ds s1 =>
          let d := parseDesc 0x1000 ds
          let passes (u : State) : Bool := okAnd (u.release d.rscope) fun _ v => v.succQuiet v.me.tid g.desc
          decide (s1.succReason g d = none) && passes { s1 with me := { s1.me with succ := some d } } &&
            passes { s with me := { s.me with succ := some d } }) = true ∧
    (let s := described (holding (grouped 0x1000 2) 0x1000 8 3)
     (s.groupOf 5).any (fun g => decide (g.desc.succ ≠ 0) && okAnd (s.officeRead g.desc.succ.toNat 128) fun ds s1 =>
       decide (s1.succReason g (parseDesc 0x1000 ds) = some 0x0A)) = true) ∧
    (let s := base.setTower 0 { base.tower 0 with keys := [⟨0, 1, []⟩] }
     s.keyHolder 0 = some (s.holderOf s.me) ∧ okAnd (s.release 0b10) (fun _ _ => true) = true) ∧
    base.keyHolder 0 ≠ some (base.holderOf base.me) ∧ base.hasGov = false ∧ (imaged 0 0).hasGov = true ∧
    ((base.setG 1 0x200).getG 1).getLsbD 9 = true ∧ (base.getG 1).getLsbD 9 = false ∧
    base.coreLive 0 = true ∧ base.coreLive 1023 = true ∧ (let s := { base with grade := .c }; s.coreLive 1023 = false) := by decide +kernel

/-! ### Matrix instructions -/

/-- Tensor 0 of address space 0: 256 by 256 of BF16 at 0x4000, readable and writable; g1, g2 and g3 zero or as given. -/
def tensored (gb gc : Nat) : State :=
  let s := { base with spaces := [(0, space [] [])] }
  let s := holding (holding (holding (holding (holding s 0x30000 8 (7 * 2 ^ 61 + 0x4000)) 0x30008 8 (1 + 2 ^ 10)) 0x30010 8 (256 + 2 * 2 ^ 32))
    0x30018 8 (256 + 512 * 2 ^ 32)) 0x30038 8 (2 ^ 18)
  (s.setG 2 (BitVec.ofNat 64 gb)).setG 3 (BitVec.ofNat 64 gc)

def noE : EFlags := ⟨0b10, false, false, false⟩

/-- A task of supervisor core 0, which is core 1024. -/
def supervising : State := { base with cur := 4096 }

theorem meets_MatrixIssue :
    isSup supervising.myCore = true ∧ isSup base.myCore = false ∧
    (let s := { base with tileOwner := [(1, 9)] }; s.tileTaken (tileOf s.myCore 1) = true ∧ s.tileTaken (tileOf s.myCore 0) = false) ∧
    (bOp ((tensored 32 0).getG 2)).o % 64 ≠ 0 ∧ (bOp ((tensored 65472 0).getG 2)).o % 64 = 0 ∧
    (let s := tensored 0 0
     okAnd (s.aCheck (shapeOf 0) .bf16 (.tensor 0 1)) (fun r t => decide (r.1 = none ∧ t.me = s.me)) = true ∧
     (bOp (s.getG 2)).progress < allSteps false (shapeOf 0) ∧ (bOp (s.getG 2)).progress < allSteps true (shapeOf 0) ∧
     okAnd (({ s with nextId := s.nextId + 1 } : State).engineLeave noE) (fun _ _ => true) = true) ∧
    allSteps false (shapeOf 0) ≤ (bOp ((tensored (2 * 2 ^ 48) 0).getG 2)).progress ∧
    allSteps true (shapeOf 0) ≤ (bOp ((tensored (4 * 2 ^ 48) 0).getG 2)).progress ∧
    okAnd ((base.setQ 4 ⟨0x2000, 0x4000, 2, 7, 3, 0, 0⟩).aCheck (shapeOf 0) .bf16 (.ring 4)) (fun r _ => r.1.isSome) = true ∧
    (let s := tensored 0 (64 + 2 ^ 16 * 256)
     let d := s.tensorOf 0 0
     d.scale = 0 ∧ tensorReason d false 0 64 0 256 .bf16 = none ∧ (s.getG 3).toNat / 2 ^ 16 % 512 = 256 ∧ (s.getG 3).toNat % 512 = 64 ∧
       (bOp (s.getG 2)).bscale = false) ∧
    (let s := tensored (127 + 255 * 2 ^ 8) 0
     let w := aWin (s.getG 2)
     tensorReason (s.tensorOf 0 0) true 0 w.rows 0 w.cols .bf16 = none ∧ w.rows = 128 ∧ w.cols = 256) ∧
    (let c : MCmd := base.newM .aclr noE .fp32 0
     base.mcmds = [] ∧ c.tid = base.me.tid ∧ base.queueFree 0 0 = true ∧
       ({ base with mcmds := [{ c with phase := .waiting }] } : State).queueFree 0 0 = false ∧
       ({ base with mcmds := [{ c with phase := .leaving }] } : State).mcmds.find? (fun c => c.key == base.cur && c.phase == .leaving) =
         some { c with phase := .leaving }) := by decide +kernel

/-! ### Copy and post instructions -/

/-- a1 and a2 over scratch with E, a3 over global addresses with E, and gb. -/
def copying (gb : Nat) : State := (((base.setA 1 (scr 0)).setA 2 (scr 0x2000)).setA 3 { glob 0 with e := true }).setG 4 (BitVec.ofNat 64 gb)

/-- A check that answers a side and leaves the state alone. -/
def sideOk (s : State) (a : BitVec 4) (len : Nat) (wr : Bool) (p : Side → Bool) : Bool :=
  okAnd (s.engCheck a len wr) fun x t => decide (t = s) && p x

theorem meets_CopyIssue_traps :
    (let s := (copying 0).setG 5 2; ¬ ((s.getG 5) = 0 ∨ ((s.getG 5).toNat < 2 ^ 56 ∧ (s.getG 5).toNat % 4 = 0))) ∧
    ((copying 0x100000000000000).setG 5 0x100000000000000).getG 5 ≠ 0 ∧ ((copying 257).getG 4).toNat % 512 = 257 ∧
    ((copying 8193).getG 4).toNat % 2 ^ 14 = 8193 ∧ (copying 0).getG 5 = 0 ∧
    (let s := { copying 0 with cores := [(0, { Core.reset with dead := true })] }; s.coreLive 0 = false) := by decide +kernel

theorem meets_CopyIssue :
    (let s := copying 64
     sideOk s 1 64 false (fun x => x.scratch && decide (x.addr % 4 = 0)) = true ∧ sideOk s 2 64 true (fun x => decide (x.addr % 4 = 0)) = true ∧
     sideOk s 3 64 true (fun x => !x.scratch) = true ∧ okAnd (({ s with nextId := s.nextId + 1 } : State).engineLeave noE) (fun _ _ => true) = true ∧ isSup s.myCore = false ∧
     s.coreLive 0 = true ∧ (s.getG 4).toNat / 2 ^ 40 < 64 ∧ (s.getG 5) = 0 ∧ (s.getG 7).toNat % 16 = 0 ∧ s.ecmds = [] ∧
     sideOk s 1 0 false (fun _ => true) = true ∧ sideOk s 3 64 false (fun x => !x.scratch) = true) ∧
    (let c := { base.newE .cpy noE with phase := .leaving }
     ({ base with ecmds := [c] } : State).ecmds.find? (fun c => c.key == base.cur && c.phase == .leaving) = some c) ∧
    (let s := copying (64 * 2 ^ 40 + 64); 64 ≤ (s.getG 4).toNat / 2 ^ 40 ∧ (s.getG 4).toNat % 2 ^ 14 = 64) ∧
    (let s := { copying (2 ^ 39 + 127 * 2 ^ 32 + 256) with me := { (copying (2 ^ 39 + 127 * 2 ^ 32 + 256)).me with bars := [127] } }
     (s.getG 4).getLsbD 39 = true ∧ (s.getG 4).toNat / 2 ^ 32 % 128 ∈ s.me.bars ∧ sideOk s 1 256 false (fun _ => true) = true) := by decide +kernel

theorem meets_MailboxesAndBarriers :
    (let k (n : Nat) := ((base.setG 1 (BitVec.ofNat 64 (2 ^ 8 * n))).getG 1).toNat / 2 ^ 8 % 16
     [0, 1, 8, 9, 15].all (fun n => k n = n) = true) ∧
    (base.box 0 3).depth < 16 ∧ (base.box 0 3).entries.length < 16 ∧
    (let x := ((base.setG 1 (1023 + 2 ^ 16)).getG 1).toNat; x / 2 ^ 16 % 2 ^ 11 = 1 ∧ x % 1024 + 1 ≤ 1024) ∧
    (let x := ((base.setG 1 (1023 + 2 * 2 ^ 16)).getG 1).toNat; 1024 < x % 1024 + x / 2 ^ 16 % 2 ^ 11) ∧
    scratchOk (base.setA 1 (scr 0x3FFC)) 1 4 false true 4 = true ∧
    okAnd (storing.check 1 0x1000 4 false true 4) (fun o s => !o.scratch && okAnd (s.writeParts o 4) fun ps s2 =>
      decide (s2.reqs = [] ∧ ps.length = 1)) = true ∧
    127 ∉ base.me.bars ∧
    (let s := { base with me := { task with bars := [127] } }
     127 ∈ s.me.bars ∧ ((s.setG 2 0x8000000000000001).getG 2).getLsbD 63 = true ∧ (s.getG 2).getLsbD 63 = false ∧ (s.bar 0 127).expected = 0 ∧
     (let t := s.setBar 0 127 { Barrier.zero with expected := 1 }; (t.bar 0 127).fired = false ∧ (t.bar 0 127).expected ≠ 0)) ∧
    okAnd (base.release 0b10) (fun _ _ => true) = true := by decide +kernel

/-! ### Steps of the device -/

/-- A store of core 0's slot 0 to device address 0x1000, at a stage. -/
def reqAt (stage : ReqStage) : Req := ⟨5, 0, 1, 0, 0x1000, false, 0x1000, .store [some 1, none], 0b10, false, stage, false, false, Vector.replicate 4 0⟩
def going (stage : ReqStage) : State := { base with reqs := [reqAt stage] }

/-- Tables for virtual page 0 of class 0, at 0x8000 on. -/
def paged : State :=
  holding (holding (holding (holding { base with spaces := [(0, { space [] [] with root := 0x8000 })] } 0x8000 8 0x9001) 0x9000 8 0xA001)
    0xA000 8 0xB001) 0xB000 8 0x101

theorem meets_RequestTravel :
    (let s := going .buffer
     s.reqs = [reqAt .buffer] ∧ coreOfKey 0 = 0 ∧ (s.core 0).portq = [] ∧ (s.core 0).portFree (s.cycleAt 0) = true ∧
       ({ s.core 0 with sentAt := 1 } : Core).portFree (s.cycleAt 0) = false ∧ (reqAt .buffer).cost ≤ nget (s.core 0).bucket (s.tenantOf 0)) ∧
    (let c := { Core.reset with busy := #v[true, true, true, true] }
     let s := { base with cores := [(0, c)] }
     s.towerOf 0 = 0 ∧ (∀ k < 4, 0 < nget c.shares k) ∧ nget c.shares 0 + nget c.shares 1 + nget c.shares 2 + nget c.shares 3 = 64) ∧
    (∀ st ∈ [ReqStage.slice, .rdc, .home, .gap, .response], (going st).req 5 = some (reqAt st) ∧ (reqAt st).rewalk = false ∧
      homeOf (reqAt st).pa = some (.tower ((going st).towerOf 0)) ∧ (reqAt st).key ≠ 4112 ∧ (going st).frameStalled (reqAt st).pa = false ∧
      (going st).pinOf ((reqAt st).pa / 128) = none ∧ (going st).gapOpen 0 = true ∧ clockCovers ((going st).vc 0) (reqAt st).clock [0] = true ∧
      (going st).reqs.takeWhile (·.id ≠ 5) = []) ∧
    (let s := { base with reqs := [{ reqAt .slice with id := 4 }, reqAt .home] }
     s.req 5 = some (reqAt .home) ∧ ∃ x ∈ s.reqs.takeWhile (·.id ≠ 5), x.key = 0 ∧ x.pa / 32 = 0x1000 / 32 ∧ x.unperformed = true) ∧
    homeOf ({ reqAt .slice with pa := 2 ^ 38 }).pa = some (.tower 1) ∧
    (let r := { reqAt .slice with rewalk := true }
     let s := mapped { base with reqs := [r] } 0x1000
     s.req 5 = some r ∧ okLook ((s.wakeRouter 0 (s.sliceOf 0 r.va)).reTranslate r) (fun pa _ => decide (homeOf pa = some (.tower 0))) = true) ∧
    (let s := (going .home).setTower 0 { base.tower 0 with vc := #v[0x40000, 0, 0, 0] }; s.gapOpen 0 = false) ∧
    ({ going .home with stallFrames := [(0x1000, 1024)] } : State).frameStalled 0x1000 = true ∧
    ({ going .home with pins := [⟨1, 32, [], [9]⟩] } : State).pinnedAway (clusterOpt 0) 32 = true ∧
    (let r := { reqAt .response with scope := 0b11, clock := #v[1, 0, 0, 0] }
     clockCovers (base.vc 0) r.clock [0] = true ∧ base.allApplied r.clock = false ∧ base.allApplied (reqAt .response).clock = true ∧
       clockCovers (base.vc 0) #v[0, 1, 0, 0] [0] = false) ∧
    (base.space 0 = none ∧ (base.ctx 0).asid = 0 ∧ base.mustComplete 0 = false ∧ (base.ctx 0).run = .running) ∧
    (paged.space 0).isSome = true ∧ (match paged.walk 0x8000 0x1000 false with | .ok l => decide (l.frame = 0) | .error _ => false) = true ∧
    (let a : Announcement := ⟨1, 0, 32, none, [], false, 1, (Vector.replicate 4 0).set 1 1⟩
     let s := { base with anns := [a] }
     s.nextAnn 0 1 = some a ∧ s.annReady a = true) ∧
    (let s := { State.reset with nextId := 10 }
     (s.routerCores 3 63).all (fun k => decide (s.residents k = [] ∧ (s.core k).l1 = [])) = true ∧ s.routerBusy 3 63 = false ∧
       tget 0 s.routed 255 + 3584 ≤ ((s.setTower 3 { s.tower 3 with cycle := 3584 }).tower 3).cycle ∧ (s.tower 3).cycle < tget 0 s.routed 255 + 3584) ∧
    (going .home).routerBusy 0 ((going .home).sliceOf 0 0x1000) = true ∧ smem ({ base with gated := [255], stale := [255] } : State).stale 255 = true ∧
    (let s := { base with gated := [255] }; smem s.gated 255 = true ∧ smem s.stale 255 = false) := by decide +kernel

/-- The task of slot 0 in a state of running. -/
def doing (r : Run) : State := { base with me := { task with run := r } }

theorem meets_WaitSteps :
    (∀ y ∈ [Stall.refused 3, .clock, .drain, .reductions, .queue, .pool, .migration, .engine 0], ((doing (.stalled y)).ctx 0).run = .stalled y) ∧
    (let c : Vector (BitVec 20) 4 := #v[0, 0, 0, 1]
     ((doing (.stalled (.applied c))).ctx 0).run = .stalled (.applied c) ∧ base.allApplied c = false ∧ base.allApplied (Vector.replicate 4 0) = true) ∧
    (let s := { base with monitors := [⟨0, 32, false⟩, ⟨1, 33, true⟩] }
     s.monitor 0 32 = some ⟨0, 32, false⟩ ∧ s.monitor 1 33 = some ⟨1, 33, true⟩ ∧ s.pinOf 32 = none) ∧
    (doing (.parked (.wait 32 5 none))).slots = [] ∧ monitorOf (doing (.parked (.rwait 32))).myCore = 0 ∧
    (∀ p ∈ [Park.wait 32 5 (some 0), .sleep 0, .barWait 3 5 (some 0)], ((doing (.parked p)).ctx 0).run = .parked p ∧
      0 ≤ (doing (.parked p)).now 0) ∧
    (let s := doing (.stalled (.busy 0x10008 0 0))
     (s.ctx 0).run = .stalled (.busy 0x10008 0 0) ∧ (s.ctx 0).preempt = false ∧ s.now 0 < 0 + 224 ∧
       0 + 224 ≤ (s.setTower 0 { s.tower 0 with cycle := 224 }).now 0) ∧
    (∀ p ∈ [(true, false), (true, true), (false, false)],
      let n : NetCont := { NetCont.of 3 none true with made := p.1, told := p.2 }
      let s := { base with me := { task with run := .stalled (.busy 0x10008 0 0), cont := some n } }
      (s.ctx 0).cont = some n ∧ n.made = p.1 ∧ n.told = p.2 ∧ s.now 0 < 0 + 1050 ∧
        0 + 1050 ≤ (s.setTower 0 { s.tower 0 with cycle := 1050 }).now 0) := by decide +kernel

theorem meets_ShootdownAndErrors :
    (let d : Shootdown := ⟨7, 0x1000, 1, 0xFFFF, false, false, false, 0, 0x2000⟩
     let s (edges : List (Nat × Nat)) (reached drained acked : List Nat) : State := { base with shoots := [⟨d, edges, reached, drained, acked, []⟩] }
     ((s [] [] [] []).shoot d.id).any (fun x => !x.reached.contains 255) = true ∧ base.shoot d.id = none ∧ base.phase ≠ 0xF ∧
     ((s [] [255] [] []).shoot d.id).any (fun x => x.reached.contains 255 && !x.drained.contains 255 && !(s [] [255] [] []).shootBusy x.sd x.pins 3 63) =
       true ∧
     (let r := { reqAt .slice with rewalk := true }
      let u := { s [] [0] [] [] with reqs := [r, { r with id := 6, rewalk := false }] }
      u.shootBusy d [] 0 (u.sliceOf 0 0x1000) = true ∧
        ({ base with pins := [⟨0, 32, List.replicate 128 0, [1]⟩] } : State).shootBusy d [32] 0 (u.sliceOf 0 0x1000) = true) ∧
     ((s [(0, 255)] [255] [255] []).shoot d.id).any (fun x => x.drained.contains 255 && !x.acked.contains 255 &&
       (x.edges.all fun e => e.1 != 255 || x.acked.contains e.2) && decide (x.edges.find? (·.2 == 255) = some (0, 255))) = true ∧
     ((s [(0, 255)] [0, 255] [0, 255] [255]).shoot d.id).any (fun x => x.drained.contains 0 && !x.acked.contains 0 &&
       x.edges.all fun e => e.1 != 0 || x.acked.contains e.2) = true ∧
     homeOf d.done = some (.tower 0) ∧ base.frameStalled d.done = false ∧ base.pinOf (d.done / 128) = none ∧
     ({ base with stallFrames := [(0x2000, 1024)] } : State).frameStalled d.done = true ∧
     ({ base with mboxSd := some 7 } : State).mboxSd = some d.id) ∧
    ([ReqStage.buffer, .slice, .rdc, .home, .gap].all fun st => (reqAt st).unperformed) = true ∧
    (let s := going .home; s.reqs = [reqAt .home] ∧ 0x1000 ≤ (reqAt .home).pa ∧ (reqAt .home).pa < 0x1000 + 1024) ∧
    (let s := { base with held := [⟨8, 0, 5, 0, 0x2000, 4, .doneWord (some 0) true⟩] }; ∀ w ∈ s.held, w.kind = .doneWord (some 0) true) ∧
    ({ base with phase := 0xF } : State).phase = 0xF ∧
    (∃ l ∈ ({ base with l2 := [⟨0, 5, 0, 32, 32, true, true, true, true⟩] } : State).l2, l.tower = 0 ∧ l.pline = 128 / 4) ∧
    smem ({ base with msc := [32] } : State).msc (128 / 4) = true ∧ (2 ^ 19 - 1 < 2 ^ 19 ∧ 2 ^ 17 - 1 < 2 ^ 17) ∧
    homeOf (127 * 32) = some (.tower 0) ∧ (base.ctx 0).run ≠ .empty ∧ 511 < 128 * (base.ctx 0).scratch := by decide +kernel

/-! ### The Sorting Office on its own -/

/-- A rule for the kinds 1 and 2, of class 3 and priority 9, with one register bank. -/
def rule : RuleEntry := ⟨0x2000, 2, 1, 3, 9, 1, 0, 0, 0, Vector.replicate 4 0⟩
/-- Agents of kinds 1 and 2, under a table with the rule, or without. -/
def meeting (l : List RuleEntry) : State :=
  let s := recorded (recorded (netted 2 0 [0x10000, 0x10040]) 0x10000 1 0) 0x10040 2 0
  { s with spaces := [(0, { space [(0, 0x10000, 128)] [] with published := Vector.replicate 4 l })] }
def rec3 : MeetRec := ⟨0, 0, 0x10000, 0x10040, 3, 9, 1⟩
def unit3 : KeyUnit := ⟨4, 0, .meet rec3 rule, [], []⟩

theorem pigeonCap_ge (x : Tower) (i : Nat) : 4096 ≤ x.pigeonCap i := by unfold Tower.pigeonCap; dsimp only; omega
theorem hasRoom_nil {x : Tower} (st : BitVec 3) (h : x.pigeon = []) : x.hasRoom st = true := by
  have := pigeonCap_ge x st.toNat
  simp only [Tower.hasRoom, Tower.occupancy, h, List.filter_nil, List.length_nil, decide_eq_true_eq]
  omega
theorem hasRoom_full (x : Tower) : ({ x with pigeon := List.replicate (x.pigeonCap 3) rec3 } : Tower).hasRoom 3 = false := by
  simp only [Tower.hasRoom, Tower.occupancy, List.filter_replicate, rec3, beq_self_eq_true, if_true, List.length_replicate, decide_eq_false_iff_not,
    Nat.not_lt]
  exact Nat.le_refl _

theorem meets_MeetsAndKeys_enqueue :
    gotAnd ((meeting []).kindsOf 0 0 0 0x10000 0x10040) (fun r u => decide (r = (1, 2) ∧ findRule (u.published 0 0) 1 2 = none ∧
      (u.tower 0).heldFault = [] ∧ (u.tower 0).pfault = [])) = true ∧
    gotAnd ((meeting [rule]).kindsOf 0 0 0 0x10000 0x10040) (fun r u => decide (r = (1, 2) ∧ findRule (u.published 0 0) 1 2 = some rule ∧
      (u.tower 0).pigeon = [] ∧ (u.tower 0).heldEnq = [])) = true ∧
    ({ meeting [rule] with pins := [⟨0, 512, [], [1]⟩] } : State).kindsOf 0 0 0 0x10000 0x10040 matches .wait _ := by decide +kernel

theorem meets_MeetsAndKeys_unsent (c : Nat) : Raised.meetEnqueue 0 c 1 2 ∉ base.raised := by
  rw [show base.raised = [] from rfl]; exact List.not_mem_nil

theorem meets_MeetsAndKeys_held :
    (let s := base.setTower 0 { base.tower 0 with heldEnq := [rec3] }
     (s.tower 0).heldEnq = [rec3] ∧ ((s.enlarge 0).tower 0).pigeon = []) ∧
    (let s := base.setTower 0 { base.tower 0 with heldFault := [.task 1] }
     (s.tower 0).heldEnq = [] ∧ (s.tower 0).heldFault = [.task 1] ∧ (s.tower 0).pfault = []) := by decide +kernel

theorem meets_MeetsAndKeys :
    (let s := { base with units := [unit3] }
     s.slotFree 1 = true ∧ s.coreOpen (coreOfKey 1) = true ∧ (s.restoreFor (coreOfKey 1)).isNone = true ∧
       (match s.bestWork (coreOfKey 1) with | some (.unit u m e) => decide (u = unit3 ∧ m = rec3 ∧ e = rule) | _ => false) = true ∧
       s.slotTakes 1 rule.shape = true) ∧
    (let s := (meeting [rule]).setTower 0 { base.tower 0 with pigeon := [rec3] }
     (match s.bestWork 0 with | some (.meet m) => decide (m = rec3) | _ => false) = true ∧
       gotAnd (s.kindsOf (s.towerOf 0) rec3.asid rec3.core rec3.x rec3.y) (fun r u =>
         decide (findRule (u.published (s.towerOf 0) rec3.asid) r.1 r.2 = some rule ∧ rule.nkeys = 0) && u.slotTakes 1 rule.shape) = true) ∧
    (let u : State := { base with units := [{ unit3 with need := [5, 6] }] }
     let free (s : State) : Bool := decide ((4, 5) ∉ (s.tower 1).keyWait ∧ ∀ e ∈ (s.tower 1).keys, e.key = 5 → e.holder ≠ 4 ∧ 4 ∉ e.waiters)
     let held := u.setTower 1 { base.tower 1 with keys := [⟨5, 3, [9]⟩] }
     base.unitOf 4 = none ∧ (u.unitOf 4).map (·.need.head?) = some (some 5) ∧ free u = true ∧ free held = true ∧
       (u.tower (keyHome 5)).keys.find? (·.key == 5) = none ∧ (u.tower (keyHome 5)).keys.length < 8192 ∧
       (held.tower 1).keys.find? (·.key == 5) = some ⟨5, 3, [9]⟩ ∧ held.keyHolder 5 ≠ some 4 ∧
       (let given := u.setTower 1 { base.tower 1 with keys := [⟨5, 4, []⟩] }; given.keyHolder 5 = some 4 ∧ free given = false)) ∧
    (let s (ws : List Nat) := base.setTower 1 { base.tower 1 with keys := [⟨5, 4, ws⟩] }
     keyHome 5 = 1 ∧ ((s []).tower 1).keys.find? (·.key == 5) = some ⟨5, 4, []⟩ ∧ ((s [6]).tower 1).keys.find? (·.key == 5) = some ⟨5, 4, [6]⟩) ∧
    ((base.setTower 1 { base.tower 1 with keys := [⟨5, 4, []⟩] }).keyHolder 5 ≠ some 6 ∧ base.raised = []) ∧
    (let s := base.setTower 1 { base.tower 1 with keyWait := [(4, 5)] }; (s.tower 1).keyWait = [(4, 5)] ∧ (s.tower 1).keys = []) ∧
    (let s := base.setTower 1 { base.tower 1 with keyWait := [(4, 5), (6, 9)], keys := [⟨5, 3, []⟩] }
     keyHome 9 = 1 ∧ (s.tower 1).keys.find? (·.key == 5) = some ⟨5, 3, []⟩ ∧ (s.tower 1).keys.find? (·.key == 9) = none) := by decide +kernel

theorem meets_MeetsAndKeys_full (l : List KeyEntry) (h : l = List.replicate 8192 ⟨6, 4, []⟩) : l.find? (·.key == 5) = none ∧ 8192 ≤ l.length := by
  subst h
  exact ⟨List.find?_eq_none.2 fun x hx => by rw [List.eq_of_mem_replicate hx]; decide, by rw [List.length_replicate]⟩

/-- A descriptor of one core and one register bank, a launch of it on core 5 with its keys held, a group of it there. -/
def desc1 : KDesc := { parseDesc 0x1000 (List.replicate 128 0) with code := 0x2000, regs := 1, rscope := 2 }
def launch1 : Launch := ⟨3, 0, 0, desc1, 5, 0, 1, 1, 1, 0, 0, 0, Vector.replicate 6 0, some 4⟩
def group1 (succ : Option KDesc) (slots : List SlotKey) : Group :=
  ⟨5, 0, 0, desc1, 5, 0, 1, 1, 0, Vector.replicate 6 0, 0, 4, 1, 0, false, succ, slots⟩

theorem meets_GroupsAndGovernor :
    (let l := { launch1 with unit := none, desc := { desc1 with nkeys := 1, keys := #v[5, 0, 0, 0] } }
     ({ base with launches := [l] } : State).launches.find? (·.id == l.id) = some l ∧
       recipeKeys l.desc.nkeys l.desc.keys (l.keyarg + BitVec.ofNat 64 l.next) = [5]) ∧
    (let s := { base with launches := [launch1] }
     let u := { s with suspended := [⟨task, 0, .yield, true, 5, [], [], []⟩] }
     (s.launches.find? (·.id == launch1.id) = some launch1 ∧ launch1.unit = some 4 ∧ s.groupReady launch1 = true ∧
       s.findPosition launch1 = some 0) ∧ launch1.cores 0 = [5] ∧ s.outranked launch1 5 = false ∧ u.outranked launch1 5 = true ∧
       u.slotFor 5 launch1.desc.shape = some 20 ∧ u.findPosition launch1 = some 0) ∧
    (let s := { base with groups := [group1 none [20]], reserved := [(20, 5)] }
     s.groupOf 5 = some (group1 none [20]) ∧ s.reserved.find? (fun r => r.2 == 5 && coreOfKey r.1 == 5) = some (20, 5) ∧ s.coreLive 5 = true ∧
       (s.core 5).stopped = false ∧ ((s.setCore 5 { Core.reset with stopped := true }).core 5).stopped = true ∧
       (s.setCore 5 { Core.reset with dead := true }).coreLive 5 = false) ∧
    (let s := { base with groups := [group1 (some desc1) [0]], me := { task with run := .held, gid := some 5 } }
     (s.groupOf 5).any (fun g => decide (g.succ = some desc1 ∧ g.held ≠ g.live) && !g.broken) = true ∧ s.slots = [] ∧ s.me.gid = some 5 ∧ s.me.run = .held ∧
     (let g := { group1 (some desc1) [0] with held := 1 }
      let k1 := { desc1 with nkeys := 1, keys := #v[5, 0, 0, 0] }
      let other : State := { s with groups := [g] }
      let keyed := (({ s with groups := [{ g with succ := some k1 }] } : State).setTower 1 { s.tower 1 with keys := [⟨5, 4, []⟩] })
      g.held = g.live ∧ g.broken = false ∧ other.groupOf 5 = some g ∧ g.succKeys desc1 = [] ∧ other.unitKeys 4 = [] ∧
        (keyed.groupOf 5).any (fun g => decide (g.succKeys k1 = [5])) = true ∧ keyed.unitKeys 4 = [5])) ∧
    (let x := { base.tower 0 with pigeon := [rec3], high := (base.tower 0).high.set 3 0 }
     let s := (base.setTower 0 x).setCore 5 { base.core 5 with mask := 1 }
     (∀ i < 8, i ≠ 3 → x.occupancy (BitVec.ofNat 3 i) ≤ (x.high[i]!).toNat ∧ (x.low[i]!).toNat ≤ x.occupancy (BitVec.ofNat 3 i)) ∧
       (x.high[3]!).toNat < x.occupancy 3 ∧
       s.movedFirst ((s.coresOf 0).filter fun c => s.coreLive c && !(s.core c).serves 3 && (s.core c).rested x.cycle) = some 5) ∧
    (∀ n ∈ [1, 4], ((doing (.stalled (.towers n))).ctx 0).run = .stalled (.towers n)) ∧
    (let ga : Word := 7; let gb : Word := 0x00100020; ga.toNat / 2 ^ 8 % 4 = 0 ∧ (gb.extractLsb' 16 16).toNat ≤ (gb.extractLsb' 0 16).toNat) ∧
    (let gb : Word := 0x00200010; (gb.extractLsb' 0 16).toNat < (gb.extractLsb' 16 16).toNat) ∧ (0x107 : Word).toNat / 2 ^ 8 % 4 = 1 ∧
    (meeting [rule]).space 0 ≠ none := by decide +kernel

/-- The task of `base`, suspended in its frame. -/
def frame1 : Suspended := ⟨task, 0, .yield, true, 0, [], [], []⟩
def away : State := { State.reset with suspended := [frame1], nextId := 10 }

theorem meets_SuspensionSteps :
    (∀ r ∈ [Run.running, .parked .mxwait, .stalled .drain], ((doing r).ctx 0).run = r ∧ (doing r).mustComplete 0 = false) ∧
    ({ base with me := { task with issued := true } } : State).mustComplete 0 = true ∧ base.phase ≠ 0xF ∧
    (let s := doing (.suspending .yield); (s.ctx 0).run = .suspending .yield ∧ Cause.yield ≠ .ended ∧ s.suspendReady 0 = true ∧
      s.unpinTask (s.ctx 0).tid = s ∧ (({ s with reqs := [reqAt .home] } : State).unpinTask 1).suspendReady 0 = false) ∧
    (let s : State := { doing (.suspending .yield) with pins := [⟨0, 32, List.replicate 128 0, [1]⟩] }
     (s.unpinTask (s.ctx 0).tid).suspendReady 0 = true) ∧ ({ base with phase := 0xF } : State).phase = 0xF ∧
    away.suspendedOf 1 = some frame1 ∧ away.keyOf 1 = none ∧ frame1.cleared = true ∧ frame1.ctx.gid = none ∧ frame1.ctx.succ = none ∧ base.keyOf 1 = some 0 ∧
    (let x : Suspended := { frame1 with ctx := { task with gid := some 5, succ := some desc1 } }
     let s : State := { away with suspended := [x], groups := [{ group1 (some desc1) [0] with live := 2 }] }
     s.suspendedOf 1 = some x ∧ (s.groupOf 5).any (fun g => !g.broken && decide (g.held + 1 ≠ g.live)) = true ∧
       firstSome (fun co => if (s.restoreFor co).any (·.ctx.tid == 1) then s.restoreSlot x co else none) (s.restoreOrder x) = some 0) ∧
    (let s := { base with groups := [group1 (some desc1) [0]], me := { task with run := .held, gid := some 5 } }
     (s.groupOf 5).isSome = true ∧ s.slots = [] ∧ s.myCore = 0 ∧ s.coreLive 0 = true ∧ (s.core 0).stopped = false) ∧
    firstSome (fun co => if (away.restoreFor co).any (·.ctx.tid == 1) then away.restoreSlot frame1 co else none) (away.restoreOrder frame1) =
      some 0 ∧
    base.coreLive 0 = true ∧ isSup 0 = false ∧ base.slots = [] ∧ base.myCore = 0 ∧ (base.core 0).stopped = false ∧ base.residents 0 ≠ [] ∧
    base.residents 5 = [] ∧ (let s := base.setCore 5 { Core.reset with stopped := true }; (s.core 5).stopped = true ∧ s.coreLive 5 = true) ∧
    base.coreStuck 0 = false ∧ (base.setTower 0 { base.tower 0 with cycle := 2 ^ 20 }).coreStuck 0 = true := by decide +kernel

theorem meets_SuspensionSteps_target :
    base.targetOf (base.core 1024).target = some 0 ∧ (base.setCore 0 { Core.reset with dead := true }).targetOf 0 = none ∧
    base.targetOf 0x8000 = some 1028 ∧ regionIndex 0x047 = some 7 ∧ (regionIndex 0x050).isSome = false := by decide +kernel

/-! ### Engines -/

/-- A command of cluster 0's array that runs for the task of slot 0, attached unless the phase says otherwise, and its slot. -/
def arraying (s : State) (op : MOp) (phase : Phase) (f : MCmd → MCmd) : State :=
  let c := f { s.newM op noE .bf16 1 with id := 5, shape := 6, phase := phase }
  ({ s with me := { s.me with run := .stalled (.engine 5) }, mcmds := [c] } : State).setCluster 0 { Cluster.reset with runCmd := some 5 }

/-- Eight rows of 64 bytes at 0x4000, and a ring of them at 0x2000. -/
def rowTensor : TDesc := { parseTensor [] with base := 0x4000, ndim := 1, fmt := some .bf16, extent := #v[256, 256, 1, 1], stride := #v[2, 512, 0, 0] }
def rowsAt : List Nat := (List.range 8).map fun i => 0x4000 + 512 * i

/-- A queued command, before the arbiter looks: what MatrixSteps calls `chosen`, with its payment of some bytes. -/
def chosenPay (s : State) (cost : Nat) (p : MCmd → State → Bool) : Bool :=
  (s.mcmds.head?).any fun c =>
    let r := (s.setCluster 0 { Cluster.reset with lastQ := 0, turnLeft := 0, runCmd := some c.id }).payM c cost
    decide (cost ≤ r.1.paid) && p r.1 r.2
def queuedM (s : State) (op : MOp) (f : MCmd → MCmd) : State := (arraying s op .queued f).setCluster 0 Cluster.reset
def ring8 : QReg := ⟨0x2000, 0x4000, 3, 8, 3, 0, 0⟩

theorem meets_MatrixSteps_select :
    (∀ op ∈ [MOp.aclr, .mma, .rg, .bld, .ast], (let s := queuedM base op id; (s.cluster 0).runCmd = none ∧ s.nextQueue 0 = some (0, 0) ∧
      (s.mcmds.find? (fun y => y.cluster == 0 && y.queue == 0 && y.inQueue)).any (fun c => decide (c.op = op ∧ c.ring = none)) = true)) ∧
    (∀ op ∈ [MOp.mma, .rg], chosenPay (queuedM (holding (mapped base 0x2000) 0x2000 4 8) op fun c => { c with ring := some ring8 }) 32 (fun c s =>
      engAnd (s.ringRead c ring8) fun bs _ => !anyPoison bs && decide (8 ≤ (pringCounts bs).filled.toNat)) = true) ∧
    chosenPay (queuedM (mapped base 0x2000) .mma fun c => { c with ring := some ring8 }) 32 (fun c s =>
      engAnd (s.ringRead c ring8) fun bs _ => !anyPoison bs && decide ((pringCounts bs).filled.toNat < (shapeOf 6).m)) = true ∧
    chosenPay (queuedM ({ mapped base 0x2000 with poison := [0x100] }) .rg fun c => { c with ring := some ring8 }) 32 (fun c s =>
      engAnd (s.ringRead c ring8) fun bs _ => anyPoison bs) = true ∧
    (∀ op ∈ [MOp.bld, .ast], (let s := queuedM (mapped base 0x4000) op fun c => { c with tensor := rowTensor }
      s.mcmds.all (fun c => engAnd (s.mapLines (s.mWho c) .engRead (c.blockLines c.block.1 c.block.2)) fun _ _ => true) = true)) ∧
    (let s := queuedM base .ast fun c => { c with tensor := rowTensor }
     s.mcmds.all (fun c => s.mapLines (s.mWho c) .engWrite (c.blockLines c.block.1 c.block.2) matches .fault ..) = true) ∧
    (∀ op ∈ [MOp.mma, .rg], (let s := arraying base op .attached id; (s.runningM 0).any (fun c => decide (c.op = op ∧ c.phase = .attached) && s.heldM c) =
      true)) ∧
    (let s := { arraying base .mma .attached id with me := task }; (s.runningM 0).any (fun c => decide (c.phase = .attached) && !s.heldM c) = true) ∧
    (∀ op ∈ [MOp.mma, .rg, .aclr, .bld, .ast], ((arraying base op .detached id).runningM 0).any (fun c => decide (c.op = op ∧ c.phase = .detached)) =
      true) := by decide +kernel

theorem takeAny_one (n : Nat) (a : α) : takeAny n [a] = some (a, []) := by simp [takeAny, Nat.mod_one]

/-- A command that has read all but the last `n` of the pieces of a list of accesses, as zeros, the first of them poisoned or not. -/
def readTo (n : Nat) (poison : Bool) (l : MCmd → List (Nat × Nat)) (c : MCmd) : MCmd :=
  let t := touched (l c)
  { c with got := (t.take (t.length - n)).map fun p => (p.1, (0, poison && p.1 == (t.headD (0, 0)).1) :: List.replicate (p.2 - 1) (0, false)) }

/-- Of two pieces, either may be taken. -/
theorem takeAny_two (n : Nat) (a b : α) : takeAny n [a, b] = some (a, [b]) ∨ takeAny n [a, b] = some (b, [a]) := by
  have h : Config.pieceOrder n % 2 = 0 ∨ Config.pieceOrder n % 2 = 1 := by omega
  unfold takeAny
  obtain h | h := h <;> simp [h]

/-- A detached BLD that has paid, with two pieces left or one (takeAny_two, takeAny_one), whose lines another cluster pins or none does. -/
theorem meets_MatrixSteps_detached_bld :
    [1, 2].all (fun n =>
      let s := arraying (mappedAll base ((List.range 32).map fun i => 0x4000 + 512 * i)) .bld .detached fun c =>
        readTo n false (·.blockAccesses) { c with tensor := rowTensor, gc := 0x10020, paid := 4096 }
      let u := { s with pins := (List.range 32).map fun i => ⟨1, 0x80 + 4 * i, [], []⟩ }
      (s.runningM 0).any fun c => decide (engineCost c.blockAccesses ≤ (s.payM c (engineCost c.blockAccesses)).1.paid) &&
        decide ((c.unread c.blockAccesses).length = n) && (c.unread c.blockAccesses).all fun p =>
          !(s.payM c (engineCost c.blockAccesses)).2.pinnedAway (some c.cluster) (s.blockPa c .engRead p.1 / 128) &&
          u.pinnedAway (some c.cluster) (u.blockPa c .engRead p.1 / 128)) = true ∧
    (let s := (arraying (mapped base 0x4000) .bld .detached fun c => { c with tensor := rowTensor, map := [(0x80, 0x80)], gc := 0x10020 }).setCore 0
        { Core.reset with bucket := Vector.replicate 4 0 }
     (s.runningM 0).any (fun c => decide ((s.payM c (engineCost c.blockAccesses)).1.paid < engineCost c.blockAccesses)) = true) := by decide +kernel

/-- A detached AST that has paid, and one whose line another cluster pins, or another task. -/
theorem meets_MatrixSteps_detached :
    (let l := [(0x200, [(0x4000, ((7 : Byte), false))])]
     let s := arraying (mapped base 0x4000) .ast .detached fun c => { c with tensor := rowTensor, map := [(0x80, 0x80)], outs := some l, paid := 4096 }
     let wait (u : State) (c : MCmd) : Bool :=
       let pa := u.blockPa c .engWrite (0x200 * 32)
       (u.engUnpin (u.mWho c) c.tid c.e.scope pa).engWait (u.mWho c) c.e.scope pa
     (s.runningM 0).any (fun c => decide (c.outs = some l ∧ engineCost c.blockAccesses ≤ (s.payM c (engineCost c.blockAccesses)).1.paid) && !wait s c &&
       wait { s with pins := [⟨1, 0x80, [], []⟩] } c && wait { s with pins := [⟨0, 0x80, [], [9]⟩] } c) = true) ∧
    (let s := arraying base .ast .detached fun c => { c with outs := some [], e := { noE with scope := 0b11 }, clock := #v[1, 0, 0, 0] }
     (s.runningM 0).any (fun c => decide (c.outs = some [] ∧ c.e.scope = 0b11) && !s.allApplied c.clock &&
       s.allApplied (Vector.replicate 4 0)) = true) := by
  decide +kernel

/-- Two pieces left to read; none left, with clean bytes and with a poisoned one. -/
theorem meets_MatrixSteps_kStep :
    [(0, false), (0, true), (2, false)].all (fun (n : Nat × Bool) =>
      let s := arraying (mappedAll base rowsAt) .mma .attached fun c =>
        readTo n.1 n.2 (fun c => c.aAccesses (List.range (shapeOf c.shape).m) [c.step]) { c with tensor := rowTensor, paid := 512 }
      (s.runningM 0).any fun c =>
        let l := c.aAccesses (List.range (shapeOf c.shape).m) [c.step]
        let p := s.payM c (engineCost l)
        decide (engineCost l ≤ p.1.paid) && decide ((p.1.unread l).length = n.1) && if n.1 = 0 then
          engAnd (p.2.readOn p.1 l) fun r t => r.any fun c => (c.bColumns t c.step).isSome && (c.aRows (List.range (shapeOf c.shape).m) c.step).isSome == !n.2
        else (p.1.unread l).all fun x => engAnd (({ p.2 with free := p.2.free + 1 } : State).engRead (p.2.mWho p.1) x.1 x.2) fun _ _ => true) =
      true := by decide +kernel

/-- The port has no tokens left; a poisoned piece of B. -/
theorem meets_MatrixSteps_kStep_not :
    (let s := (arraying base .mma .attached fun c => { c with tensor := rowTensor }).setCore 0 { Core.reset with bucket := Vector.replicate 4 0 }
     (s.runningM 0).any (fun c => decide ((s.payM c 32).1.paid < 32)) = true) ∧
    (let s := { arraying base .mma .attached id with bstorePoison := [0] }; (s.runningM 0).any (fun c => (c.bColumns s 0).isNone) = true) := by
  decide +kernel

/-- A chunk of a ring with no filled row adds nothing; one of one row has two pieces left to read, or none, with clean bytes or a poisoned one. -/
theorem meets_MatrixSteps_chunk :
    (let s := arraying (mapped base 0x2000) .rg .attached fun c => { c with ring := some ring8 }
     (s.runningM 0).any (fun c => decide (c.count = none ∧ 32 ≤ (s.payM c 32).1.paid) && engAnd ((s.payM c 32).2.ringRead (s.payM c 32).1 ring8)
       fun bs _ => !anyPoison bs) = true) ∧
    [(0, 0, false), (1, 0, false), (1, 0, true), (1, 2, false)].all (fun (n : Nat × Nat × Bool) =>
      let l (c : MCmd) := c.aAccesses (c.chunkOf n.1) (List.range (shapeOf c.shape).steps)
      let s := arraying (mappedAll base [0x4000, 0x4080]) .rg .attached fun c =>
        readTo n.2.1 n.2.2 l { c with ring := some ring8, count := some n.1, paid := 4096 }
      (s.runningM 0).any fun c =>
        let p := s.payM c (32 + engineCost (l c))
        decide (c.count = some n.1 ∧ 32 + engineCost (l c) ≤ p.1.paid ∧ (p.1.unread (l c)).length = n.2.1) && if n.2.1 = 0 then
          engAnd (p.2.readOn p.1 (l c)) fun r t => r.any fun c =>
            (c.chunkSteps t (c.chunkOf n.1) (List.range (shapeOf c.shape).steps) t.acc).isSome == !n.2.2
        else (p.1.unread (l c)).all fun x => engAnd (({ p.2 with free := p.2.free + 1 } : State).engRead (p.2.mWho p.1) x.1 x.2) fun _ _ => true) =
      true := by
  decide +kernel

/-- A command of the engine of cluster 0 for the task of slot 0, which holds it. -/
def engining (s : State) (op : EOp) (phase : Phase) (f : ECmd → ECmd) : State :=
  let c := f { s.newE op noE with id := 5, len := 64, phase := phase }
  { s with me := { s.me with run := .stalled (.engine 5) }, ecmds := [c] }
def piece0 : Piece := ⟨0, List.replicate 32 (7, false)⟩

/-- What EngineSteps calls `reading`, with a port that lets the piece leave or not. -/
def readsOn (len : Nat) (bucket : Nat) (p : ECmd → State → Bool) : Bool :=
  let s := (engining base .cpy .attached fun c => { c with src := ⟨0, true, false⟩, len := len }).setCore 0
    { Core.reset with bucket := Vector.replicate 4 bucket }
  (s.ecmd 5).any fun c => s.heldE c && decide (c.prog < c.len ∧ c.roomWait = false ∧ c.packet = none) && !s.behindStuck c && c.inReach &&
    p (s.payE c).1 (s.payE c).2

theorem meets_EngineSteps_read :
    (let s := engining base .cpy .queued id; (s.nextE 0).any (fun c => decide (c.op ≠ .add)) = true) ∧
    [33, 32].all (fun len => readsOn len 2048 fun c s => decide (32 ≤ c.paid) && !s.sourceBeyond c 32 && engAnd (s.engSource c 32) fun bs t =>
      decide (bs.length = 32) && (t.ecmd 5).isSome) = true ∧
    readsOn 64 31 (fun c _ => decide (c.paid < 32)) = true := by decide +kernel

/-- A piece to write: of a released hold, or the only one read. -/
theorem nextPiece_one {s : State} {c : ECmd} {p : Piece} (hr : c.replays = []) (hp : c.pieces = [p]) : s.nextPiece c = some p := by
  simp only [State.nextPiece, hr, hp, takeAny_one, List.find?_cons, List.find?_nil, List.head?_cons]
  split
  · rfl
  · cases s.peerBound c p <;> rfl

theorem meets_EngineSteps_write :
    (let s := engining base .cpy .attached fun c => { c with dst := ⟨0x2000, true, false⟩, replays := [piece0] }
     (s.ecmd 5).any (fun c => decide (s.nextPiece c = some piece0 ∧ c.roomWait = false ∧ c.dst.scratch = true ∧ s.keyOf c.tid = some s.cur ∧
       s.me.absentIn 0x2000 32 = []) && !s.behindStuck c) = true) ∧
    (let s (u : State) := engining u .cpy .attached fun c => { c with dst := ⟨0x1000, false, false⟩, replays := [piece0] }
     let pages (u : State) (p : Eng (List (Nat × Nat × Nat)) → Bool) : Bool := ((s u).ecmd 5).any fun c =>
       p (({ s u with free := 1 } : State).engPages ((s u).eWho c) c.dst.cls .engWrite (linesOf 0x1000 32))
     pages base (fun r => r matches .fault ..) = true ∧
     pages { base with tlb := [⟨0, base.sliceOf 0 0x1000, 0, false, 0, 0, true, false, true, true⟩] } (fun r => r matches .denied ..) = true ∧
     pages (mapped base 0x1000) (fun r => engAnd r fun l s1 => decide (l = [(0x1000, 0x1000, 32)] ∧ 0x1000 % 32 + 32 ≤ 32 ∧
       homeOf 0x1000 = some (.tower 0) ∧ s1.pinOf (0x1000 / 128) = none) &&
         ((s (mapped base 0x1000)).ecmd 5).any fun c => !s1.engWait ((s base).eWho c) c.e.scope 0x1000 && (
           let u : State := { s1 with pins := [⟨1, 32, List.replicate 128 0, [1]⟩] }
           (u.engUnpin ((s base).eWho c) c.tid c.e.scope 0x1000).engWait ((s base).eWho c) c.e.scope 0x1000)) = true) ∧
    (let s := engining base .mc .attached fun c => { c with dst := ⟨0x3FE0, true, false⟩, mask := 1, pieces := [piece0] }
     (s.ecmd 5).any (fun c => decide (c.pieces = [piece0] ∧ s.mcCores c = [0] ∧ s.sibling c 0 = some 1 ∧ s.keyOf 1 = some s.cur ∧
       c.roomWait = false ∧ (s.core s.myCore).stopped = false ∧ s.me.absentIn 0x3FE0 32 = [] ∧ c.dst.addr + 0 + 32 ≤ 4096 * s.me.scratch) &&
       !s.behindStuck c) = true ∧
     (let t := s.setCore 0 { Core.reset with stopped := true }; (t.core t.myCore).stopped = true)) ∧
    (∀ k ∈ [HeldKind.completion, .piece piece0], (let s := { engining base .cpy .detached id with held := [⟨8, 0, 5, 0, 0x2000, 4, k⟩] }
      s.phase ≠ 0xF ∧ (s.heldOf 8).any (fun h => decide (h.kind = k ∧ h.cmd = 5)) = true ∧ (s.ecmd 5).any (fun c => decide (c.packet = none)) = true)) ∧
    (let s := engining base .cpy .attached fun c => { c with roomWait := true, pieces := [piece0] }
     (s.ecmd 5).any (fun c => decide (c.roomWait = true ∧ c.pieces = [piece0])) = true) := by decide +kernel

/-- What EngineSteps calls `done`. -/
def doneE (s : State) (p : ECmd → Bool) : Bool :=
  (s.ecmd 5).any fun c => decide (c.phase = .detached ∧ c.unacked = false) && s.quietE c && s.partsQuiet c && !s.behindStuck c && p c

theorem meets_EngineSteps_done :
    doneE (engining base .cpy .detached id) (fun c => decide (c.packet = none ∧ c.comp = 0 ∧ c.op ≠ .snap)) = true ∧
    [0, 1, 2, 3].all (fun sc =>
      let s := engining (mapped base 0x1000) .cpy .detached fun c => { c with comp := 0x1000, e := { noE with scope := BitVec.ofNat 2 sc } }
      doneE s fun c => decide (c.comp ≠ 0) && engAnd (s.engXlate (s.eWho c) c.comp (s.classAt c.core c.comp) .engWrite) fun pa s1 =>
        decide (pa = 0x1000) && !s1.engWait (s.eWho c) c.e.scope pa && decide (homeOf pa = some (.tower 0)) && decide (s1.pinOf (pa / 128) = none) &&
          s1.pinsFit c.cluster [pa / 128] && (s1.keyOf c.tid).isSome) = true ∧
    (let s := engining base .snap .detached id; doneE s fun c => s.holds c.key c.id && decide (c.packet = none)) = true ∧
    (let s := engining base .cpy .detached fun c => { c with unacked := true, links := [(0, 3)] }
     (s.ecmd 5).any (fun c => decide (c.unacked = true) && s.quietE c && s.ecmds.all fun y => !y.parts.contains 5) = true) ∧
    (let s := engining base .postQ .detached id
     doneE s fun c => decide (c.op = .postQ ∧ c.sent = false ∧ c.status = 0) && !s.mustFollow c) = true := by decide +kernel

/-- A message from slot 0 to core 9. -/
def msgTo (kind : MsgKind) (core ring : Nat) (stage : MsgStage) : Msg :=
  ⟨6, kind, 0, 5, 0, core, ring, [], 0b10, true, none, none, 0, Vector.replicate 4 0, 0, 0, [], stage, false⟩

/-- A ring's control block at 0x1000, which maps to itself, whose element base is 0x2000 and whose slots hold 16 bytes, four of them. -/
def control (tail resv head : Nat) (s : State) : State :=
  holding (mappedAll s [0x1000, 0x2000]) 0x1000 32 (tail + resv * 2 ^ 32 + head * 2 ^ 64 + 0x2000 * 2 ^ 128 + (2 + 4 * 2 ^ 8) * 2 ^ 192)

/-- What Deliveries calls `asked`. -/
def askedRing (s : State) (m : Msg) (p : Nat → State → Bool) : Bool :=
  engAnd (s.engXlate (s.msgWho m) m.ring (s.classAt (s.msgWho m).core m.ring) .engWrite) fun pa s1 => !s1.engWait (s.msgWho m) 0b10 pa && p pa s1

theorem meets_Deliveries_arrive :
    (∀ k ∈ [MsgKind.post, .record, .row, .box 3 7],
      (let s := { base with msgs := [msgTo k 1023 0 .sent], cores := [(1023, { Core.reset with dead := true })] }
       (s.msg 6).isSome = true ∧ s.coreLive 1023 = false) ∧
      (let m := msgTo k 9 0x1000 .sent
       let s := { base with msgs := [m] }
       s.msg 6 = some m ∧ s.coreLive 9 = true ∧ (s.core 9).stopped = false ∧ s.msgBehind m = false ∧ s.msgEarly m = false ∧
         s.ringBehind m = false) ∧
      (let m := msgTo k 9 0x1000 .sent
       let s := { base with msgs := [m], cores := [(9, { Core.reset with stopped := true })] }
       s.coreLive 9 = true ∧ (s.core 9).stopped = true) ∧
      (let m := msgTo k 9 0x1000 .sent
       let s := { base with msgs := [{ m with id := 4 }, m] }
       s.coreLive 9 = true ∧ s.msgBehind m = true) ∧
      (let m := { msgTo k 9 0x1000 .sent with clock := #v[0, 1, 0, 0] }
       ({ base with msgs := [m] } : State).msgEarly m = true)) ∧
    (let m := msgTo .record 9 0x1000 .sent
     let s := { base with msgs := [{ m with id := 4, stage := .waiting }, m] }
     s.ringBehind m = true ∧ s.msgBehind m = false) := by decide +kernel

theorem meets_Deliveries_reserve :
    (let m := msgTo .post 9 0x1010 .sent
     askedRing (mapped base 0x1000) m (fun _ _ => decide (m.ring % 32 ≠ 0)) = true) ∧
    (let m := msgTo .post 9 0x1000 .sent
     let s := control 0 0 0 base
     askedRing { s with poison := [0x1000 / 32] } m (fun pa s1 => decide (m.ring % 32 = 0) && s1.placePoison pa) = true) ∧
    (let m := msgTo .post 9 0x1000 .sent
     [4, 5].all fun n => askedRing (control 0 n 0 base) m fun pa s1 =>
      let block := (upFrom pa 32).map s1.placeByte
      !s1.placePoison pa && ringUsable m.ring (bitsNat (wordAt block 16) 55 0) (bitsNat (wordAt block 24) 4 0) (bitsNat (wordAt block 24) 12 8)
        m.data.length && decide ((ringCounts block).free (bitsNat (wordAt block 24) 4 0) ≤ 0)) = true ∧
    (let m := msgTo .post 9 0x1000 .sent
     let s := control 0 0 0 base
     let counts (t : State) : RingCounts := ringCounts ((upFrom 0x1000 32).map t.placeByte)
     askedRing s m (fun pa s1 => !s1.placePoison pa && decide (0 < (counts s1).free 2) && s1.windowRoom pa (counts s1) &&
       decide (homeOf (pa + 4) = some (.tower 0) ∧ s1.pinOf ((pa + 4) / 128) = none)) = true ∧
     askedRing { s with windows := List.replicate 64 ⟨0x1001, []⟩ } m (fun pa s1 => !s1.windowRoom pa (counts s1)) = true) ∧
    (let m := msgTo .post 9 0x1000 .waiting; ({ base with msgs := [m] } : State).msg 6 = some m ∧ m.stage = .waiting) := by decide +kernel

theorem meets_Deliveries_fill :
    (∀ more ∈ [([] : List Nat), [1]],
      (let m := { msgTo .post 9 0x1000 (.reserved 2) with va := 0x2000, left := 0 :: more, data := List.replicate 32 (7, false) }
       let s := { mappedAll base [0x1000, 0x2000] with msgs := [m] }
       s.msg 6 = some m ∧ s.held = [] ∧
         engAnd (s.engPages (s.msgWho m) (s.classAt (s.msgWho m).core m.va) .engWrite (linesOf m.va m.data.length)) (fun l s1 =>
           decide (l = [(0x2000, 0x2000, 32)]) && !s1.engWait (s.msgWho m) m.scope 0x2000 && decide (homeOf 0x2000 = some (.tower 0)) &&
           decide (s1.pinOf (0x2000 / 128) = none)) = true)) ∧
    (let m := msgTo .post 9 0x1000 (.written 2)
     let s := control 2 3 0 { base with msgs := [m], windows := [⟨0x1000, []⟩] }
     let u : State := { s with pins := [⟨0, 32, [], [9]⟩] }
     let wait (s : State) : Bool := (s.ringPa m).2.engWait ((s.ringPa m).2.msgWho m) 0b10 0x1000
     s.msg 6 = some m ∧ (s.ringPa m).1 = some 0x1000 ∧ wait s = false ∧ wait u = true ∧
     s.windows.find? (·.pa == 0x1000) = some ⟨0x1000, []⟩ ∧ (ringCounts ((upFrom 0x1000 16).map s.placeByte)).tail.toNat = 2 ∧
     homeOf 0x1000 = some (.tower 0) ∧ s.pinOf (0x1000 / 128) = none) := by decide +kernel

/-- One part, or the only one left, is taken whatever the order is. -/
theorem meets_Deliveries_parts (n i : Nat) : takeAny n [i] = some (i, []) ∧ ∃ i j, takeAny n [0, 1] = some (i, [j]) := by
  refine ⟨takeAny_one n i, ?_⟩
  unfold takeAny
  have h : Config.pieceOrder n % 2 = 0 ∨ Config.pieceOrder n % 2 = 1 := by omega
  obtain h | h := h <;> simp [h]

theorem meets_Deliveries_barriers :
    (let s := { base with me := { task with bars := [3] } }
     let t := s.setCore 0 { Core.reset with stopped := true }
     s.keyOf 1 = some s.cur ∧ 3 ∈ s.me.bars ∧ 4 ∉ s.me.bars ∧ (s.bar s.myCore 3).trig = false ∧ s.slots = [] ∧ s.me.run = .running ∧
       (s.core s.myCore).stopped = false ∧ t.keyOf 1 = some t.cur ∧ (t.core t.myCore).stopped = true) ∧
    (let b : Barrier := { Barrier.zero with expected := 1 }
     let s := { base with me := { task with bars := [3], run := .parked (.barWait 3 5 none) }, bars := [(barKey 0 3, b)] }
     s.keyOf 1 = some s.cur ∧ 3 ∈ s.me.bars ∧ (s.bar s.myCore 3).fired = false ∧ (s.bar s.myCore 3).expected = 1 ∧
       (s.bar s.myCore 3).trig = false) ∧
    (let s := { away with suspended := [{ frame1 with bars := [(3, Barrier.zero)] }] }
     (s.suspendedOf 1).any (fun x => (tfind x.bars 3).any fun b => !b.trig) = true) := by decide +kernel

/-- A tower's first publication to be made, in a free ring at 0x1000. -/
def publishing (p : Publication) (s : State) : State :=
  { s with spaces := [(0, { space [] [] with freeRing := 0x1000 })] }.setTower 0 { Tower.reset with heldPub := [p] }

/-- Each phase of a publication: its reservation in a free ring of four slots, one with none free, one whose window has no room, or whose
geometry is out of bounds, or whose control block is poisoned or misaligned; its write; its fill. -/
theorem meets_Deliveries_publish :
    (let p : Publication := ⟨0, 1, 5, 6, none, 0, false⟩
     let s := publishing p (control 0 0 0 base)
     let pub (s : State) (p : Publication) : Got (Option Publication) := s.publishStep 0 p
     let at_ (s : State) (q : State → Bool) : Bool := gotAnd (s.soXlate 0 0 1 0x1000) fun pa t => decide (pa = 0x1000) && q t
     let room (t : State) : Bool := t.windowRoom 0x1000 (ringCounts ((upFrom 0x1000 32).map t.placeByte))
     let full := publishing p (control 0 4 0 base)
     let tight : State := { s with windows := List.replicate 64 ⟨0x1001, []⟩ }
     s.held = [] ∧ (s.tower 0).heldPub = [p] ∧ 0x1000 % 32 = 0 ∧ gotAnd (pub s p) (fun _ _ => true) = true ∧ (pub full p matches .wait _) = true ∧
     (pub (publishing p base) p matches .none _) = true ∧ at_ { s with poison := [128] } (·.placePoison 0x1000) = true ∧
     at_ (holding s 0x1018 8 0) (fun t => !t.placePoison 0x1000 && !ringUsable 0x1000 0x2000 0 0 16) = true ∧
     ringUsable 0x1000 0x2000 2 4 16 = true ∧
     at_ full (fun t => decide ((ringCounts ((upFrom 0x1000 32).map (t.reachHome 0 0x1000).placeByte)).free 2 ≤ 0)) = true ∧
     at_ tight (fun t => !room (t.reachHome 0 0x1000)) = true ∧
     at_ s (fun t => decide (0 < (ringCounts ((upFrom 0x1000 32).map (t.reachHome 0 0x1000).placeByte)).free 2) && room (t.reachHome 0 0x1000)) = true ∧
     gotAnd (s.soXlate 0 0 1 0x2000) (fun pa _ => decide (homeOf pa = some (.tower 0))) = true) := by decide +kernel

/-! ### The host -/

/-- Ring 0 is enabled, lies in device memory at 0x4000, and a packet of these words stands at its head. -/
def packeted (words : List Nat) : State :=
  let s := holding { mapped base 0x1000 with phase := 3 } 0x4000 (8 * words.length) (leNat (words.flatMap (leBytes 8)))
  { s with rings := s.rings.set 0 { Ring.reset with loc := true, base := 0x4000, enable := true, tail := BitVec.ofNat 32 (8 * words.length) } }

/-- Ring 0's packet is at its head and it is the ring's turn. -/
def readyAs (s : State) (k : PKind) (p : PHead → Bool) : Bool :=
  s.up && s.rings[(0 : Fin 16)].enable && !s.rings[(0 : Fin 16)].stopped && decide (s.rings[(0 : Fin 16)].waiting = none) &&
    decide (s.ringTurn = some 0) && s.packets.isEmpty && (match s.headOf s.rings[(0 : Fin 16)] with | .ready h => decide (h.kind = k) && p h | _ => false)

def launchWords (sub : Nat) : List Nat := [1 + sub * 256 + 96 * 2 ^ 32, 0, 0x1000] ++ List.replicate 9 0

theorem meets_RingsAndPackets :
    ({ base with phase := 3 } : State).up = true ∧ base.up = false ∧ ({ base with phase := 3 } : State).rings[(0 : Fin 16)].enable = false ∧
    (let s := packeted [5 + 16 * 2 ^ 32, 0]
     let r := { s.rings[(0 : Fin 16)] with tail := 16 }
     (({ s with rings := s.rings.set 0 r } : State).headOf r matches .malformed 3) = true ∧ s.rings[(0 : Fin 16)].stopped = false) ∧
    (let s := packeted [16 * 2 ^ 32, 0]
     let t := { s with rings := s.rings.set 2 s.rings[(0 : Fin 16)], lastRing := 1 }
     t.ringTurn = some 2 ∧ t.up = true ∧ t.packets = [] ∧ (match t.headOf t.rings[(0 : Fin 16)] with | .ready _ => true | _ => false) = true) ∧
    readyAs (packeted [16 * 2 ^ 32, 0]) .nop (fun _ => true) = true := by decide +kernel

theorem meets_RingsAndPackets_copy : ∀ p ∈ [(0, PKind.copy), (1, .copyAdd)],
    readyAs (packeted [2 + p.1 * 256 + 48 * 2 ^ 32, 0, 0x100, 0x200, 64, 2]) p.2 (fun h =>
      let s := packeted [2 + p.1 * 256 + 48 * 2 ^ 32, 0, 0x100, 0x200, 64, 2]
      decide (wordAt h.body 16 = 64 ∧ wordAt h.body 0 % 4 = 0 ∧ wordAt h.body 8 % 4 = 0) && s.engineRoom (s.firstCluster 0) 9 &&
        (({ s with lastRing := 0 } : State).feRelease (BitVec.ofNat 2 (wordAt h.body 24))).isSome) = true := by decide +kernel

theorem meets_RingsAndPackets_signal : ∀ p ∈ [(0, PKind.signalWrite), (1, .signalAdd)],
    (let s := packeted [3 + p.1 * 256 + 32 * 2 ^ 32, 0, 0x1000, 9]
     readyAs s p.2 (fun h => decide (wordAt h.body 0 % 8 = 0) && (({ s with lastRing := 0 } : State).feRelease 0b11).any fun s2 =>
       match s2.translate (feWho 0) 0x1000 false .write with
       | .ok pa t => !t.feBar pa && decide (homeOf pa = some (.tower 0) ∧ pa % 8 = 0) && !t.placePoison pa
       | _ => false) = true) := by decide +kernel

theorem meets_RingsAndPackets_launch : ∀ p ∈ [(0, PKind.launch), (1, .launchInd)],
    readyAs (packeted (launchWords p.1)) p.2 (fun h => (packeted (launchWords p.1)).drained feKey && decide ((parseBlock h.body).count = 0)) = true ∧
    ({ packeted (launchWords p.1) with reqs := [{ reqAt .home with key := feKey }] } : State).drained feKey = false := by decide +kernel

/-- What the front end's dispatch of ring 0's packet answers, as RingsAndPackets names it. -/
def dispatched (s : State) (sub : Nat) (p : Got (Option Nat) → Bool) : Bool :=
  match s.headOf s.rings[(0 : Fin 16)] with
  | .ready h =>
    let b := parseBlock h.body
    p (({ s with lastRing := 0 } : State).dispatchBlock (soReader (s.towerOf (b.oy * 32 + b.ox)) 0) (fun _ => false) 0 b (sub == 1))
  | _ => false

/-- Ring 0's front end has read the descriptor at 0x1000 and the count at 0, or its first pieces. -/
def partlyRead (n : Nat) (s : State) : State :=
  { s with partials := ([(2, 0x1000, 32), (2, 0x1020, 32), (2, 0x1040, 32), (2, 0x1060, 32), (3, 0, 4)].take n).map fun p =>
      (0, gotKey p.1 p.2.1, mgets s.mem p.2.1 p.2.2) }

/-- A launch with a fault, and a good one of no task; one that waits for a pin. -/
theorem meets_RingsAndPackets_dispatch : ∀ sub ∈ [0, 1],
    dispatched (partlyRead 5 (packeted (launchWords sub))) sub (fun r => gotAnd r fun o _ => o.isSome) = true ∧
    dispatched (partlyRead 5 (holding (packeted (launchWords sub)) 0x1000 16 (0x2000 + (2 * 2 ^ 56 + 2 ^ 20) * 2 ^ 64))) sub
      (fun r => gotAnd r fun o _ => decide (o = none)) = true ∧
    dispatched { partlyRead 3 (packeted (launchWords sub)) with pins := [⟨5, 0x1000 / 128, List.replicate 128 0, []⟩] } sub (· matches .wait ..) =
      true := by
  decide +kernel

theorem meets_RingsAndPackets_malformed : ∀ masked ∈ [0, 1],
    (let s := { packeted [5, 0] with bar0 := msets [] 0x3000C [BitVec.ofNat 8 masked] }
     s.up = true ∧ s.rings[(0 : Fin 16)].waiting = none ∧ (s.headOf s.rings[(0 : Fin 16)] matches .malformed 3) = true ∧ s.packets = [] ∧
       s.vectorMasked 0 = decide (masked = 1)) := by decide +kernel

theorem meets_RingsAndPackets_waits : ∀ p ∈ [(0, PKind.waitNe), (1, .waitGe)],
    readyAs (packeted [4 + p.1 * 256 + 48 * 2 ^ 32, 0, 0x1000, 0, 5, 0]) p.2 (fun _ => true) = true ∧
    (let w : WaitPkt := ⟨8, p.1 == 1, 0x1000, 3, some 0⟩
     let s := packeted []
     let t := { s with rings := s.rings.set 0 { s.rings[(0 : Fin 16)] with waiting := some w } }
     t.rings[(0 : Fin 16)].waiting = some w ∧ t.rings[(0 : Fin 16)].stopped = false ∧ t.packets = [] ∧ 0 ≤ (t.tower 0).cycle ∧
       (match t.translate (feWho 0) (0x1000 % 2 ^ 56) false .read with
        | .ok pa u => decide (u.pinOf (pa / 128) = none ∧ pa % 8 = 0 ∧ homeOf pa = some (.tower 0)) && !u.placePoison pa
        | _ => false) = true) := by decide +kernel

theorem meets_RingsAndPackets_record : ∀ crec ∈ [0, 0x100],
    (let p : Packet := ⟨8, 0, .nop, some (0, 0), 16, true, false, crec, 0⟩
     let s := { State.reset with phase := 3, packets := [p] }
     s.packets.find? (fun p => p.ring == (0 : Fin 16).val && p.done.isSome) = some p ∧ s.rings[(0 : Fin 16)].enable = false ∧
       (s.feRelease 0b11).any (fun s1 => !s1.feBar (hostPa crec)) = true) := by decide +kernel

/-- A device that is up (or not), with one address space, and the mailbox's request of a code outstanding. -/
def asking (phase : BitVec 4) (code : Nat) : State :=
  let s := { State.reset with phase := phase, spaces := [(0, { space [] [] with tensorBase := 0x30000 })], nextId := 10 }
  { s with mboxBusy := true, mbox := BitVec.ofNat 8 code :: List.replicate 255 0 }

def vacantDevice (s : State) : Bool :=
  s.slots.isEmpty && decide (s.me.run = .empty) && s.suspended.isEmpty && s.held.isEmpty && s.ecmds.isEmpty && s.mcmds.isEmpty && s.reqs.isEmpty &&
    s.msgs.isEmpty && s.units.isEmpty

theorem meets_BringUpAndMailbox :
    ({ State.reset with phase := 2 } : State).phase = 2 ∧ State.reset.phase ≠ 2 ∧ (base.tower 0).droop = false ∧
    (∀ v ∈ [16, 17], State.reset.vectorMasked v = false ∧ State.reset.phase ≠ 0xF) ∧ State.reset.links[(0 : Fin 12)].state ≠ .up ∧
    (∀ code ∈ [0x01, 0x02, 0x10, 0x11, 0x12, 0x13], ∀ phase ∈ [(2 : BitVec 4), 3],
      (asking phase code).mboxBusy = true ∧ (asking phase code).mboxSd = none ∧ ((asking phase code).mbox.getD 0 0).toNat = code ∧
        (asking phase code).phase ≠ 0xF ∧ (asking phase code).up = decide (phase = 3)) ∧
    State.reset.mboxBusy = false ∧ (List.replicate 32 (0 : Byte)).length = 32 ∧
    (let s := asking 3 0x13
     s.space 7 = none ∧ (s.space 0).any (fun sp => decide (sp.tensorBase = 0x30000)) = true ∧ vacantDevice s = true ∧
       tensorClear (List.replicate 64 0) = true ∧
       ∀ id ∈ [0, 65535], s.pinOf ((0x30000 + 64 * id) / 128) = none ∧ homeOf (0x30000 + 64 * id) = some (.tower 0)) := by decide +kernel

theorem meets_BringUpAndMailbox_bars :
    (let s := { base with mboxBusy := true }; s.mboxBusy = true ∧ 0x20100 ≤ (0x20100 : BitVec 20).toNat ∧ (0x201FF : BitVec 20).toNat < 0x20200) ∧
    base.mboxBusy = false ∧ base.mbox.length = 256 ∧ (0x201FF : BitVec 20).toNat + [(1 : Byte)].length ≤ 0x20200 ∧
    leNat [(1 : Byte), 0, 0, 0] % 2 = 1 ∧ ({ base with phase := 3 } : State).rings[(15 : Fin 16)].enable = false ∧
    (let s := { paged with phase := 3, aperture := [(127, (0, 0))] }
     s.up = true ∧ s.aperturePa (127 * 2 ^ 21 + 0x1000) = some 0x1000 ∧ homeOf 0x1000 = some (.tower 0) ∧ (127 * 2 ^ 21 + 0x1000) % 8 = 0 ∧ s.reqs = []) ∧
    ((piecesOf 0x1000 40 = [(0x1000, 32), (0x1020, 8)] ∧ (base.partialOf (bar2Reader 0x1000 40) (gotKey 0 0x1000)).isNone = true) ∧
     (let s : State := { base with partials := [(bar2Reader 0x1000 40, gotKey 0 0x1000, [])] }
      (piecesOf 0x1000 40).filter (fun p => (s.partialOf (bar2Reader 0x1000 40) (gotKey 0 p.1)).isNone) = [(0x1020, 8)])) ∧
    ∀ k, ({ base with phase := 3 } : State).pinOf k = none := by
  refine ⟨by decide +kernel, by decide +kernel, by decide +kernel, by decide +kernel, by decide +kernel, by decide +kernel, by decide +kernel, by decide +kernel, ?_⟩
  intro k
  rfl

/-! ### Fetching, memory -/

theorem meets_StepRunsDecoded :
    (let s := coded base 0x40 (List.replicate 16 0xF8000000 ++ [0x04300064])
     s.turns = [] ∧ s.ticks % 3 = 0 ∧ s.nextSlot = some 0 ∧ s.me.run = .running ∧ s.me.preempt = false ∧ insnBytes 0x04300064 = 4 ∧
       s.storeStalled 0 = false ∧ ({ s with reqs := [reqAt .home], stallFrames := [(0x1000, 1024)] } : State).storeStalled 0 = true ∧
       (s.l1Find s.me.asid (s.me.pc.toNat / 128) true).any (fun l => !l.poison.contains ((l.pline * 128 + 0x40) / 32) &&
         decide (BitVec.ofNat 32 (leNat ((l.data.drop 0x40).take 4)) = 0x04300064)) = true) ∧
    (let s := { coded base 0x78 (List.replicate 30 0xF8000000 ++ [0xF4000048, 0x04403456]) with turns := [.slot 0] }
     s.turns = [.slot 0] ∧ insnBytes 0xF4000048 = 8 ∧ s.me.pc.toNat % 128 + 8 ≤ 128 ∧
       (s.l1Find s.me.asid (s.me.pc.toNat / 128) true).any (fun l => !l.poison.contains ((l.pline * 128 + 124) / 32) &&
         decide (BitVec.ofNat 32 (leNat ((l.data.drop 124).take 4)) = 0x04403456)) = true) := by decide +kernel

/-- The words in the slot's line buffer alone. -/
def buffered (s : State) : State :=
  let s := coded s 0x40 []
  { s with cores := [], me := { s.me with lineBuf := (tget Core.reset s.cores 0).l1.head? } }

theorem meets_StepRunsDecoded_fetch :
    (let s := buffered base
     s.l1Find s.me.asid 0 true = none ∧ s.me.lineBuf.any (fun l => decide (l.asid = s.me.asid ∧ l.vline = 0 ∧ l.poison = [])) = true) ∧
    okAnd (coded base 0x40 []).fetchInstr (fun d _ => decide (d = decode 0 0)) = true ∧
    (match base.fetchInstr with | .done _ => true | .ok .. => false) = true ∧
    (let s := { coded base 0x40 [] with me := { task with preempt := true, rep := some (0x3C, 5) }, turns := [.slot 0] }
     s.me.run = .running ∧ s.me.preempt = true ∧ s.mustComplete 0 = false) ∧
    (let s := { base with me := { task with preempt := true, issued := true, run := .stalled (.port 32) } }
     s.mustComplete 0 = true) := by decide +kernel

theorem meets_FetchedLines :
    (let s := coded base 0x40 [0]; (s.l1Find s.me.asid 0 true).isSome = true) ∧ base.me.run = .running ∧ Ctx.empty.run ≠ .running ∧
    (base.fetchLine 0x40 matches .done _) = true ∧
    (let s := (mapped base 0x40).setCore 0 { Core.reset with regend := 1, scrend := 5 }
     s.l1Find s.me.asid 0 true = none ∧ s.me.lineBuf = none ∧ okAnd (s.chargeFor .fetch 128) (fun _ s1 =>
       okAnd (s1.xlate ⟨false, 0x40, s.classAt s.myCore 0x40, 0xE, 0, []⟩ 0x40 .fetch) fun pa s2 => decide (s2.readBar pa false = none ∧
         l1Cap (s2.core s2.myCore) ≠ 0 ∧ s2.siblingOn s2.myCore s2.cur (pa / 128) = false)) = true) ∧
    (let s := (mapped base 0x40).setCore 0 { Core.reset with bucket := Vector.replicate 4 127 }
     s.l1Find s.me.asid 0 true = none ∧ s.me.lineBuf = none ∧ ((s.chargeFor .fetch 128) matches .done _) = true) := by decide +kernel

theorem meets_DecodeEncode : (Instr.addi 3 0 100).deviceStep = false ∧ Instr.reset.deviceStep = true ∧ Instr.wf (.addi 3 0 100) = true ∧
  encode (.addi 3 0 100) = [0x04300064] := by decide +kernel
theorem meets_MemoryStaysCanonical : Memory.wf (holding (coded base 0x40 [0x04300064]) 0x1000 4 7).mem = true := by decide +kernel

/-! ## Single steps, with results worked out from the rules -/

/-- R81 (06): the low 64 bits are written, and no flag or trap says that the sum was longer. -/
theorem test_add_wraps : isNext (exec (.add 1 1 2) ((base.setG 1 0xFFFFFFFFFFFFFFFF).setG 2 2)) (fun s =>
    decide (s.getG 1 = 1 ∧ s.me.pc = 0x44)) = true := by decide +kernel
/-- R29 (02): a write to g0 is discarded. -/
theorem test_addi_g0 : isNext (exec (.addi 0 1 5) base) (fun s => decide (s.getG 0 = 0 ∧ s.me.pc = 0x44)) = true := by decide +kernel
/-- R83 (06): the one signed overflow wraps, and its remainder is 0. -/
theorem test_div_overflow : isNext (exec (.div 3 1 2) ((base.setG 1 0x8000000000000000).setG 2 0xFFFFFFFFFFFFFFFF)) (fun s =>
    decide (s.getG 3 = 0x8000000000000000)) = true := by decide +kernel
theorem test_rem_overflow : isNext (exec (.rem 3 1 2) ((base.setG 1 0x8000000000000000).setG 2 0xFFFFFFFFFFFFFFFF)) (fun s =>
    decide (s.getG 3 = 0)) = true := by decide +kernel
/-- R83 (06): a zero divisor gives all ones to the remainder, too. -/
theorem test_remu_zero : isNext (exec (.remu 3 1 2) (base.setG 1 9)) (fun s => decide (s.getG 3 = 0xFFFFFFFFFFFFFFFF)) = true := by decide +kernel
/-- R83 (06): −7 ÷ 2 is −3, with the remainder −1. -/
theorem test_div_truncates : isNext (exec (.div 3 1 2) ((base.setG 1 0xFFFFFFFFFFFFFFF9).setG 2 2)) (fun s =>
    decide (s.getG 3 = 0xFFFFFFFFFFFFFFFD)) = true := by decide +kernel
theorem test_rem_truncates : isNext (exec (.rem 3 1 2) ((base.setG 1 0xFFFFFFFFFFFFFFF9).setG 2 2)) (fun s =>
    decide (s.getG 3 = 0xFFFFFFFFFFFFFFFF)) = true := by decide +kernel
/-- R82 (06): the high half of −1 × 1 is all ones; unsigned, of the same bits times 2, it is 1. -/
theorem test_mulh : isNext (exec (.mulh 3 1 2) ((base.setG 1 0xFFFFFFFFFFFFFFFF).setG 2 1)) (fun s =>
    decide (s.getG 3 = 0xFFFFFFFFFFFFFFFF)) = true := by decide +kernel
theorem test_mulhu : isNext (exec (.mulhu 3 1 2) ((base.setG 1 0xFFFFFFFFFFFFFFFF).setG 2 2)) (fun s => decide (s.getG 3 = 1)) = true := by
  decide +kernel
/-- R84 (06): SLTIU sign-extends its immediate before the unsigned comparison. -/
theorem test_sltiu : isNext (exec (.sltiu 3 1 0x3FFF) (base.setG 1 5)) (fun s => decide (s.getG 3 = 1)) = true := by decide +kernel
/-- R85 (06): LUI writes the signed 20-bit immediate times 2^14. -/
theorem test_lui : isNext (exec (.lui 3 0x80000) base) (fun s => decide (s.getG 3 = 0xFFFFFFFE00000000)) = true := by decide +kernel
/-- R42 (02): LI of 0x123456 as a prefix pair. -/
theorem test_prefix_pair : isNext (exec (.extensionPrefix 0x48 0x04403456) base) (fun s => decide (s.getG 4 = 0x123456 ∧ s.me.pc = 0x48)) = true := by
  decide +kernel
/-- R89 (06): loads of narrow sizes extend by their kind. -/
theorem test_ld_signed : isNext (exec (.ldB 3 1 0) (scratchHolding (base.setA 1 (scr 0)) 0 1 0x80)) (fun s =>
    decide (s.getG 3 = 0xFFFFFFFFFFFFFF80)) = true := by decide +kernel
theorem test_ld_unsigned : isNext (exec (.ldHu 3 1 0) (scratchHolding (base.setA 1 (scr 0)) 0 2 0x8001)) (fun s =>
    decide (s.getG 3 = 0x8001)) = true := by decide +kernel
/-- R76, R77, R330 (05): a load beyond the limit traps at its own pc with register, source and address; without a handler the task is
suspended, with one it goes on there. -/
theorem test_limit_trap : isNext (exec (.ldD 3 1 0) (({ base with me := { task with tvec := 0x800 } } : State).setA 1 (scr 0x3FF9))) (fun s =>
    decide (s.me.cause = 0x02 ∧ s.me.epc = 0x40 ∧ s.me.pc = 0x800 ∧ s.me.tinfo = 0x3FF901 ∧ s.me.inh = true ∧ s.getG 3 = 0)) = true := by
  decide +kernel
/-- R101 (06): the target is read before the link, the address after the call, is written; R30 (02): a branch counts from its own address. -/
theorem test_callr_same_register : isNext (exec (.callr 5 5) (base.setG 5 0x100)) (fun s => decide (s.getG 5 = 0x44 ∧ s.me.pc = 0x100)) = true := by
  decide +kernel
theorem test_branch_back : isNext (exec (.bnez 7 0xFFFD) (base.setG 7 1)) (fun s => decide (s.me.pc = 0x34)) = true := by
  decide +kernel
/-- The table under R183 (11): the tag moves on with each swap, and a stale expectation writes nothing. -/
theorem test_cas_ptag_swaps : isNext (exec (.casPtag 0b10 false false 3 1 4) (((holding storing 0x1000 8 0x120000007).setG 3 0x120000007).setG 4
    0x130000000)) (fun s => decide (leNat (mgets s.mem 0x1000 8) = 0x130000008 ∧ s.getG 3 = 0x120000007)) = true := by decide +kernel
theorem test_cas_ptag_stale : isNext (exec (.casPtag 0b10 false false 3 1 4) (((holding storing 0x1000 8 0x12000000A).setG 3 0x120000007).setG 4
    0x130000000)) (fun s => decide (leNat (mgets s.mem 0x1000 8) = 0x12000000A ∧ s.getG 3 = 0x12000000A)) = true := by decide +kernel
/-- R131 (08): a single rounding keeps 2^−14. -/
theorem test_vfma_one_rounding : isNext (exec (.vfma .bf16 3 1 2 0) ({ base with me := { task with
    v := ((task.v.set 1 0x3F81).set 2 0x3F81).set 3 0xBF82 } } : State)) (fun s => decide ((s.me.getV 3).toNat % 2 ^ 16 = 0x3880)) = true := by
  decide +kernel
/-- R48 (02): 1.5 in FP16, E4M3 and MK8, and E4M3's largest magnitude. -/
theorem test_formats : Fmt.rne .fp16 (.fin false 3 (-1)) = 0x3E00 ∧ Fmt.rne .e4m3 (.fin false 3 (-1)) = 0x3C ∧
    Fmt.rne .mk8 (.fin false 3 (-1)) = 0x0E ∧ Fmt.rne .e4m3 (.fin true 448 0) = 0xFE ∧ Fmt.rne .mk8 .nan = 0x80 ∧
    Fmt.rne .e4m3 .nan = 0x7F ∧ Fmt.rne .fp16 .nan = 0x7E00 ∧ Fmt.rne .e5m2 .nan = 0x7E := by decide +kernel
/-- R103 (06): TRAP enters the handler with its immediate, and ERET returns. -/
theorem test_trap : isNext (exec (.trap 0x2A) ({ base with me := { task with tvec := 0x800 } } : State)) (fun s =>
    decide (s.me.cause = 0x0B ∧ s.me.tinfo = 0x2A ∧ s.me.pc = 0x800 ∧ s.me.inh = true)) = true := by decide +kernel
theorem test_eret : isNext (exec .eret (handling true)) (fun s => decide (s.me.pc = 0x44 ∧ s.me.inh = false)) = true := by decide +kernel
/-- R291 (19): the mailbox keeps the higher priority first, and the first come of equals first. -/
theorem test_mailbox_order : ((({ Mailbox.reset with depth := 2 }.arrive 0x0001000000000001).arrive 0x0002000000000002).arrive
    0x0002000000000003).entries = [0x0002000000000002, 0x0002000000000003] := by decide +kernel
/-- The first step after reset runs the instruction placed for it. -/
theorem test_first_step : isNext (step (State.reset.withFetchWord 32 0x04300064)) (fun s => decide (s.getG 3 = 100)) = true := by decide +kernel
theorem test_some_step : isNext (step (holding (coded base 0x40 [0x04300064]) 0x1000 4 7)) (fun _ => true) = true := by decide +kernel

end Sys2Proof.Tests
end

section
/-! PROOFS. The way of a store from the port to its performance (01 R14; 09 R143-R162; 10 R163-R174; 12 R194): first what the shared operations
of memory change, then one lemma for each step of a port, a slice, a home, a walk, an announcement and a router. -/

namespace Sys2Proof.Machine

/-! ## Reading back an update -/

@[simp] theorem tower_setTower (s : State) (t : Nat) (x : Tower) : (s.setTower t x).tower t = x := by
  simp [State.setTower, State.tower]

@[simp] theorem core_setCore (s : State) (c : Nat) (x : Core) : (s.setCore c x).core c = x := tget_tset ..

@[simp] theorem ctx_setCtx (s : State) (k : SlotKey) (c : Ctx) : (s.setCtx k c).ctx k = c := by
  unfold State.setCtx State.ctx
  split <;> simp

@[simp] theorem setCtx_towers (s : State) (k : SlotKey) (c : Ctx) : (s.setCtx k c).towers = s.towers := by
  unfold State.setCtx
  split <;> rfl

@[simp] theorem cget_cset (v : Vector (BitVec 20) 4) (i : Nat) (x : BitVec 20) : cget (cset v i x) i = x := by
  simp [cget, cset]

@[simp] theorem nget_nset (v : Vector Nat 4) (i x : Nat) : nget (nset v i x) i = x := by
  simp [nget, nset]

/-! ## Steps that only raise others -/

@[simp] theorem raises_nil (s : State) : s.raises [] = s := by simp [State.raises]

theorem raises_raises (s : State) (l l' : List Raised) : (s.raises l).raises l' = s.raises (l ++ l') := by
  simp [State.raises, List.append_assoc]

theorem mem_raised_raise (s : State) (i : Raised) : i ∈ (s.raise i).raised := List.mem_append_right _ (List.mem_singleton_self i)

theorem mem_raised_raises {s : State} {i : Raised} (h : i ∈ s.raised) (l : List Raised) : i ∈ (s.raises l).raised :=
  List.mem_append_left _ h

/-- `t` is `s` with steps raised, and nothing else of it changed. -/
def RaisesTo (s t : State) : Prop := ∃ l, t = s.raises l

theorem RaisesTo.refl (s : State) : RaisesTo s s := ⟨[], (raises_nil s).symm⟩
theorem RaisesTo.raise (s : State) (i : Raised) : RaisesTo s (s.raise i) := ⟨[i], rfl⟩

theorem RaisesTo.trans {s t u : State} : RaisesTo s t → RaisesTo t u → RaisesTo s u := by
  rintro ⟨l, rfl⟩ ⟨l', rfl⟩
  exact ⟨l ++ l', raises_raises s l l'⟩

theorem RaisesTo.foldl {f : State → α → State} (hf : ∀ s a, RaisesTo s (f s a)) : ∀ (l : List α) (s : State), RaisesTo s (l.foldl f s)
  | [], s => .refl s
  | a :: l, s => (hf s a).trans (RaisesTo.foldl hf l (f s a))

/-- A fold of steps that keep a part of the state keeps it. -/
theorem foldl_keeps {p : State → β} {f : State → α → State} (hf : ∀ s a, p (f s a) = p s) : ∀ (l : List α) (s : State), p (l.foldl f s) = p s
  | [], _ => rfl
  | a :: l, s => (foldl_keeps hf l (f s a)).trans (hf s a)

/-! ## What the shared operations of memory change (01 R14; 10 R163, R170) -/

/-- Traffic at a router moves its clock and its slice's caches, where the router slept, and nothing else. -/
theorem wakeRouter_eq (s : State) (t h : Nat) : ∃ routed gated stale tlb l2, s.wakeRouter t h =
    { s with routed := routed, gated := gated, stale := stale, tlb := tlb, l2 := l2 } := by
  unfold State.wakeRouter
  dsimp only
  split
  · split <;> exact ⟨_, _, _, _, _, rfl⟩
  · exact ⟨_, _, _, _, _, rfl⟩

@[simp] theorem wakeRouter_reqs (s : State) (t h : Nat) : (s.wakeRouter t h).reqs = s.reqs := by
  obtain ⟨_, _, _, _, _, e⟩ := wakeRouter_eq s t h; rw [e]
@[simp] theorem wakeRouter_towers (s : State) (t h : Nat) : (s.wakeRouter t h).towers = s.towers := by
  obtain ⟨_, _, _, _, _, e⟩ := wakeRouter_eq s t h; rw [e]
@[simp] theorem wakeRouter_grade (s : State) (t h : Nat) : (s.wakeRouter t h).grade = s.grade := by
  obtain ⟨_, _, _, _, _, e⟩ := wakeRouter_eq s t h; rw [e]
@[simp] theorem wakeRouter_links (s : State) (t h : Nat) : (s.wakeRouter t h).links = s.links := by
  obtain ⟨_, _, _, _, _, e⟩ := wakeRouter_eq s t h; rw [e]
@[simp] theorem wakeRouter_spaces (s : State) (t h : Nat) : (s.wakeRouter t h).spaces = s.spaces := by
  obtain ⟨_, _, _, _, _, e⟩ := wakeRouter_eq s t h; rw [e]

theorem towerOf_congr {s t : State} (h : t.grade = s.grade) (core : Nat) : t.towerOf core = s.towerOf core := by
  unfold State.towerOf State.rows
  rw [h]

@[simp] theorem towerOf_wakeRouter (s : State) (t h core : Nat) : (s.wakeRouter t h).towerOf core = s.towerOf core :=
  towerOf_congr (wakeRouter_grade s t h) core

theorem req_congr {s t : State} (h : t.reqs = s.reqs) (id : Nat) : t.req id = s.req id := by
  unfold State.req
  rw [h]

theorem wakeHome_eq (s : State) (pa : Nat) : ∃ routed gated stale tlb l2, s.wakeHome pa =
    { s with routed := routed, gated := gated, stale := stale, tlb := tlb, l2 := l2 } := by
  unfold State.wakeHome
  split
  · exact wakeRouter_eq ..
  · exact ⟨_, _, _, _, _, rfl⟩

theorem mscAdd_eq (s : State) (l : Nat) : ∃ msc free, s.mscAdd l = { s with msc := msc, free := free } := by
  unfold State.mscAdd
  dsimp only
  split
  · exact ⟨_, _, rfl⟩
  · split <;> exact ⟨_, _, rfl⟩

/-- An announcement enters those on their way, and is raised or stands with one raised before. -/
theorem announceTo_eq (s : State) (h pa : Nat) (d : List Byte) (c : Bool) (u : Nat) :
    ∃ anns l, s.announceTo h pa d c u = { s with anns := anns, raised := s.raised ++ l } := by
  have apart (anns : List Announcement) (i : Raised) : ∃ anns' l, ({ s with anns := anns } : State).raise i =
      { s with anns := anns', raised := s.raised ++ l } := ⟨anns, [i], rfl⟩
  unfold State.announceTo
  dsimp only
  split
  · split
    · exact ⟨_, [], by rw [List.append_nil]⟩
    · exact apart ..
  · exact apart ..

theorem foldl_announceTo_eq (h pa : Nat) (d : List Byte) (c : Bool) : ∀ (us : List Nat) (s : State),
    ∃ anns l, us.foldl (fun s u => s.announceTo h pa d c u) s = { s with anns := anns, raised := s.raised ++ l }
  | [], s => ⟨s.anns, [], by rw [List.append_nil]; rfl⟩
  | u :: us, s => by
    obtain ⟨anns, l, e⟩ := announceTo_eq s h pa d c u
    obtain ⟨anns', l', e'⟩ := foldl_announceTo_eq h pa d c us (s.announceTo h pa d c u)
    refine ⟨anns', l ++ l', ?_⟩
    rw [List.foldl_cons, e', e]
    simp only [List.append_assoc]

/-- The state in which a home has counted one more write of its own (10 R170). -/
def State.counted (s : State) (h : Nat) : State :=
  s.setTower h { s.tower h with vc := cset (s.tower h).vc h (cget (s.tower h).vc h + 1) }

@[simp] theorem cget_vc_counted (s : State) (h : Nat) : cget ((s.counted h).vc h) h = cget (s.vc h) h + 1 := by
  simp [State.counted, State.vc]

theorem announce_eq_foldl (s : State) (h pa : Nat) (d : List Byte) (c : Bool) :
    s.announce h pa d c = ([0, 1, 2, 3].filter (· ≠ h)).foldl (fun s u => s.announceTo h pa d c u) (s.counted h) := rfl

/-- A write performed at its home: the bytes stand in memory, the home's clock has counted it, and what is raised comes on top. -/
theorem performAt_tower_eq {pa h : Nat} (hh : homeOf pa = some (.tower h)) (s : State) (d : List Byte) (c : Bool) (bad : List Nat) :
    ∃ routed gated stale tlb l2 poison msc free anns l, s.performAt pa d c bad =
      { s with
        routed := routed, gated := gated, stale := stale, tlb := tlb, l2 := l2, mem := msets s.mem pa d, poison := poison, msc := msc,
        free := free, towers := (s.counted h).towers, anns := anns, raised := s.raised ++ l } := by
  unfold State.performAt
  rw [hh]
  dsimp only
  obtain ⟨routed, gated, stale, tlb, l2, e1⟩ := wakeRouter_eq s h (s.sliceOf h pa)
  obtain ⟨msc, free, e2⟩ := mscAdd_eq ((s.wakeRouter h (s.sliceOf h pa)).putBytes pa d c bad) (pa / 128)
  obtain ⟨anns, l, e3⟩ := foldl_announceTo_eq h pa d c ([0, 1, 2, 3].filter (· ≠ h))
    ((((s.wakeRouter h (s.sliceOf h pa)).putBytes pa d c bad).mscAdd (pa / 128)).counted h)
  rw [announce_eq_foldl, e3, e2, e1]
  exact ⟨_, _, _, _, _, _, _, _, _, _, rfl⟩

/-- What waited for a tower's clock is raised again, and nothing else happens to it. -/
theorem clockMoved_raises (s : State) (u : Nat) : RaisesTo s (s.clockMoved u) := by
  unfold State.clockMoved
  refine RaisesTo.trans (RaisesTo.foldl (fun s k => ?_) [0, 1, 2, 3] s) (RaisesTo.foldl (fun s r => ?_) _ _)
  · split
    · split
      · exact .raise ..
      · exact .refl s
    · exact .refl s
  · split
    · split
      · exact .raise ..
      · exact .refl s
    · split
      · exact .raise ..
      · exact .refl s
    · exact .raise ..
    all_goals exact .refl s

/-- What stands behind a performed request is raised. -/
theorem nextAfter_raises (s : State) (r : Req) : RaisesTo s (s.nextAfter r) := by
  unfold State.nextAfter
  split
  · exact .raise ..
  · exact .refl s

/-! ## The requests in flight -/

theorem find?_mapIf_const {p : α → Bool} {x y : α} {l : List α} (hx : p x = true) (h : l.find? p = some y) :
    (mapIf p (fun _ => x) l).find? p = some x := by
  have e : (p ∘ fun a => if p a then x else a) = p := by
    funext a
    by_cases ha : p a = true <;> simp [ha, hx]
  rw [mapIf, List.find?_map, e, h]
  simp [List.find?_some h]

theorem takeWhile_mapIf {p : α → Bool} {f : α → α} (hf : ∀ a, p a = true → p (f a) = true) : ∀ (l : List α),
    (mapIf p f l).takeWhile (fun a => !p a) = l.takeWhile (fun a => !p a)
  | [] => rfl
  | a :: l => by
    have ih := takeWhile_mapIf hf l
    unfold mapIf at *
    rw [List.map_cons]
    by_cases ha : p a = true
    · rw [if_pos ha]; simp [ha, hf a ha]
    · rw [if_neg ha]; simp [ha, ih]

/-- A request that is in flight reads as it was put last. -/
theorem req_putReq {s : State} {r r' : Req} (h : s.req r.id = some r) (hid : r'.id = r.id) : (s.putReq r').req r.id = some r' := by
  unfold State.putReq State.req at *
  rw [hid]
  exact find?_mapIf_const (by simp [hid]) h

/-- Putting a request changes nothing of those that stand before it. -/
theorem takeWhile_putReq (s : State) (r : Req) :
    (s.putReq r).reqs.takeWhile (fun x => decide (x.id ≠ r.id)) = s.reqs.takeWhile (fun x => decide (x.id ≠ r.id)) := by
  have e : (fun x : Req => decide (x.id ≠ r.id)) = fun x => !(x.id == r.id) := by
    funext x
    by_cases h : x.id = r.id <;> simp [h]
  rw [e]
  exact takeWhile_mapIf (p := fun x : Req => x.id == r.id) (fun _ _ => by simp) s.reqs

/-! ## The port (09 R160, R162; 12 R194) -/

/-- In a cycle in which a request has left a port no other leaves it. -/
theorem portRequestLeave_closed {s : State} {core pick : Nat} (h : (s.core core).portFree (s.cycleAt core) = false) :
    exec (.portRequestLeave core pick) s = .next (s.raise (.portRequestLeave core pick)) :=
  congrArg Host.Outcome.next (if_neg (by rw [h]; exact Bool.false_ne_true))

theorem tenantOf_lt (s : State) (asid : Nat) : s.tenantOf asid < 4 := by
  unfold State.tenantOf
  split
  · exact Fin.isLt _
  · decide

/-- Of a single request in a write buffer, its own tenant alone has something to send. -/
theorem leavable_single {s : State} {r : Req} {core : Nat} (hs : s.reqs = [r]) (hc : coreOfKey r.key = core) (hst : r.stage = .buffer)
    (hq : (s.core core).portq = []) (j : Nat) : s.leavable core j = if s.tenantOf r.asid = j then [r] else [] := by
  unfold State.leavable
  rw [hs, hq]
  by_cases h : s.tenantOf r.asid = j <;> simp [hc, hst, h]

theorem portHead_single {s : State} {r : Req} {core : Nat} (hs : s.reqs = [r]) (hc : coreOfKey r.key = core) (hst : r.stage = .buffer)
    (hq : (s.core core).portq = []) (pick j : Nat) :
    s.portHead core pick j = if s.tenantOf r.asid = j then some ⟨j, r.cost, r.key, .store r.id⟩ else none := by
  unfold State.portHead
  rw [leavable_single hs hc hst hq, hq]
  by_cases h : s.tenantOf r.asid = j <;> simp [h, Nat.mod_one]

/-- A tenant that has nothing to send passes its turn on. -/
theorem portRound_cons_of_idle {s : State} {core pick j : Nat} (h : s.portHead core pick j = none) (l : List Nat) :
    s.portRound core pick (j :: l) = s.portRound core pick l := by
  have e : s.portTenant core pick j = (false, s) := by unfold State.portTenant; rw [h]
  rw [State.portRound, e]

/-- The one tenant whose request leaves takes its turn, wherever it stands in the round. -/
theorem portRound_only {s u : State} {core pick i : Nat} (hi : s.portTenant core pick i = (true, u))
    (hj : ∀ j, j ≠ i → s.portHead core pick j = none) : ∀ {l : List Nat}, i ∈ l → RaisesTo u (s.portRound core pick l)
  | j :: l, hl => by
    by_cases h : j = i
    · subst h
      rw [State.portRound, hi]
      dsimp only
      split
      · exact .raise ..
      · exact .refl u
    · rw [portRound_cons_of_idle (hj j h)]
      exact portRound_only hi hj ((List.mem_cons.1 hl).resolve_left (Ne.symm h))

/-- A core's port after a request of a tenant has left it and no other waits. -/
def Core.sent (c : Core) (now i cost : Nat) : Core := { (c.busyBy i).pay now i cost with portq := [] }

/-- The state in which the one store in flight has left its core's port for its slice. -/
def State.sentStore (s : State) (core : Nat) (r : Req) : State :=
  ({ (s.wakeCore core).setCore core ((s.core core).sent (s.cycleAt core) (s.tenantOf r.asid) r.cost) with
    reqs := [{ r with stage := .slice }] } : State).raise (.sliceRequest r.id)

/-- A store at the head of an idle port pays and is on its way to its slice. -/
theorem portTenant_store {s : State} {r : Req} {core pick : Nat} (hs : s.reqs = [r]) (hst : r.stage = .buffer)
    (hq : (s.core core).portq = []) (hh : s.portHead core pick (s.tenantOf r.asid) = some ⟨s.tenantOf r.asid, r.cost, r.key, .store r.id⟩)
    (hb : r.cost ≤ nget (s.core core).bucket (s.tenantOf r.asid)) :
    s.portTenant core pick (s.tenantOf r.asid) = (true, s.sentStore core r) := by
  obtain ⟨_, _, _, _, _, e⟩ := wakeRouter_eq s (s.towerOf core) (s.routerOf core)
  have hq' : ((s.core core).busyBy (s.tenantOf r.asid)).portq = [] := hq
  have hb' : r.cost ≤ nget ((s.core core).busyBy (s.tenantOf r.asid)).bucket (s.tenantOf r.asid) := hb
  unfold State.portTenant
  rw [hh]
  simp only [if_pos hb', hq', List.erase_nil, State.leaves, State.req, State.putReq, State.wakeCore, e, State.setCore_reqs, hs,
    List.find?_cons, beq_self_eq_true, hst, if_true, mapIf, List.map_cons, List.map_nil, State.sentStore, Core.sent]

/-- Four numbers in a row stand for all the residues of 4. -/
theorem mem_round {i : Nat} (hi : i < 4) (l : Nat) : i ∈ [(l + 1) % 4, (l + 2) % 4, (l + 3) % 4, l % 4] := by
  simp only [List.mem_cons, List.not_mem_nil, or_false]
  omega

/-- PORT_REQUEST_LEAVE with one store at an idle port: it leaves, its tenant has paid, and the port is closed for the cycle. -/
theorem portRequestLeave_store {s : State} {r : Req} {core pick : Nat} (hs : s.reqs = [r]) (hc : coreOfKey r.key = core)
    (hst : r.stage = .buffer) (hf : (s.core core).portFree (s.cycleAt core) = true) (hq : (s.core core).portq = [])
    (hb : r.cost ≤ nget (s.core core).bucket (s.tenantOf r.asid)) :
    ∃ t, exec (.portRequestLeave core pick) s = .next t ∧ t.reqs = [{ r with stage := .slice }] ∧
      nget (t.core core).bucket (s.tenantOf r.asid) = nget (s.core core).bucket (s.tenantOf r.asid) - r.cost ∧
      (t.core core).lastCls = s.tenantOf r.asid ∧ (t.core core).portFree (t.cycleAt core) = false ∧ Raised.sliceRequest r.id ∈ t.raised := by
  have hh := portHead_single hs hc hst hq pick
  have ht := portTenant_store (pick := pick) hs hst hq ((hh _).trans (if_pos rfl)) hb
  obtain ⟨l, e⟩ := portRound_only ht (fun j h => (hh j).trans (if_neg (Ne.symm h))) (mem_round (tenantOf_lt s r.asid) (s.core core).lastCls)
  obtain ⟨_, _, _, _, _, ew⟩ := wakeRouter_eq s (s.towerOf core) (s.routerOf core)
  have hx : opPortRequestLeave core pick s = (s.sentStore core r).raises l := (if_pos hf).trans e
  refine ⟨_, congrArg Host.Outcome.next hx, ?_⟩
  have hcore : ((s.sentStore core r).raises l).core core = (s.core core).sent (s.cycleAt core) (s.tenantOf r.asid) r.cost :=
    core_setCore ..
  have hcycle : ((s.sentStore core r).raises l).cycleAt core = s.cycleAt core := by
    simp only [State.sentStore, State.wakeCore, ew]
    rfl
  rw [hcore, hcycle]
  exact ⟨rfl, nget_nset .., rfl, decide_eq_false (Nat.not_succ_le_self _), mem_raised_raises (mem_raised_raise ..) l⟩

/-! ## The refill (09 R162) -/

theorem idle_of_busy {c : Core} (h : c.busy = #v[true, true, true, true]) (i : Nat) : c.idle i = false := by
  have e : c.busy = Vector.replicate 4 true := h
  simp [Core.idle, e]

/-- With every tenant busy and the whole of the port shared out, each is granted 64 bytes a share. -/
theorem grants_of_busy {c : Core} (hb : c.busy = #v[true, true, true, true]) (hs : ∀ k < 4, 0 < nget c.shares k)
    (hsum : nget c.shares 0 + nget c.shares 1 + nget c.shares 2 + nget c.shares 3 = 64) :
    c.grants = [64 * nget c.shares 0, 64 * nget c.shares 1, 64 * nget c.shares 2, 64 * nget c.shares 3] := by
  have h0 := hs 0 (by decide)
  have h1 := hs 1 (by decide)
  have h2 := hs 2 (by decide)
  have h3 := hs 3 (by decide)
  have hall : 64 - (nget c.shares 0 + (nget c.shares 1 + (nget c.shares 2 + nget c.shares 3))) = 0 := by omega
  simp [Core.grants, idle_of_busy hb, h0, h1, h2, h3, Nat.ne_of_gt, hall]

theorem refill_of_busy {c : Core} (hb : c.busy = #v[true, true, true, true]) (hs : ∀ k < 4, 0 < nget c.shares k)
    (hsum : nget c.shares 0 + nget c.shares 1 + nget c.shares 2 + nget c.shares 3 = 64) {k : Nat} (hk : k < 4) :
    nget c.refill.bucket k = min (nget c.bucket k + 64 * nget c.shares k) (128 * nget c.shares k) := by
  have hg := grants_of_busy hb hs hsum
  have e (x : Nat) : 2 * (64 * x) = 128 * x := by omega
  interval_cases k <;> simp [Core.refill, hg, nget, e]

theorem shaperRefill_single {s : State} {tw : Fin 4} {core : Nat} {c : Core} (hs : s.cores = [(core, c)]) (ht : s.towerOf core = tw.val) :
    (opShaperRefill tw s).core core = c.refill := by
  have hc : s.core core = c := by simp [State.core, hs, tget]
  have hr (u : State) (l : List Raised) : (u.raises l).core core = u.core core := rfl
  simp only [opShaperRefill, hs, List.map_cons, List.map_nil, ht, decide_true, List.filter_cons_of_pos, List.filter_nil, List.foldl_cons,
    List.foldl_nil]
  rw [hr, core_setCore, hc]

/-- SHAPER_REFILL of the one port in use, with every tenant busy: a tenant with a request still waiting is busy in the new period too. -/
theorem shaperRefill_busy {s : State} {tw : Fin 4} {core : Nat} {c : Core} (hs : s.cores = [(core, c)]) (ht : s.towerOf core = tw.val)
    (hshares : ∀ k < 4, 0 < nget c.shares k)
    (hsum : nget c.shares 0 + nget c.shares 1 + nget c.shares 2 + nget c.shares 3 = 64) (hb : c.busy = #v[true, true, true, true]) :
    let waits (j : Nat) : Bool := c.portq.any (·.tenant == j)
    ∃ t, exec (.shaperRefill tw) s = .next t ∧ (t.core core).busy = #v[waits 0, waits 1, waits 2, waits 3] ∧
      ∀ k < 4, nget (t.core core).bucket k = min (nget c.bucket k + 64 * nget c.shares k) (128 * nget c.shares k) := by
  refine ⟨opShaperRefill tw s, rfl, ?_⟩
  rw [shaperRefill_single hs ht]
  exact ⟨rfl, fun k hk => refill_of_busy hb hshares hsum hk⟩

/-! ## At the slice and the remote-data cache (09 R143) -/

/-- A request whose home is its own tower goes there from the slice. -/
theorem forward_own {s : State} {r : Req} {h : Nat} (hh : homeOf r.pa = some (.tower h)) (ho : h = s.towerOf (coreOfKey r.key)) :
    s.forward r = (s.putReq { r with stage := .home }).raise (.performAtHome r.id) := by
  unfold State.forward
  rw [hh]
  exact if_pos ho

/-- A request whose home is another tower goes to the remote-data cache. -/
theorem forward_remote {s : State} {r : Req} {h : Nat} (hh : homeOf r.pa = some (.tower h)) (ho : h ≠ s.towerOf (coreOfKey r.key)) :
    s.forward r = (s.putReq { r with stage := .rdc }).raise (.remoteDataCacheRequest r.id) := by
  unfold State.forward
  rw [hh]
  exact if_neg ho

theorem forward_goes {s : State} {r : Req} {h : Nat} (hr : s.req r.id = some r) (hh : homeOf r.pa = some (.tower h)) :
    (s.forward r).mem = s.mem ∧
    (h = s.towerOf (coreOfKey r.key) →
      (s.forward r).req r.id = some { r with stage := .home } ∧ Raised.performAtHome r.id ∈ (s.forward r).raised) ∧
    (h ≠ s.towerOf (coreOfKey r.key) →
      (s.forward r).req r.id = some { r with stage := .rdc } ∧ Raised.remoteDataCacheRequest r.id ∈ (s.forward r).raised) := by
  by_cases ho : h = s.towerOf (coreOfKey r.key)
  · rw [forward_own hh ho]
    exact ⟨rfl, fun _ => ⟨req_putReq hr rfl, mem_raised_raise ..⟩, fun hn => absurd ho hn⟩
  · rw [forward_remote hh ho]
    exact ⟨rfl, fun hn => absurd hn ho, fun _ => ⟨req_putReq hr rfl, mem_raised_raise ..⟩⟩

/-- The state in which a request has woken the router of its slice (01 R14). -/
def State.reachedSlice (s : State) (r : Req) : State :=
  s.wakeRouter (s.towerOf (coreOfKey r.key)) (s.sliceOf (s.towerOf (coreOfKey r.key)) r.va)

theorem sliceRequest_at {s : State} {r : Req} (hr : s.req r.id = some r) (hst : r.stage = .slice) (hw : r.rewalk = false) :
    exec (.sliceRequest r.id) s = .next ((s.reachedSlice r).forward r) := by
  simp [execSliceRequest, opSliceRequest, State.reachedSlice, hr, hst, hw]

theorem sliceRequest_forwards {s : State} {r : Req} {h : Nat} (hr : s.req r.id = some r) (hst : r.stage = .slice) (hw : r.rewalk = false)
    (hh : homeOf r.pa = some (.tower h)) :
    ∃ t, exec (.sliceRequest r.id) s = .next t ∧ t.mem = s.mem ∧
      (h = s.towerOf (coreOfKey r.key) → t.req r.id = some { r with stage := .home } ∧ Raised.performAtHome r.id ∈ t.raised) ∧
      (h ≠ s.towerOf (coreOfKey r.key) → t.req r.id = some { r with stage := .rdc } ∧ Raised.remoteDataCacheRequest r.id ∈ t.raised) := by
  have hg := forward_goes (s := s.reachedSlice r) ((req_congr (wakeRouter_reqs ..) r.id).trans hr) hh
  rw [State.reachedSlice, towerOf_wakeRouter, wakeRouter_mem] at hg
  exact ⟨_, sliceRequest_at hr hst hw, hg⟩

theorem remoteDataCacheRequest_forwards {s : State} {r : Req} (hr : s.req r.id = some r) (hst : r.stage = .rdc) :
    ∃ t, exec (.remoteDataCacheRequest r.id) s = .next t ∧
      t.req r.id = some { r with stage := .home, clock := s.vc (s.towerOf (coreOfKey r.key)) } ∧ Raised.performAtHome r.id ∈ t.raised := by
  have e : opRemoteDataCacheRequest r.id s =
      (s.putReq { r with stage := .home, clock := s.vc (s.towerOf (coreOfKey r.key)) }).raise (.performAtHome r.id) := by
    simp [opRemoteDataCacheRequest, hr, hst]
  exact ⟨_, congrArg Host.Outcome.next e, req_putReq (r := r) hr rfl, mem_raised_raise ..⟩

/-! ## At the home (10 R163, R164, R170, R174) -/

/-- An earlier access of the slot to the piece stands before a request and is not performed (R164). -/
theorem reqBehind_iff {s : State} {r : Req} : s.reqBehind r = true ↔
    ∃ x ∈ s.reqs.takeWhile (fun x => decide (x.id ≠ r.id)), x.key = r.key ∧ x.pa / 32 = r.pa / 32 ∧ x.unperformed = true := by
  simp [State.reqBehind, and_assoc]

/-- Nothing keeps a request from its home but the clock gap: its home is its own tower's, no earlier access of the slot to its piece and no
migration, pin or other host write stands before it. -/
structure State.Here (s : State) (r : Req) : Prop where
  notHost : r.key ≠ feKey
  first : s.reqBehind r = false
  home : homeOf r.pa = some (.tower (s.towerOf (coreOfKey r.key)))
  moves : s.frameStalled r.pa = false
  unpinned : s.pinOf (r.pa / 128) = none

/-- A request at its home that nothing else keeps waits for the gap or is performed. -/
theorem atHome_here {s : State} {r : Req} (h : s.Here r) :
    s.atHome r = if s.gapOpen (s.towerOf (coreOfKey r.key)) then s.performReq r else s.putReq { r with stage := .gap } := by
  obtain ⟨hk, hf, hh, hm, hp⟩ := h
  have hfe : s.feBehind r = false := by simp [State.feBehind, hk]
  have hpa : s.pinnedAway (clusterOpt (coreOfKey r.key)) (r.pa / 128) = false := by simp [State.pinnedAway, hp]
  have hkn : s.homeKnows r = true := by simp [State.homeKnows, hh]
  have hg : s.gapShut r.pa = !s.gapOpen (s.towerOf (coreOfKey r.key)) := by simp [State.gapShut, hh]
  unfold State.atHome
  dsimp only
  rw [hfe, hf, hm, hpa, hp, hkn, hg]
  cases s.gapOpen (s.towerOf (coreOfKey r.key)) <;> rfl

/-- Behind an earlier access, a migration or a pin a request stays as it is. -/
theorem atHome_waits {s : State} {r : Req}
    (h : s.reqBehind r = true ∨ s.frameStalled r.pa = true ∨ s.pinnedAway (clusterOpt (coreOfKey r.key)) (r.pa / 128) = true) :
    s.atHome r = s := by
  unfold State.atHome
  dsimp only
  by_cases hb : (s.feBehind r || s.reqBehind r) = true
  · rw [if_pos hb]
  · have hs : (s.frameStalled r.pa || s.pinnedAway (clusterOpt (coreOfKey r.key)) (r.pa / 128)) = true := by
      simpa using h.resolve_left fun hx => hb (by simp [hx])
    rw [if_neg hb, if_pos hs]

theorem performAtHome_at {s : State} {r : Req} (hr : s.req r.id = some r) (hst : r.stage = .home) :
    exec (.performAtHome r.id) s = .next (s.atHome r) := by
  simp [execPerformAtHome, opPerformAtHome, hr, hst]

theorem storedAt_msets (m : List Host.Cell) (pa : Nat) (d : List Byte) : StoredAt m (msets m pa d) pa d :=
  ⟨mgets_msets d m pa, fun _ hx => mget_msets_out d m hx⟩

/-- A store has been performed in `t` and is answered: its bytes stand at their home, whose clock has counted it, and its acknowledgement
carries that clock (R170). -/
def State.Answered (s t : State) (r : Req) (d : List (Option Byte)) : Prop :=
  let own := s.towerOf (coreOfKey r.key)
  StoredAt s.mem t.mem r.pa (s.fillBytes r.pa d) ∧ cget (t.vc own) own = cget (s.vc own) own + 1 ∧
    t.req r.id = some { r with stage := .response, clock := t.vc own } ∧ Raised.responseDelivery r.id ∈ t.raised

/-- The acknowledgement of a performed request whose line is not pinned is on its way with the clock of its home. -/
theorem performed_unpinned {s : State} {r : Req} {h : Nat} (hh : homeOf r.pa = some (.tower h)) (hp : s.pinOf (r.pa / 128) = none) :
    ∃ l, s.performed r = ((s.putReq { r with stage := .response, clock := s.vc h }).raise (.responseDelivery r.id)).raises l := by
  unfold State.performed
  simp only [hp, hh, Option.isSome_none, Bool.false_eq_true, if_false]
  exact nextAfter_raises ..

/-- A request that is performed once its bytes stand at its home, whose clock has counted it, is answered. -/
theorem performed_answers {s u : State} {r : Req} {d : List (Option Byte)} (hr : s.req r.id = some r) (h : s.Here r)
    (hreqs : u.reqs = s.reqs) (hpins : u.pins = s.pins) (hmem : u.mem = msets s.mem r.pa (s.fillBytes r.pa d))
    (hvc : cget (u.vc (s.towerOf (coreOfKey r.key))) (s.towerOf (coreOfKey r.key)) =
      cget (s.vc (s.towerOf (coreOfKey r.key))) (s.towerOf (coreOfKey r.key)) + 1) : s.Answered (u.performed r) r d := by
  have hp : u.pinOf (r.pa / 128) = none := by unfold State.pinOf; rw [hpins]; exact h.unpinned
  obtain ⟨l, e⟩ := performed_unpinned h.home hp
  have hs : StoredAt s.mem u.mem r.pa (s.fillBytes r.pa d) := hmem ▸ storedAt_msets ..
  rw [e]
  exact ⟨hs, hvc, req_putReq ((req_congr hreqs r.id).trans hr) rfl, mem_raised_raises (mem_raised_raise ..) l⟩

theorem performReq_answers {s : State} {r : Req} {d : List (Option Byte)} (hr : s.req r.id = some r) (ho : r.op = .store d) (h : s.Here r) :
    s.Answered (s.performReq r) r d := by
  obtain ⟨_, _, _, _, _, _, _, _, _, _, e⟩ := performAt_tower_eq h.home s (s.fillBytes r.pa d) (wholePiece d) []
  have hvc := cget_vc_counted s (s.towerOf (coreOfKey r.key))
  unfold State.performReq
  simp only [State.reqBytes, ho, h.unpinned, Option.isSome_none, Bool.false_eq_true, if_false]
  split
  · exact performed_answers hr h (by rw [e]; rfl) (by rw [e]; rfl) (by rw [e]; rfl) (by rw [e]; exact hvc)
  · exact performed_answers hr h (by rw [e]) (by rw [e]) (by rw [e]) (by rw [e]; exact hvc)

theorem atHome_answers {s : State} {r : Req} {d : List (Option Byte)} (hr : s.req r.id = some r) (ho : r.op = .store d) (h : s.Here r)
    (hg : s.gapOpen (s.towerOf (coreOfKey r.key)) = true) : s.Answered (s.atHome r) r d := by
  rw [atHome_here h, if_pos hg]
  exact performReq_answers hr ho h

/-- A store at its home, with the gap open, is performed and answered. -/
theorem performAtHome_answers {s : State} {r : Req} {d : List (Option Byte)} (hr : s.req r.id = some r) (hst : r.stage = .home)
    (h : s.Here r) (hg : s.gapOpen (s.towerOf (coreOfKey r.key)) = true) (ho : r.op = .store d) :
    ∃ t, exec (.performAtHome r.id) s = .next t ∧ s.Answered t r d :=
  ⟨_, performAtHome_at hr hst, atHome_answers hr ho h hg⟩

theorem performAtHome_gap {s : State} {r : Req} (hr : s.req r.id = some r) (hst : r.stage = .home) (h : s.Here r)
    (hg : s.gapOpen (s.towerOf (coreOfKey r.key)) = false) : exec (.performAtHome r.id) s = .next (s.putReq { r with stage := .gap }) := by
  rw [performAtHome_at hr hst, atHome_here h, hg]
  rfl

theorem performAtHome_waits {s : State} {r : Req} (hr : s.req r.id = some r) (hst : r.stage = .home)
    (h : s.reqBehind r = true ∨ s.frameStalled r.pa = true ∨ s.pinnedAway (clusterOpt (coreOfKey r.key)) (r.pa / 128) = true) :
    exec (.performAtHome r.id) s = .next s := by
  rw [performAtHome_at hr hst, atHome_waits h]

/-- Putting a request anew at its home leaves what keeps it there. -/
theorem State.Here.putReq {s : State} {r : Req} (h : s.Here r) : (s.putReq { r with stage := .home }).Here { r with stage := .home } := by
  refine ⟨h.notHost, ?_, h.home, h.moves, h.unpinned⟩
  have e := takeWhile_putReq s { r with stage := .home }
  have hf := h.first
  unfold State.reqBehind at hf ⊢
  rw [e]
  exact hf

/-- A store that the gap has held is performed and answered once the gap is open. -/
theorem clockGapWriteResume_answers {s : State} {r : Req} {d : List (Option Byte)} (hr : s.req r.id = some r) (hst : r.stage = .gap)
    (h : s.Here r) (hg : s.gapOpen (s.towerOf (coreOfKey r.key)) = true) (ho : r.op = .store d) :
    ∃ t, exec (.clockGapWriteResume r.id) s = .next t ∧ s.Answered t r d := by
  have e : opClockGapWriteResume r.id s = (s.putReq { r with stage := .home }).atHome { r with stage := .home } := by
    simp [opClockGapWriteResume, hr, hst]
  exact ⟨_, congrArg Host.Outcome.next e, atHome_answers (r := { r with stage := .home }) (req_putReq (r := r) hr rfl) ho h.putReq hg⟩

/-! ## The answer (10 R163, R170) -/

theorem responseDelivery_completes {s : State} {r : Req} (hr : s.req r.id = some r) (hst : r.stage = .response)
    (hc : clockCovers (s.vc (s.towerOf (coreOfKey r.key))) r.clock [s.towerOf (coreOfKey r.key)] = true)
    (ha : r.scope = 0b11 → s.allApplied r.clock = true) :
    let u : State := { s.wakeCore (coreOfKey r.key) with reqs := s.reqs.filter (·.id ≠ r.id) }
    exec (.responseDelivery r.id) s = .next (if r.isRed then u.l1Drop (coreOfKey r.key) (r.pa / 128) else u) := by
  refine congrArg Host.Outcome.next ?_
  unfold opResponseDelivery
  rw [hr]
  exact if_pos ⟨hst, hc, Decidable.or_iff_not_imp_left.2 fun h => ha (not_not.1 h)⟩

theorem responseDelivery_waits {s : State} {r : Req} (hr : s.req r.id = some r)
    (h : clockCovers (s.vc (s.towerOf (coreOfKey r.key))) r.clock [s.towerOf (coreOfKey r.key)] = false ∨
      (r.scope = 0b11 ∧ s.allApplied r.clock = false)) : exec (.responseDelivery r.id) s = .next s := by
  refine congrArg Host.Outcome.next ?_
  unfold opResponseDelivery
  rw [hr]
  refine if_neg fun ⟨_, hc, ha⟩ => ?_
  rcases h with h | ⟨hs, h⟩
  · exact Bool.false_ne_true (h.symm.trans hc)
  · exact ha.elim (absurd hs) fun ha => Bool.false_ne_true (h.symm.trans ha)

/-! ## No memory operation changes the grade, by which cores belong to towers (00 R2) -/

@[simp] theorem wakeHome_grade (s : State) (pa : Nat) : (s.wakeHome pa).grade = s.grade := by
  obtain ⟨_, _, _, _, _, e⟩ := wakeHome_eq s pa; rw [e]

@[simp] theorem wakeHome_links (s : State) (pa : Nat) : (s.wakeHome pa).links = s.links := by
  obtain ⟨_, _, _, _, _, e⟩ := wakeHome_eq s pa; rw [e]

@[simp] theorem mscAdd_grade (s : State) (l : Nat) : (s.mscAdd l).grade = s.grade := by
  obtain ⟨_, _, e⟩ := mscAdd_eq s l; rw [e]

@[simp] theorem performAt_grade (s : State) (pa : Nat) (d : List Byte) (c : Bool) (bad : List Nat) :
    (s.performAt pa d c bad).grade = s.grade := by
  cases hh : homeOf pa with
  | none => simp [State.performAt, hh]
  | some home =>
    cases home with
    | tower h =>
      obtain ⟨_, _, _, _, _, _, _, _, _, _, e⟩ := performAt_tower_eq hh s d c bad
      rw [e]
    | host => simp [State.performAt, hh, State.putBytes]
    | peer p =>
      simp only [State.performAt, hh]
      split <;> rfl

@[simp] theorem bringUp_grade (t : Nat) (need : Vector (BitVec 20) 4) : ∀ (n : Nat) (s : State), (s.bringUp t need n).grade = s.grade
  | 0, _ => rfl
  | n + 1, s => by
    unfold State.bringUp
    split
    · rfl
    · split
      · exact bringUp_grade t need n _
      · rfl

@[simp] theorem reach_grade (s : State) (t : Nat) (need : Vector (BitVec 20) 4) : (s.reach t need).grade = s.grade := by
  unfold State.reach
  split
  · rfl
  · obtain ⟨l, e⟩ := clockMoved_raises (s.bringUp t need s.anns.length) t
    rw [e]
    exact bringUp_grade ..

@[simp] theorem openGap_grade (s : State) (h : Nat) : (s.openGap h).grade = s.grade := by
  unfold State.openGap
  split
  · rfl
  · exact foldl_keeps (p := State.grade) (fun s u => reach_grade s u _) _ s

@[simp] theorem performFrom_grade (s : State) (w pa : Nat) (d : List Byte) (c : Bool) (bad : List Nat) :
    (s.performFrom w pa d c bad).grade = s.grade := by
  unfold State.performFrom
  split
  · dsimp only
    split <;> simp
  · simp

@[simp] theorem setAD_grade (s : State) (w : Nat) (l : Leaf) (write : Bool) : (s.setAD w l write).grade = s.grade := by
  unfold State.setAD
  dsimp only
  rw [apply_ite State.grade, performFrom_grade, ite_self]

@[simp] theorem addL2_grade (s : State) (l : L2Line) : (s.addL2 l).grade = s.grade := by
  simp [State.addL2]

@[simp] theorem fillL2_grade (s : State) (e : TlbEntry) (va : Nat) : (s.fillL2 e va).grade = s.grade := by
  unfold State.fillL2
  dsimp only
  split <;> simp

@[simp] theorem prefetch_grade (s : State) (e : TlbEntry) (va : Nat) : (s.prefetch e va).grade = s.grade := by
  have hf : ∀ (l : List Nat) (s : State), (l.foldl (fun s l => s.fillL2 e (l * 128)) s).grade = s.grade :=
    foldl_keeps (p := State.grade) fun s l => fillL2_grade s e _
  unfold State.prefetch
  dsimp only
  split
  · rw [hf]
    split <;> rfl
  · split <;> rfl

/-- Traffic at the homes of the entries that a walk reads leaves what the walk sees. -/
theorem walkWake_keeps (s : State) (root va : Nat) (cls : Bool) :
    (s.walkWake root va cls).mem = s.mem ∧ (s.walkWake root va cls).links = s.links ∧ (s.walkWake root va cls).grade = s.grade :=
  ⟨foldl_keeps (p := State.mem) wakeHome_mem _ s, foldl_keeps (p := State.links) wakeHome_links _ s,
    foldl_keeps (p := State.grade) wakeHome_grade _ s⟩

theorem walkSlice_grade {s u : State} {w : Who} {h va : Nat} {cls : Bool} {acc : Acc} {e : TlbEntry}
    (hok : s.walkSlice w h va cls acc = .ok (e, u)) : u.grade = s.grade := by
  unfold State.walkSlice at hok
  dsimp only at hok
  split at hok
  · cases hok
  · split at hok
    · cases hok
    · cases hok
      simp [State.addTlb, walkWake_keeps]

/-- A translation that succeeds has moved caches and clocks only: the grade stays. -/
theorem translate_grade {s u : State} {w : Who} {va pa : Nat} {cls : Bool} {acc : Acc} (hok : s.translate w va cls acc = .ok pa u) :
    u.grade = s.grade := by
  unfold State.translate at hok
  dsimp only at hok
  have hw : ((if w.core < 1028 then s.wakeCore w.core else s).wakeRouter w.tower (s.sliceOf w.tower va)).grade = s.grade := by
    rw [wakeRouter_grade]
    split
    · exact wakeRouter_grade ..
    · rfl
  generalize (if w.core < 1028 then s.wakeCore w.core else s).wakeRouter w.tower (s.sliceOf w.tower va) = v at hok hw
  split at hok
  · split at hok
    · cases hok; exact hw
    · cases hok
  · split at hok
    · cases hok
    · rename_i e x hgot
      have hx : x.grade = v.grade := by
        split at hgot
        · cases hgot; rfl
        · exact walkSlice_grade hgot
      split at hok
      · cases hok
        rw [fillL2_grade, prefetch_grade, hx, hw]
      · cases hok

theorem reTranslate_grade {s u : State} {r : Req} {pa : Nat} (hok : s.reTranslate r = .ok pa u) : u.grade = s.grade := by
  unfold State.reTranslate at hok
  split at hok
  · split at hok
    · cases hok; rfl
    · cases hok
  · exact translate_grade hok

/-- A request that walks again and finds its page on its own tower goes to its home there (09 R157). -/
theorem sliceRequest_rewalks {s s1 : State} {r : Req} {pa : Nat} (hr : s.req r.id = some r) (hst : r.stage = .slice) (hw : r.rewalk = true)
    (ht : (s.reachedSlice r).reTranslate r = .ok pa s1) (hh : homeOf pa = some (.tower (s.towerOf (coreOfKey r.key)))) :
    exec (.sliceRequest r.id) s = .next ((s1.putReq { r with pa := pa, rewalk := false, stage := .home }).raise (.performAtHome r.id)) := by
  have hg : s1.grade = s.grade := (reTranslate_grade ht).trans (wakeRouter_grade s _ _)
  have hf := forward_own (s := s1) (r := { r with pa := pa, rewalk := false }) hh (towerOf_congr hg _).symm
  have hop : opSliceRequest r.id s = s1.forward { r with pa := pa, rewalk := false } := by
    rw [State.reachedSlice] at ht
    unfold opSliceRequest
    rw [hr]
    dsimp only
    rw [if_neg (not_not_intro hst), if_pos hw, ht]
  exact congrArg Host.Outcome.next (hop.trans hf)

/-! ## The walk (09 R146-R151) -/

/-- Bytes of a write for an agent that is no slot stand in memory where the write has a place, and no byte moves where it has none. -/
theorem performFrom_mem (s : State) (w pa : Nat) (d : List Byte) (c : Bool) (bad : List Nat) :
    (s.performFrom w pa d c bad).mem = if s.mapped pa then msets s.mem pa d else s.mem := by
  unfold State.performFrom State.mapped
  cases hh : homeOf pa with
  | none => simp [State.performAt, hh]
  | some home =>
    cases home with
    | tower h =>
      obtain ⟨_, _, _, _, _, _, _, _, _, _, e⟩ := performAt_tower_eq hh ((s.openGap h).reach h (s.vc w)) d c bad
      have hm : (((s.openGap h).reach h (s.vc w)).performAt pa d c bad).mem = msets s.mem pa d := by
        rw [e, reach_mem, openGap_mem]
      dsimp only
      rw [apply_ite State.mem, reach_mem, ite_self, hm, if_pos rfl]
    | host => simp [State.performAt, hh, State.putBytes]
    | peer p =>
      simp only [State.performAt, hh]
      split <;> rfl

/-- What a page-table walk sees of the machine is its memory and its links. -/
theorem walk_congr {s t : State} (hm : t.mem = s.mem) (hl : t.links = s.links) (root va : Nat) (cls : Bool) :
    t.walk root va cls = s.walk root va cls := by
  have he : t.entry = s.entry := by funext pa; unfold State.entry; rw [hm]
  have hp : t.mapped = s.mapped := by funext pa; unfold State.mapped State.peerLive; rw [hl]
  have ht : ∀ (l : List (Nat × Nat)) (p e : Nat), t.walkTables va l p e = s.walkTables va l p e := by
    intro l
    induction l with
    | nil => intros; rfl
    | cons x l ih => intro p e; simp only [State.walkTables, he, ih]
  unfold State.walk
  simp only [he, hp, ht]

theorem setAD_mem_congr {s t : State} (hm : t.mem = s.mem) (hl : t.links = s.links) (w : Nat) (l : Leaf) (write : Bool) :
    (t.setAD w l write).mem = (s.setAD w l write).mem := by
  have hp : t.mapped = s.mapped := by funext pa; unfold State.mapped State.peerLive; rw [hl]
  unfold State.setAD
  dsimp only
  rw [apply_ite State.mem, apply_ite State.mem, performFrom_mem, performFrom_mem, hm, hp]

theorem mem_insertCap (cap n : Nat) (x : α) (l : List α) : x ∈ insertCap cap n x l := by
  unfold insertCap
  split <;> exact List.mem_append_right _ (List.mem_singleton_self x)

theorem mem_addTlb (s : State) (e : TlbEntry) : e ∈ (s.addTlb e).tlb := List.mem_append_right _ (mem_insertCap ..)

/-- A walk that finds its leaf sets A, and D for a write, and its slice holds the translation (R146, R149). -/
theorem walkSlice_fills {s : State} {w : Who} {h va : Nat} {cls : Bool} {acc : Acc} {sp : Space} {leaf : Leaf}
    (hsp : s.space w.asid = some sp) (hl : s.walk sp.root va cls = .ok leaf) :
    ∃ e t, s.walkSlice w h va cls acc = .ok (e, t) ∧ t.mem = (s.setAD w.tower leaf (accWrite acc)).mem ∧ e ∈ t.tlb ∧
      e.tower = w.tower ∧ e.slice = h ∧ e.asid = w.asid ∧ e.cls = cls ∧ e.vpage = va / pageBytes cls ∧ e.frame = leaf.frame := by
  obtain ⟨hm, hk, -⟩ := walkWake_keeps s sp.root va cls
  unfold State.walkSlice
  simp only [hsp, walk_congr hm hk, hl]
  exact ⟨_, _, rfl, setAD_mem_congr hm hk .., mem_addTlb .., rfl, rfl, rfl, rfl, rfl, rfl⟩

theorem translationWalk_fills {s : State} {q : WalkArgs} {sp : Space} {leaf : Leaf} (hsp : s.space q.asid = some sp)
    (hl : s.walk sp.root q.va q.cls = .ok leaf) :
    ∃ t, exec (.translationWalk q) s = .next t ∧ t.mem = (s.setAD q.tower.val leaf (accWrite q.acc)).mem ∧
      ∃ e ∈ t.tlb, e.tower = q.tower.val ∧ e.slice = s.sliceOf q.tower.val q.va ∧ e.asid = q.asid ∧ e.cls = q.cls ∧
        e.vpage = q.va / pageBytes q.cls ∧ e.frame = leaf.frame := by
  have hm := wakeRouter_mem s q.tower.val (s.sliceOf q.tower.val q.va)
  have hk := wakeRouter_links s q.tower.val (s.sliceOf q.tower.val q.va)
  have hsp' : (s.wakeRouter q.tower.val (s.sliceOf q.tower.val q.va)).space q.asid = some sp := by
    unfold State.space at *
    rwa [wakeRouter_spaces]
  obtain ⟨e, t, ht, htm, he, hf⟩ := walkSlice_fills (w := ⟨q.tower.val, q.asid, q.core, q.slot, 0⟩) (h := s.sliceOf q.tower.val q.va)
    (acc := q.acc) hsp' ((walk_congr hm hk ..).trans hl)
  have hop : opTranslationWalk q s = t := by
    unfold opTranslationWalk
    dsimp only
    rw [ht]
  exact ⟨t, congrArg Host.Outcome.next hop, htm.trans (setAD_mem_congr hm hk ..), e, he, hf⟩

/-! ## Halting a slot touches no tower (05 R79) -/

@[simp] theorem engineGo_towers (s : State) (cl : Nat) : (s.engineGo cl).towers = s.towers := by
  unfold State.engineGo
  split <;> rfl

@[simp] theorem completeSlot_towers (s : State) (k : SlotKey) (f : Ctx → Ctx) (len : Nat) : (s.completeSlot k f len).towers = s.towers :=
  setCtx_towers ..

@[simp] theorem finishE_towers (s : State) (c : ECmd) : (s.finishE c).towers = s.towers := by
  unfold State.finishE
  dsimp only
  split <;> exact engineGo_towers ..

@[simp] theorem settleOne_towers (s : State) (id : Nat) : (s.settleOne id).towers = s.towers := by
  unfold State.settleOne
  split
  · rfl
  · split
    · rfl
    · split
      · rfl
      · split
        · split
          · exact finishE_towers ..
          · rfl
        · split
          · rfl
          · split <;> rfl
        all_goals rfl

@[simp] theorem settle_towers (s : State) (id : Nat) : (s.settle id).towers = s.towers :=
  (foldl_keeps (p := State.towers) (fun s (x : ECmd) => settleOne_towers s x.id) _ _).trans (settleOne_towers s id)

@[simp] theorem entryFreeE_towers (s : State) (cl q : Nat) : (s.entryFreeE cl q).towers = s.towers := by
  unfold State.entryFreeE
  split
  · split <;> rfl
  · rfl

@[simp] theorem putBytesRead_towers (s : State) (c : ECmd) (n : Nat) : (s.putBytesRead c n).towers = s.towers := by
  unfold State.putBytesRead
  split
  · rfl
  · exact setCtx_towers ..

@[simp] theorem stopE_towers (s : State) (c : ECmd) : (s.stopE c).towers = s.towers := by
  unfold State.stopE
  dsimp only
  split
  · rfl
  · rfl
  · exact entryFreeE_towers ..
  all_goals
    split
    · rw [engineGo_towers, putBytesRead_towers]; rfl
    · rw [engineGo_towers, settle_towers]; rfl

@[simp] theorem entryFree_towers (s : State) (cl q : Nat) : (s.entryFree cl q).towers = s.towers := by
  have hw (u : State) : (u.wakeArray cl).towers = u.towers := by unfold State.wakeArray; split <;> rfl
  unfold State.entryFree
  dsimp only
  split
  · split
    · split
      · rw [completeSlot_towers, hw]
      · rw [hw]
    · rfl
  · split <;> rfl

@[simp] theorem arrayFree_towers (s : State) (cl : Nat) : (s.arrayFree cl).towers = s.towers := by
  unfold State.arrayFree
  dsimp only
  split <;> rfl

@[simp] theorem dropM_towers (s : State) (c : MCmd) : (s.dropM c).towers = s.towers := by
  unfold State.dropM
  dsimp only
  rw [apply_ite State.towers, arrayFree_towers, ite_self, apply_ite State.towers, entryFree_towers]
  exact ite_self _

@[simp] theorem undoDraws_towers (s : State) (c : MCmd) : (s.undoDraws c).towers = s.towers := by
  unfold State.undoDraws
  split
  · exact setCtx_towers ..
  all_goals rfl

@[simp] theorem stopHeld_towers (s : State) (k : SlotKey) : (s.stopHeld k).towers = s.towers := by
  unfold State.stopHeld
  split
  · split
    · split
      · exact completeSlot_towers ..
      · exact stopE_towers ..
    · split
      · split
        · rfl
        · rw [undoDraws_towers, dropM_towers]
      · rfl
  · rfl

@[simp] theorem unparkWatch_towers (s : State) (k : SlotKey) : (s.unparkWatch k).towers = s.towers := by
  have hd (u : State) (cl line : Nat) : (u.disarm cl line).towers = u.towers := by unfold State.disarm; split <;> rfl
  unfold State.unparkWatch
  split
  · rw [hd, setCtx_towers]
  · rw [hd, setCtx_towers]
  · rfl

@[simp] theorem dropLeaving_towers (s : State) (k : SlotKey) : (s.dropLeaving k).towers = s.towers := by
  unfold State.dropLeaving
  dsimp only
  split
  · rw [undoDraws_towers, dropM_towers]
  · rfl

@[simp] theorem beginSuspendKey_towers (s : State) (k : SlotKey) (c : Cause) : (s.beginSuspendKey k c).towers = s.towers :=
  setCtx_towers ..

/-- A slot whose instruction need not complete waits for nothing that has been performed. -/
theorem settle79_of_free {s : State} {k : SlotKey} (h : s.mustComplete k = false) : s.settle79 k = s := by
  simp only [State.mustComplete, Ctx.mustComplete, Bool.or_eq_false_iff] at h
  obtain ⟨⟨-, hrun⟩, -⟩ := h
  unfold State.settle79
  split
  · rename_i hr; rw [hr] at hrun; cases hrun
  · rename_i hr; rw [hr] at hrun; cases hrun
  · rfl

theorem halt_towers {s : State} {k : SlotKey} (h : s.mustComplete k = false) (c : Cause) : (s.halt k c).towers = s.towers := by
  unfold State.halt
  rw [settle79_of_free h, beginSuspendKey_towers]
  exact (dropLeaving_towers ..).trans ((stopHeld_towers ..).trans (unparkWatch_towers ..))

/-! ## Halting a slot that runs (05 R79) -/

/-- A command that has not left its slot is given up without a change of any context. -/
theorem dropM_leaving_ctx {s : State} {c : MCmd} (h : c.phase = .leaving) (k : SlotKey) : (s.dropM c).ctx k = s.ctx k := by
  have hq : c.inQueue = false := by simp [MCmd.inQueue, h]
  unfold State.dropM
  simp only [hq, Bool.false_eq_true, if_false]
  split
  · unfold State.arrayFree
    dsimp only
    split <;> rfl
  · rfl

/-- What a slot gives up of commands that have not left it leaves where its task stands. -/
theorem dropLeaving_at (s : State) (k : SlotKey) : ((s.dropLeaving k).ctx k).at = (s.ctx k).at := by
  unfold State.dropLeaving
  dsimp only
  split
  · rename_i c hc
    have hp := List.find?_some hc
    simp only [Bool.and_eq_true, beq_iff_eq] at hp
    obtain ⟨rfl, hph⟩ := hp
    have hd := dropM_leaving_ctx (s := s) hph c.key
    change (((s.dropM c).undoDraws c).ctx c.key).at = _
    unfold State.undoDraws
    split
    · rw [ctx_setCtx, hd]; rfl
    all_goals rw [hd]
  · rfl

/-- A task that runs is halted at its instruction, for its cause, and its suspension is raised. -/
theorem halt_running {s : State} {k : SlotKey} (hr : (s.ctx k).run = .running) (c : Cause) :
    ((s.halt k c).ctx k).run = .suspending c ∧ ((s.halt k c).ctx k).pc = (s.ctx k).at ∧ Raised.taskSuspension k ∈ (s.halt k c).raised := by
  have h1 : s.settle79 k = s := by unfold State.settle79; rw [hr]
  have h2 : s.unparkWatch k = s := by unfold State.unparkWatch; rw [hr]
  have h3 : s.stopHeld k = s := by unfold State.stopHeld; rw [hr]
  unfold State.halt
  rw [h1, h2, h3]
  have hb (u : State) (x : Ctx) : ((u.setCtx k x).raise (.taskSuspension k)).ctx k = x := ctx_setCtx u k x
  refine ⟨?_, ?_, mem_raised_raise ..⟩
  · unfold State.beginSuspendKey; rw [hb]
  · unfold State.beginSuspendKey; rw [hb]; exact dropLeaving_at s k

/-! ## A walk that finds no address space (09 R151) -/

/-- The record that a walk for an address space of no tables writes. -/
def noSpaceRecord (q : WalkArgs) : FaultRec := ⟨q.va, q.asid, 1, q.acc, q.core, q.slot, q.cls, 0⟩

/-- The state in which a walk for an address space of no tables has written its record. -/
def State.noSpaceWalked (s : State) (q : WalkArgs) : State :=
  (s.wakeRouter q.tower.val (s.sliceOf q.tower.val q.va)).faultRecord q.tower.val (noSpaceRecord q)

theorem noSpaceWalked_faultq (s : State) (q : WalkArgs) :
    ((s.noSpaceWalked q).tower q.tower.val).faultq = (s.tower q.tower.val).faultq ++ [noSpaceRecord q] := by
  unfold State.noSpaceWalked State.faultRecord
  dsimp only
  rw [tower_setTower]
  unfold State.tower
  simp only [wakeRouter_towers]

theorem noSpaceWalked_ctx (s : State) (q : WalkArgs) (k : SlotKey) : (s.noSpaceWalked q).ctx k = s.ctx k := by
  obtain ⟨_, _, _, _, _, e⟩ := wakeRouter_eq s q.tower.val (s.sliceOf q.tower.val q.va)
  unfold State.noSpaceWalked
  rw [e]
  rfl

theorem noSpaceWalked_mustComplete (s : State) (q : WalkArgs) (k : SlotKey) : (s.noSpaceWalked q).mustComplete k = s.mustComplete k := by
  obtain ⟨_, _, _, _, _, e⟩ := wakeRouter_eq s q.tower.val (s.sliceOf q.tower.val q.va)
  unfold State.noSpaceWalked
  rw [e]
  rfl

theorem walkSlice_noSpace {s : State} {q : WalkArgs} (h : s.space q.asid = none) :
    (s.wakeRouter q.tower.val (s.sliceOf q.tower.val q.va)).walkSlice ⟨q.tower.val, q.asid, q.core, q.slot, 0⟩
      (s.sliceOf q.tower.val q.va) q.va q.cls q.acc = .error (s.noSpaceWalked q) := by
  have hsp : (s.wakeRouter q.tower.val (s.sliceOf q.tower.val q.va)).space q.asid = none := by
    unfold State.space at *
    rwa [wakeRouter_spaces]
  unfold State.walkSlice
  rw [hsp]
  rfl

/-- Such a walk leaves its record, and halts the slot it names at most where that need not complete its instruction. -/
theorem opTranslationWalk_noSpace_cases {s : State} {q : WalkArgs} (h : s.space q.asid = none) :
    opTranslationWalk q s = s.noSpaceWalked q ∨ s.mustComplete (4 * q.core + q.slot) = false ∧
      opTranslationWalk q s = (s.noSpaceWalked q).halt (4 * q.core + q.slot) (.pageFault q.va) := by
  unfold opTranslationWalk
  simp only [walkSlice_noSpace h, noSpaceWalked_mustComplete]
  split
  · rename_i hc
    obtain ⟨-, -, -, hm⟩ := hc
    rw [Bool.not_eq_true'] at hm
    split
    · exact .inr ⟨hm, rfl⟩
    · exact .inr ⟨hm, rfl⟩
    all_goals exact .inl rfl
  · exact .inl rfl

/-- Such a walk halts the slot it names where its task runs and need not complete its instruction. -/
theorem opTranslationWalk_noSpace_running {s : State} {q : WalkArgs} (h : s.space q.asid = none) (hcore : q.core < 1028)
    (hslot : q.slot < 4) (hasid : (s.ctx (4 * q.core + q.slot)).asid = q.asid) (hm : s.mustComplete (4 * q.core + q.slot) = false)
    (hr : (s.ctx (4 * q.core + q.slot)).run = .running) :
    opTranslationWalk q s = (s.noSpaceWalked q).halt (4 * q.core + q.slot) (.pageFault q.va) := by
  unfold opTranslationWalk
  simp only [walkSlice_noSpace h, noSpaceWalked_mustComplete, noSpaceWalked_ctx, hm, hr]
  exact if_pos ⟨hcore, hslot, hasid, rfl⟩

theorem opTranslationWalk_noSpace_towers {s : State} {q : WalkArgs} (h : s.space q.asid = none) :
    (opTranslationWalk q s).towers = (s.noSpaceWalked q).towers := by
  rcases opTranslationWalk_noSpace_cases h with e | ⟨hm, e⟩
  · rw [e]
  · rw [e]
    exact halt_towers ((noSpaceWalked_mustComplete s q _).trans hm) _

theorem translationWalk_noSpace {s : State} {q : WalkArgs} (h : s.space q.asid = none) :
    ∃ t, exec (.translationWalk q) s = .next t ∧
      (t.tower q.tower.val).faultq = (s.tower q.tower.val).faultq ++ [⟨q.va, q.asid, 1, q.acc, q.core, q.slot, q.cls, 0⟩] ∧
      (q.core < 1028 → q.slot < 4 → (s.ctx (4 * q.core + q.slot)).asid = q.asid → s.mustComplete (4 * q.core + q.slot) = false →
        (s.ctx (4 * q.core + q.slot)).run = .running →
        (t.ctx (4 * q.core + q.slot)).run = .suspending (.pageFault q.va) ∧
          (t.ctx (4 * q.core + q.slot)).pc = (s.ctx (4 * q.core + q.slot)).at ∧ Raised.taskSuspension (4 * q.core + q.slot) ∈ t.raised) := by
  refine ⟨_, rfl, ?_, fun hcore hslot hasid hm hr => ?_⟩
  · have ht := opTranslationWalk_noSpace_towers h
    unfold State.tower
    rw [ht]
    exact noSpaceWalked_faultq s q
  · rw [opTranslationWalk_noSpace_running h hcore hslot hasid hm hr, ← noSpaceWalked_ctx s q]
    exact halt_running ((congrArg Ctx.run (noSpaceWalked_ctx s q _)).trans hr) _

/-! ## Announcements (10 R170) -/

theorem nextAnn_ends {s : State} {dst home : Nat} {a : Announcement} (h : s.nextAnn dst home = some a) : a.home = home ∧ a.dst = dst := by
  have hp := List.find?_some h
  simpa using hp

theorem announcementApply_applies {s : State} {dst home : Fin 4} {a : Announcement} (hn : s.nextAnn dst.val home.val = some a)
    (hr : s.annReady a = true) :
    ∃ t, exec (.announcementApply dst home) s = .next t ∧ cget (t.vc dst.val) home.val = cget a.clock home.val ∧ a ∉ t.anns := by
  obtain ⟨l, e⟩ := clockMoved_raises (s.applyAnn a) dst.val
  have hop : opAnnouncementApply dst home s = (s.applyAnn a).raises l := by
    unfold opAnnouncementApply
    rw [hn]
    exact (if_pos hr).trans e
  refine ⟨_, congrArg Host.Outcome.next hop, ?_, ?_⟩
  · obtain ⟨hh, hd⟩ := nextAnn_ends hn
    rw [← hh, ← hd]
    have hv : (s.applyAnn a).vc a.dst = cset (s.vc a.dst) a.home (cget a.clock a.home) := congrArg Tower.vc (tower_setTower s a.dst _)
    change cget ((s.applyAnn a).vc a.dst) a.home = _
    rw [hv, cget_cset]
  · change a ∉ s.anns.filter (· ≠ a)
    simp

/-! ## Routers (01 R14) -/

theorem routerPowerGate_sleeps {s : State} {tw : Fin 4} {ro : Fin 64}
    (hq : ∀ k ∈ s.routerCores tw.val ro.val, s.residents k = [] ∧ (s.core k).l1 = []) (hb : s.routerBusy tw.val ro.val = false)
    (hi : tget 0 s.routed (tw.val * 64 + ro.val) + 3584 ≤ (s.tower tw.val).cycle) :
    exec (.routerPowerGate tw ro) s = .next { s with gated := sins s.gated (tw.val * 64 + ro.val) } := by
  have hquiet : ((s.routerCores tw.val ro.val).all fun c => (s.residents c).isEmpty && (s.core c).l1.isEmpty) = true :=
    List.all_eq_true.2 fun k hk => by simp [hq k hk]
  have hidle : tget 0 s.routed (tw.val * 64 + ro.val) + coreCycles 4096 ≤ (s.tower tw.val).cycle := hi
  simp [execRouterPowerGate, opRouterPowerGate, hquiet, hidle, hb]

theorem routerPowerGate_stays {s : State} {tw : Fin 4} {ro : Fin 64}
    (h : s.routerBusy tw.val ro.val = true ∨ (s.tower tw.val).cycle < tget 0 s.routed (tw.val * 64 + ro.val) + 3584) :
    exec (.routerPowerGate tw ro) s = .next s := by
  have hc : coreCycles 4096 = 3584 := rfl
  refine congrArg Host.Outcome.next (if_neg fun hx => ?_)
  simp only [hc, Bool.and_eq_true, decide_eq_true_eq, Bool.not_eq_true'] at hx
  obtain ⟨⟨-, hi⟩, hb⟩ := hx
  rcases h with h | h
  · rw [hb] at h; cases h
  · omega

theorem wakeRouter_gated {s : State} {t h : Nat} (hg : smem s.gated (t * 64 + h) = true) (hs : smem s.stale (t * 64 + h) = false) :
    s.wakeRouter t h = { s with routed := tset s.routed (t * 64 + h) (s.tower t).cycle, gated := sdel s.gated (t * 64 + h) } := by
  unfold State.wakeRouter
  simp only [hg, hs, if_true, Bool.false_eq_true, if_false]

/-- A slice that a shootdown skipped has no translation left once its router is awake (09 R154). -/
theorem wakeRouter_stale_tlb {s : State} {t h : Nat} (hg : smem s.gated (t * 64 + h) = true) (hs : smem s.stale (t * 64 + h) = true) :
    ∀ e ∈ (s.wakeRouter t h).tlb, ¬ (e.tower = t ∧ e.slice = h) := by
  have e : (s.wakeRouter t h).tlb = s.tlb.filter fun e => !(e.tower == t && e.slice == h) := by
    unfold State.wakeRouter
    simp only [hg, hs, if_true]
  rw [e]
  rintro x hx ⟨ht, hh⟩
  simp [ht, hh] at hx

end Sys2Proof.Machine

open Sys2Proof Sys2Proof.Machine

/-- Settles O43: each clause is what one step of a request, a port, a walk, an announcement or a router does, by that step's own lemma. -/
theorem requestTravel : Obligations.RequestTravel := by
  unfold Obligations.RequestTravel
  intro s s1 r core pick h pa c d q sp leaf a tw dst ro own n k i waits at_ behind here free data answered
  have hbehind : s.reqBehind r = true ↔ behind := reqBehind_iff
  have hhere : here → s.Here r := fun ⟨hkey, hb, hh, hm, hp⟩ => ⟨hkey, Bool.eq_false_iff.2 (mt hbehind.1 hb), hh, hm, hp⟩
  exact ⟨portRequestLeave_closed, portRequestLeave_store, shaperRefill_busy,
    fun ⟨hr, hst⟩ => sliceRequest_forwards hr hst,
    fun ⟨hr, hst⟩ => sliceRequest_rewalks hr hst,
    fun ⟨hr, hst⟩ => remoteDataCacheRequest_forwards hr hst,
    fun ⟨hr, hst⟩ ⟨hh, hg, ho⟩ => performAtHome_answers hr hst (hhere hh) hg ho,
    fun ⟨hr, hst⟩ hh => performAtHome_gap hr hst (hhere hh),
    fun ⟨hr, hst⟩ hw => performAtHome_waits hr hst (hw.imp_left hbehind.2),
    fun ⟨hr, hst⟩ ⟨hh, hg, ho⟩ => clockGapWriteResume_answers hr hst (hhere hh) hg ho,
    fun ⟨hr, hst⟩ => responseDelivery_completes hr hst,
    fun ⟨hr, _⟩ => responseDelivery_waits hr,
    translationWalk_noSpace, translationWalk_fills, announcementApply_applies, routerPowerGate_sleeps, routerPowerGate_stays,
    fun hg hs => congrArg Host.Outcome.next (wakeRouter_gated hg hs),
    fun hg hs => ⟨_, rfl, wakeRouter_stale_tlb hg hs⟩⟩

end

section
/-! PROOFS. Decoding gives back what encoding wrote (02 R28, R33-R40): the words of each major go to that major's decoder, which reads
the fields at the places where the encoder put them. -/

namespace Sys2Proof

/-- The instructions without words are the steps of the device. -/
theorem encode_isEmpty (i : Instr) : (encode i).isEmpty = i.deviceStep := by
  cases i
  case mma e shape f acc src gb => cases src <;> rfl
  all_goals rfl

/-- What the words `l` of an instruction must do: decode to it, whatever follows a single word, and have the length that the first one tells. -/
def Reads (i : Instr) (l : List IWord) : Prop :=
  ∀ w ws, l = w :: ws → (∀ w1, decode w (ws.headD w1) = .ok i) ∧ 4 * (w :: ws).length = insnBytes w

theorem reads_nil (i : Instr) : Reads i [] := fun _ _ h => nomatch h

theorem reads_word {i : Instr} {w : IWord} {m : BitVec 6} (hm : fMajor w = m) (hs : (isEMajor m || m == 0x3D#6) = false)
    (h : ∀ w1, decode w w1 = .ok i) : Reads i [w] := by
  rintro _ _ ⟨⟩
  exact ⟨h, by simp [insnBytes, hm, hs]⟩

theorem reads_pair {i : Instr} {w v : IWord} {m : BitVec 6} (hm : fMajor w = m) (hs : (isEMajor m || m == 0x3D#6) = true)
    (h : decode w v = .ok i) : Reads i [w, v] := by
  rintro _ _ ⟨⟩
  exact ⟨fun _ => h, by simp [insnBytes, hm, hs]⟩

/-! ## The decoder of each major (02 R38) -/

/-- The majors of one-word instructions that have a decoder of their own. -/
def wordDecoders : List (BitVec 6 × (IWord → Decoded)) :=
  [(0x00#6, dec00), (0x05#6, dec05), (0x09#6, dec09), (0x10#6, dec10), (0x11#6, dec11), (0x12#6, dec12), (0x13#6, dec13),
   (0x14#6, dec14), (0x15#6, dec15), (0x18#6, dec18), (0x1A#6, dec1A), (0x1B#6, dec1B), (0x1E#6, dec1E), (0x20#6, dec20),
   (0x21#6, dec21), (0x22#6, dec22), (0x23#6, dec23), (0x24#6, dec24), (0x25#6, dec25), (0x26#6, dec26), (0x27#6, dec27),
   (0x28#6, dec28), (0x29#6, dec29), (0x2A#6, dec2A), (0x30#6, dec30), (0x31#6, dec31), (0x33#6, dec33), (0x34#6, dec34),
   (0x38#6, dec38), (0x3C#6, dec3C)]

/-- The majors of format E. -/
def pairDecoders : List (BitVec 6 × (IWord → IWord → Decoded)) :=
  [(0x32#6, dec32), (0x36#6, dec36), (0x37#6, dec37), (0x39#6, dec39), (0x3A#6, dec3A), (0x3B#6, dec3B)]

theorem reads_majorWord {i : Instr} {w : IWord} {m : BitVec 6} {f : IWord → Decoded} (hm : fMajor w = m)
    (hl : wordDecoders.find? (·.1 == m) = some (m, f)) (h : f w = .ok i) : Reads i [w] := by
  have hp : (m, f) ∈ wordDecoders := List.mem_of_find?_eq_some hl
  fin_cases hp <;> exact reads_word hm rfl fun _ => by rw [decode, hm]; exact h

theorem reads_majorPair {i : Instr} {w v : IWord} {m : BitVec 6} {f : IWord → IWord → Decoded} (hm : fMajor w = m)
    (hl : pairDecoders.find? (·.1 == m) = some (m, f)) (h : f w v = .ok i) : Reads i [w, v] := by
  have hp : (m, f) ∈ pairDecoders := List.mem_of_find?_eq_some hl
  fin_cases hp <;> exact reads_pair hm rfl (by rw [decode, hm]; exact h)

theorem withFmt_code {ok : Fmt → Bool} {f : Fmt} (h : ok f = true) (info : Word) (mk : Fmt → Instr) :
    withFmt ok f.code info mk = .ok (mk f) := by
  simp [withFmt, h]

theorem dec15_fence (sc : BitVec 2) : dec15 (packA 0x15#6 0#6 0#6 0#6 (0#6 ++ sc)) = .ok (.fence sc) := by
  revert sc
  decide

/-- Each group of constructors is the instructions of one major. -/
theorem reads_encode (i : Instr) (h : i.wf = true) : Reads i (encode i) := by
  cases i
  case add | sub | and | or | xor | sll | srl | sra | mul | mulh | mulhu | div | divu | rem | remu | min | max | minu | maxu | seq |
      sne | slt | sltu | clz | ctz | popc =>
    exact reads_majorWord (m := 0x00#6) (by simp) rfl (by simp [dec00])
  case addi | andi | ori | xori | slti | sltiu | aaddi | sysrd | syswr => exact reads_word (fMajor_packI ..) rfl (by simp [decode])
  case slli | srli | srai => exact reads_majorWord (m := 0x05#6) (by simp) rfl (by simp [dec05])
  case lui | call => exact reads_word (fMajor_packU ..) rfl (by simp [decode])
  case amov | aset | asetl | aperm | aadv | aget | agetb | agetl | agetp =>
    exact reads_majorWord (m := 0x09#6) (by simp) rfl (by simp [dec09])
  case ldB | ldH | ldW | ldD | ldBu | ldHu | ldWu => exact reads_majorWord (m := 0x10#6) (by simp) rfl (by simp [dec10])
  case stB | stH | stW | stD => exact reads_majorWord (m := 0x11#6) (by simp) rfl (by simp [dec11])
  case amoAdd | amoAnd | amoOr | amoXor | amoMin | amoMax | amoMinu | amoMaxu | amoSwap | cas | casGt | casVer | casPtag =>
    exact reads_majorWord (m := 0x12#6) (by simp) rfl (by simp [dec12])
  case redAdd | redAnd | redOr | redXor | redMin | redMax | redMinu | redMaxu | redFadd =>
    exact reads_majorWord (m := 0x13#6) (by simp) rfl (by simp [dec13])
  case lda | stl => exact reads_majorWord (m := 0x14#6) (by simp) rfl (by simp [dec14])
  case fence sc => exact reads_majorWord (m := 0x15#6) (by simp) rfl (dec15_fence sc)
  case waitW | waitD => exact reads_majorWord (m := 0x15#6) (by simp) rfl (by simp [dec15])
  case bra | beqz | bnez | bltz | bgez | bgtz | blez | bkany | bknone => exact reads_majorWord (m := 0x18#6) (by simp) rfl (by simp [dec18])
  case jmp | callr => exact reads_majorWord (m := 0x1A#6) (by simp) rfl (by simp [dec1A])
  case rwaitH | rwaitT | radvH | radvT | rfill | rfree | rbind => exact reads_majorWord (m := 0x1B#6) (by simp) rfl (by simp [dec1B])
  case trap | eret | sleep | movb | rep => exact reads_majorWord (m := 0x1E#6) (by simp) rfl (by simp [dec1E])
  case vadd | vsub | vmul | vmin | vmax | vabs | vneg =>
    exact reads_majorWord (m := 0x20#6) (by simp) rfl (by simp [dec20, withFmt_code (ok := Fmt.laneArith) h])
  case vfma | vfms | vfnma => exact reads_majorWord (m := 0x21#6) (by simp) rfl (by simp [dec21, withFmt_code (ok := Fmt.fma) h])
  case vceq | vcne | vclt | vcle | vcgt | vcge => exact reads_majorWord (m := 0x22#6) (by simp) rfl (by simp [dec22, withFmt])
  case vrsum | vrmax | vrmin => exact reads_majorWord (m := 0x23#6) (by simp) rfl (by simp [dec23, withFmt_code (ok := Fmt.reduce) h])
  case vperm | vbcast | vslideup | vslidedn => exact reads_majorWord (m := 0x24#6) (by simp) rfl (by simp [dec24, withFmt])
  case vcvt => exact reads_majorWord (m := 0x25#6) (by simp) rfl (by simp [dec25])
  case vrcp | vrsq | vexp2 | vlog2 => exact reads_majorWord (m := 0x26#6) (by simp) rfl (by simp [dec26, withFmt])
  case vld | vst | vldBc => exact reads_majorWord (m := 0x27#6) (by simp) rfl (by simp [dec27, withFmt])
  case kand | kor | kxor | knot | kmov => exact reads_majorWord (m := 0x28#6) (by simp) rfl (by simp [dec28])
  case vmovg | vext | ksetg | kgetg => exact reads_majorWord (m := 0x29#6) (by simp) rfl (by simp [dec29, withFmt])
  case vand | vor | vxor | vshl | vshr | vsra =>
    exact reads_majorWord (m := 0x2A#6) (by simp) rfl (by simp [dec2A, withFmt_code (ok := Fmt.bitwise) h])
  case agld | anew | afree | wire | link | adup | aera | payshare | paydrop =>
    exact reads_majorWord (m := 0x30#6) (by simp) rfl (by simp [dec30])
  case ruleset | rulepub => exact reads_majorWord (m := 0x31#6) (by simp) rfl (by simp [dec31])
  case launch | launchInd => exact reads_majorPair (m := 0x32#6) (by simp) rfl (by simp [dec32])
  case retire | retireS | yieldSlot | krel => exact reads_majorWord (m := 0x33#6) (by simp) rfl (by simp [dec33])
  case govset | profrd => exact reads_majorWord (m := 0x34#6) (by simp) rfl (by simp [dec34])
  case mma shape f acc src gb =>
    obtain ⟨hf, hs⟩ := (Bool.and_eq_true _ _).mp h
    cases src <;> exact reads_majorPair (m := 0x36#6) (by simp) rfl (by simp [dec36, hf, hs])
  case mmaRg shape f acc q gb =>
    obtain ⟨hf, hs⟩ := (Bool.and_eq_true _ _).mp h
    exact reads_majorPair (m := 0x36#6) (by simp) rfl (by simp [dec36, hf, hs])
  case bld => exact reads_majorPair (m := 0x37#6) (by simp) rfl (by simp [dec37, withFmt_code (ok := Fmt.matrix) h])
  case aclr | mxw | mxwait => exact reads_majorWord (m := 0x38#6) (by simp) rfl (by simp [dec38])
  case ast => exact reads_majorPair (m := 0x39#6) (by simp) rfl (by simp [dec39, withFmt_code (ok := Fmt.astDst) h])
  case cpy | cpyAdd | cpyMc => exact reads_majorPair (m := 0x3A#6) (by simp) rfl (by simp [dec3A])
  case post | postMb | postQ | toksend => exact reads_majorPair (m := 0x3B#6) (by simp) rfl (by simp [dec3B])
  case mboxCfg | mboxRd | csnap | barInit | barArrive | barWait => exact reads_majorWord (m := 0x3C#6) (by simp) rfl (by simp [dec3C])
  case extensionPrefix => exact reads_pair (fMajor_ext ..) rfl (by simp [decode])
  case hint => exact reads_word (fMajor_ext ..) rfl (by simp [decode])
  all_goals exact reads_nil _

end Sys2Proof

open Sys2Proof Sys2Proof.Machine

/-- Settles O57: the words of a well-formed instruction decode to it (`reads_encode`), and exactly the device's steps have none. -/
theorem decodeEncode : Obligations.DecodeEncode := by
  unfold Obligations.DecodeEncode
  intro i
  have hempty := encode_isEmpty i
  refine ⟨fun hd he => ?_, fun hd => List.isEmpty_iff.mp (hempty.trans hd), fun hwf => ?_⟩
  · simp [he, hd] at hempty
  · have h := reads_encode i hwf
    exact ⟨fun w ws he => (h w ws he).1, fun w ws he => (h w ws he).2⟩

end

section
/-! PROOFS. The registers of a context (02 R29; 05 R71) and what completes an instruction (02 R27; 06 R93). -/

namespace Sys2Proof.Machine

/-! ## Reading a register after a write -/

@[simp] theorem Ctx.getG_zero (c : Ctx) : c.getG 0 = 0 := if_pos rfl
@[simp] theorem Ctx.setG_zero (c : Ctx) (v : Word) : c.setG 0 v = c := if_pos rfl
@[simp] theorem Ctx.getK_zero (c : Ctx) : c.getK 0 = BitVec.allOnes 128 := if_pos rfl
@[simp] theorem Ctx.setK_zero (c : Ctx) (v : KWord) : c.setK 0 v = c := if_pos rfl

theorem Ctx.getG_setG (c : Ctx) {n : BitVec 6} (v : Word) (h : n ≠ 0) : (c.setG n v).getG n = v := by
  rw [Ctx.setG, if_neg h, Ctx.getG, if_neg h]
  exact Vector.getElem_set_self ..

theorem Ctx.getG_setG_ne (c : Ctx) {n m : BitVec 6} (v : Word) (h : m ≠ n) : (c.setG n v).getG m = c.getG m := by
  unfold Ctx.setG
  split
  · rfl
  · simp [Ctx.getG, BitVec.toNat_inj, h.symm]

theorem Ctx.getK_setK (c : Ctx) {n : BitVec 3} (v : KWord) (h : n ≠ 0) : (c.setK n v).getK n = v := by
  rw [Ctx.setK, if_neg h, Ctx.getK, if_neg h]
  exact Vector.getElem_set_self ..

theorem Ctx.getK_setK_ne (c : Ctx) {n m : BitVec 3} (v : KWord) (h : m ≠ n) : (c.setK n v).getK m = c.getK m := by
  unfold Ctx.setK
  split
  · rfl
  · simp [Ctx.getK, BitVec.toNat_inj, h.symm]

@[simp] theorem Ctx.getA_setA (c : Ctx) (n : BitVec 4) (v : AReg) : (c.setA n v).getA n = v := Vector.getElem_set_self ..
@[simp] theorem Ctx.getQ_setQ (c : Ctx) (n : BitVec 4) (v : QReg) : (c.setQ n v).getQ n = v := Vector.getElem_set_self ..
@[simp] theorem Ctx.getV_setV (c : Ctx) (n : BitVec 5) (v : VWord) : (c.setV n v).getV n = v := Vector.getElem_set_self ..

theorem Ctx.getA_setA_ne (c : Ctx) {n m : BitVec 4} (v : AReg) (h : m ≠ n) : (c.setA n v).getA m = c.getA m :=
  Vector.getElem_set_ne n.isLt m.isLt (mt BitVec.eq_of_toNat_eq h.symm)
theorem Ctx.getQ_setQ_ne (c : Ctx) {n m : BitVec 4} (v : QReg) (h : m ≠ n) : (c.setQ n v).getQ m = c.getQ m :=
  Vector.getElem_set_ne n.isLt m.isLt (mt BitVec.eq_of_toNat_eq h.symm)
theorem Ctx.getV_setV_ne (c : Ctx) {n m : BitVec 5} (v : VWord) (h : m ≠ n) : (c.setV n v).getV m = c.getV m :=
  Vector.getElem_set_ne n.isLt m.isLt (mt BitVec.eq_of_toNat_eq h.symm)

/-! ## A write keeps the rest of the context -/

theorem Ctx.setG_eq (c : Ctx) (n : BitVec 6) (v : Word) : c.setG n v = { c with g := (c.setG n v).g } := by
  unfold Ctx.setG
  split <;> rfl

theorem Ctx.setK_eq (c : Ctx) (n : BitVec 3) (v : KWord) : c.setK n v = { c with k := (c.setK n v).k } := by
  unfold Ctx.setK
  split <;> rfl

/-! ## Completion -/

theorem Ctx.advance_once {c : Ctx} (h : c.rep = none) (len : Nat) :
    c.advance len = { c.ended with pc := c.pc + BitVec.ofNat 56 len } := by
  unfold Ctx.advance
  rw [h]

@[simp] theorem Ctx.setG_pc (c : Ctx) (n : BitVec 6) (v : Word) : (c.setG n v).pc = c.pc := by rw [c.setG_eq]

/-- A repetition that leaves a count. -/
theorem Ctx.advance_again {c : Ctx} {p : Addr} {n : BitVec 6} (h : c.rep = some (p, n)) (hn : n ≠ 0) (hc : c.getG n ≠ 1) (len : Nat) :
    c.advance len = (c.setG n (c.getG n - 1)).ended := by
  have hleft : ¬ (n = 0 ∨ c.getG n - 1 = 0) := by rintro (h0 | h1); exacts [hn h0, hc (sub_eq_zero.mp h1)]
  unfold Ctx.advance
  simp only [h, if_neg hleft]

/-- The last repetition. -/
theorem Ctx.advance_last {c : Ctx} {p : Addr} {n : BitVec 6} (h : c.rep = some (p, n)) (hc : c.getG n = 1) (len : Nat) :
    c.advance len = { (c.setG n 0).ended with pc := c.pc + BitVec.ofNat 56 len, rep := none } := by
  unfold Ctx.advance
  simp only [h, hc, sub_self, or_true, if_true, Ctx.setG_pc]

end Sys2Proof.Machine

open Sys2Proof Sys2Proof.Machine

/-- Settles O1, register file by register file. -/
theorem registerFiles : Obligations.RegisterFiles := by
  unfold Obligations.RegisterFiles
  intro c
  exact ⟨c.getG_zero, c.getK_zero, c.setG_zero, c.setK_zero,
    fun _ v => c.getG_setG v, fun _ _ v => c.getG_setG_ne v, fun _ v => c.getK_setK v, fun _ _ v => c.getK_setK_ne v,
    c.getA_setA, fun _ _ v => c.getA_setA_ne v, c.getQ_setQ, fun _ _ v => c.getQ_setQ_ne v, c.getV_setV, fun _ _ v => c.getV_setV_ne v,
    c.setG_eq, c.setK_eq, fun _ _ => rfl, fun _ _ => rfl, fun _ _ => rfl⟩

/-- Settles O2: `Ctx.advance` without a repetition, in one that leaves a count, and in the last one. -/
theorem completion : Obligations.Completion := by
  unfold Obligations.Completion
  intro s len
  exact ⟨fun h => congrArg (fun c => { s with me := c }) (Ctx.advance_once h len),
    fun _ _ h hn hc => congrArg (fun c => { s with me := c }) (Ctx.advance_again h hn hc len),
    fun _ _ h _ hc => congrArg (fun c => { s with me := c }) (Ctx.advance_last h hc len)⟩

end

section
/-! PROOFS. Extended immediates (02 R31): the word after it is decoded once, and runs with its immediate extended. -/

namespace Sys2Proof

/-- The word of a one-word instruction decodes to it. -/
theorem decode_of_encode {i : Instr} {w : IWord} (he : encode i = [w]) (hwf : i.wf = true) (w1 : IWord) : decode w w1 = .ok i :=
  (reads_encode i hwf w [] he).1 w1

end Sys2Proof

namespace Sys2Proof.Machine

/-- A prefixed word of an instruction whose immediate is extended. -/
theorem exec_prefix {w : IWord} {m : BitVec 6} (i : Instr) (ext : BitVec 26) (s : State) (hm : fMajor w = m)
    (he : encode i = [w] := by rfl) (hx : extendable m = true := by rfl) (hwf : i.wf = true := by rfl) :
    exec (.extensionPrefix ext w) s = .next (opExtended ext w i (s.prefixed w)) := by
  rw [exec_extensionPrefix, execExtensionPrefix, opPrefix, if_pos (hm ▸ hx), decode_of_encode he hwf]
  rfl

/-- A prefixed word that cannot be extended. -/
theorem exec_prefix_illegal {w : IWord} (ext : BitVec 26) (s : State) (hx : extendable (fMajor w) = false) :
    exec (.extensionPrefix ext w) s = .next ((s.prefixed w).trap 0x01 (w.setWidth 64)) := by
  rw [exec_extensionPrefix, execExtensionPrefix, opPrefix, if_neg (Bool.eq_false_iff.mp hx)]
  rfl

/-! ## Values (02 R31; 06 R84, R85) -/

theorem lui46_eq (ext : BitVec 26) (i : BitVec 20) : lui46 ext i = BitVec.ofInt 64 ((ext ++ i).toInt * 2 ^ 14) := by
  rw [lui46, BitVec.shiftLeft_eq_mul_twoPow, BitVec.signExtend, BitVec.ofInt_mul]
  rfl

theorem truth_signedLt (a b : Word) : truth (signedLt a b) = if a.toInt < b.toInt then 1 else 0 := by
  simp [truth, signedLt]

theorem truth_unsignedLt (a b : Word) : truth (unsignedLt a b) = if a.toNat < b.toNat then 1 else 0 := by
  simp [truth, unsignedLt]

/-! ## A pointer moved (06 R87) -/

theorem opMove_within {s : State} {ad aa : BitVec 4} {move : Int} {p : Nat} (len : Nat) (hp : (p : Int) = (s.me.getA aa).ptr.toNat + move)
    (hb : (s.me.getA aa).base.toNat ≤ p) (hl : p ≤ (s.me.getA aa).limit.toNat) :
    opMove ad aa move len s = (s.setA ad { s.me.getA aa with ptr := BitVec.ofNat 56 p }).advance len := by
  unfold opMove
  simp only [← hp]
  rw [if_pos ⟨by omega, by omega⟩, BitVec.ofInt_natCast]

theorem opMove_beyond {s : State} {ad aa : BitVec 4} {move v : Int} (len : Nat) (hv : v = (s.me.getA aa).ptr.toNat + move)
    (h : v < (s.me.getA aa).base.toNat ∨ (s.me.getA aa).limit.toNat < v) :
    opMove ad aa move len s = s.trap 0x02 (BitVec.ofNat 64 ((v % 2 ^ 56).toNat * 256 + ad.toNat)) := by
  unfold opMove
  simp only [← hv]
  have hlt : (v % 2 ^ 56).toNat < 2 ^ 56 := by omega
  have hreg : ad.toNat % 16 = ad.toNat := Nat.mod_eq_of_lt ad.isLt
  rw [if_neg (by omega), State.rangeTrap, State.limitTrap, accessInfo, eaBits, Nat.mod_eq_of_lt hlt, hreg, Nat.zero_mod, Nat.zero_mul, Nat.add_zero]

/-! ## Scratch through an address register (06 R88, R89; 09 R152) -/

@[simp] theorem ctx_cur (s : State) : s.ctx s.cur = s.me := if_pos rfl

theorem check_scratchOk {s : State} {a : BitVec 4} {ea : Int} {n : Nat} {rd wr : Bool} {align : Nat} (h : s.ScratchOk a ea n rd wr align) :
    s.check a ea n rd wr align = .ok ⟨true, ea.toNat, (s.me.getA a).cls, 0, a.toNat, []⟩ s := by
  obtain ⟨hs, hb, hl, hr, hw, ha, hp, habs⟩ := h
  refine check_eq_ok.mpr ⟨hb, hl, ?_, by tauto, ?_, by rw [hs], ?_⟩
  · cases rd <;> cases wr <;> simp_all
  · simp [hp]
  · rw [if_pos hs, State.bringPages, ctx_cur, habs, List.foldl_nil]

theorem readScratch_of_clean {s : State} {o : Opnd} {n : Nat} (h : s.ScratchClean o.va n) : s.readScratch o n = .ok (mgets s.me.mem o.va n) s := by
  refine readScratch_clean (List.any_eq_false.mpr fun x hx => ?_)
  obtain ⟨hlo, hhi⟩ := mem_upFrom.mp hx
  have hx := h (x - o.va) (by omega)
  rw [Nat.add_sub_cancel' hlo] at hx
  simp [hx]

theorem opLoad_scratch {s : State} {a : BitVec 4} {ea n : Nat} {disp : Int} (signed : Bool) (d : BitVec 6) (len : Nat)
    (hea : (ea : Int) = s.ptr a + disp) (hok : s.ScratchOk a ea n true false n) (hc : s.ScratchClean ea n) :
    opLoad n signed d a disp len s = (s.setG d (if signed then (BitVec.ofNat (8 * n) (s.scratchVal ea n)).signExtend 64
      else BitVec.ofNat 64 (s.scratchVal ea n))).advance len := by
  rw [opLoad, ← hea, check_scratchOk hok, andThen_ok, read_scratch n rfl, readScratch_of_clean (by exact hc), andThen_ok]
  rfl

theorem opStore_scratch {s : State} {a : BitVec 4} {ea n : Nat} {disp : Int} (sig : Bool) (d : BitVec 6) (len : Nat)
    (hea : (ea : Int) = s.ptr a + disp) (hok : s.ScratchOk a ea n false true n) :
    opStore n sig d a disp len s = (s.writeScratch ea (leBytes n (s.getG d).toNat)).advance len := by
  rw [opStore, ← hea, check_scratchOk hok, andThen_ok, write_scratch _ _ rfl, andThen_ok]
  rfl

/-- The size codes of loads, with their sizes and whether they extend the sign (06 R89). -/
def loadSizes : List (BitVec 3 × Nat × Bool) := [(0, 1, true), (1, 2, true), (2, 4, true), (3, 8, false), (4, 1, false), (5, 2, false), (6, 4, false)]

/-- The size codes of stores, with their sizes. -/
def storeSizes : List (BitVec 2 × Nat) := [(0, 1), (1, 2), (2, 4), (3, 8)]

/-- The load of each size code, prefixed. -/
theorem loadSizes_instr (ext : BitVec 26) (d : BitVec 6) (a : BitVec 4) (disp : BitVec 11) : ∀ l ∈ loadSizes,
    ∃ i : Instr, encode i = [packI 0x10#6 d (w6 a) (disp ++ l.1)] ∧ i.wf = true ∧
      ∀ w t, opExtended ext w i t = opLoad l.2.1 l.2.2 d a (disp37 ext disp l.2.1) 8 t := by
  simp only [loadSizes, List.forall_mem_cons]
  exact ⟨⟨.ldB d a disp, rfl, rfl, fun _ _ => rfl⟩, ⟨.ldH d a disp, rfl, rfl, fun _ _ => rfl⟩, ⟨.ldW d a disp, rfl, rfl, fun _ _ => rfl⟩,
    ⟨.ldD d a disp, rfl, rfl, fun _ _ => rfl⟩, ⟨.ldBu d a disp, rfl, rfl, fun _ _ => rfl⟩, ⟨.ldHu d a disp, rfl, rfl, fun _ _ => rfl⟩,
    ⟨.ldWu d a disp, rfl, rfl, fun _ _ => rfl⟩, fun _ h => nomatch h⟩

/-- The store of each size code, prefixed. -/
theorem storeSizes_instr (ext : BitVec 26) (sig : Bool) (d : BitVec 6) (a : BitVec 4) (disp : BitVec 11) : ∀ l ∈ storeSizes,
    ∃ i : Instr, encode i = [packI 0x11#6 d (w6 a) (disp ++ bit sig ++ l.1)] ∧ i.wf = true ∧
      ∀ w t, opExtended ext w i t = opStore l.2 sig d a (disp37 ext disp l.2) 8 t := by
  simp only [storeSizes, List.forall_mem_cons]
  exact ⟨⟨.stB sig d a disp, rfl, rfl, fun _ _ => rfl⟩, ⟨.stH sig d a disp, rfl, rfl, fun _ _ => rfl⟩,
    ⟨.stW sig d a disp, rfl, rfl, fun _ _ => rfl⟩, ⟨.stD sig d a disp, rfl, rfl, fun _ _ => rfl⟩, fun _ h => nomatch h⟩

theorem exec_prefixed_load {l : BitVec 3 × Nat × Bool} {ext : BitVec 26} {d : BitVec 6} {a : BitVec 4} {disp : BitVec 11} {s : State} {ea : Nat}
    (hl : l ∈ loadSizes) (hea : (ea : Int) = s.ptr a + disp37 ext disp l.2.1) (hok : s.ScratchOk a ea l.2.1 true false l.2.1)
    (hc : s.ScratchClean ea l.2.1) : exec (.extensionPrefix ext (packI 0x10#6 d (w6 a) (disp ++ l.1))) s =
      .next (((s.prefixed (packI 0x10#6 d (w6 a) (disp ++ l.1))).setG d (if l.2.2 then (BitVec.ofNat (8 * l.2.1) (s.scratchVal ea l.2.1)).signExtend 64
        else BitVec.ofNat 64 (s.scratchVal ea l.2.1))).advance 8) := by
  obtain ⟨i, he, hwf, hi⟩ := loadSizes_instr ext d a disp l hl
  rw [exec_prefix i ext s (fMajor_packI ..) he rfl hwf, hi]
  exact congrArg _ (opLoad_scratch (s := s.prefixed _) l.2.2 d 8 hea hok hc)

theorem exec_prefixed_store {l : BitVec 2 × Nat} {ext : BitVec 26} {sig : Bool} {d : BitVec 6} {a : BitVec 4} {disp : BitVec 11} {s : State}
    {ea : Nat} {w : IWord} (hl : l ∈ storeSizes) (hw : w = packI 0x11#6 d (w6 a) (disp ++ bit sig ++ l.1))
    (hea : (ea : Int) = s.ptr a + disp37 ext disp l.2) (hok : s.ScratchOk a ea l.2 false true l.2) :
    exec (.extensionPrefix ext w) s = .next (((s.prefixed w).writeScratch ea (leBytes l.2 (s.getG d).toNat)).advance 8) := by
  subst hw
  obtain ⟨i, he, hwf, hi⟩ := storeSizes_instr ext sig d a disp l hl
  rw [exec_prefix i ext s (fMajor_packI ..) he rfl hwf, hi]
  exact congrArg _ (opStore_scratch (s := s.prefixed _) sig d 8 hea hok)

end Sys2Proof.Machine

open Sys2Proof Sys2Proof.Machine

/-- Settles O7: every word that can be extended runs as `exec_prefix` says, with the value of its extended immediate. -/
theorem prefixedForms : Obligations.PrefixedForms := by
  unfold Obligations.PrefixedForms
  intro s ext d a imm i20 sig ad aa disp ea p
  dsimp only
  refine ⟨?addi, ?andi, ?ori, ?xori, ?slti, ?sltiu, ?lui, ?call, ?aaddi, ?loads, ?stores, fun w => exec_prefix_illegal ext s⟩
  case addi => rintro w rfl; exact exec_prefix (.addi d a imm) ext s (fMajor_packI ..)
  case andi => rintro w rfl; exact exec_prefix (.andi d a imm) ext s (fMajor_packI ..)
  case ori => rintro w rfl; exact exec_prefix (.ori d a imm) ext s (fMajor_packI ..)
  case xori => rintro w rfl; exact exec_prefix (.xori d a imm) ext s (fMajor_packI ..)
  case slti => rintro w rfl; rw [← truth_signedLt]; exact exec_prefix (.slti d a imm) ext s (fMajor_packI ..)
  case sltiu => rintro w rfl; rw [← truth_unsignedLt]; exact exec_prefix (.sltiu d a imm) ext s (fMajor_packI ..)
  case lui => rintro w rfl; rw [← lui46_eq]; exact exec_prefix (.lui d i20) ext s (fMajor_packU ..)
  case call => rintro w rfl; exact exec_prefix (.call d i20) ext s (fMajor_packU ..)
  case aaddi =>
    rintro w rfl
    rw [exec_prefix (.aaddi ad aa imm) ext s (fMajor_packI ..)]
    exact ⟨fun hp hb hl => congrArg _ (opMove_within 8 hp (mod_cast hb) (mod_cast hl)), fun v hv h => congrArg _ (opMove_beyond 8 hv h)⟩
  case loads => rintro l hl w rfl hea hok hc; exact exec_prefixed_load hl hea hok hc
  case stores =>
    intro l hl w hw hea hok
    have hstored := storedAt_msets s.me.mem ea (leBytes l.2 (s.getG d).toNat)
    exact ⟨_, exec_prefixed_store hl hw hea hok, rfl, hstored⟩

end

section
open Sys2Proof Sys2Proof.Machine

/-- Settles O56: each word by its own decoding; the pair by `exec_prefix`, whose extended immediate is 0x123456. -/
theorem encodedWords : Obligations.EncodedWords := by
  unfold Obligations.EncodedWords
  refine ⟨rfl, rfl, rfl, fun s => ?_, rfl, rfl, rfl, rfl⟩
  have himm : s.getG 0 + imm40s 0x48 0x3456 = 0x123456 := by
    rw [State.getG, Ctx.getG_zero]
    rfl
  rw [← himm]
  exact exec_prefix (.addi 4 0 0x3456) 0x48 s (m := 0x01#6) rfl

end

section
/-! PROOFS. A fetch (02 R33; 05 R69; 09 R156, R159): where it finds the line, and how a line from memory comes to the L1 region. -/

namespace Sys2Proof.Machine

/-! ## The fetch's outcomes -/

/-- A slot that waits keeps a command that has left its instruction. -/
theorem fetchEnded_stalled {s : State} {y : Stall} (h : s.me.run = .stalled y) : s.fetchEnded s.cur = s := by
  rw [State.fetchEnded, ctx_cur, h]

theorem fetch_idle {s : State} (h : s.me.run ≠ .running) : exec .instructionFetch s = .next s := by
  rw [exec_instructionFetch, execInstructionFetch, opInstructionFetch, if_neg h]

theorem fetch_ok {s t : State} {l : L1Line} (h : s.me.run = .running) (hf : s.fetchLine s.me.pc.toNat = .ok l t) :
    exec .instructionFetch s = .next t := by
  rw [exec_instructionFetch, execInstructionFetch, opInstructionFetch, if_pos h, hf]

theorem fetch_done {s t : State} (h : s.me.run = .running) (hf : s.fetchLine s.me.pc.toNat = .done t) :
    exec .instructionFetch s = .next (t.fetchEnded t.cur) := by
  rw [exec_instructionFetch, execInstructionFetch, opInstructionFetch, if_pos h, hf]

/-- A line that the fetch finds at hand changes nothing, whether the slot runs or not. -/
theorem fetch_held {s : State} {l : L1Line} (hf : s.fetchLine s.me.pc.toNat = .ok l s) : exec .instructionFetch s = .next s := by
  by_cases h : s.me.run = .running
  · exact fetch_ok h hf
  · exact fetch_idle h

/-! ## Where the line is found -/

theorem fetchLine_l1 {s : State} {va : Nat} {l : L1Line} (h : s.l1Find s.me.asid (va / 128) true = some l) : s.fetchLine va = .ok l s := by
  unfold State.fetchLine
  simp only [h]

theorem fetchLine_buffer {s : State} {va : Nat} {l : L1Line} (h : s.l1Find s.me.asid (va / 128) true = none) (hb : s.me.lineBuf = some l)
    (ha : l.asid = s.me.asid) (hv : l.vline = va / 128) : s.fetchLine va = .ok l s := by
  have hf : (some l).filter (fun l => l.asid == s.me.asid && l.vline == va / 128) = some l := by simp [Option.filter, ha, hv]
  unfold State.fetchLine
  simp only [h, hb, hf]

/-- The state in which a line of code has come from memory: fetch has run ahead of it, and the way to it has been traffic. -/
def State.codeCome (s : State) (va pa : Nat) : State :=
  let t := ({ s with me := { s.me with fetchPaid := false } } : State).runAhead va
  (t.wakeHome pa).rdcAdd t.myTower pa

/-- A line of code as it comes. -/
def State.codeLine (s : State) (va pa : Nat) : L1Line := s.l1Line s.myCore (s.slotReqs s.cur) s.me.asid va pa false true

theorem fetchLine_charged {s s1 : State} {va : Nat} (h : s.l1Find s.me.asid (va / 128) true = none) (hb : s.me.lineBuf = none)
    (hc : s.chargeFor .fetch 128 = .done s1) : s.fetchLine va = .done s1 := by
  unfold State.fetchLine
  simp only [h, hb, Option.filter_none, hc, bind_done]

theorem fetchLine_memory {s s1 s2 : State} {va pa : Nat} (h : s.l1Find s.me.asid (va / 128) true = none) (hb : s.me.lineBuf = none)
    (hc : s.chargeFor .fetch 128 = .ok () s1) (hx : s1.xlate ⟨false, va, s.classAt s.myCore va, 0xE, 0, []⟩ va .fetch = .ok pa s2)
    (hr : s2.readBar pa false = none) (hcap : l1Cap ((s2.codeCome va pa).core (s2.codeCome va pa).myCore) ≠ 0) :
    s.fetchLine va = .ok ((s2.codeCome va pa).codeLine va pa)
      ((s2.codeCome va pa).l1Fill (s2.codeCome va pa).myCore (s2.codeCome va pa).cur ((s2.codeCome va pa).codeLine va pa)) := by
  unfold State.fetchLine
  simp only [h, hb, Option.filter_none, hc, bind_ok, hx, hr]
  exact congrArg (Res.ok _) (if_neg hcap)

/-! ## What a fetch's way changes -/

theorem core_setCore_ne (s : State) {c c' : Nat} (x : Core) (h : c' ≠ c) : (s.setCore c x).core c' = s.core c' := tget_tset_ne _ _ _ h

/-- `t` is `s` after requests came to ports and steps were raised. -/
def PortsTo (s t : State) : Prop :=
  t = { s with cores := t.cores, free := t.free, raised := t.raised } ∧
    ∀ c, t.core c = { s.core c with portq := (t.core c).portq, busy := (t.core c).busy }

theorem PortsTo.refl (s : State) : PortsTo s s := ⟨rfl, fun _ => rfl⟩

theorem PortsTo.trans {s t u : State} (h : PortsTo s t) (h' : PortsTo t u) : PortsTo s u := by
  obtain ⟨hs, hc⟩ := h
  obtain ⟨hs', hc'⟩ := h'
  exact ⟨by rw [hs', hs], fun c => by rw [hc', hc]⟩

theorem setCore_ports (s : State) (core : Nat) (q : List PortWait) (b : Vector Bool 4) :
    PortsTo s (s.setCore core { s.core core with portq := q, busy := b }) := by
  refine ⟨rfl, fun c => ?_⟩
  by_cases hc : c = core
  · subst hc
    rw [core_setCore]
  · rw [core_setCore_ne s _ hc]

theorem aheadLine_ports (s : State) (core vline : Nat) : PortsTo s (s.aheadLine core vline) := by
  unfold State.aheadLine
  dsimp only
  split
  · exact .refl s
  · exact (setCore_ports s core _ _).trans ⟨rfl, fun _ => rfl⟩

theorem runAhead_ports (s : State) (va : Nat) : PortsTo s (s.runAhead va) := by
  refine PortsTo.trans (t := { s with free := s.free + 1 }) ⟨rfl, fun _ => rfl⟩
    (List.foldlRecOn _ _ (.refl _) fun u hu l _ => hu.trans ?_)
  split
  · exact aheadLine_ports u _ l
  · exact .refl u

theorem rdcAdd_eq (s : State) (t pa : Nat) : ∃ rdc msc free, s.rdcAdd t pa = { s with rdc := rdc, msc := msc, free := free } := by
  unfold State.rdcAdd
  split
  · dsimp only
    split
    · exact ⟨_, _, _, rfl⟩
    · obtain ⟨msc, free, h⟩ := mscAdd_eq _ _
      exact ⟨_, msc, free, h⟩
  · exact ⟨_, _, _, rfl⟩

/-- Code comes without a change but to ports, caches, routers and the steps raised. -/
theorem codeCome_keeps (s : State) (va pa : Nat) : let u := s.codeCome va pa
    u.me = { s.me with fetchPaid := false } ∧ u.cur = s.cur ∧ u.mem = s.mem ∧ u.reqs = s.reqs ∧ u.towers = s.towers ∧ u.grade = s.grade ∧
      ∀ c, l1Cap (u.core c) = l1Cap (s.core c) := by
  intro u
  obtain ⟨hs, hc⟩ := runAhead_ports { s with me := { s.me with fetchPaid := false } } va
  generalize hv : ({ s with me := { s.me with fetchPaid := false } } : State).runAhead va = v at hs hc
  obtain ⟨_, _, _, _, _, hw⟩ := wakeHome_eq v pa
  obtain ⟨_, _, _, hr⟩ := rdcAdd_eq (v.wakeHome pa) v.myTower pa
  have hu : u = (v.wakeHome pa).rdcAdd v.myTower pa := by rw [← hv]; rfl
  rw [hu, hr, hw]
  refine ⟨by rw [hs], by rw [hs], by rw [hs], by rw [hs], by rw [hs], by rw [hs], fun c => ?_⟩
  have hcap := congrArg l1Cap (hc c)
  exact hcap

/-! ## The line stands in the L1 region -/

theorem siblingOn_congr {s t : State} (hr : t.reqs = s.reqs) (ht : t.towers = s.towers) (hg : t.grade = s.grade) (core : Nat) (k : SlotKey)
    (pline : Nat) : t.siblingOn core k pline = s.siblingOn core k pline := by
  unfold State.siblingOn State.unseen State.towerOf State.vc State.tower State.rows
  rw [hr, ht, hg]

theorem find?_insertCap {p : α → Bool} {x : α} {l : List α} (hx : p x = true) (hl : ∀ y ∈ l, p y = false) (cap n : Nat) :
    (insertCap cap n x l).find? p = some x := by
  unfold insertCap
  split
  · rw [List.find?_append, List.find?_eq_none.mpr (by simpa using hl)]
    simp [hx]
  · rw [List.find?_append, List.find?_eq_none.mpr (fun y hy => by simp [hl y (List.mem_of_mem_eraseIdx hy)])]
    simp [hx]

/-- A line's way into the region changes the core and the count of free choices. -/
theorem l1Add_eq (s : State) (core : Nat) (l : L1Line) : s.l1Add core l = { s with cores := (s.l1Add core l).cores, free := (s.l1Add core l).free } := by
  unfold State.l1Add
  dsimp only
  split <;> rfl

theorem l1Add_me (s : State) (core : Nat) (l : L1Line) : (s.l1Add core l).me = s.me := by rw [l1Add_eq]
theorem l1Add_mem (s : State) (core : Nat) (l : L1Line) : (s.l1Add core l).mem = s.mem := by rw [l1Add_eq]
theorem l1Add_myCore (s : State) (core : Nat) (l : L1Line) : (s.l1Add core l).myCore = s.myCore := by rw [l1Add_eq]; rfl

/-- A line that enters the region serves its slot, as the only copy of its address. -/
theorem l1Add_serves {s : State} {core : Nat} {l : L1Line} (hcap : l1Cap (s.core core) ≠ 0) (hx : l.exec = true)
    (hf : (s.tower (s.towerOf core)).cycle < l.filled + 16384) (hs : s.siblingOn core s.cur l.pline = false) :
    (s.l1Add core l).l1FindAt core l.asid l.vline true = some l := by
  unfold State.l1Add State.l1FindAt
  simp only [if_neg hcap, core_setCore]
  refine find?_insertCap ?_ (fun y hy => ?_) _ _
  · simp only [beq_self_eq_true, if_true, hx, Bool.true_and, Bool.and_eq_true, decide_eq_true_eq, Bool.not_eq_true']
    exact ⟨hf, hs⟩
  · have hy := (List.mem_filter.mp hy).2
    simp only [Bool.not_or, Bool.and_eq_true, Bool.not_eq_true'] at hy
    simp [hy.1]

/-- A line from memory stands in the L1 region afterwards. -/
theorem fetch_brings {s s1 s2 : State} {pa : Nat} (hrun : s.me.run = .running)
    (h : s.l1Find s.me.asid (s.me.pc.toNat / 128) true = none) (hb : s.me.lineBuf = none) (hc : s.chargeFor .fetch 128 = .ok () s1)
    (hx : s1.xlate ⟨false, s.me.pc.toNat, s.classAt s.myCore s.me.pc.toNat, 0xE, 0, []⟩ s.me.pc.toNat .fetch = .ok pa s2)
    (hr : s2.readBar pa false = none) (hcap : l1Cap (s2.core s2.myCore) ≠ 0) (hs : s2.siblingOn s2.myCore s2.cur (pa / 128) = false) :
    ∃ (t : State) (x : L1Line), exec .instructionFetch s = .next t ∧ t.l1Find s2.me.asid (s.me.pc.toNat / 128) true = some x ∧
      x.pline = pa / 128 ∧ t.me = { s2.me with fetchPaid := false } ∧ t.mem = s2.mem := by
  obtain ⟨hme, hcur, hmem, hreqs, htowers, hgrade, hcaps⟩ := codeCome_keeps s2 s.me.pc.toNat pa
  have hmy : (s2.codeCome s.me.pc.toNat pa).myCore = s2.myCore := congrArg coreOfKey hcur
  rw [← hmy, ← hcaps] at hcap
  have hline := fetchLine_memory h hb hc hx hr hcap
  generalize s2.codeCome s.me.pc.toNat pa = u at *
  have hsib : u.siblingOn u.myCore u.cur (u.codeLine s.me.pc.toNat pa).pline = false := by
    rw [siblingOn_congr hreqs htowers hgrade, hmy, hcur]
    exact hs
  rw [State.l1Fill, if_neg (Bool.eq_false_iff.mp hsib)] at hline
  refine ⟨_, u.codeLine s.me.pc.toNat pa, fetch_ok hrun hline, ?_, rfl, ?_, ?_⟩
  · have hasid : s2.me.asid = u.me.asid := by rw [hme]
    have hserves := l1Add_serves (l := u.codeLine s.me.pc.toNat pa) hcap rfl (Nat.lt_add_of_pos_right (by decide)) hsib
    rw [hasid, State.l1Find, l1Add_myCore]
    exact hserves
  · rw [l1Add_me, hme]
  · rw [l1Add_mem, hmem]

end Sys2Proof.Machine

open Sys2Proof Sys2Proof.Machine

/-- Settles O55, by where the fetch finds the line; one from memory is `fetch_brings`. -/
theorem fetchedLines : Obligations.FetchedLines := by
  unfold Obligations.FetchedLines
  intro s s1 s2 l pa
  refine ⟨fetch_idle, fun h => fetch_held (fetchLine_l1 h), fun h hb ha hv => fetch_held (fetchLine_buffer h hb ha hv), ?_, fetch_done, ?_⟩
  · intro hrun h hb hc
    obtain ⟨c, rfl⟩ := chargeFor_eq_done hc
    exact (fetch_done hrun (fetchLine_charged h hb hc)).trans (congrArg _ (fetchEnded_stalled rfl))
  · intro hrun h hb hc hx hr hcap hs
    exact fetch_brings hrun h hb hc hx hr hcap hs

end

section
/-! PROOFS. A slot's turn (02 R27, R41; 05 R66, R79): what it fetches, what it runs, and the cycles that pass with it (09 R162; 12 R196). -/

namespace Sys2Proof.Machine

/-! ## Whose turn it is (log 1) -/

/-- It is the turn of slot `k`, with the turns `ts` after it. -/
def State.TurnOf (s : State) (k : SlotKey) (ts : List Turn) : Prop :=
  s.turns = .slot k :: ts ∨ (s.turns = [] ∧ ts = [] ∧ s.ticks % 3 = 0 ∧ s.nextSlot = some k)

theorem advanceMachine_turn {s : State} {k : SlotKey} {ts : List Turn} (h : s.TurnOf k ts) :
    s.advanceMachine = ({ s with turns := ts } : State).issue k := by
  unfold State.advanceMachine
  obtain ht | ⟨ht, rfl, htick, hn⟩ := h
  · rw [ht]
    rfl
  · have hs : ({ s with turns := [] } : State) = s := by rw [← ht]
    have ha : s.attempt .issue = some (s.issue k) := congrArg (Option.map s.issue) hn
    rw [hs, ht, nextOrder, htick]
    simp only [firstSome, ha, Option.getD_some]

/-! ## What the slot does with it -/

/-- The state in which a slot's instruction is fetched: the slot unpacked, its core marked as active and the slot as the last to issue. -/
def State.issuing (s : State) (k : SlotKey) : State :=
  let u := s.switch k
  u.setCore u.myCore { u.core u.myCore with last := slotOfKey k, activeAt := (u.tower u.myTower).cycle }

theorem issue_halts {s : State} {k : SlotKey} (hr : (s.switch k).me.run = .running) (hp : (s.switch k).me.preempt = true)
    (hm : (s.switch k).mustComplete k = false) : s.issue k = .next ((s.switch k).halt k .preempt) := by
  unfold State.issue
  simp [hr, hp, hm]

/-- No pre-emption stands against the slot's issue. -/
theorem issue_goes {s : State} {k : SlotKey} (h : (s.switch k).me.preempt = false ∨ (s.switch k).mustComplete k = true) :
    ((s.switch k).me.preempt && !(s.switch k).mustComplete k && (s.switch k).me.run == .running) = false := by
  obtain h | h := h <;> simp [h]

theorem issue_stalls {s : State} {k : SlotKey} (hr : (s.switch k).me.run = .running)
    (hg : (s.switch k).me.preempt = false ∨ (s.switch k).mustComplete k = true) (hs : (s.switch k).storeStalled k = true) :
    s.issue k = .next ((s.switch k).stall .migration) := by
  unfold State.issue
  dsimp only
  rw [issue_goes hg, hr, hs]
  rfl

/-- What an issuing slot runs, once its fetch has ended. -/
def State.runFetched (k : SlotKey) : Res Decoded → Out
  | .done s => .next (s.fetchEnded k)
  | .ok (.ok i) s => exec i s
  | .ok (.error r) s => exec (.illegalInstruction r.info) s

theorem issue_fetches {s : State} {k : SlotKey} (hr : (s.switch k).me.run = .running)
    (hg : (s.switch k).me.preempt = false ∨ (s.switch k).mustComplete k = true) (hs : (s.switch k).storeStalled k = false) :
    s.issue k = State.runFetched k (s.issuing k).fetchInstr := by
  unfold State.issue
  dsimp only
  rw [issue_goes hg, hr, hs]
  rfl

/-! ## Words at hand (05 R69; 09 R141) -/

/-- The line of an address as code is at hand: in the L1 region, or in the slot's line buffer. -/
def State.CodeHeld (s : State) (va : Nat) (l : L1Line) : Prop :=
  s.l1Find s.me.asid (va / 128) true = some l ∨
    (s.l1Find s.me.asid (va / 128) true = none ∧ s.me.lineBuf = some l ∧ l.asid = s.me.asid ∧ l.vline = va / 128)

theorem fetchWord_held {s : State} {va : Nat} {l : L1Line} (h : s.CodeHeld va l)
    (hp : l.poison.contains ((l.pline * 128 + va % 128) / 32) = false) :
    s.fetchWord va = .ok (BitVec.ofNat 32 (leNat ((l.data.drop (va % 128)).take 4))) s := by
  have hl : s.fetchLine va = .ok l s := by
    obtain h | ⟨h, hb, ha, hv⟩ := h
    · exact fetchLine_l1 h
    · exact fetchLine_buffer h hb ha hv
  rw [State.fetchWord, hl, bind_ok, if_neg (Bool.eq_false_iff.mp hp)]

theorem fetchInstr_word {s : State} {w : IWord} (h : s.fetchWord s.me.pc.toNat = .ok w s) (hw : insnBytes w = 4) :
    s.fetchInstr = .ok (decode w 0) { s with me := { s.me with insn := info1 w } } := by
  rw [State.fetchInstr, h, bind_ok, hw]
  rfl

theorem fetchInstr_pair {s : State} {w w1 : IWord} (h : s.fetchWord s.me.pc.toNat = .ok w s) (h1 : s.fetchWord (s.me.pc + 4).toNat = .ok w1 s)
    (hw : insnBytes w = 8) :
    s.fetchInstr = .ok (decode w w1) { s with me := { s.me with insn := if fMajor w = 0x3D#6 then info1 w else info2 w w1 } } := by
  rw [State.fetchInstr, h, bind_ok, if_pos hw, h1, bind_ok]

/-- Of an instruction that ends in its line, the second word stands four bytes on in the same line. -/
theorem second_word_in_line {pc : Addr} (h : pc.toNat % 128 + 8 ≤ 128) :
    (pc + 4).toNat / 128 = pc.toNat / 128 ∧ (pc + 4).toNat % 128 = pc.toNat % 128 + 4 := by
  have hpc : (pc + 4).toNat = pc.toNat + 4 := by
    rw [BitVec.toNat_add]
    have hlt := pc.isLt
    exact Nat.mod_eq_of_lt (by simp; omega)
  omega

/-! ## The cycles of a step (09 R162; 12 R196) -/

theorem elapsedOn_bounds (ticks t : Nat) : 0 < elapsedOn ticks t ∧ elapsedOn ticks t < 256 := by
  unfold elapsedOn
  omega

/-- `t` is `s` with ports refilled, steps raised and towers changed, and nothing else. -/
def TicksTo (s t : State) : Prop :=
  t = { s with towers := t.towers, cores := t.cores, raised := t.raised } ∧
    (∀ c, t.core c = { s.core c with bucket := (t.core c).bucket, cap := (t.core c).cap, busy := (t.core c).busy }) ∧ ∀ x ∈ s.raised, x ∈ t.raised

theorem TicksTo.refl (s : State) : TicksTo s s := ⟨rfl, fun _ => rfl, fun _ h => h⟩

theorem TicksTo.trans {s t u : State} (h : TicksTo s t) (h' : TicksTo t u) : TicksTo s u := by
  obtain ⟨hs, hc, hr⟩ := h
  obtain ⟨hs', hc', hr'⟩ := h'
  exact ⟨by rw [hs', hs], fun c => by rw [hc', hc], fun x hx => hr' x (hr x hx)⟩

theorem refilled_ticks (s : State) (core : Nat) (l : List Raised) : TicksTo s ((s.setCore core (s.core core).refill).raises l) := by
  refine ⟨rfl, fun c => ?_, fun x hx => mem_raised_raises hx l⟩
  have hc : ((s.setCore core (s.core core).refill).raises l).core c = (s.setCore core (s.core core).refill).core c := rfl
  rw [hc]
  by_cases h : c = core
  · subst h
    rw [core_setCore]
    rfl
  · rw [core_setCore_ne s _ h]

theorem shaperRefill_ticks (s : State) (t : Fin 4) : TicksTo s (opShaperRefill t s) :=
  List.foldlRecOn _ _ (.refl s) fun u hu c _ => hu.trans (refilled_ticks u c _)

theorem TicksTo.ports {s r : State} (h : TicksTo s r) (l : List Raised) : TicksTo s { s with cores := r.cores, raised := r.raised ++ l } :=
  ⟨rfl, h.2.1, fun x hx => List.mem_append_left l (h.2.2 x hx)⟩

/-- The ports of a tower when its cycles pass: refilled at a boundary of 1024 cycles. -/
theorem boundary_ticks (s : State) (t : Fin 4) (p : Prop) [Decidable p] : TicksTo s (if p then s else opShaperRefill t s) := by
  split
  · exact .refl s
  · exact shaperRefill_ticks s t

theorem tickTower_ticks (s : State) (t : Fin 4) : TicksTo s (s.tickTower t) :=
  TicksTo.trans (t := s.setTower t { s.tower t with cycle := (s.tower t).cycle + elapsedOn s.ticks t }) ⟨rfl, fun _ => rfl, fun _ h => h⟩
    ((boundary_ticks _ t _).ports _)

theorem tickTower_cores {s : State} {t : Fin 4} (h : ((s.tower t).cycle + elapsedOn s.ticks t) / 1024 = (s.tower t).cycle / 1024) :
    (s.tickTower t).cores = s.cores := by
  unfold State.tickTower
  simp only [if_pos h]
  rfl

@[simp] theorem tickTower_count (s : State) (t : Fin 4) : (s.tickTower t).ticks = s.ticks := rfl

theorem tower_tickTower (s : State) (t : Fin 4) {n : Nat} (hn : n < 4) : (s.tickTower t).tower n =
    if n = t then { s.tower n with cycle := (s.tower n).cycle + elapsedOn s.ticks n } else s.tower n := by
  split
  · next h => rw [h]; exact tower_setTower s t { s.tower t with cycle := (s.tower t).cycle + elapsedOn s.ticks t }
  · exact Vector.getElem_set_ne (Nat.mod_lt _ (by decide)) (Nat.mod_lt _ (by decide)) (by omega)

theorem tick_ticks (s : State) : s.tick = { s with towers := s.tick.towers, cores := s.tick.cores, raised := s.tick.raised, ticks := s.ticks + 1 } ∧
    (∀ c, s.tick.core c = { s.core c with bucket := (s.tick.core c).bucket, cap := (s.tick.core c).cap, busy := (s.tick.core c).busy }) ∧
    ∀ x ∈ s.raised, x ∈ s.tick.raised := by
  obtain ⟨hs, hc, hr⟩ := (((tickTower_ticks s 0).trans (tickTower_ticks _ 1)).trans (tickTower_ticks _ 2)).trans (tickTower_ticks _ 3)
  exact ⟨congrArg (fun u : State => { u with ticks := s.ticks + 1 }) hs, hc, hr⟩

theorem tower_tick (s : State) {n : Nat} (hn : n < 4) :
    s.tick.tower n = { s.tower n with cycle := (s.tower n).cycle + elapsedOn s.ticks n } := by
  have h : s.tick.tower n = ((((s.tickTower 0).tickTower 1).tickTower 2).tickTower 3).tower n := rfl
  simp only [h, tower_tickTower _ _ hn, tickTower_count]
  interval_cases n <;> rfl

/-- Where no tower passes a boundary of 1024 cycles, no port changes. -/
theorem tick_cores {s : State} (h : ∀ n < 4, (s.tick.tower n).cycle / 1024 = (s.tower n).cycle / 1024) : s.tick.cores = s.cores := by
  have hb : ∀ n < 4, ((s.tower n).cycle + elapsedOn s.ticks n) / 1024 = (s.tower n).cycle / 1024 := fun n hn => by
    simpa only [tower_tick s hn] using h n hn
  have h0 := tickTower_cores (t := 0) (hb 0 (by decide))
  have h1 := tickTower_cores (s := s.tickTower 0) (t := 1) (by rw [tower_tickTower _ _ (by decide)]; exact hb 1 (by decide))
  have h2 := tickTower_cores (s := (s.tickTower 0).tickTower 1) (t := 2) (by
    rw [tower_tickTower _ _ (by decide), if_neg (by decide), tower_tickTower _ _ (by decide)]; exact hb 2 (by decide))
  have h3 := tickTower_cores (s := ((s.tickTower 0).tickTower 1).tickTower 2) (t := 3) (by
    rw [tower_tickTower _ _ (by decide), if_neg (by decide), tower_tickTower _ _ (by decide), if_neg (by decide),
      tower_tickTower _ _ (by decide)]; exact hb 3 (by decide))
  exact h3.trans (h2.trans (h1.trans h0))

end Sys2Proof.Machine

open Sys2Proof Sys2Proof.Machine

/-- Settles O54: `issue_halts`, `issue_stalls` and `issue_fetches` say what a turn does, `fetchWord_held` what words it finds at hand, and
`tick_ticks`, `tick_cores` and `tower_tick` what passes with the step. -/
theorem stepRunsDecoded : Obligations.StepRunsDecoded := by
  unfold Obligations.StepRunsDecoded
  intro s s1 k ts l w w1 i r u v line off turn goes held there kept runs
  have hstep : turn → step s = ticked (({ s with turns := ts } : State).issue k) := fun ht => congrArg ticked (advanceMachine_turn ht.1)
  have hfetch : goes → u.storeStalled k = false → step s = ticked (State.runFetched k v.fetchInstr) := fun ⟨ht, hg⟩ hs =>
    (hstep ht).trans (congrArg ticked (issue_fetches ht.2 hg hs))
  have hruns {d : Decoded} {x : Word} (hgo : goes) (hs : u.storeStalled k = false) (hf : v.fetchInstr = .ok d (kept x)) : runs d x := by
    refine ⟨fun hd => ?_, fun hd => ?_⟩ <;> (rw [hfetch hgo hs, hf, hd]; rfl)
  have hword {o : Nat} {x : IWord} {va : Nat} (hh : held) (ht : there o x) (hl : va / 128 = line) (ho : va % 128 = o) :
      v.fetchWord va = .ok x v := by
    have hheld : v.CodeHeld va l := by rw [State.CodeHeld, hl]; exact hh
    subst ho
    rw [ht.2]
    exact fetchWord_held hheld ht.1
  refine ⟨?stalled, ?fetched, ?held, ?halted, ?ticks⟩
  case stalled => exact fun ⟨ht, hg⟩ hs => (hstep ht).trans (congrArg ticked (issue_stalls ht.2 hg hs))
  case fetched =>
    intro hgo hs
    rw [hfetch hgo hs]
    exact ⟨fun hf => by rw [hf]; rfl, fun hf => by rw [hf]; rfl, fun hf => by rw [hf]; rfl⟩
  case held =>
    intro hgo hs hh ht
    have hw := hword hh ht rfl rfl
    refine ⟨fun hlen => hruns hgo hs (fetchInstr_word hw hlen), fun hlen hoff ht1 => ?_⟩
    obtain ⟨hl, ho⟩ := second_word_in_line hoff
    exact hruns hgo hs (fetchInstr_pair hw (hword hh ht1 hl ho) hlen)
  case halted => exact fun ht hp hm => (hstep ht).trans (congrArg ticked (issue_halts ht.2 hp hm))
  case ticks =>
    intro t
    obtain ⟨heq, hcore, hraised⟩ := tick_ticks t
    refine ⟨rfl, heq, hcore, tick_cores, fun n hn => ?_, hraised⟩
    obtain ⟨hpos, hlt⟩ := elapsedOn_bounds t.ticks n
    rw [tower_tick t hn]
    exact ⟨Nat.lt_add_of_pos_right hpos, Nat.add_lt_add_left hlt _, rfl⟩

end

section
/-! PROOFS. Vector registers that the task does not own (05 R68; 08 R125): every vector form checks the registers it names first. -/

namespace Sys2Proof

/-- The vector registers that an instruction names, whichever of its operands they are. -/
def Instr.vectorRegs : Instr → List (BitVec 5)
  | .vadd _ d a b _ | .vsub _ d a b _ | .vmul _ d a b _ | .vmin _ d a b _ | .vmax _ d a b _ | .vfma _ d a b _ | .vfms _ d a b _
  | .vfnma _ d a b _ | .vperm _ d a b _ | .vand _ d a b _ | .vor _ d a b _ | .vxor _ d a b _ | .vshl _ d a b _ | .vshr _ d a b _
  | .vsra _ d a b _ => [d, a, b]
  | .vabs _ d a _ | .vneg _ d a _ | .vrsum _ d a _ | .vrmax _ d a _ | .vrmin _ d a _ | .vbcast _ d a _ _ | .vslideup _ d a _ _
  | .vslidedn _ d a _ _ | .vcvt _ _ _ d a _ | .vrcp d a _ | .vrsq d a _ | .vexp2 d a _ | .vlog2 d a _ => [d, a]
  | .vceq _ _ a b _ | .vcne _ _ a b _ | .vclt _ _ a b _ | .vcle _ _ a b _ | .vcgt _ _ a b _ | .vcge _ _ a b _ => [a, b]
  | .vld d _ _ _ | .vst d _ _ _ | .vldBc _ d _ _ _ | .vmovg _ d _ _ | .vext _ _ d _ => [d]
  | _ => []

end Sys2Proof

namespace Sys2Proof.Machine

theorem vCheck_unowned {s : State} {l : List (BitVec 5)} {r : BitVec 5} (hr : r ∈ l) (ho : s.me.ownsV r = false) (f : State → State) :
    s.vCheck l f = s.illegal :=
  if_neg fun h => by rw [List.all_eq_true.mp h r hr] at ho; cases ho

/-- An instruction that names a vector register checks that the task owns it before it does anything else. -/
theorem exec_unowned {s : State} {i : Instr} {r : BitVec 5} (hr : r ∈ i.vectorRegs) (ho : s.me.ownsV r = false) :
    exec i s = .next (s.trap 0x01 s.me.insn) := by
  cases i
  case vadd | vsub | vmul | vmin | vmax | vfma | vfms | vfnma | vperm | vand | vor | vxor | vshl | vshr | vsra | vabs | vneg | vrsum | vrmax |
      vrmin | vbcast | vslideup | vslidedn | vcvt | vrcp | vrsq | vexp2 | vlog2 | vceq | vcne | vclt | vcle | vcgt | vcge | vld | vst | vldBc |
      vmovg | vext =>
    exact congrArg Host.Outcome.next (vCheck_unowned hr ho _)
  all_goals exact absurd hr List.not_mem_nil

end Sys2Proof.Machine

open Sys2Proof Sys2Proof.Machine

/-- Settles O36: every form of each list names the register, so `exec_unowned` says what it does. -/
theorem unownedRegisters : Obligations.UnownedRegisters := by
  unfold Obligations.UnownedRegisters
  intro s f g mode d a b k kd x disp ga gb gd three two compares
  have traps {r : BitVec 5} {l : List Instr} (ho : s.me.ownsV r = false) (hl : ∀ i ∈ l, r ∈ i.vectorRegs) :
      ∀ i ∈ l, exec i s = .next (s.trap 0x01 s.me.insn) := fun i hi => exec_unowned (hl i hi) ho
  exact ⟨fun ho => traps ho (by simp [three, two, Instr.vectorRegs]), fun ho => traps ho (by simp [three, two, compares, Instr.vectorRegs]),
    fun ho => traps ho (by simp [three, compares, Instr.vectorRegs])⟩

end

section
/-! PROOFS. Delivery of a trap (05 R76, R77). -/

namespace Sys2Proof.Machine

/-- A trap outside a handler of a task that has one goes to it. -/
theorem trap_handled {s : State} (hi : s.me.inh = false) (ht : s.me.tvec ≠ 0) (c : BitVec 8) (i : Word) :
    s.trap c i = { s with me := { s.me.ended with epc := s.me.at, cause := c, tinfo := i, inh := true, pc := s.me.tvec, rep := none } } :=
  if_pos ⟨hi, ht⟩

theorem setCtx_cur (s : State) (c : Ctx) : s.setCtx s.cur c = { s with me := c } := if_pos rfl

/-- The suspension of the issuing slot's own task. -/
theorem beginSuspend_eq (s : State) (c : Cause) : s.beginSuspend c =
    { s with
      me := { s.me with
        run := .suspending c, pc := s.me.at, rep := none, paid := false, fetchPaid := false, nth := 0, wide := false, movb := [], issued := false,
        got := [], succ := none },
      raised := s.raised ++ [.taskSuspension s.cur] } := by
  unfold State.beginSuspend State.beginSuspendKey
  dsimp only
  rw [ctx_cur, setCtx_cur]
  rfl

/-- A trap inside a handler, or of a task without one, suspends the task. -/
theorem trap_suspends {s : State} (h : s.me.inh = true ∨ s.me.tvec = 0) (c : BitVec 8) (i : Word) :
    s.trap c i = ({ s with me := { s.me with cont := none } } : State).beginSuspend (.fault c i s.me.at) :=
  if_neg fun ⟨hi, ht⟩ => h.elim (by simp [hi]) ht

end Sys2Proof.Machine

open Sys2Proof Sys2Proof.Machine

/-- Settles O16: `trap_handled` for the delivery to a handler, `trap_suspends` for the others. -/
theorem trapDelivery : Obligations.TrapDelivery := by
  unfold Obligations.TrapDelivery
  intro s c i idle here _ _ _
  exact ⟨fun hi ht => trap_handled hi ht c i, fun h => (trap_suspends h c i).trans (beginSuspend_eq _ _)⟩

end

section
/-! PROOFS. The registers after reset (05 R71, R73, R74; 13 R215; 16 R247; 23 R325). -/

namespace Sys2Proof.Machine

/-! ## A record that reset lists nothing of has its reset values -/

theorem reset_core (c : Nat) : State.reset.core c = .reset := rfl
theorem reset_cluster (c : Nat) : State.reset.cluster c = .reset := rfl
theorem reset_tower (t : Nat) : State.reset.tower t = .reset := Vector.getElem_replicate ..
theorem reset_ring (i : Fin 16) : State.reset.rings[i] = .reset := Vector.getElem_replicate ..

end Sys2Proof.Machine

open Sys2Proof Sys2Proof.Machine

/-- Settles O59, record by record. That memory lists nothing at reset is the model's reading of a silent spec (log 4, DESIGN CHOICE). -/
theorem resetState : Obligations.ResetState := by
  unfold Obligations.ResetState
  refine ⟨⟨rfl, rfl, rfl⟩, rfl, rfl, rfl, rfl, fun n => Vector.getElem_replicate .., fun n => Vector.getElem_replicate .., fun c => ?cores,
    fun t _ i => ?towers, fun cl => ?clusters, fun i => ?rings⟩
  case cores =>
    rw [reset_core]
    exact ⟨rfl, rfl, rfl, rfl, fun i _ => Vector.getElem_replicate ..⟩
  case towers =>
    rw [reset_tower]
    exact ⟨Vector.getElem_replicate .., Vector.getElem_replicate ..⟩
  case clusters =>
    rw [reset_cluster]
    exact ⟨rfl, fun i => Vector.getElem_replicate ..⟩
  case rings =>
    rw [reset_ring]
    exact ⟨rfl, rfl⟩

end

section
/-! PROOFS. System registers (05 R67, R74, R75; 06 R102; 09 R150, R161): the fields of the packed words, which number names what, and what a
supervisor core's access to a register of the Courier does. -/

namespace Sys2Proof.Machine

/-! ## Fields of a packed word -/

theorem field_eq {n lo len : Nat} {x : BitVec len} (h : n % 2 ^ 64 / 2 ^ lo % 2 ^ len = x.toNat) : (BitVec.ofNat 64 n).extractLsb' lo len = x := by
  apply BitVec.eq_of_toNat_eq
  rw [BitVec.extractLsb'_toNat, BitVec.toNat_ofNat, Nat.shiftRight_eq_div_pow, h]

theorem field_ofNat {n x lo len : Nat} (h : n % 2 ^ 64 / 2 ^ lo % 2 ^ len = x % 2 ^ len) :
    (BitVec.ofNat 64 n).extractLsb' lo len = BitVec.ofNat len x := field_eq (h.trans (BitVec.toNat_ofNat ..).symm)

theorem bit_ofNat {n lo : Nat} {b : Bool} (h : n % 2 ^ 64 / 2 ^ lo % 2 = boolNat b) : (BitVec.ofNat 64 n).getLsbD lo = b := by
  rw [BitVec.getLsbD, BitVec.toNat_ofNat, Nat.testBit_eq_decide_div_mod_eq, h]
  cases b <;> rfl

/-- The `len` bits of a word from bit `lo` on. -/
def fieldMask (p : Nat × Nat) : Word := BitVec.ofNat 64 (2 ^ p.2 - 1) <<< p.1

theorem and_fieldMask {v : Word} {p : Nat × Nat} (h : v.toNat / 2 ^ p.1 % 2 ^ p.2 = 0) : v &&& fieldMask p = 0 := by
  apply BitVec.eq_of_getLsbD_eq
  intro i hi
  have hbit : p.1 ≤ i → i - p.1 < p.2 → v.getLsbD i = false := fun hlo hlen => by
    have e : (v.toNat / 2 ^ p.1 % 2 ^ p.2).testBit (i - p.1) = v.getLsbD i := by
      rw [Nat.testBit_mod_two_pow, Nat.testBit_div_two_pow, Nat.sub_add_cancel hlo, decide_eq_true hlen, Bool.true_and]
      rfl
    rw [← e, h, Nat.zero_testBit]
  simp only [fieldMask, BitVec.getLsbD_and, BitVec.getLsbD_shiftLeft, BitVec.getLsbD_ofNat, Nat.testBit_two_pow_sub_one]
  by_cases hlo : p.1 ≤ i <;> by_cases hlen : i - p.1 < p.2 <;> simp_all

/-- A packed word meets no bit of a mask whose fields it leaves zero. -/
theorem and_fieldMasks {n : Nat} {m : Word} (l : List (Nat × Nat)) (hm : m = l.foldr (fun p m => fieldMask p ||| m) 0)
    (h : ∀ p ∈ l, n % 2 ^ 64 / 2 ^ p.1 % 2 ^ p.2 = 0) : BitVec.ofNat 64 n &&& m = 0 := by
  subst hm
  induction l with
  | nil => exact BitVec.and_zero
  | cons p l ih =>
    rw [List.foldr_cons, BitVec.and_or_distrib_left, and_fieldMask (by exact h p (List.mem_cons_self ..)), ih fun q hq => h q (List.mem_cons_of_mem p hq)]
    rfl

theorem boolNat_le (b : Bool) : boolNat b ≤ 1 := by cases b <;> decide

/-! ## The packed registers (05 R74, R67; 09 R161) -/

theorem status_fields (c : Ctx) (slot : Nat) : let v := c.status slot
    v.extractLsb' 16 16 = BitVec.ofNat 16 c.asid ∧ v.extractLsb' 9 3 = c.stage ∧ v.getLsbD 8 = c.group ∧ v.getLsbD 3 = c.inh ∧
      v.extractLsb' 0 2 = BitVec.ofNat 2 slot ∧ v &&& 0xFFFFFFFF0000F0F4 = 0 := by
  have hs : c.stage.toNat < 8 := c.stage.isLt
  have hg := boolNat_le c.group
  have hi := boolNat_le c.inh
  refine ⟨field_ofNat ?_, field_eq ?_, bit_ofNat ?_, bit_ofNat ?_, field_ofNat ?_,
    and_fieldMasks [(32, 32), (12, 4), (4, 4), (2, 1)] (by decide) ?_⟩
  case refine_6 => simp only [List.forall_mem_cons, List.not_mem_nil, false_implies, implies_true, and_true]; omega
  all_goals omega

theorem sCore_fields (s : State) : let v := s.sCore
    v.extractLsb' 0 10 = BitVec.ofNat 10 s.myCore ∧ v.extractLsb' 16 10 = BitVec.ofNat 10 s.me.firstCore ∧ v.getLsbD 31 = isSup s.myCore ∧
      v &&& 0xFFFFFFFF7C00FC00 = 0 := by
  have hb := boolNat_le (isSup s.myCore)
  refine ⟨field_ofNat ?_, field_ofNat ?_, bit_ofNat ?_, and_fieldMasks [(32, 32), (26, 5), (10, 6)] (by decide) ?_⟩
  case refine_4 => simp only [List.forall_mem_cons, List.not_mem_nil, false_implies, implies_true, and_true]; omega
  all_goals omega

theorem taskWord_fields (c : Ctx) : let v := c.taskWord
    v.extractLsb' 32 8 = BitVec.ofNat 8 c.bars.length ∧ v.extractLsb' 24 8 = BitVec.ofNat 8 c.scratch ∧
      v.extractLsb' 16 6 = BitVec.ofNat 6 c.regs ∧ v.extractLsb' 0 4 = c.tiles ∧ v &&& 0xFFFFFF0000C0FFF0 = 0 := by
  have ht : c.tiles.toNat < 16 := c.tiles.isLt
  refine ⟨field_ofNat ?_, field_ofNat ?_, field_ofNat ?_, field_eq ?_, and_fieldMasks [(40, 24), (22, 2), (4, 12)] (by decide) ?_⟩
  case refine_5 => simp only [List.forall_mem_cons, List.not_mem_nil, false_implies, implies_true, and_true]; omega
  all_goals omega

theorem poolWord_fields (c : Core) : let v := c.poolWord
    v.extractLsb' 16 7 = BitVec.ofNat 7 c.poolend ∧ v.extractLsb' 8 7 = BitVec.ofNat 7 c.scrend ∧ v.extractLsb' 0 7 = BitVec.ofNat 7 c.regend ∧
      v &&& 0xFFFFFFFFFF808080 = 0 := by
  refine ⟨field_ofNat ?_, field_ofNat ?_, field_ofNat ?_, and_fieldMasks [(23, 41), (15, 1), (7, 1)] (by decide) ?_⟩
  case refine_4 => simp only [List.forall_mem_cons, List.not_mem_nil, false_implies, implies_true, and_true]; omega
  all_goals omega

/-- The four bytes of s.shaper are the shares, which are below 256. -/
theorem shaperWord_shares (c : Core) (h : ∀ j < 4, nget c.shares j < 256) :
    c.shaperWord.toNat < 2 ^ 32 ∧ ∀ k < 4, c.shaperWord.toNat / 256 ^ k % 256 = nget c.shares k := by
  have h0 := h 0 (by decide)
  have h1 := h 1 (by decide)
  have h2 := h 2 (by decide)
  have h3 := h 3 (by decide)
  rw [Core.shaperWord, BitVec.toNat_ofNat]
  refine ⟨by omega, fun k hk => ?_⟩
  interval_cases k <;> omega

/-! ## Which number names what (05 R74) -/

/-- The numbers of the system registers. -/
def systemRegs : List (BitVec 12) := [0x000, 0x001, 0x002, 0x003, 0x004, 0x005, 0x006, 0x007, 0x008, 0x010, 0x020, 0x040, 0x041, 0x042, 0x043, 0x044,
  0x045, 0x046, 0x047, 0x050, 0x060]

/-- The registers of the Courier. -/
def courierRegs : List (BitVec 12) := [0x040, 0x041, 0x042, 0x043, 0x044, 0x045, 0x046, 0x047, 0x050, 0x060]

/-- The number of a region register. -/
abbrev regionReg (i : Fin 8) : BitVec 12 := 0x040 + BitVec.ofNat 12 i.val

@[simp] theorem regionIndex_regionReg (i : Fin 8) : regionIndex (regionReg i) = some i := by
  revert i
  decide

theorem regionReg_mem (i : Fin 8) : regionReg i ∈ courierRegs := by
  fin_cases i <;> simp [courierRegs, regionReg]

theorem isCourierReg_iff {num : BitVec 12} : isCourierReg num = true ↔ num ∈ courierRegs := by
  constructor
  · intro h
    simp only [isCourierReg, Bool.or_eq_true, beq_iff_eq] at h
    obtain (h | rfl) | rfl := h
    · unfold regionIndex at h
      split at h
      · next hn =>
        obtain ⟨i, rfl⟩ : ∃ i : Fin 8, num = regionReg i := ⟨⟨num.toNat - 0x040, by omega⟩, by bv_omega⟩
        exact regionReg_mem i
      · cases h
    · simp [courierRegs]
    · simp [courierRegs]
  · intro h
    simp only [courierRegs, List.mem_cons, List.not_mem_nil, or_false] at h
    rcases h with rfl | rfl | rfl | rfl | rfl | rfl | rfl | rfl | rfl | rfl <;> rfl

theorem courierRegs_named : ∀ num ∈ courierRegs, num ∈ systemRegs := by simp [courierRegs, systemRegs]

theorem courier_not_readOnly : ∀ num ∈ courierRegs, isReadOnlyReg num = false ∧ num ≠ 0x002 ∧ num ≠ 0x004 ∧ num ≠ 0x020 := by
  simp [courierRegs, isReadOnlyReg]

theorem isReadOnlyReg_mem {num : BitVec 12} (h : isReadOnlyReg num = true) : num ∈ systemRegs ∧ num ≠ 0x002 ∧ num ≠ 0x004 ∧ num ≠ 0x020 := by
  simp only [isReadOnlyReg, List.contains_iff_mem, List.mem_cons, List.not_mem_nil, or_false] at h
  rcases h with rfl | rfl | rfl | rfl | rfl | rfl | rfl | rfl <;> simp [systemRegs]

/-! ## SYSRD (06 R102) -/

theorem exec_sysrd_reads {s t : State} {num : BitVec 12} {v : Word} (h : s.sysRead num = some (v, t)) (d : BitVec 6) :
    exec (.sysrd d num) s = .next ((t.setG d v).advance 4) := by
  rw [exec_sysrd, execSysrd, opSysrd, h]
  rfl

/-- The registers whose number alone says what SYSRD gives of them. -/
def plainRegs : List (BitVec 12) := [0x000, 0x001, 0x002, 0x003, 0x004, 0x005, 0x006, 0x007, 0x008, 0x010, 0x020, 0x060]

/-- What SYSRD gives of the other numbers: a register of the Courier is the core's own, or on a supervisor core its target's. -/
theorem sysRead_other {num : BitVec 12} (h : num ∉ plainRegs) (s : State) :
    s.sysRead num =
      if isCourierReg num then
        some (if isSup s.myCore then s.remoteRead s.myCore num else
          ((regionIndex num).elim (s.core s.myCore).shaperWord fun i => (s.core s.myCore).region[i], s))
      else none := by
  unfold State.sysRead
  split
  iterate 12 exact absurd (by simp [plainRegs]) h
  refine if_congr Iff.rfl ?_ rfl
  split
  · rfl
  · cases regionIndex num <;> rfl

theorem sysRead_unnamed {num : BitVec 12} (h : num ∉ systemRegs) (s : State) : s.sysRead num = none := by
  have hplain : ∀ n ∈ plainRegs, n ∈ systemRegs := by simp [plainRegs, systemRegs]
  rw [sysRead_other (mt (hplain num) h), if_neg (mt isCourierReg_iff.mp (mt (courierRegs_named num) h))]

/-- Of the registers of the Courier, s.target alone is not its target's. -/
theorem courier_not_plain : ∀ num ∈ courierRegs, num ≠ 0x060 → num ∉ plainRegs := by simp [courierRegs, plainRegs]

theorem sysRead_remote {s : State} (hs : isSup s.myCore = true) {num : BitVec 12} (h : num ∈ courierRegs) (ht : num ≠ 0x060) :
    s.sysRead num = some (s.remoteRead s.myCore num) := by
  rw [sysRead_other (courier_not_plain num h ht), if_pos (isCourierReg_iff.mpr h), if_pos hs]

theorem regionReg_ne_target (i : Fin 8) : regionReg i ≠ 0x060 := by
  revert i
  decide

theorem sysRead_region {s : State} (hs : isSup s.myCore = false) (i : Fin 8) :
    s.sysRead (regionReg i) = some ((s.core s.myCore).region[i], s) := by
  rw [sysRead_other (courier_not_plain _ (regionReg_mem i) (regionReg_ne_target i)), if_pos (isCourierReg_iff.mpr (regionReg_mem i)),
    if_neg (Bool.eq_false_iff.mp hs), regionIndex_regionReg]
  rfl

theorem sysRead_shaper {s : State} (hs : isSup s.myCore = false) : s.sysRead 0x050 = some ((s.core s.myCore).shaperWord, s) := by
  rw [sysRead_other (courier_not_plain _ (by simp [courierRegs]) (by decide)), if_pos (by rfl), if_neg (Bool.eq_false_iff.mp hs)]
  rfl

/-! ## What s.target names (05 R75) -/

theorem remoteRead_none {s : State} {sup : Nat} (h : s.targetOf (s.core sup).target = none) (num : BitVec 12) :
    s.remoteRead sup num = (0, s.targetErr sup) := by
  rw [State.remoteRead, h]

theorem remoteRead_region {s : State} {sup t : Nat} {num : BitVec 12} {i : Fin 8} (h : s.targetOf (s.core sup).target = some t)
    (hi : regionIndex num = some i) : s.remoteRead sup num = ((s.core t).region[i], s) := by
  rw [State.remoteRead, h]
  dsimp only
  rw [hi]

theorem remoteRead_shaper {s : State} {sup t : Nat} {num : BitVec 12} (h : s.targetOf (s.core sup).target = some t)
    (hi : regionIndex num = none) : s.remoteRead sup num = ((s.core t).shaperWord, s) := by
  rw [State.remoteRead, h]
  dsimp only
  rw [hi]

theorem remoteWrite_none {s : State} {sup : Nat} (h : s.targetOf (s.core sup).target = none) (num : BitVec 12) (v : Word) :
    s.remoteWrite sup num v = s.targetErr sup := by
  rw [State.remoteWrite, h]

/-- The core whose region register `i` has been written. -/
def Core.withRegion (c : Core) (i : Fin 8) (v : Word) : Core := { c with region := c.region.set i.val (v &&& regionMask) }

theorem withRegion_region (c : Core) (i j : Fin 8) (v : Word) :
    (c.withRegion i v).region[j] = if j = i then v &&& 0x80FFFFFFFFE000FF else c.region[j] := by
  refine (Vector.getElem_set i.isLt j.isLt).trans (if_congr ?_ rfl rfl)
  rw [eq_comm, Fin.ext_iff]

theorem remoteWrite_region {s : State} {sup t : Nat} {num : BitVec 12} {i : Fin 8} (h : s.targetOf (s.core sup).target = some t)
    (hi : regionIndex num = some i) (ht : t < 1028) (v : Word) : s.remoteWrite sup num v = s.setCore t ((s.core t).withRegion i v) := by
  rw [State.remoteWrite, h]
  dsimp only
  rw [hi]
  exact if_neg (Nat.not_le.mpr ht)

theorem remoteWrite_port {s : State} {sup t : Nat} {num : BitVec 12} {i : Fin 8} (h : s.targetOf (s.core sup).target = some t)
    (hi : regionIndex num = some i) (ht : 1028 ≤ t) (v : Word) : s.remoteWrite sup num v = s.targetErr sup := by
  rw [State.remoteWrite, h]
  dsimp only
  rw [hi]
  exact if_pos ht

theorem remoteWrite_shaper {s : State} {sup t : Nat} {num : BitVec 12} (h : s.targetOf (s.core sup).target = some t)
    (hi : regionIndex num = none) (v : Word) : s.remoteWrite sup num v = s.setCore t ((s.core t).setShaper v) := by
  rw [State.remoteWrite, h]
  dsimp only
  rw [hi]

/-! ## SYSWR (06 R102) -/

/-- What SYSWR does of a register that is none of a task's own three. -/
theorem opSyswr_other {num : BitVec 12} (h2 : num ≠ 0x002) (h4 : num ≠ 0x004) (h20 : num ≠ 0x020) (a : BitVec 6) (s : State) :
    opSyswr num a s =
      if isReadOnlyReg num then s.advance 4
      else if isCourierReg num then
        if isSup s.myCore then
          if num = 0x060 then (s.setCore s.myCore { s.core s.myCore with target := s.getG a &&& 0x383FF }).advance 4
          else (s.remoteWrite s.myCore num (s.getG a)).advance 4
        else s.trap 0x03 (num.setWidth 64)
      else s.illegal := by
  unfold opSyswr
  dsimp only
  split
  · exact absurd rfl h2
  · exact absurd rfl h4
  · exact absurd rfl h20
  · rfl

theorem syswr_srstate (a : BitVec 6) (s : State) : exec (.syswr 0x020 a) s =
    .next (({ s with me := { s.me with srstate := if s.getG a = 0 then 1 else s.getG a } } : State).advance 4) := rfl

theorem syswr_readOnly {num : BitVec 12} (h : isReadOnlyReg num = true) (a : BitVec 6) (s : State) :
    exec (.syswr num a) s = .next (s.advance 4) := by
  obtain ⟨-, h2, h4, h20⟩ := isReadOnlyReg_mem h
  rw [exec_syswr, execSyswr, opSyswr_other h2 h4 h20, if_pos h]

/-- A register of the Courier is a supervisor core's alone. -/
theorem syswr_denied {s : State} (hs : isSup s.myCore = false) {num : BitVec 12} (h : num ∈ courierRegs) (a : BitVec 6) :
    exec (.syswr num a) s = .next (s.trap 0x03 (num.setWidth 64)) := by
  obtain ⟨hr, h2, h4, h20⟩ := courier_not_readOnly num h
  rw [exec_syswr, execSyswr, opSyswr_other h2 h4 h20, if_neg (Bool.eq_false_iff.mp hr), if_pos (isCourierReg_iff.mpr h),
    if_neg (Bool.eq_false_iff.mp hs)]

theorem syswr_remote {s : State} (hs : isSup s.myCore = true) {num : BitVec 12} (h : num ∈ courierRegs) (ht : num ≠ 0x060) (a : BitVec 6) :
    exec (.syswr num a) s = .next ((s.remoteWrite s.myCore num (s.getG a)).advance 4) := by
  obtain ⟨hr, h2, h4, h20⟩ := courier_not_readOnly num h
  rw [exec_syswr, execSyswr, opSyswr_other h2 h4 h20, if_neg (Bool.eq_false_iff.mp hr), if_pos (isCourierReg_iff.mpr h), if_pos hs, if_neg ht]

theorem syswr_target {s : State} (hs : isSup s.myCore = true) (a : BitVec 6) :
    exec (.syswr 0x060 a) s = .next ((s.setCore s.myCore { s.core s.myCore with target := s.getG a &&& 0x383FF }).advance 4) := by
  rw [exec_syswr, execSyswr, opSyswr_other (by decide) (by decide) (by decide), if_neg (by decide), if_pos (by rfl), if_pos hs, if_pos rfl]

theorem syswr_unnamed {num : BitVec 12} (h : num ∉ systemRegs) (a : BitVec 6) (s : State) :
    exec (.syswr num a) s = .next (s.trap 0x01 s.me.insn) := by
  have hne {n : BitVec 12} (hn : n ∈ systemRegs) : num ≠ n := fun e => h (e ▸ hn)
  rw [exec_syswr, execSyswr, opSyswr_other (hne (by simp [systemRegs])) (hne (by simp [systemRegs])) (hne (by simp [systemRegs])),
    if_neg fun hr => h (isReadOnlyReg_mem hr).1, if_neg (mt isCourierReg_iff.mp (mt (courierRegs_named num) h))]
  rfl

end Sys2Proof.Machine

open Sys2Proof Sys2Proof.Machine

/-- Settles O19: the packed words by their fields, a register of the Courier by what `s.target` names, the rest by `exec_sysrd_reads` and by
what SYSWR does with each kind of number. -/
theorem systemRegisters : Obligations.SystemRegisters := by
  unfold Obligations.SystemRegisters
  intro s d a i t x core region reads shares failed named
  have hreads {num : BitVec 12} {v : Word} (h : s.sysRead num = some (v, s)) : reads num v := exec_sysrd_reads h d
  have hshaper (c : Core) : shares c c.shaperWord := shaperWord_shares c
  have hcourier : ∀ num ∈ [region, 0x050], num ∈ courierRegs ∧ num ≠ 0x060 := by
    simp only [List.forall_mem_cons]
    exact ⟨⟨regionReg_mem i, regionReg_ne_target i⟩, ⟨by simp [courierRegs], by decide⟩, fun _ h => nomatch h⟩
  have hregion : regionIndex region = some i := regionIndex_regionReg i
  refine ⟨⟨_, hreads rfl, status_fields ..⟩, ⟨_, hreads rfl, sCore_fields s⟩, ⟨_, hreads rfl, taskWord_fields _⟩, ⟨_, hreads rfl, poolWord_fields _⟩,
    hreads rfl, ?own, ?supervisor, ?unnamed, hreads rfl, hreads rfl, hreads rfl, hreads rfl, hreads rfl, hreads rfl,
    fun num h => syswr_readOnly h a s, rfl, rfl, ?zero, ?nonzero, fun hs num h => syswr_denied hs (isCourierReg_iff.mp h) a⟩
  case own =>
    intro hs
    have htarget : s.sysRead 0x060 = some (if isSup s.myCore then (s.core s.myCore).target else 0, s) := rfl
    rw [hs] at htarget
    exact ⟨hreads (sysRead_region hs i), ⟨_, hreads (sysRead_shaper hs), hshaper _⟩, hreads htarget⟩
  case supervisor =>
    intro hs
    have htarget : s.sysRead 0x060 = some (if isSup s.myCore then (s.core s.myCore).target else 0, s) := rfl
    rw [hs] at htarget
    refine ⟨hreads htarget, syswr_target hs a, fun hn num hnum => ?_, fun hn => ?_⟩
    · obtain ⟨hc, h6⟩ := hcourier num hnum
      have hread := sysRead_remote hs hc h6
      rw [remoteRead_none hn] at hread
      have hwrite := syswr_remote hs hc h6 a
      rw [remoteWrite_none hn] at hwrite
      exact ⟨exec_sysrd_reads hread d, hwrite⟩
    · have hread {num : BitVec 12} (hnum : num ∈ [region, 0x050]) : s.sysRead num = some (s.remoteRead s.myCore num) :=
        sysRead_remote hs (hcourier num hnum).1 (hcourier num hnum).2
      have hwrite {num : BitVec 12} {u : State} (hnum : num ∈ [region, 0x050]) (hu : s.remoteWrite s.myCore num x = u) :
          exec (.syswr num a) s = .next (u.advance 4) := by
        rw [← hu]
        exact syswr_remote hs (hcourier num hnum).1 (hcourier num hnum).2 a
      have hr : region ∈ [region, 0x050] := List.mem_cons_self ..
      have h50 : 0x050#12 ∈ [region, 0x050] := List.mem_cons_of_mem _ (List.mem_cons_self ..)
      refine ⟨hreads ((hread hr).trans (congrArg some (remoteRead_region hn hregion))),
        ⟨_, hreads ((hread h50).trans (congrArg some (remoteRead_shaper hn rfl))), hshaper _⟩, hwrite h50 (remoteWrite_shaper hn rfl x),
        fun ht => ⟨s.setCore t ((s.core t).withRegion i x), hwrite hr (remoteWrite_region hn hregion ht x), rfl, ?_⟩,
        fun ht => hwrite hr (remoteWrite_port hn hregion ht x)⟩
      rw [core_setCore]
      exact ⟨rfl, fun j => withRegion_region (s.core t) i j x⟩
  case unnamed => exact fun num h => ⟨by rw [exec_sysrd, execSysrd, opSysrd, sysRead_unnamed h]; rfl, syswr_unnamed h a s⟩
  case zero =>
    intro h0
    rw [syswr_srstate, if_pos h0]
  case nonzero =>
    intro h0
    rw [syswr_srstate, if_neg h0]

end

section
/-! PROOFS. What the shared operations leave of the tasks: the slots, the suspended tasks and the groups (05 R79; 10 R170; 13 R211). -/

namespace Sys2Proof.Machine

/-! ## The slots -/

theorem ctx_setCtx_ne (s : State) {k j : SlotKey} (c : Ctx) (h : j ≠ k) : (s.setCtx k c).ctx j = s.ctx j := by
  unfold State.setCtx State.ctx
  split
  · next hk => rw [hk] at h; simp only [if_neg h]
  · split
    · rfl
    · exact tget_tset_ne _ _ _ h

@[simp] theorem setCtx_cur_eq (s : State) (k : SlotKey) (c : Ctx) : (s.setCtx k c).cur = s.cur := by
  unfold State.setCtx
  split <;> rfl

@[simp] theorem setCtx_suspended (s : State) (k : SlotKey) (c : Ctx) : (s.setCtx k c).suspended = s.suspended := by
  unfold State.setCtx
  split <;> rfl

@[simp] theorem setCtx_groups (s : State) (k : SlotKey) (c : Ctx) : (s.setCtx k c).groups = s.groups := by
  unfold State.setCtx
  split <;> rfl

/-! ## What the tasks are -/

/-- What a state says of its tasks: every slot's context, the frames of the suspended ones, and the groups. -/
def State.tasks (s : State) : (Ctx × SlotKey × Table Ctx) × List Suspended × List Group := ((s.me, s.cur, s.slots), s.suspended, s.groups)

/-- Both states have the same tasks. -/
def SameTasks (s t : State) : Prop := t.tasks = s.tasks

theorem SameTasks.refl (s : State) : SameTasks s s := rfl
theorem SameTasks.trans {s t u : State} (h : SameTasks s t) (h' : SameTasks t u) : SameTasks s u := Eq.trans h' h

theorem SameTasks.ctx {s t : State} (h : SameTasks s t) (k : SlotKey) : t.ctx k = s.ctx k := by
  have hs : (t.me, t.cur, t.slots) = (s.me, s.cur, s.slots) := congrArg (·.1) h
  simp only [Prod.mk.injEq] at hs
  obtain ⟨hme, hcur, hslots⟩ := hs
  simp only [State.ctx, hme, hcur, hslots]

theorem SameTasks.cur {s t : State} (h : SameTasks s t) : t.cur = s.cur := congrArg (·.1.2.1) h
theorem SameTasks.suspended {s t : State} (h : SameTasks s t) : t.suspended = s.suspended := congrArg (·.2.1) h
theorem SameTasks.groups {s t : State} (h : SameTasks s t) : t.groups = s.groups := congrArg (·.2.2) h

theorem SameTasks.setCtx {s t : State} (h : SameTasks s t) (k : SlotKey) (c : Ctx) : SameTasks (s.setCtx k c) (t.setCtx k c) := by
  unfold SameTasks State.tasks at *
  simp only [Prod.mk.injEq] at h
  obtain ⟨⟨hme, hcur, hslots⟩, hsus, hgr⟩ := h
  unfold State.setCtx
  rw [hcur]
  split <;> simp [hme, hslots, hsus, hgr]

theorem SameTasks.foldl {f : State → α → State} (hf : ∀ s a, SameTasks s (f s a)) (l : List α) (s : State) : SameTasks s (l.foldl f s) :=
  foldl_keeps (p := State.tasks) hf l s

theorem RaisesTo.sameTasks {s t : State} : RaisesTo s t → SameTasks s t := by
  rintro ⟨l, rfl⟩
  rfl

/-! ## Clocks and memory (10 R170) -/

theorem wakeRouter_tasks (s : State) (t h : Nat) : SameTasks s (s.wakeRouter t h) := by
  obtain ⟨_, _, _, _, _, e⟩ := wakeRouter_eq s t h
  rw [e]
  rfl

theorem bringUp_tasks (t : Nat) (need : Vector (BitVec 20) 4) : ∀ (n : Nat) (s : State), SameTasks s (s.bringUp t need n)
  | 0, s => .refl s
  | n + 1, s => by
    unfold State.bringUp
    split
    · exact .refl s
    · split
      · next a _ => exact SameTasks.trans (t := s.applyAnn a) rfl (bringUp_tasks t need n _)
      · exact .refl s

theorem reach_tasks (s : State) (t : Nat) (need : Vector (BitVec 20) 4) : SameTasks s (s.reach t need) := by
  unfold State.reach
  split
  · exact .refl s
  · exact (bringUp_tasks t need _ s).trans (clockMoved_raises ..).sameTasks

theorem openGap_tasks (s : State) (h : Nat) : SameTasks s (s.openGap h) := by
  unfold State.openGap
  split
  · exact .refl s
  · exact .foldl (fun s u => reach_tasks s u _) _ s

theorem performAt_tasks (s : State) (pa : Nat) (d : List Byte) (c : Bool) (bad : List Nat) : SameTasks s (s.performAt pa d c bad) := by
  cases hh : homeOf pa with
  | none => unfold State.performAt; rw [hh]; exact .refl s
  | some home =>
    cases home with
    | tower h =>
      obtain ⟨_, _, _, _, _, _, _, _, _, _, e⟩ := performAt_tower_eq hh s d c bad
      rw [e]
      rfl
    | host => unfold State.performAt; rw [hh]; rfl
    | peer p =>
      unfold State.performAt
      rw [hh]
      dsimp only
      split <;> rfl

theorem performFrom_tasks (s : State) (w pa : Nat) (d : List Byte) (c : Bool) (bad : List Nat) : SameTasks s (s.performFrom w pa d c bad) := by
  unfold State.performFrom
  split
  · next h _ =>
    have hdone := ((openGap_tasks s h).trans (reach_tasks _ h (s.vc w))).trans (performAt_tasks _ pa d c bad)
    dsimp only
    split
    · exact hdone
    · exact hdone.trans (reach_tasks ..)
  · exact performAt_tasks ..

theorem writeBackLine_tasks (s : State) (w : Nat) (c : Ctx) (line : Nat) : SameTasks s (s.writeBackLine w c line) := by
  unfold State.writeBackLine
  dsimp only
  split
  · exact .refl s
  · split
    · exact .refl s
    · exact performFrom_tasks ..

theorem writeBack_tasks (s : State) (k : SlotKey) : SameTasks s (s.writeBack k) := .foldl (fun s _ => writeBackLine_tasks s ..) _ s

/-! ## Pigeonholes, pools and slots (05 R67; 13 R203) -/

theorem unpigeon_tasks (s : State) (tid : Nat) : SameTasks s (s.unpigeon tid) := by
  refine .foldl (fun s t => ?_) _ s
  dsimp only
  split <;> rfl

theorem overflow_tasks (s : State) (t i : Nat) : SameTasks s (s.overflow t i) := by
  unfold State.overflow
  dsimp only
  split <;> rfl

theorem pigeonFault_tasks (s : State) (t : Nat) (f : PigeonFault) : SameTasks s (s.pigeonFault t f) := by
  unfold State.pigeonFault
  dsimp only
  split
  · split
    · exact SameTasks.trans (t := s.setTower t _) rfl (overflow_tasks ..)
    · rfl
  · exact SameTasks.trans (t := s.setTower t _) rfl (overflow_tasks ..)

theorem account_tasks (s : State) (core : Nat) : SameTasks s (s.account core) := rfl
theorem repool_tasks (s : State) (core : Nat) : SameTasks s (s.repool core) := rfl
theorem touch_tasks (s : State) (core : Nat) : SameTasks s (s.touch core) := rfl

/-- A context put into a slot is all that the tasks change by. -/
theorem placeCtx_tasks (s : State) (k : SlotKey) (c : Ctx) : SameTasks (s.setCtx k c) (s.placeCtx k c) := by
  have hset := (account_tasks s (coreOfKey k)).setCtx k c
  have hacq (u : State) (core : Nat) : SameTasks u (u.acquireAll core) := (reach_tasks ..).trans rfl
  exact hset.trans ((repool_tasks _ _).trans ((hacq _ _).trans ((touch_tasks _ _).trans ((wakeRouter_tasks ..).trans rfl))))

/-- The state in which a slot that is freed has given up its task's barrier objects and tiles. -/
def State.scrubbed (s : State) (k : SlotKey) : State :=
  (ownedAccs (s.ctx k)).foldl (fun s i => s.dropTile (tileOf (coreOfKey k) i))
    { s.account (coreOfKey k) with bars := (s.ctx k).bars.foldl (fun t b => tdel t (coreOfKey k * 128 + b)) (s.account (coreOfKey k)).bars }

theorem scrubbed_tasks (s : State) (k : SlotKey) : SameTasks s (s.scrubbed k) :=
  SameTasks.foldl (fun u i => (rfl : SameTasks u (u.dropTile (tileOf (coreOfKey k) i)))) (ownedAccs (s.ctx k)) _

/-- The rest of freeing a slot: its matrix queue's weight, its requests at the port, and what may take the slot now. -/
def State.openSlot (s : State) (k : SlotKey) : State :=
  let core := coreOfKey k
  let s :=
    if (s.residents core).isEmpty && !isSup core then
      let cl := s.cluster (clusterOf core)
      s.setCluster (clusterOf core) { cl with weights := cl.weights.set (indexOf core % 8) 1 (Nat.mod_lt _ (by decide)) }
    else s
  ((s.setCore core ((s.core core).dropWaits (·.key == k))).raise (.slotFill k)).lookAgain

theorem openSlot_tasks (s : State) (k : SlotKey) : SameTasks s (s.openSlot k) := by
  unfold State.openSlot
  dsimp only
  split <;> rfl

theorem freeSlot_eq (s : State) (k : SlotKey) : s.freeSlot k = (((s.scrubbed k).setCtx k .empty).repool (coreOfKey k)).openSlot k := rfl

/-- An empty slot is all that the tasks change by when a slot is freed. -/
theorem freeSlot_tasks (s : State) (k : SlotKey) : SameTasks (s.setCtx k .empty) (s.freeSlot k) := by
  rw [freeSlot_eq]
  exact ((scrubbed_tasks s k).setCtx k .empty).trans ((repool_tasks _ _).trans (openSlot_tasks _ k))

end Sys2Proof.Machine

end

section
/-! PROOFS. Halting a slot (05 R78, R79; 08 R126), and the firmware's release and ending of tasks (13 R214, R220). -/

namespace Sys2Proof.Machine

/-! ## Ports -/

theorem foldl_busyBy_eq : ∀ (l : List PortWait) (c : Core), ∃ b, l.foldl (fun c w => c.busyBy w.tenant) c = { c with busy := b }
  | [], c => ⟨c.busy, rfl⟩
  | w :: l, c => by
    obtain ⟨b, e⟩ := foldl_busyBy_eq l (c.busyBy w.tenant)
    exact ⟨b, e⟩

theorem dropWaits_eq (c : Core) (gone : PortWait → Bool) : ∃ q b, c.dropWaits gone = { c with portq := q, busy := b } := by
  obtain ⟨b, e⟩ := foldl_busyBy_eq (c.portq.filter gone) { c with portq := c.portq.filter fun w => !gone w }
  exact ⟨_, b, e⟩

theorem dropWaits_ports (s : State) (core : Nat) (gone : PortWait → Bool) : PortsTo s (s.setCore core ((s.core core).dropWaits gone)) := by
  obtain ⟨q, b, e⟩ := dropWaits_eq (s.core core) gone
  rw [e]
  exact setCore_ports s core q b

theorem PortsTo.sameTasks {s t : State} (h : PortsTo s t) : SameTasks s t := by
  rw [h.1]
  rfl

theorem PortsTo.stopped {s t : State} (h : PortsTo s t) (c : Nat) : (t.core c).stopped = (s.core c).stopped := by rw [h.2 c]

/-! ## Halting a slot (05 R79) -/

/-- A command that has not left its slot gives up its port and, where it has it, the array. -/
theorem dropM_leaving_eq {s : State} {c : MCmd} (h : c.phase = .leaving) :
    ∃ u mcmds clusters l, PortsTo s u ∧ s.dropM c = { u with mcmds := mcmds, clusters := clusters, raised := u.raised ++ l } := by
  have hq : c.inQueue = false := by simp [MCmd.inQueue, h]
  unfold State.dropM
  simp only [hq, Bool.false_eq_true, if_false]
  refine ⟨s.leavePortE c.key c.id, s.mcmds.filter (·.id ≠ c.id), ?_⟩
  have hp : PortsTo s (s.leavePortE c.key c.id) := dropWaits_ports s _ _
  split
  · unfold State.arrayFree
    dsimp only
    split
    · exact ⟨_, _, hp, rfl⟩
    · exact ⟨_, [], hp, by rw [List.append_nil]; rfl⟩
  · exact ⟨s.clusters, [], hp, by rw [List.append_nil]; rfl⟩

/-- `t` is `s` after slot `k` has given up commands that have not left it: its generator's state may have gone back, ports and the engines have
changed, and no other slot. -/
def GivesUp (k : SlotKey) (s t : State) : Prop :=
  t.cur = s.cur ∧ (∃ v, t.ctx k = { s.ctx k with srstate := v }) ∧ (∀ j, j ≠ k → t.ctx j = s.ctx j) ∧
    ∀ c, (t.core c).stopped = (s.core c).stopped

theorem SameTasks.givesUp {s t : State} (k : SlotKey) (h : SameTasks s t) (hc : ∀ c, (t.core c).stopped = (s.core c).stopped) : GivesUp k s t :=
  ⟨h.cur, ⟨_, h.ctx k⟩, fun j _ => h.ctx j, hc⟩

theorem GivesUp.trans {k : SlotKey} {s t u : State} (h : GivesUp k s t) (h' : GivesUp k t u) : GivesUp k s u := by
  obtain ⟨hcur, ⟨v, hk⟩, hj, hc⟩ := h
  obtain ⟨hcur', ⟨v', hk'⟩, hj', hc'⟩ := h'
  exact ⟨hcur'.trans hcur, ⟨v', by rw [hk', hk]⟩, fun j hne => (hj' j hne).trans (hj j hne), fun c => (hc' c).trans (hc c)⟩

theorem undoDraws_givesUp (s : State) (c : MCmd) : GivesUp c.key s (s.undoDraws c) := by
  unfold State.undoDraws
  split
  · exact ⟨setCtx_cur_eq .., ⟨c.sr, ctx_setCtx ..⟩, fun j hj => ctx_setCtx_ne s _ hj, fun n => by unfold State.setCtx; split <;> rfl⟩
  all_goals exact SameTasks.givesUp _ (.refl s) fun _ => rfl

theorem dropM_givesUp {s : State} {c : MCmd} (h : c.phase = .leaving) : GivesUp c.key s (s.dropM c) := by
  obtain ⟨u, _, _, _, hp, e⟩ := dropM_leaving_eq (s := s) h
  rw [e]
  exact SameTasks.givesUp _ (SameTasks.trans hp.sameTasks rfl) hp.stopped

theorem dropLeaving_givesUp (s : State) (k : SlotKey) : GivesUp k s (s.dropLeaving k) := by
  have hecmds (u : State) (l : List ECmd) : GivesUp k u { u with ecmds := l } := SameTasks.givesUp k rfl fun _ => rfl
  unfold State.dropLeaving
  dsimp only
  split
  · next c hc =>
    have hp := List.find?_some hc
    simp only [Bool.and_eq_true, beq_iff_eq] at hp
    obtain ⟨rfl, hleaving⟩ := hp
    exact ((dropM_givesUp hleaving).trans (undoDraws_givesUp _ c)).trans (hecmds _ _)
  · exact hecmds _ _

theorem leavePort_givesUp (s : State) (k : SlotKey) : GivesUp k s (s.leavePort k) :=
  have hp : PortsTo s (s.leavePort k) := dropWaits_ports s _ _
  SameTasks.givesUp k hp.sameTasks hp.stopped

/-- A slot that waits for no answer of its command at an engine. -/
def Run.commandless (r : Run) : Prop := ∀ id, r ≠ .stalled (.engine id)

theorem stopHeld_commandless {s : State} {k : SlotKey} (h : (s.ctx k).run.commandless) : s.stopHeld k = s := by
  unfold State.stopHeld
  split
  · next id hr => exact absurd hr (h id)
  · rfl

theorem disarm_tasks (s : State) (cl line : Nat) : SameTasks s (s.disarm cl line) := by
  unfold State.disarm
  split <;> rfl

/-- A slot that watches a line runs instead; another is as it was. -/
theorem unparkWatch_ctx (s : State) (k : SlotKey) :
    (s.unparkWatch k).ctx k = s.ctx k ∨ (s.unparkWatch k).ctx k = { s.ctx k with run := .running } := by
  unfold State.unparkWatch
  split
  · exact .inr (((disarm_tasks ..).ctx k).trans (ctx_setCtx ..))
  · exact .inr (((disarm_tasks ..).ctx k).trans (ctx_setCtx ..))
  · exact .inl rfl

theorem unparkWatch_commandless {s : State} {k : SlotKey} (h : (s.ctx k).run.commandless) : ((s.unparkWatch k).ctx k).run.commandless := by
  obtain e | e := unparkWatch_ctx s k <;> rw [e]
  · exact h
  · exact fun _ he => nomatch he

/-- Whatever it did, a slot that is halted is being suspended for the cause. -/
theorem halt_suspends (s : State) (k : SlotKey) (c : Cause) :
    ((s.halt k c).ctx k).run = .suspending c ∧ Raised.taskSuspension k ∈ (s.halt k c).raised := by
  have hb (u : State) (x : Ctx) : ((u.setCtx k x).raise (.taskSuspension k)).ctx k = x := ctx_setCtx u k x
  refine ⟨?_, mem_raised_raise ..⟩
  unfold State.halt State.beginSuspendKey
  rw [hb]

theorem beginSuspendKey_place (s : State) (k : SlotKey) (c : Cause) :
    ((s.beginSuspendKey k c).ctx k).pc = (s.ctx k).at ∧ ((s.beginSuspendKey k c).ctx k).g = (s.ctx k).g := by
  have hb (x : Ctx) : ((s.setCtx k x).raise (.taskSuspension k)).ctx k = x := ctx_setCtx s k x
  unfold State.beginSuspendKey
  rw [hb]
  exact ⟨rfl, rfl⟩

/-- A slot that waits for nothing performed and for no engine is halted at its instruction, with its registers. -/
theorem halt_place {s : State} {k : SlotKey} (hs : s.settle79 k = s) (h : (s.ctx k).run.commandless) (c : Cause) :
    ((s.halt k c).ctx k).pc = (s.ctx k).at ∧ ((s.halt k c).ctx k).g = (s.ctx k).g := by
  unfold State.halt
  rw [hs, stopHeld_commandless (unparkWatch_commandless h)]
  obtain ⟨-, ⟨v, hk⟩, -, -⟩ := (dropLeaving_givesUp (s.unparkWatch k) k).trans (leavePort_givesUp _ k)
  obtain ⟨hpc, hg⟩ := beginSuspendKey_place (((s.unparkWatch k).dropLeaving k).leavePort k) k c
  rw [hpc, hg, hk]
  obtain e | e := unparkWatch_ctx s k <;> rw [e] <;> exact ⟨rfl, rfl⟩

/-- What a slot does that a pre-emption halts. -/
def Run.halts (r : Run) : Prop := r = .running ∨ (∃ p, r = .parked p) ∨ ∃ y, r = .stalled y ∧ ∀ id, y ≠ .engine id

theorem Run.halts.commandless {r : Run} (h : r.halts) : r.commandless := by
  rintro id rfl
  obtain h | ⟨p, h⟩ | ⟨y, h, hy⟩ := h
  · cases h
  · cases h
  · cases h; exact hy id rfl

theorem byFirmware_failed {s : State} (h : s.phase = 0xF) (f : State → State) : s.byFirmware f = s := if_pos h
theorem byFirmware_acts {s : State} (h : s.phase ≠ 0xF) (f : State → State) : s.byFirmware f = f s := if_neg h

theorem opPreemptionRequest_halts {s : State} {k : SlotKey} (hr : (s.ctx k).run.halts) (hm : s.mustComplete k = false) :
    opPreemptionRequest k s = s.halt k .preempt := by
  unfold opPreemptionRequest
  obtain hr | ⟨p, hr⟩ | ⟨y, hr, -⟩ := hr <;> simp [hr, hm]

theorem opPreemptionRequest_completes {s : State} {k : SlotKey} (hr : (s.ctx k).run = .running ∨ ∃ y, (s.ctx k).run = .stalled y)
    (hm : s.mustComplete k = true) : opPreemptionRequest k s = s.setCtx k { s.ctx k with preempt := true } := by
  unfold opPreemptionRequest
  obtain hr | ⟨y, hr⟩ := hr <;> simp [hr, hm]

theorem preemptionRequest_halts {s : State} {k : SlotKey} (hp : s.phase ≠ 0xF) (hr : (s.ctx k).run.halts) (hm : s.mustComplete k = false) :
    ∃ t, exec (.preemptionRequest k) s = .next t ∧ (t.ctx k).run = .suspending .preempt ∧ (t.ctx k).pc = (s.ctx k).at ∧
      (t.ctx k).g = (s.ctx k).g ∧ Raised.taskSuspension k ∈ t.raised := by
  obtain ⟨hrun, hraised⟩ := halt_suspends s k .preempt
  obtain ⟨hpc, hg⟩ := halt_place (settle79_of_free hm) hr.commandless .preempt
  exact ⟨_, congrArg Host.Outcome.next ((byFirmware_acts hp _).trans (opPreemptionRequest_halts hr hm)), hrun, hpc, hg, hraised⟩

/-! ## Suspended tasks that the Courier firmware releases or ends (13 R214) -/

theorem find?_mapIf {p : α → Bool} {f : α → α} (hf : ∀ a, p a = true → p (f a) = true) {y : α} {l : List α} (h : l.find? p = some y) :
    (mapIf p f l).find? p = some (f y) := by
  have e : (p ∘ fun a => if p a then f a else a) = p := by
    funext a
    by_cases ha : p a = true <;> simp [ha, hf]
  rw [mapIf, List.find?_map, e, h]
  simp [List.find?_some h]

theorem report_tasks (s : State) (r : CourierRec) : SameTasks s (s.report r) := rfl
theorem releaseKeys_tasks (s : State) (id : Nat) : SameTasks s (s.releaseKeys id) := rfl

theorem suspendedOf_tid {s : State} {tid : Nat} {x : Suspended} (h : s.suspendedOf tid = some x) : x.ctx.tid = tid := by
  unfold State.suspendedOf at h
  simpa using List.find?_some h

theorem SameTasks.suspendedOf {s t : State} (h : SameTasks s t) (tid : Nat) : t.suspendedOf tid = s.suspendedOf tid := by
  unfold State.suspendedOf
  rw [h.suspended]

/-- The state in which the cause of a task's suspension has cleared. -/
def State.clear (s : State) (tid : Nat) : State :=
  { s with suspended := mapIf (·.ctx.tid == tid) (fun x => { x with cleared := true }) s.suspended }

theorem suspendedOf_clear {s : State} {tid : Nat} {x : Suspended} (h : s.suspendedOf tid = some x) :
    (s.clear tid).suspendedOf tid = some { x with cleared := true } :=
  find?_mapIf (p := fun x : Suspended => x.ctx.tid == tid) (f := fun x => { x with cleared := true }) (fun _ ha => ha) h

theorem opTaskRelease_eq {s : State} {tid : Nat} {x : Suspended} (h : s.suspendedOf tid = some x) :
    opTaskRelease tid s = ((s.clear tid).unpigeon tid).raise (.taskRestore tid) := by
  unfold opTaskRelease
  rw [h]
  rfl

theorem taskRelease_clears {s : State} {tid : Nat} {x : Suspended} (hp : s.phase ≠ 0xF) (h : s.suspendedOf tid = some x) :
    ∃ t, exec (.taskRelease tid) s = .next t ∧ t.suspendedOf tid = some { x with cleared := true } ∧ Raised.taskRestore tid ∈ t.raised := by
  have hsame := (unpigeon_tasks (s.clear tid) tid).trans (RaisesTo.raise _ (.taskRestore tid)).sameTasks
  exact ⟨_, congrArg Host.Outcome.next ((byFirmware_acts hp _).trans (opTaskRelease_eq h)), (hsame.suspendedOf tid).trans (suspendedOf_clear h),
    mem_raised_raise ..⟩

/-- The state in which a suspended task's frame, backing and stopped commands are gone. -/
def State.frameless (s : State) (x : Suspended) : State :=
  (({ s with suspended := s.suspended.filter (·.ctx.tid ≠ x.ctx.tid) } : State).dropFrames x.ctx.frames).dropParts x.ctx.tid

theorem endSuspended_alone {s : State} {x : Suspended} (hg : x.ctx.gid = none) :
    s.endSuspended x = (((s.frameless x).unpigeon x.ctx.tid).report (.taskEnded x.ctx.tid)).releaseKeys x.ctx.tid := by
  unfold State.endSuspended
  rw [hg]
  rfl

/-- The end of a suspended task that is of no group takes its frame and leaves a record. -/
theorem endSuspended_alone_gone {s : State} {x : Suspended} (hg : x.ctx.gid = none) :
    (s.endSuspended x).suspended = s.suspended.filter (·.ctx.tid ≠ x.ctx.tid) ∧ CourierRec.taskEnded x.ctx.tid ∈ (s.endSuspended x).courier := by
  rw [endSuspended_alone hg]
  have hsame := (unpigeon_tasks (s.frameless x) x.ctx.tid).trans ((report_tasks _ (.taskEnded x.ctx.tid)).trans (releaseKeys_tasks _ x.ctx.tid))
  refine ⟨hsame.suspended, ?_⟩
  exact List.mem_append_right ((s.frameless x).unpigeon x.ctx.tid).courier (List.mem_singleton_self _)

theorem courierEndTask_suspended {s : State} {tid : Nat} {x : Suspended} (hp : s.phase ≠ 0xF) (hk : s.keyOf tid = none)
    (h : s.suspendedOf tid = some x) (hg : x.ctx.gid = none) :
    ∃ t, exec (.courierEndTask tid) s = .next t ∧ (∀ y ∈ t.suspended, y.ctx.tid ≠ tid) ∧ CourierRec.taskEnded tid ∈ t.courier := by
  have hop : opCourierEndTask tid s = s.endSuspended x := by
    unfold opCourierEndTask
    rw [hk, h]
  obtain ⟨hsus, hrec⟩ := endSuspended_alone_gone (s := s) hg
  rw [suspendedOf_tid h] at hsus hrec
  refine ⟨_, congrArg Host.Outcome.next ((byFirmware_acts hp _).trans hop), fun y hy => ?_, hrec⟩
  rw [hsus] at hy
  simpa using (List.mem_filter.mp hy).2

theorem courierEndTask_halts {s : State} {tid : Nat} {k : SlotKey} (hp : s.phase ≠ 0xF) (hk : s.keyOf tid = some k) (hr : (s.ctx k).run.halts) :
    ∃ t, exec (.courierEndTask tid) s = .next t ∧ (t.ctx k).run = .suspending .ended ∧ Raised.taskSuspension k ∈ t.raised := by
  have hop : opCourierEndTask tid s = s.halt k .ended := by
    unfold opCourierEndTask
    rw [hk]
    obtain hr | ⟨p, hr⟩ | ⟨y, hr, -⟩ := hr <;> simp only [hr]
  exact ⟨_, congrArg Host.Outcome.next ((byFirmware_acts hp _).trans hop), halt_suspends s k .ended⟩

end Sys2Proof.Machine
end

section
/-! PROOFS. Suspension to a frame and restore from it (05 R79, R80; 09 R152; 13 R219-R221), core faults (13 R221) and the registers that a supervisor
core reaches (05 R75). -/

namespace Sys2Proof.Machine

/-! ## Suspension (05 R79, R80) -/

theorem taskSuspension_waits {s : State} {k : SlotKey} {c : Cause} (hr : (s.ctx k).run = .suspending c)
    (h : (s.unpinTask (s.ctx k).tid).suspendReady k = false) :
    exec (.taskSuspension k) s = .next ((s.unpinTask (s.ctx k).tid).raise (.taskSuspension k)) := by
  have hop : opTaskSuspension k s = (s.unpinTask (s.ctx k).tid).raise (.taskSuspension k) := by
    unfold opTaskSuspension
    simp only [hr, h, Bool.false_eq_true, if_false]
  exact congrArg Host.Outcome.next hop

/-- The state in which a task's frame is written and its slot is freed. -/
def State.framed (s : State) (k : SlotKey) (c : Cause) : State :=
  ({ s.writeBack k with suspended := (s.writeBack k).suspended ++ [s.frameOf k c] } : State).freeSlot k

theorem framed_suspended (s : State) (k : SlotKey) (c : Cause) : (s.framed k c).suspended = s.suspended ++ [s.frameOf k c] := by
  have h := (freeSlot_tasks ({ s.writeBack k with suspended := (s.writeBack k).suspended ++ [s.frameOf k c] } : State) k).suspended
  rw [setCtx_suspended] at h
  rw [State.framed, h, (writeBack_tasks s k).suspended]

theorem framed_ctx (s : State) (k : SlotKey) (c : Cause) : (s.framed k c).ctx k = .empty :=
  ((freeSlot_tasks ({ s.writeBack k with suspended := (s.writeBack k).suspended ++ [s.frameOf k c] } : State) k).ctx k).trans (ctx_setCtx ..)

theorem saveTask_tasks (s : State) (k : SlotKey) (c : Cause) : SameTasks (s.framed k c) (s.saveTask k c) := by
  have hraise (u : State) (b : Bool) (i : Raised) : SameTasks u (if b then u.raise i else u) := by split <;> rfl
  have hraised := hraise (s.framed k c) (s.frameOf k c).cleared (.taskRestore (s.frameOf k c).ctx.tid)
  unfold State.saveTask
  cases c
  case fault => exact hraised.trans (pigeonFault_tasks ..)
  all_goals exact hraised

theorem taskSuspension_saves {s : State} {k : SlotKey} {c : Cause} (hr : (s.ctx k).run = .suspending c) (hc : c ≠ .ended)
    (h : (s.unpinTask (s.ctx k).tid).suspendReady k = true) :
    exec (.taskSuspension k) s = .next ((s.unpinTask (s.ctx k).tid).saveTask k c) := by
  have hop : opTaskSuspension k s = (s.unpinTask (s.ctx k).tid).saveTask k c := by
    unfold opTaskSuspension
    simp only [hr, h, if_true]
    cases c
    case ended => exact absurd rfl hc
    all_goals rfl
  exact congrArg Host.Outcome.next hop

/-! ## Restore (09 R152; 13 R219, R220) -/

theorem SameTasks.groupOf {s t : State} (h : SameTasks s t) (gid : Nat) : t.groupOf gid = s.groupOf gid := by
  unfold State.groupOf
  rw [h.groups]

theorem groupOf_gid {s : State} {gid : Nat} {g : Group} (h : s.groupOf gid = some g) : g.gid = gid := by
  unfold State.groupOf at h
  simpa using List.find?_some h

theorem groupOf_setGroup {s : State} {gid : Nat} {g g' : Group} (h : s.groupOf gid = some g) (hid : g'.gid = gid) :
    (s.setGroup g').groupOf gid = some g' := by
  unfold State.groupOf State.setGroup at *
  rw [hid]
  exact find?_mapIf_const (by simp [hid]) h

/-- The state in which a suspended task's frame is gone, and its barrier objects and tiles stand in a core again. -/
def State.unframed (s : State) (x : Suspended) (core : Nat) : State :=
  { s with
    suspended := s.suspended.filter (·.ctx.tid ≠ x.ctx.tid),
    bars := x.bars.foldl (fun t (b : Nat × Barrier) => tset t (core * 128 + b.1) b.2) s.bars,
    acc := x.tiles.foldl (fun t (e : Nat × BitVec 32) => tset t (tileOf core (e.1 / 32768) * 32768 + e.1 % 32768) e.2) s.acc,
    accPoison := x.tilePoison.foldl (fun l p => sins l (tileOf core (p / 4096) * 4096 + p % 4096)) s.accPoison,
    tileOwner := (ownedAccs x.ctx).foldl (fun t i => tset t (tileOf core i) x.ctx.tid) s.tileOwner }

/-- The state in which a suspended task stands in a slot again. -/
def State.replaced (s : State) (x : Suspended) (k : SlotKey) : State :=
  (s.unframed x (coreOfKey k)).placeCtx k { x.ctx with run := .running }

theorem replaced_tasks (s : State) (x : Suspended) (k : SlotKey) :
    SameTasks ((s.unframed x (coreOfKey k)).setCtx k { x.ctx with run := .running }) (s.replaced x k) := placeCtx_tasks ..

theorem replaced_ctx (s : State) (x : Suspended) (k : SlotKey) : (s.replaced x k).ctx k = { x.ctx with run := .running } :=
  ((replaced_tasks s x k).ctx k).trans (ctx_setCtx ..)

theorem replaced_suspended (s : State) (x : Suspended) (k : SlotKey) : (s.replaced x k).suspended = s.suspended.filter (·.ctx.tid ≠ x.ctx.tid) :=
  (replaced_tasks s x k).suspended.trans (setCtx_suspended ..)

theorem groupOf_setCtx (s : State) (k : SlotKey) (c : Ctx) (gid : Nat) : (s.setCtx k c).groupOf gid = s.groupOf gid :=
  congrArg (List.find? _) (setCtx_groups s k c)

theorem replaced_groupOf (s : State) (x : Suspended) (k : SlotKey) (gid : Nat) : (s.replaced x k).groupOf gid = s.groupOf gid :=
  ((replaced_tasks s x k).groupOf gid).trans (groupOf_setCtx ..)

theorem restoreAt_runs {s : State} {x : Suspended} (h : x.ctx.succ = none) (k : SlotKey) : s.restoreAt x k = s.replaced x k := by
  unfold State.restoreAt
  dsimp only
  split
  · next hd _ => rw [h] at hd; cases hd
  · rfl

/-- A task past the checks of a RETIRE.S is held for its successor again. -/
theorem restoreAt_held {s : State} {x : Suspended} {d : KDesc} {gid : Nat} {g : Group} (h : x.ctx.succ = some d) (hgid : x.ctx.gid = some gid)
    (hg : s.groupOf gid = some g) (k : SlotKey) : s.restoreAt x k = (s.replaced x k).holdKey k g d := by
  have hbind : x.ctx.gid.bind (s.replaced x k).groupOf = some g := by rw [hgid]; exact (replaced_groupOf s x k gid).trans hg
  unfold State.restoreAt
  dsimp only
  split
  · next d' g' hd hg' =>
    cases h.symm.trans hd
    cases hbind.symm.trans hg'
    rfl
  · next hno => exact (hno d g h hbind).elim

/-- One more slot of a group is held, and others still run. -/
theorem holdKey_waits {s : State} {k : SlotKey} {g : Group} {d : KDesc} (hb : g.broken = false) (hl : g.held + 1 ≠ g.live) :
    s.holdKey k g d = (s.setCtx k { s.ctx k with run := .held }).setGroup { g with held := g.held + 1, succ := some d } := by
  unfold State.holdKey
  simp only [hb, Bool.false_eq_true, if_false, if_neg hl]

theorem holdKey_holds {s : State} {k : SlotKey} {gid : Nat} {g : Group} {d : KDesc} (hg : s.groupOf gid = some g) (hb : g.broken = false)
    (hl : g.held + 1 ≠ g.live) : (s.holdKey k g d).ctx k = { s.ctx k with run := .held } ∧
      (s.holdKey k g d).groupOf gid = some { g with held := g.held + 1, succ := some d } := by
  rw [holdKey_waits hb hl]
  exact ⟨ctx_setCtx .., groupOf_setGroup (g := g) ((groupOf_setCtx ..).trans hg) (groupOf_gid (g := g) hg)⟩

/-- The slot that a suspended task takes on a core, where no other task comes before it. -/
def State.homeOn (s : State) (x : Suspended) (tid core : Nat) : Option SlotKey :=
  if (s.restoreFor core).any (·.ctx.tid == tid) then s.restoreSlot x core else none

theorem taskRestore_restores {s : State} {tid : Nat} {x : Suspended} {k : SlotKey} (h : s.suspendedOf tid = some x) (hc : x.cleared = true)
    (hk : firstSome (s.homeOn x tid) (s.restoreOrder x) = some k) : exec (.taskRestore tid) s = .next (s.restoreAt x k) := by
  have hop : opTaskRestore tid s = s.restoreAt x k := by
    have htid := suspendedOf_tid h
    subst htid
    unfold opTaskRestore
    rw [h]
    dsimp only
    rw [if_pos hc]
    unfold State.restoreTask
    dsimp only
    split
    · next k' hk' =>
      cases hk.symm.trans hk'
      rfl
    · next hk' => cases hk.symm.trans hk'
  exact congrArg Host.Outcome.next hop

/-! ## Core faults (13 R221) -/

theorem foldl_id {f : State → α → State} {s : State} : ∀ {l : List α}, (∀ a ∈ l, f s a = s) → l.foldl f s = s
  | [], _ => rfl
  | a :: l, h => by rw [List.foldl_cons, h a (List.mem_cons_self ..)]; exact foldl_id fun b hb => h b (List.mem_cons_of_mem a hb)

/-- A fold that changes the state at one element alone is what it does there. -/
theorem foldl_once {f : State → α → State} {s : State} {a : α} : ∀ {l : List α}, l.Nodup → a ∈ l → (∀ b ∈ l, b ≠ a → f s b = s) →
    (∀ b ∈ l, b ≠ a → f (f s a) b = f s a) → l.foldl f s = f s a
  | b :: l, hn, ha, hs, ht => by
    obtain ⟨hb, hl⟩ := List.nodup_cons.mp hn
    rw [List.foldl_cons]
    by_cases hab : b = a
    · subst hab
      exact foldl_id fun c hc => ht c (List.mem_cons_of_mem b hc) fun e => hb (e ▸ hc)
    · rw [hs b (List.mem_cons_self ..) hab]
      exact foldl_once hl ((List.mem_cons.mp ha).resolve_left (Ne.symm hab)) (fun c hc => hs c (List.mem_cons_of_mem b hc))
        fun c hc => ht c (List.mem_cons_of_mem b hc)

theorem slotKeys_nodup (core : Nat) : (slotKeys core).Nodup := by simp [slotKeys]

theorem mem_slotKeys (k : SlotKey) : k ∈ slotKeys (coreOfKey k) := by
  have h (n : Nat) : n = 4 * (n / 4) ∨ n = 4 * (n / 4) + 1 ∨ n = 4 * (n / 4) + 2 ∨ n = 4 * (n / 4) + 3 := by omega
  simp only [slotKeys, coreOfKey, List.mem_cons, List.not_mem_nil, or_false]
  exact h k

theorem ctx_lone {s : State} (h : s.slots = []) {k : SlotKey} (hk : k ≠ s.cur) : s.ctx k = .empty := by
  rw [State.ctx, if_neg hk, h]
  rfl

theorem evacuate_empty {s : State} {k : SlotKey} (h : s.ctx k = .empty) (r : Bool) : s.evacuate r k = s := by
  unfold State.evacuate
  rw [h]
  rfl

/-- With one occupied slot, a core's evacuation is that slot's. -/
theorem evacuate_lone {s : State} (hs : s.slots = []) (r : Bool) (ht : ∀ j, j ≠ s.cur → (s.evacuate r s.cur).ctx j = s.ctx j) :
    (slotKeys s.myCore).foldl (fun s k => s.evacuate r k) s = s.evacuate r s.cur :=
  foldl_once (slotKeys_nodup _) (mem_slotKeys s.cur) (fun _ _ hj => evacuate_empty (ctx_lone hs hj) r)
    fun j _ hj => evacuate_empty ((ht j hj).trans (ctx_lone hs hj)) r

theorem evacuate_running {s : State} {k : SlotKey} (h : (s.ctx k).run = .running) (r : Bool) :
    s.evacuate r k = s.halt k (if r then .coreFault else .ended) := by
  unfold State.evacuate
  simp only [h]

theorem evacuate_held {s : State} {k : SlotKey} (h : (s.ctx k).run = .held) : s.evacuate true k = s.suspendHeld k := by
  unfold State.evacuate
  simp only [h, if_true]

/-- What the halt of a running task leaves alone: every other slot, and which cores are stopped. -/
theorem halt_running_frame {s : State} {k : SlotKey} (h : (s.ctx k).run = .running) (c : Cause) :
    (s.halt k c).cur = s.cur ∧ (∀ j, j ≠ k → (s.halt k c).ctx j = s.ctx j) ∧ ∀ n, ((s.halt k c).core n).stopped = (s.core n).stopped := by
  have h1 : s.settle79 k = s := by unfold State.settle79; rw [h]
  have h2 : s.unparkWatch k = s := by unfold State.unparkWatch; rw [h]
  have h3 : s.stopHeld k = s := by unfold State.stopHeld; rw [h]
  have hb (u : State) (x : Ctx) : ((u.setCtx k x).raise (.taskSuspension k)).cur = u.cur ∧
      (∀ j, j ≠ k → ((u.setCtx k x).raise (.taskSuspension k)).ctx j = u.ctx j) ∧ ((u.setCtx k x).raise (.taskSuspension k)).cores = u.cores :=
    ⟨setCtx_cur_eq .., fun j hj => ctx_setCtx_ne u x hj, by unfold State.setCtx; split <;> rfl⟩
  unfold State.halt
  rw [h1, h2, h3]
  obtain ⟨hcur, -, hj, hstop⟩ := (dropLeaving_givesUp s k).trans (leavePort_givesUp _ k)
  generalize (s.dropLeaving k).leavePort k = u at *
  obtain ⟨hcur', hj', hcores⟩ := hb u { u.ctx k with
    run := .suspending c, pc := (u.ctx k).at, rep := none, paid := false, fetchPaid := false, nth := 0, wide := false, movb := [], issued := false,
    got := [], succ := none }
  refine ⟨hcur'.trans hcur, fun j hne => (hj' j hne).trans (hj j hne), fun n => ?_⟩
  rw [← hstop n]
  exact congrArg (fun t => (tget Core.reset t n).stopped) hcores

/-- A core's first step on a fault, where its one task is in the issuing slot. -/
theorem stopCore_lone {s : State} {core : Nat} (hs : s.slots = []) (hc : s.myCore = core) (r : Bool)
    (ht : ∀ j, j ≠ s.cur → ((s.setCore core { s.core core with stopped := true }).evacuate r s.cur).ctx j = s.ctx j) :
    s.stopCore core r = ((((s.setCore core { s.core core with stopped := true }).evacuate r s.cur).l1Flush core).report (.coreFaulted core)) := by
  subst hc
  unfold State.stopCore
  exact congrArg (fun u : State => (u.l1Flush s.myCore).report (.coreFaulted s.myCore))
    (evacuate_lone (s := s.setCore s.myCore { s.core s.myCore with stopped := true }) hs r ht)

/-- A core of the grid that the firmware may serve. -/
def State.Served (s : State) (core : Nat) : Prop := s.phase ≠ 0xF ∧ s.coreLive core = true ∧ isSup core = false

theorem State.Served.guard {s : State} {core : Nat} (h : s.Served core) : ¬ (!s.coreLive core || isSup core) = true := by
  simp [h.2.1, h.2.2]

theorem coreFault_stops {s : State} {core : Nat} (h : s.Served core) (hs : (s.core core).stopped = false) (r p : Bool) :
    exec (.coreFault core r p) s = .next ((s.stopCore core r).raise (.coreFault core r p)) := by
  have hop : opCoreFault core r p s = (s.stopCore core r).raise (.coreFault core r p) := by
    unfold opCoreFault
    rw [if_neg h.guard, hs]
    rfl
  exact congrArg Host.Outcome.next ((byFirmware_acts h.1 _).trans hop)

theorem coreFault_serves {s : State} {core : Nat} (h : s.Served core) (hs : (s.core core).stopped = true) (hr : s.residents core = [])
    (r p : Bool) : exec (.coreFault core r p) s = .next (s.serveCore core p) := by
  have hop : opCoreFault core r p s = s.serveCore core p := by
    unfold opCoreFault
    rw [if_neg h.guard, hs, hr]
    rfl
  exact congrArg Host.Outcome.next ((byFirmware_acts h.1 _).trans hop)

theorem coreFault_waits {s : State} {core : Nat} (h : s.Served core) (hs : (s.core core).stopped = true) (hr : s.residents core ≠ [])
    (r p : Bool) : exec (.coreFault core r p) s = .next (s.raise (.coreFault core r p)) := by
  have hop : opCoreFault core r p s = s.raise (.coreFault core r p) := by
    unfold opCoreFault
    rw [if_neg h.guard, hs]
    exact if_neg hr
  exact congrArg Host.Outcome.next ((byFirmware_acts h.1 _).trans hop)

theorem l1Flush_stopped (s : State) (core : Nat) : ((s.l1Flush core).core core).stopped = (s.core core).stopped := by
  rw [State.l1Flush, core_setCore]
  rfl

theorem coreFault_running {s : State} {core : Nat} (h : s.Served core) (hs : (s.core core).stopped = false) (hl : s.slots = [])
    (hc : s.myCore = core) (hr : s.me.run = .running) (r p : Bool) :
    ∃ t, exec (.coreFault core r p) s = .next t ∧ t.me.run = .suspending (if r then .coreFault else .ended) ∧ (t.core core).stopped = true ∧
      CourierRec.coreFaulted core ∈ t.courier ∧ Raised.coreFault core r p ∈ t.raised := by
  have hrun : ((s.setCore core { s.core core with stopped := true }).ctx s.cur).run = .running := (congrArg Ctx.run (ctx_cur s)).trans hr
  have he := evacuate_running hrun r
  obtain ⟨hcur, hj, hstop⟩ := halt_running_frame hrun (if r then .coreFault else .ended)
  obtain ⟨hsus, -⟩ := halt_suspends (s.setCore core { s.core core with stopped := true }) s.cur (if r then .coreFault else .ended)
  refine ⟨_, coreFault_stops h hs r p, ?_⟩
  rw [stopCore_lone hl hc r (by rw [he]; exact hj), he]
  have hstopped := hstop core
  rw [core_setCore] at hstopped
  generalize (s.setCore core { s.core core with stopped := true }).halt s.cur (if r then .coreFault else .ended) = u at *
  refine ⟨?_, (l1Flush_stopped u core).trans hstopped, List.mem_append_right _ (List.mem_singleton_self _), mem_raised_raise ..⟩
  rw [← hsus]
  exact congrArg Ctx.run ((ctx_cur u).symm.trans (congrArg u.ctx hcur))

theorem suspendHeld_eq {s : State} {k : SlotKey} {gid : Nat} {g : Group} (hgid : (s.ctx k).gid = some gid) (hg : s.groupOf gid = some g) :
    s.suspendHeld k =
      ((s.setGroup { g with held := g.held - 1 }).setCtx k { s.ctx k with run := .suspending .coreFault }).raise (.taskSuspension k) := by
  have hbind : (s.ctx k).gid.bind s.groupOf = some g := by rw [hgid]; exact hg
  unfold State.suspendHeld
  dsimp only
  rw [hbind]

theorem suspendHeld_me {s : State} {gid : Nat} {g : Group} (hgid : s.me.gid = some gid) (hg : s.groupOf gid = some g) :
    (s.suspendHeld s.cur).me = { s.me with run := .suspending .coreFault } ∧
      (s.suspendHeld s.cur).groupOf gid = some { g with held := g.held - 1 } ∧ Raised.taskSuspension s.cur ∈ (s.suspendHeld s.cur).raised ∧
      ∀ j, j ≠ s.cur → (s.suspendHeld s.cur).ctx j = s.ctx j := by
  have hme := ctx_cur s
  have hid : g.gid = gid := groupOf_gid hg
  rw [suspendHeld_eq ((congrArg Ctx.gid hme).trans hgid) hg, hme]
  refine ⟨congrArg State.me (setCtx_cur (s.setGroup { g with held := g.held - 1 }) _), ?_, mem_raised_raise .., fun j hj => ctx_setCtx_ne _ _ hj⟩
  exact (groupOf_setCtx ..).trans (groupOf_setGroup (g' := { g with held := g.held - 1 }) hg hid)

/-- The one task of a core, held for its successor, is suspended as it stands, and its group waits for it (log 112). -/
theorem coreFault_held {s : State} {core gid : Nat} {g : Group} (h : s.Served core) (hs : (s.core core).stopped = false) (hl : s.slots = [])
    (hc : s.myCore = core) (hr : s.me.run = .held) (hgid : s.me.gid = some gid) (hg : s.groupOf gid = some g) (p : Bool) :
    ∃ t, exec (.coreFault core true p) s = .next t ∧ t.me = { s.me with run := .suspending .coreFault } ∧
      t.groupOf gid = some { g with held := g.held - 1 } ∧ Raised.taskSuspension s.cur ∈ t.raised := by
  have hrun : ((s.setCore core { s.core core with stopped := true }).ctx s.cur).run = .held := (congrArg Ctx.run (ctx_cur s)).trans hr
  have he := evacuate_held hrun
  have hheld := suspendHeld_me (s := s.setCore core { s.core core with stopped := true }) hgid hg
  rw [show (s.setCore core { s.core core with stopped := true }).cur = s.cur from rfl,
    show (s.setCore core { s.core core with stopped := true }).me = s.me from rfl] at hheld
  obtain ⟨hme, hgroup, hraised, hj⟩ := hheld
  refine ⟨_, coreFault_stops h hs true p, ?_⟩
  rw [stopCore_lone hl hc true (by rw [he]; exact hj), he]
  generalize (s.setCore core { s.core core with stopped := true }).suspendHeld s.cur = u at *
  exact ⟨hme, hgroup, List.mem_append_left _ hraised⟩

/-! ## The test of a stopped core (13 R221) -/

theorem testCore_core (s : State) (core : Nat) (p : Bool) :
    (s.testCore core p).core core = { s.core core with stopped := false, dead := !p } := by
  unfold State.testCore
  cases p <;> exact core_setCore ..

theorem testCore_passes (s : State) (core : Nat) {k : SlotKey} (h : k ∈ slotKeys core) : Raised.slotFill k ∈ (s.testCore core true).raised :=
  List.mem_append_right _ (List.mem_map_of_mem h)

theorem testCore_fails (s : State) (core : Nat) : Raised.enumerationUpdate ∈ (s.testCore core false).raised := mem_raised_raise ..

theorem coreFault_tests {s : State} {core : Nat} (h : s.Served core) (hs : (s.core core).stopped = true) (hr : s.residents core = [])
    (r p : Bool) : ∃ t, exec (.coreFault core r p) s = .next t ∧ (t.core core).stopped = false ∧ (t.core core).dead = !p ∧
      (p = true → ∀ k ∈ slotKeys core, Raised.slotFill k ∈ t.raised) ∧ (p = false → Raised.enumerationUpdate ∈ t.raised) := by
  refine ⟨_, coreFault_serves h hs hr r p, ?_⟩
  unfold State.serveCore
  rw [testCore_core]
  exact ⟨rfl, rfl, fun hp k hk => by subst hp; exact testCore_passes _ core hk, fun hp => by subst hp; exact testCore_fails _ core⟩

/-! ## Registers that a supervisor core reaches (05 R75) -/

theorem opRemoteRegisterAccess_named {num : BitVec 12} (h : (regionIndex num).isSome = true ∨ num = 0x050) (tw : Fin 4) (w : Bool) (v : Word)
    (s : State) : opRemoteRegisterAccess tw w num v s =
      if w then s.remoteWrite (1024 + tw.val) num v else (s.remoteRead (1024 + tw.val) num).2 := by
  refine if_neg fun hn => ?_
  simp only [Bool.and_eq_true, Option.isNone_iff_eq_none, decide_eq_true_eq] at hn
  obtain ⟨hi, hne⟩ := hn
  obtain h | h := h
  · rw [hi] at h; cases h
  · exact hne h

theorem remoteRegisterAccess_named {s : State} {num : BitVec 12} (hp : s.phase ≠ 0xF) (h : (regionIndex num).isSome = true ∨ num = 0x050)
    (tw : Fin 4) (w : Bool) (v : Word) : exec (.remoteRegisterAccess tw w num v) s =
      .next (if w then s.remoteWrite (1024 + tw.val) num v else (s.remoteRead (1024 + tw.val) num).2) :=
  congrArg Host.Outcome.next ((byFirmware_acts hp _).trans (opRemoteRegisterAccess_named h tw w v s))

theorem targetErr_target (s : State) (sup : Nat) : ((s.targetErr sup).core sup).target = (s.core sup).target ||| 0x80000000 := by
  rw [State.targetErr, core_setCore]

theorem remoteRegisterAccess_none {s : State} {num : BitVec 12} {tw : Fin 4} (hp : s.phase ≠ 0xF)
    (hn : (regionIndex num).isSome = true ∨ num = 0x050) (h : s.targetOf (s.core (1024 + tw.val)).target = none) (w : Bool) (v : Word) :
    ∃ t, exec (.remoteRegisterAccess tw w num v) s = .next t ∧
      (t.core (1024 + tw.val)).target = (s.core (1024 + tw.val)).target ||| 0x80000000 := by
  refine ⟨_, remoteRegisterAccess_named hp hn tw w v, ?_⟩
  rw [remoteWrite_none h, remoteRead_none h, ite_self]
  exact targetErr_target ..

theorem remoteRegisterAccess_read {s : State} {num : BitVec 12} {tw : Fin 4} {t : Nat} (hp : s.phase ≠ 0xF)
    (hn : (regionIndex num).isSome = true ∨ num = 0x050) (h : s.targetOf (s.core (1024 + tw.val)).target = some t) (v : Word) :
    exec (.remoteRegisterAccess tw false num v) s = .next s := by
  rw [remoteRegisterAccess_named hp hn]
  cases hi : regionIndex num with
  | none => rw [remoteRead_shaper h hi]; rfl
  | some i => rw [remoteRead_region h hi]; rfl

theorem remoteRegisterAccess_region {s : State} {num : BitVec 12} {tw : Fin 4} {t : Nat} {i : Fin 8} (hp : s.phase ≠ 0xF)
    (h : s.targetOf (s.core (1024 + tw.val)).target = some t) (hi : regionIndex num = some i) (ht : t < 1028) (v : Word) :
    exec (.remoteRegisterAccess tw true num v) s = .next (s.setCore t ((s.core t).withRegion i v)) :=
  (remoteRegisterAccess_named hp (.inl (by rw [hi]; rfl)) tw true v).trans (congrArg Host.Outcome.next (remoteWrite_region h hi ht v))

theorem remoteRegisterAccess_port {s : State} {num : BitVec 12} {tw : Fin 4} {t : Nat} {i : Fin 8} (hp : s.phase ≠ 0xF)
    (h : s.targetOf (s.core (1024 + tw.val)).target = some t) (hi : regionIndex num = some i) (ht : 1028 ≤ t) (v : Word) :
    exec (.remoteRegisterAccess tw true num v) s = .next (s.targetErr (1024 + tw.val)) :=
  (remoteRegisterAccess_named hp (.inl (by rw [hi]; rfl)) tw true v).trans (congrArg Host.Outcome.next (remoteWrite_port h hi ht v))

theorem remoteRegisterAccess_shaper {s : State} {num : BitVec 12} {tw : Fin 4} {t : Nat} (hp : s.phase ≠ 0xF)
    (h : s.targetOf (s.core (1024 + tw.val)).target = some t) (hi : regionIndex num = none) (hn : num = 0x050) (v : Word) :
    exec (.remoteRegisterAccess tw true num v) s = .next (s.setCore t ((s.core t).setShaper v)) :=
  (remoteRegisterAccess_named hp (.inr hn) tw true v).trans (congrArg Host.Outcome.next (remoteWrite_shaper h hi v))

/-! ## The stall detector (13 R221) -/

theorem coreStallDetect_stuck {s : State} {core : Nat} (h : s.coreStuck core = true) (r p : Bool) :
    exec (.coreStallDetect core r p) s = exec (.coreFault core r p) s := by
  have hop : opCoreStallDetect core r p s = opCoreFault core r p s := if_pos h
  exact congrArg (fun t => Host.Outcome.next (if s.phase = 0xF then s else t)) hop

theorem coreStallDetect_unstuck {s : State} {core : Nat} (h : s.coreStuck core = false) (r p : Bool) :
    exec (.coreStallDetect core r p) s = .next s := by
  have hop : opCoreStallDetect core r p s = s := if_neg (by simp [h])
  exact congrArg Host.Outcome.next ((congrArg (fun t => if s.phase = 0xF then s else t) hop).trans (ite_self s))

end Sys2Proof.Machine

open Sys2Proof Sys2Proof.Machine

/-- Settles O48: each clause is what one step does, by that step's own lemma. -/
theorem suspensionSteps : Obligations.SuspensionSteps := by
  unfold Obligations.SuspensionSteps
  intro s key tid core cause x readable passes write tw num val i d gid g c sup target named fault mine halts u home
  refine ⟨fun hp => ⟨preemptionRequest_halts hp, fun hr hm => ?preempt, taskRelease_clears hp, courierEndTask_suspended hp, courierEndTask_halts hp,
    fun ht hn => remoteRegisterAccess_none hp hn ht write val, fun ht hn => remoteRegisterAccess_read hp hn ht val, fun ht hi => ?region,
    fun ht hi hn => ?shaper⟩, fun hp => ?failed, taskSuspension_waits, fun hr hc hu => ?suspended, fun hx hcl hk => ?restored,
    fun hp ⟨hlive, hgrid⟩ hs hl hc hr => coreFault_running ⟨hp, hlive, hgrid⟩ hs hl hc hr readable passes,
    fun hp ⟨hlive, hgrid⟩ hs hl hc hr hgid hg => coreFault_held ⟨hp, hlive, hgrid⟩ hs hl hc hr hgid hg passes,
    fun hp ⟨hlive, hgrid⟩ hs hr => coreFault_tests ⟨hp, hlive, hgrid⟩ hs hr readable passes,
    fun hp ⟨hlive, hgrid⟩ hs hr => coreFault_waits ⟨hp, hlive, hgrid⟩ hs hr readable passes, fun hst => coreStallDetect_stuck hst readable passes,
    fun hst => coreStallDetect_unstuck hst readable passes⟩
  case preempt => exact congrArg Host.Outcome.next ((byFirmware_acts hp _).trans (opPreemptionRequest_completes hr hm))
  case region =>
    refine ⟨fun hlt => ⟨_, remoteRegisterAccess_region hp ht hi hlt val, ?_⟩,
      fun hle => ⟨_, remoteRegisterAccess_port hp ht hi hle val, targetErr_target ..⟩⟩
    rw [core_setCore, withRegion_region]
    exact if_pos rfl
  case shaper => exact ⟨_, remoteRegisterAccess_shaper hp ht hi hn val, core_setCore ..⟩
  case failed =>
    have hidle (f : State → State) : (Host.Outcome.next (s.byFirmware f) : Out) = .next s := congrArg Host.Outcome.next (byFirmware_failed hp f)
    simp only [List.forall_mem_cons]
    exact ⟨hidle _, hidle _, hidle _, hidle _, hidle _, hidle _, fun _ hj => (List.not_mem_nil hj).elim⟩
  case suspended =>
    have hsaved := saveTask_tasks u key cause
    exact ⟨_, u.frameOf key cause, taskSuspension_saves hr hc hu, hsaved.suspended.trans (framed_suspended ..), rfl, rfl, rfl,
      congrArg Ctx.run ((hsaved.ctx key).trans (framed_ctx ..))⟩
  case restored =>
    refine ⟨fun h => ⟨_, taskRestore_restores hx hcl hk, ?_⟩, fun h hgid hg hb hl => ⟨_, taskRestore_restores hx hcl hk, ?_⟩⟩
    · rw [restoreAt_runs h, replaced_suspended, ← suspendedOf_tid hx]
      exact ⟨replaced_ctx .., fun y hy => by simpa using (List.mem_filter.mp hy).2⟩
    · have hholds := holdKey_holds (k := key) (d := d) ((replaced_groupOf s x key gid).trans hg) hb hl
      rwa [← restoreAt_held h hgid hg, replaced_ctx] at hholds

end

section
/-! PROOFS. Values of the integer instructions (06 R82-R85). -/

namespace Sys2Proof.Machine

/-- Two results that are the same value complete alike. -/
theorem retG_congr {v w : Word} (h : v = w) (s : State) (d : BitVec 6) (len : Nat) :
    (.next (s.retG d v len) : Out) = .next ((s.setG d w).advance len) := h ▸ rfl

/-! ## Shifts, minima and comparisons (R82) -/

theorem shiftOf_eq (b : Word) : shiftOf b = b.toNat % 64 := by simp [shiftOf, bitsNat]

theorem valSll_eq (a b : Word) : valSll a b = BitVec.ofNat 64 (a.toNat * 2 ^ (b.toNat % 64)) := by
  rw [valSll, shiftOf_eq]
  exact BitVec.eq_of_toNat_eq (by simp [Nat.shiftLeft_eq])

theorem valSrl_eq (a b : Word) : valSrl a b = BitVec.ofNat 64 (a.toNat / 2 ^ (b.toNat % 64)) := by
  rw [valSrl, shiftOf_eq]
  refine BitVec.eq_of_toNat_eq ?_
  rw [BitVec.toNat_ushiftRight, Nat.shiftRight_eq_div_pow, BitVec.toNat_ofNat, Nat.mod_eq_of_lt (Nat.lt_of_le_of_lt (Nat.div_le_self ..) a.isLt)]

theorem valSra_eq (a b : Word) : valSra a b = BitVec.ofInt 64 (a.toInt / 2 ^ (b.toNat % 64)) := by
  rw [valSra, shiftOf_eq, BitVec.sshiftRight, Int.shiftRight_eq_div_pow]
  norm_cast

theorem valMin_eq (a b : Word) : valMin a b = if a.toInt < b.toInt then a else b := by simp [valMin, signedLt]
theorem valMax_eq (a b : Word) : valMax a b = if a.toInt > b.toInt then a else b := by simp [valMax, signedLt]
theorem valMinu_eq (a b : Word) : valMinu a b = if a.toNat < b.toNat then a else b := by simp [valMinu, unsignedLt]
theorem valMaxu_eq (a b : Word) : valMaxu a b = if a.toNat > b.toNat then a else b := by simp [valMaxu, unsignedLt]

theorem truth_eq (a b : Word) : truth (a == b) = if a = b then 1 else 0 := by simp [truth]
theorem truth_ne (a b : Word) : truth (a != b) = if a = b then 0 else 1 := by simp [truth]

/-! ## Division (R83) -/

/-- The numerator's and the divisor's signs decide the sign of a quotient rounded toward zero. -/
theorem tdiv_neg_signs {n m : Int} (h : n.tdiv m < 0) : n < 0 ∧ 0 < m ∨ 0 < n ∧ m < 0 := by
  by_contra hn
  rcases le_total 0 n with h0 | h0 <;> rcases le_total 0 m with h1 | h1
  · exact absurd (Int.tdiv_nonneg h0 h1) (by omega)
  · obtain rfl | rfl : n = 0 ∨ m = 0 := by omega
    all_goals simp at h
  · obtain rfl | rfl : n = 0 ∨ m = 0 := by omega
    all_goals simp at h
  · exact absurd (Int.tdiv_nonneg_of_nonpos_of_nonpos h0 h1) (by omega)

theorem tdiv_pos_signs {n m : Int} (h : 0 < n.tdiv m) : 0 < n ∧ 0 < m ∨ n < 0 ∧ m < 0 := by
  have hneg : (-n).tdiv m < 0 := by rw [Int.neg_tdiv]; omega
  have := tdiv_neg_signs hneg
  omega

theorem exec_division_zero {s : State} {d a b : BitVec 6} (h : s.getG b = 0) : ∀ i ∈ [Instr.div d a b, .divu d a b, .rem d a b, .remu d a b],
    exec i s = .next ((s.setG d 0xFFFFFFFFFFFFFFFF).advance 4) := by
  have hv (v : Word → Word → Word) (hv : ∀ x, v x 0 = BitVec.allOnes 64) :
      (.next (opReg v d a b s) : Out) = .next ((s.setG d 0xFFFFFFFFFFFFFFFF).advance 4) :=
    retG_congr (by rw [h]; exact hv _) s d 4
  simp only [List.forall_mem_cons]
  exact ⟨hv valDiv fun _ => if_pos rfl, hv valDivu fun _ => if_pos rfl, hv valRem fun _ => if_pos rfl, hv valRemu fun _ => if_pos rfl,
    fun _ hi => (List.not_mem_nil hi).elim⟩

/-! ## Counts of bits (R82) -/

theorem ctzNat_zero : ∀ n, ctzNat n 0 = n
  | 0 => rfl
  | n + 1 => by rw [ctzNat, if_neg (by decide), Nat.zero_div, ctzNat_zero n, Nat.add_comm]

/-- Below the lowest set bit of a number, `ctzNat` counts the zero bits. -/
theorem ctzNat_spec : ∀ {n x : Nat}, x < 2 ^ n → x ≠ 0 → ctzNat n x < n ∧ x.testBit (ctzNat n x) = true ∧ ∀ i < ctzNat n x, x.testBit i = false
  | 0, x, hx, h0 => absurd (by simpa using hx) h0
  | n + 1, x, hx, h0 => by
    rw [ctzNat]
    by_cases hodd : x % 2 = 1
    · rw [if_pos hodd]
      exact ⟨Nat.succ_pos n, by simpa using hodd, fun i hi => absurd hi (Nat.not_lt_zero i)⟩
    · rw [if_neg hodd, Nat.add_comm 1]
      obtain ⟨hlt, hset, hbelow⟩ := ctzNat_spec (n := n) (x := x / 2) (by rw [Nat.pow_succ] at hx; omega) (by omega)
      refine ⟨Nat.succ_lt_succ hlt, by rwa [Nat.testBit_succ], fun i hi => ?_⟩
      cases i with
      | zero => simpa using hodd
      | succ i => rw [Nat.testBit_succ]; exact hbelow i (Nat.lt_of_succ_lt_succ hi)

theorem popNat_eq (x : Nat) : ∀ n, popNat n x = (List.range n).countP x.testBit := by
  intro n
  induction n generalizing x with
  | zero => rfl
  | succ n ih =>
    have hshift : x.testBit ∘ Nat.succ = (x / 2).testBit := funext fun i => Nat.testBit_succ x i
    rw [popNat, ih, List.range_succ_eq_map, List.countP_cons, List.countP_map, hshift, Nat.add_comm, Nat.testBit_zero]
    rcases Nat.mod_two_eq_zero_or_one x with h | h <;> simp [h]

theorem toNat_ne_zero {x : Word} (h : x ≠ 0) : x.toNat ≠ 0 := fun h0 => h (BitVec.eq_of_toNat_eq h0)

/-- Above the highest set bit of a word, CLZ counts the zero bits. -/
theorem log2_spec {x : Word} (h : x ≠ 0) :
    x.toNat.log2 < 64 ∧ x.toNat.testBit x.toNat.log2 = true ∧ ∀ i, x.toNat.log2 < i → x.toNat.testBit i = false := by
  have h0 := toNat_ne_zero h
  refine ⟨(Nat.log2_lt h0).mpr x.isLt, ?_, fun i hi => Nat.testBit_lt_two_pow ((Nat.log2_lt h0).mp hi)⟩
  exact Nat.testBit_log2 h0

/-! ## Immediates (R84, R85) -/

theorem lui20_eq (i : BitVec 20) : lui20 i = BitVec.ofInt 64 (i.toInt * 2 ^ 14) := by
  rw [lui20, BitVec.shiftLeft_eq_mul_twoPow, BitVec.signExtend, BitVec.ofInt_mul]
  rfl

theorem shiftCount_toNat (sh : BitVec 6) : (sh.setWidth 64 : Word).toNat % 64 = sh.toNat := by
  rw [BitVec.toNat_setWidth_of_le (by decide)]
  exact Nat.mod_eq_of_lt sh.isLt

end Sys2Proof.Machine

open Sys2Proof Sys2Proof.Machine

/-- Settles O3: each result is the instruction's value, which the lemmas above give for shifts, minima and comparisons. -/
theorem integerResults : Obligations.IntegerResults := by
  unfold Obligations.IntegerResults
  intro s d a b x y n
  exact ⟨rfl, rfl, rfl, rfl, rfl, retG_congr (valSll_eq x y) .., retG_congr (valSrl_eq x y) .., retG_congr (valSra_eq x y) .., rfl, rfl, rfl,
    retG_congr (valMin_eq x y) .., retG_congr (valMax_eq x y) .., retG_congr (valMinu_eq x y) .., retG_congr (valMaxu_eq x y) ..,
    retG_congr (truth_eq x y) .., retG_congr (truth_ne x y) .., retG_congr (truth_signedLt x y) .., retG_congr (truth_unsignedLt x y) ..⟩

/-- Settles O4: the quotient is `Int.tdiv`, of whose sign `tdiv_neg_signs` and `tdiv_pos_signs` speak. -/
theorem division : Obligations.Division := by
  unfold Obligations.Division
  intro s d a b x y
  refine ⟨exec_division_zero, fun hy => ?signed, fun hy => ?unsigned, fun hx hy => ?overflow⟩
  case signed =>
    exact ⟨x.toInt.tdiv y.toInt, retG_congr (if_neg hy) .., retG_congr (if_neg hy) .., Int.natAbs_tdiv .., tdiv_neg_signs, tdiv_pos_signs⟩
  case unsigned => exact ⟨retG_congr (if_neg hy) .., retG_congr (if_neg hy) ..⟩
  case overflow =>
    have hval : valDiv x y = 0x8000000000000000 ∧ valRem x y = 0 := by rw [hx, hy]; decide
    exact ⟨retG_congr hval.1 .., retG_congr hval.2 ..⟩

/-- Settles O5: `log2_spec`, `ctzNat_spec` and `popNat_eq` say what CLZ, CTZ and POPC count. -/
theorem bitCounts : Obligations.BitCounts := by
  unfold Obligations.BitCounts
  intro s d a x
  refine ⟨⟨if x = 0 then 64 else 63 - x.toNat.log2, retG_congr ?clz .., fun hx => if_pos hx, fun hx => ?_⟩,
    ⟨ctzNat 64 x.toNat, rfl, fun hx => ?_, fun hx => ctzNat_spec x.isLt (toNat_ne_zero hx)⟩, retG_congr ?popc ..⟩
  case clz => exact (apply_ite (BitVec.ofNat 64) ..).symm
  case popc => exact congrArg (BitVec.ofNat 64) (popNat_eq x.toNat 64)
  · obtain ⟨hlt, hset, habove⟩ := log2_spec hx
    have hplace : 63 - (63 - x.toNat.log2) = x.toNat.log2 := by omega
    rw [if_neg hx, hplace]
    exact ⟨by omega, hset, habove⟩
  · rw [hx]
    exact ctzNat_zero 64

/-- Settles O6: `opImm` with the extended immediate, whose shifts and comparisons are those of the register forms. -/
theorem immediateResults : Obligations.ImmediateResults := by
  unfold Obligations.ImmediateResults
  intro s d a imm sh i20 x se ze
  have hcount {f : Word → Word → Word} {g : Nat → Word} (h : ∀ y, f x y = g (y.toNat % 64)) : f x (sh.setWidth 64) = g sh.toNat := by
    rw [h, shiftCount_toNat]
  exact ⟨rfl, rfl, rfl, rfl, retG_congr (truth_signedLt x se) .., retG_congr (truth_unsignedLt x se) ..,
    retG_congr (hcount (g := fun n => BitVec.ofNat 64 (x.toNat * 2 ^ n)) (valSll_eq x)) ..,
    retG_congr (hcount (g := fun n => BitVec.ofNat 64 (x.toNat / 2 ^ n)) (valSrl_eq x)) ..,
    retG_congr (hcount (g := fun n => BitVec.ofInt 64 (x.toInt / 2 ^ n)) (valSra_eq x)) .., retG_congr (lui20_eq i20) ..⟩

end

section
/-! PROOFS. Address registers (06 R86, R87): what a failed range check reports, and the fields that AGETP gives. -/

namespace Sys2Proof.Machine

/-- The information word of an access through an address register: the address with the register's number below it (05 R330). -/
theorem accessInfo_areg (a : BitVec 4) (ea : Int) : accessInfo 0 a.toNat (eaBits ea) = BitVec.ofNat 64 ((ea % 2 ^ 56).toNat * 256 + a.toNat) := by
  have hlt : (ea % 2 ^ 56).toNat < 2 ^ 56 := by omega
  rw [accessInfo, eaBits, Nat.mod_eq_of_lt hlt, Nat.mod_eq_of_lt a.isLt, Nat.zero_mod, Nat.zero_mul, Nat.add_zero]

theorem rangeTrap_eq (s : State) (a : BitVec 4) (v : Int) :
    s.rangeTrap a v = s.trap 0x02 (BitVec.ofNat 64 ((v % 2 ^ 56).toNat * 256 + a.toNat)) := by
  rw [State.rangeTrap, State.limitTrap, accessInfo_areg]

theorem flags_fields (r : AReg) : let v := r.flags
    v.getLsbD 5 = r.cls ∧ v.getLsbD 4 = r.scratch ∧ v.getLsbD 3 = false ∧ v.getLsbD 2 = r.e ∧ v.getLsbD 1 = r.w ∧ v.getLsbD 0 = r.r ∧
      v.toNat < 64 := by
  intro v
  have hc := boolNat_le r.cls
  have hs := boolNat_le r.scratch
  have he := boolNat_le r.e
  have hw := boolNat_le r.w
  have hr := boolNat_le r.r
  have hz : boolNat false = 0 := rfl
  have hlt : (32 * boolNat r.cls + 16 * boolNat r.scratch + 4 * boolNat r.e + 2 * boolNat r.w + boolNat r.r) % 2 ^ 64 < 64 := by omega
  refine ⟨bit_ofNat ?_, bit_ofNat ?_, bit_ofNat (b := false) ?_, bit_ofNat ?_, bit_ofNat ?_, bit_ofNat ?_, ?_⟩
  case refine_7 => exact (BitVec.toNat_ofNat ..).trans_lt hlt
  all_goals omega

end Sys2Proof.Machine

open Sys2Proof Sys2Proof.Machine

/-- Settles O8: each instruction by the range it would set, and AGETP by `flags_fields`. -/
theorem addressRegisters : Obligations.AddressRegisters := by
  unfold Obligations.AddressRegisters
  intro s ad aa ga gb gd imm x y r q info
  have next {t u : State} (h : t = u) : (.next t : Out) = .next u := congrArg _ h
  refine ⟨rfl, fun hx hxy => next (if_neg (by omega)), fun hb hx => next (if_neg (not_or.mpr ⟨hb.not_gt, hx.not_ge⟩)), rfl,
    fun p hp hb hl => next (opMove_within 4 hp hb hl),
    fun p hp hb hl => next (opMove_within 4 hp hb hl), rfl, rfl, rfl, ⟨q.flags, rfl, flags_fields q⟩,
    fun h => next ?aset, fun h => next ?asetl, fun p hp h => next (opMove_beyond 4 hp h), fun p hp h => next (opMove_beyond 4 hp h)⟩
  case aset => exact (if_pos h).trans (rangeTrap_eq ..)
  case asetl => exact (if_pos h).trans (rangeTrap_eq ..)
end

section
/-! PROOFS. Branches, calls and jumps, traps, REP and SLEEP (06 R93, R94, R99-R104). -/

namespace Sys2Proof.Machine

/-! ## Branches (R99) -/

/-- A prefixed word that can be extended runs as the instruction it decodes to, with its immediate extended. -/
theorem exec_prefix_decoded {w : IWord} {i : Instr} (ext : BitVec 26) (s : State) (hx : extendable (fMajor w) = true) (hd : decode w 0 = .ok i) :
    exec (.extensionPrefix ext w) s = .next (opExtended ext w i (s.prefixed w)) := by
  rw [exec_extensionPrefix, execExtensionPrefix, opPrefix, if_pos hx, hd]
  rfl

theorem decode_branch (c : BitVec 4) (a : BitVec 6) (off : BitVec 16) (w1 : IWord) :
    decode (packB 0x18#6 c a off) w1 = dec18 (packB 0x18#6 c a off) := by
  simp [decode]

theorem lo3_eq (a : BitVec 6) : lo3 a = a.setWidth 3 := by revert a; decide

/-- What a branch of a word does on a condition: alone and prefixed it jumps by its offset where the condition holds, and goes on where it
does not. -/
def BranchesOn (s : State) (ext : BitVec 26) (off : BitVec 16) (w : IWord) (i : Instr) (taken : Prop) : Prop :=
  (∀ w1, decode w w1 = .ok i) ∧
    (taken → exec i s = .next (s.jump (s.me.pc + BitVec.ofInt 56 (4 * off.toInt))) ∧
      exec (.extensionPrefix ext w) s = .next ((s.prefixed w).jump (s.me.pc + BitVec.ofInt 56 (4 * (ext ++ off).toInt)))) ∧
    (¬ taken → exec i s = .next (s.advance 4) ∧ exec (.extensionPrefix ext w) s = .next ((s.prefixed w).advance 8))

theorem branchesOn_of {s : State} {ext : BitVec 26} {off : BitVec 16} {w : IWord} {i : Instr} {c : Bool} {taken : Prop} (hc : c = true ↔ taken)
    (hx : extendable (fMajor w) = true) (hd : ∀ w1, decode w w1 = .ok i) (hi : exec i s = .next (opBranch c (off16 off) 4 s))
    (hp : opExtended ext w i (s.prefixed w) = opBranch c (off42 ext off) 8 (s.prefixed w)) : BranchesOn s ext off w i taken := by
  have he := exec_prefix_decoded ext s hx (hd 0)
  rw [hp] at he
  refine ⟨hd, fun h => ?_, fun h => ?_⟩ <;> rw [hi, he]
  · rw [hc.mpr h]
    exact ⟨rfl, rfl⟩
  · rw [Bool.eq_false_iff.mpr (mt hc.mp h)]
    exact ⟨rfl, rfl⟩

theorem mask_ne_zero_iff (m : KWord) : (m != 0) = true ↔ ∃ i < 128, m.getLsbD i = true := by
  rw [bne_iff_ne, ne_eq, BitVec.eq_of_getLsbD_eq_iff]
  simp

theorem mask_eq_zero_iff (m : KWord) : (m == 0) = true ↔ ∀ i < 128, m.getLsbD i = false := by
  rw [beq_iff_eq, BitVec.eq_of_getLsbD_eq_iff]
  simp

/-! ## Jumps (R101) -/

theorem misaligned_iff (t : Addr) : t.extractLsb' 0 2 ≠ 0 ↔ t.toNat % 4 ≠ 0 := by
  rw [ne_eq, ← BitVec.toNat_inj, BitVec.extractLsb'_toNat]
  simp

theorem opJump_aligned {s : State} {a : BitVec 6} (link : Option (BitVec 6)) (h : ((s.getG a).setWidth 56 : Addr).toNat % 4 = 0) :
    opJump link a s = match link with
      | none => s.jump ((s.getG a).setWidth 56)
      | some d => (s.setG d ((s.me.pc + 4).setWidth 64)).jump ((s.getG a).setWidth 56) :=
  if_neg (mt (misaligned_iff _).mp (not_not.mpr h))

theorem opJump_misaligned {s : State} {a : BitVec 6} (link : Option (BitVec 6)) (h : ((s.getG a).setWidth 56 : Addr).toNat % 4 ≠ 0) :
    opJump link a s = s.trap 0x04 (((s.getG a).setWidth 56 : Addr).setWidth 64) :=
  (if_pos ((misaligned_iff _).mpr h)).trans (congrArg (s.trap 0x04) (BitVec.ofNat_toNat ..))

/-! ## Traps (R103; 05 R76) -/

theorem decode_trap (imm : BitVec 18) (w1 : IWord) : decode (0x1E#6 ++ imm ++ 0#8) w1 = .ok (.trap imm) := by simp [decode, dec1E]

theorem decode_eret (imm : BitVec 18) (w1 : IWord) : decode (0x1E#6 ++ imm ++ 1#8) w1 = .ok .eret := by simp [decode, dec1E]

/-- TRAP that no handler takes suspends the task at its own address. -/
theorem trapTo_suspends {s : State} (h : s.me.inh = true ∨ s.me.tvec = 0) (c : BitVec 8) (i : Word) (ret : Addr) :
    s.trapTo c i ret = ({ s with me := { s.me with cont := none } } : State).beginSuspend (.fault c i s.me.at) :=
  if_neg fun ⟨hi, ht⟩ => h.elim (by simp [hi]) ht

/-! ## REP and SLEEP (R93, R94, R104) -/

theorem opRep_word {s t : State} {n : BitVec 6} {w : IWord} {len : Nat} (h : s.repWord = .ok (w, len) t) :
    opRep n s = if notRepeatable (fMajor w) then t.trap 0x01 (w.setWidth 64)
      else if t.getG n = 0 then t.jump (t.me.pc + BitVec.ofNat 56 (4 + len))
      else { t with me := { t.me with rep := some (t.me.pc, n), pc := t.me.pc + 4, paid := false } } := by
  rw [opRep, h, andThen_ok]

theorem opSleep_eq (s : State) (a : BitVec 6) : opSleep a s = if (s.getG a).toNat % 2 ^ 32 = 0 then s.advance 4
    else s.park (.sleep ((s.tower s.myTower).cycle + (s.getG a).toNat % 2 ^ 32)) := by
  simp [opSleep, bitsNat]

end Sys2Proof.Machine

open Sys2Proof Sys2Proof.Machine

/-- Settles O14: each code by its word, its condition and the two outcomes that `branchesOn_of` gives. -/
theorem branches : Obligations.Branches := by
  unfold Obligations.Branches
  intro s a off ext x m near far u word br
  have branch (n : BitVec 4) {i : Instr} {c : Bool} {taken : Prop} (hc : c = true ↔ taken)
      (hd : dec18 (packB 0x18#6 n a off) = .ok i) (hi : exec i s = .next (opBranch c (off16 off) 4 s))
      (hp : opExtended ext (word n) i (s.prefixed (word n)) = opBranch c (off42 ext off) 8 (s.prefixed (word n))) :
      BranchesOn s ext off (word n) i taken :=
    branchesOn_of hc (by rw [fMajor_packB]; rfl) (fun w1 => (decode_branch n a off w1).trans hd) hi hp
  simp only [br, List.forall_mem_cons]
  refine ⟨branch 0 (c := true) (by simp) (by simp [dec18]) rfl rfl, branch 1 (by simp [Cond.holds, x]) (by simp [dec18]) rfl rfl,
    branch 2 (by simp [Cond.holds, x]) (by simp [dec18]) rfl rfl, branch 3 (by simp [Cond.holds, x]) (by simp [dec18]) rfl rfl,
    branch 4 (by simp [Cond.holds, x]) (by simp [dec18]) rfl rfl, branch 5 (by simp [Cond.holds, x]) (by simp [dec18]) rfl rfl,
    branch 6 (by simp [Cond.holds, x]) (by simp [dec18]) rfl rfl, branch 7 (mask_ne_zero_iff m) (by simp [dec18, lo3_eq]) rfl rfl,
    branch 8 (mask_eq_zero_iff m) (by simp [dec18, lo3_eq]) rfl rfl, fun _ h => (List.not_mem_nil h).elim⟩

/-- Settles O15: `opJump_aligned` and `opJump_misaligned` for JMP and CALLR; CALL has no target to check. -/
theorem callsAndJumps : Obligations.CallsAndJumps := by
  unfold Obligations.CallsAndJumps
  intro s d a imm t
  exact ⟨rfl, fun h => ⟨congrArg _ (opJump_aligned none h), congrArg _ (opJump_aligned (some d) h)⟩,
    fun h => ⟨congrArg _ (opJump_misaligned none h), congrArg _ (opJump_misaligned (some d) h)⟩⟩

/-- Settles O17: TRAP's own return address aside, its delivery is that of every trap (`trapTo_suspends`, 05 R76). -/
theorem trapAndReturn : Obligations.TrapAndReturn := by
  unfold Obligations.TrapAndReturn
  intro s imm idle
  refine ⟨decode_trap imm, decode_eret imm, fun hi ht => congrArg _ (if_pos ⟨hi, ht⟩), fun h => ⟨_, rfl, ?_⟩, fun hi => congrArg _ (if_pos hi),
    fun hi => congrArg _ (if_neg (Bool.eq_false_iff.mp hi)), fun _ => rfl, fun _ => rfl⟩
  rw [trapTo_suspends h, beginSuspend_eq]
  exact ⟨rfl, rfl⟩

/-- Settles O18, by `opRep_word` and `opSleep_eq`. That the major alone decides the refusal, and that the information is the one word that holds it,
is the model's choice (logs 99 and 100, DESIGN CHOICE). -/
theorem repAndSleep : Obligations.RepAndSleep := by
  unfold Obligations.RepAndSleep
  intro s s1 n a w len
  refine ⟨fun hw => ?rep, fun h => congrArg _ ((opSleep_eq s a).trans (if_pos h)), fun h => congrArg _ ((opSleep_eq s a).trans (if_neg h))⟩
  case rep =>
    have hrep := opRep_word (n := n) hw
    refine ⟨fun hm => congrArg _ (hrep.trans (if_pos hm)), fun hm hn => ?_, fun hm hn => ?_⟩ <;> rw [if_neg (Bool.eq_false_iff.mp hm)] at hrep
    · exact congrArg _ (hrep.trans (if_pos hn))
    · exact congrArg _ (hrep.trans (if_neg hn))
end

section
/-! PROOFS. An access through an address register (06 R88): what its checks refuse, what its charge leaves, and where a read finds its bytes. -/

namespace Sys2Proof.Machine

/-! ## Checks 1 to 4 -/

theorem AccessForm.not_allowed_iff (q : AccessForm) :
    ¬ q.Allowed ↔ ((q.rd && !(q.st.me.getA q.areg).r) || (q.wr && !(q.st.me.getA q.areg).w)) = true := by
  unfold AccessForm.Allowed
  cases q.rd <;> cases q.wr <;> simp [imp_iff_not_or]

theorem AccessForm.not_aligned_iff (q : AccessForm) : ¬ q.Aligned ↔ q.align ≠ 0 ∧ q.ea % q.align ≠ 0 := not_or

theorem AccessForm.not_inPages_iff (q : AccessForm) :
    ¬ q.InPages ↔ ((q.st.me.getA q.areg).scratch && decide (4096 * (q.st.me.scratch : Int) < q.ea + q.n)) = true := by
  rw [AccessForm.InPages, Classical.not_imp, Int.not_le, Bool.and_eq_true, decide_eq_true_eq]
  rfl

/-- An access that its checks refuse traps, whatever the instruction goes on to do with one that they let pass. -/
theorem AccessForm.refused_of_check {q : AccessForm} {run : Out} (k : Opnd → State → State)
    (h : run = .next ((q.st.check q.areg q.ea q.n q.rd q.wr q.align).andThen k)) : q.Refused run := by
  have traps {t : State} (hc : q.st.check q.areg q.ea q.n q.rd q.wr q.align = .done t) : run = .next t := by rw [h, hc]; rfl
  have hinfo : accessInfo 0 q.areg.toNat (eaBits q.ea) = q.info := accessInfo_areg ..
  refine ⟨fun hr => traps ?range, fun hr ha => traps ?rights, fun hr ha hal => traps ?align, fun hr ha hal hp => traps ?pages⟩
  case range => rw [← hinfo]; exact if_pos hr
  case rights => rw [← hinfo]; exact (if_neg (not_not.mpr hr)).trans (if_pos (q.not_allowed_iff.mp ha))
  case align =>
    exact (if_neg (not_not.mpr hr)).trans ((if_neg (mt q.not_allowed_iff.mpr (not_not.mpr ha))).trans (if_pos (q.not_aligned_iff.mp hal)))
  case pages =>
    rw [← hinfo]
    exact (if_neg (not_not.mpr hr)).trans ((if_neg (mt q.not_allowed_iff.mpr (not_not.mpr ha))).trans
      ((if_neg (mt q.not_aligned_iff.mpr (not_not.mpr hal))).trans (if_pos (q.not_inPages_iff.mp hp))))

/-- An access that passes them has its operand, with the absent pages of scratch brought back. -/
theorem AccessForm.Passes.check_eq {q : AccessForm} (h : q.Passes) : q.st.check q.areg q.ea q.n q.rd q.wr q.align =
    .ok q.opnd (if q.opnd.scratch then q.st.bringPages q.st.cur q.ea.toNat q.n else q.st) := by
  obtain ⟨hr, ha, hal, hp⟩ := h
  exact check_eq_ok.mpr ⟨hr.1, hr.2, Bool.eq_false_iff.mpr (mt q.not_allowed_iff.mpr (not_not.mpr ha)),
    mt q.not_aligned_iff.mpr (not_not.mpr hal), Bool.eq_false_iff.mpr (mt q.not_inPages_iff.mpr (not_not.mpr hp)), rfl, rfl⟩

theorem bringPages_present {s : State} {va n : Nat} (h : s.me.absentIn va n = []) : s.bringPages s.cur va n = s := by
  rw [State.bringPages, ctx_cur, h, List.foldl_nil]

theorem AccessForm.Passes.check_present {q : AccessForm} (h : q.Passes) (hs : q.opnd.scratch = true → q.st.me.absentIn q.opnd.va q.n = []) :
    q.st.check q.areg q.ea q.n q.rd q.wr q.align = .ok q.opnd q.st := by
  rw [h.check_eq]
  split
  · next hsc => exact congrArg _ (bringPages_present (hs hsc))
  · rfl

/-- An address that passes the range check is one of 56 bits. -/
theorem AccessForm.InRange.ea_bounds {q : AccessForm} (h : q.InRange) : 0 ≤ q.ea ∧ q.ea ≤ 2 ^ 56 - 1 := by
  obtain ⟨hb, hl⟩ := h
  have := (q.st.me.getA q.areg).limit.isLt
  omega

theorem AccessForm.InRange.permTrap_eq {q : AccessForm} (h : q.InRange) (s : State) :
    s.permTrap q.opnd.src q.opnd.num q.opnd.va = s.trap 0x03 q.info := by
  obtain ⟨h0, h1⟩ := h.ea_bounds
  have hea : q.opnd.va = eaBits q.ea := by
    show q.ea.toNat = (q.ea % 2 ^ 56).toNat
    rw [Int.emod_eq_of_lt h0 (by omega)]
  rw [State.permTrap, hea]
  exact congrArg (s.trap 0x03) (accessInfo_areg ..)

/-! ## The charge (09 R160) -/

@[simp] theorem charge_zero (s : State) : s.charge 0 = .ok () s := by
  rw [State.charge, State.chargeFor, if_pos (.inl rfl)]

/-- A charge that is taken, or that has been, changes what the core's port counts and the slot's mark, and nothing else. -/
theorem charge_eq_ok {s v : State} {cost : Nat} (h : s.charge cost = .ok () v) :
    v = s ∨ ∃ c, v = { s.setCore s.myCore c with me := { s.me with paid := true } } ∧
    c = { s.core s.myCore with bucket := c.bucket, lastCls := c.lastCls, sentAt := c.sentAt, busy := c.busy } := by
  unfold State.charge State.chargeFor at h
  dsimp only at h
  split at h
  · cases h; exact .inl rfl
  · split at h
    · cases h; exact .inr ⟨_, rfl, rfl⟩
    · cases h

theorem l1Find_congr {s t : State} (hc : t.cur = s.cur) (hl : (t.core s.myCore).l1 = (s.core s.myCore).l1) (hr : t.reqs = s.reqs)
    (ht : t.towers = s.towers) (hg : t.grade = s.grade) (asid vline : Nat) (x : Bool) : t.l1Find asid vline x = s.l1Find asid vline x := by
  have hmy : t.myCore = s.myCore := congrArg coreOfKey hc
  unfold State.l1Find State.l1FindAt State.tower
  simp only [hl, siblingOn_congr hr ht hg, towerOf_congr hg, ht, hmy, hc]

/-- It leaves the lines of the L1 region. -/
theorem charge_l1Find {s v : State} {cost : Nat} (h : s.charge cost = .ok () v) (asid vline : Nat) (x : Bool) :
    v.l1Find asid vline x = s.l1Find asid vline x := by
  obtain rfl | ⟨c, rfl, hc⟩ := charge_eq_ok h
  · rfl
  · have hl1 : c.l1 = (s.core s.myCore).l1 := by rw [hc]
    exact l1Find_congr (s := s) (t := { s.setCore s.myCore c with me := { s.me with paid := true } }) rfl
      ((congrArg Core.l1 (core_setCore s s.myCore c)).trans hl1) rfl rfl rfl ..

end Sys2Proof.Machine
end

section
/-! PROOFS. Reads of the issuing slot (06 R88; 10 R164-R166): what translation refuses, and what one within a 32-byte piece gives. -/

namespace Sys2Proof.Machine

/-! ## Translation (R88, check 5) -/

theorem xlate_fault {s t : State} {o : Opnd} {va : Nat} {acc : Acc} (h : s.translate s.meWho va o.cls acc = .fault t) :
    s.xlate o va acc = .done (t.beginSuspend (.pageFault o.va)) := by rw [State.xlate, h]

theorem xlate_denied {s t : State} {o : Opnd} {va : Nat} {acc : Acc} (h : s.translate s.meWho va o.cls acc = .denied t) :
    s.xlate o va acc = .done (t.permTrap o.src o.num o.va) := by rw [State.xlate, h]

/-- An instruction that ends early where the translation of its operand's address does is one that a fault suspends and that a missing right
traps. -/
theorem AccessForm.InRange.untranslated {q : AccessForm} {acc : Acc} {u : State} {run : Out} (h : q.InRange)
    (hrun : ∀ t, u.xlate q.opnd q.opnd.va acc = .done t → run = .next t) : q.Untranslated acc u run := fun t =>
  ⟨fun hf => hrun _ (xlate_fault hf), fun hd => (hrun _ (xlate_denied hd)).trans (congrArg _ (h.permTrap_eq t))⟩

/-! ## The parts of an access -/

theorem splitAtSize_cons {size f va n : Nat} (h : 0 < n) : ∃ m l, splitAtSize size (f + 1) va n = (va, m) :: l :=
  ⟨_, _, if_neg (Nat.ne_of_gt h)⟩

theorem piecesOf_cons {n : Nat} (va : Nat) (h : 0 < n) : ∃ m l, piecesOf va n = (va, m) :: l := splitAtSize_cons h
theorem linesOf_cons {n : Nat} (va : Nat) (h : 0 < n) : ∃ m l, linesOf va n = (va, m) :: l := splitAtSize_cons h

theorem findParts_done {s t : State} {o : Opnd} {va n : Nat} (l : List (Nat × Nat)) (hl : s.l1Find s.me.asid (va / 128) false = none)
    (h : s.xlate o va .read = .done t) : s.findParts o false ((va, n) :: l) = .done t := by
  simp [State.findParts, hl, h]

/-- Which lanes of a read are active decides nothing about where its parts are found. -/
theorem findParts_skip (o : Opnd) (skip : List Nat) (home : Bool) : ∀ (l : List (Nat × Nat)) (s : State),
    s.findParts { o with skip := skip } home l = s.findParts o home l
  | [], _ => rfl
  | (va, n) :: l, s => by
    have hx (u : State) : u.xlate { o with skip := skip } va .read = u.xlate o va .read := rfl
    simp only [State.findParts, hx, findParts_skip o skip home l]

theorem findParts_hit {s : State} {va n : Nat} {l : L1Line} (o : Opnd) (hl : s.l1Find s.me.asid (va / 128) false = some l) :
    s.findParts o false [(va, n)] = .ok [(va, n, .l1 l)] s := by
  simp [State.findParts, hl]

theorem findParts_past {s u : State} {o : Opnd} {va n pa : Nat} (hl : s.l1Find s.me.asid (va / 128) false = none)
    (h : s.xlate o va .read = .ok pa u) : s.findParts o false [(va, n)] = .ok [(va, n, .mem pa)] u := by
  simp [State.findParts, hl, h]

/-! ## A read's end -/

theorem read_charged {s s1 : State} {o : Opnd} {n : Nat} (ho : o.scratch = false) (hc : s.charge (s.readCost o.va n) = .ok () s1) :
    s.read o n = match piecesOf o.va n with
      | [p] => s1.readParts o false [p]
      | l => (s1.findParts o false l).bind fun ps s => s.readPiecewise 0 o false ps := by
  rw [State.read, if_neg (Bool.eq_false_iff.mp ho), hc]
  rfl

/-- A read of one piece takes the bytes of the part found. -/
theorem read_one {s s1 : State} {o : Opnd} {n : Nat} (ho : o.scratch = false) (hn : 0 < n) (hp : o.va % 32 + n ≤ 32)
    (hc : s.charge (s.readCost o.va n) = .ok () s1) : s.read o n = s1.readParts o false [(o.va, n)] := by
  rw [read_charged ho hc, piecesOf_one hn (by omega)]

theorem readFound_one {s : State} {o : Opnd} {home : Bool} {p : Nat × Nat × ReadAt} (hb : s.partBar home p = none) (hp : s.partPoison o home p = false) :
    s.readFound o home [p] = .ok (s.partBytes home p) (s.partFill home p) := by
  simp [State.readFound, firstSome, hb, hp]

/-- A read ends where the search for its parts does. -/
theorem read_findParts_done {s s1 t : State} {o : Opnd} {n : Nat} (ho : o.scratch = false) (hc : s.charge (s.readCost o.va n) = .ok () s1)
    (h : s1.findParts o false (piecesOf o.va n) = .done t) : s.read o n = .done t := by
  rw [read_charged ho hc]
  split
  · next hp => rw [State.readParts, ← hp, h, bind_done]
  · rw [h, bind_done]

/-- Poison of a part takes the read, once nothing bars its parts (R88, check 6). -/
theorem readFound_poison {s : State} {o : Opnd} {home : Bool} {ps : List (Nat × Nat × ReadAt)} (hb : ∀ p ∈ ps, s.partBar home p = none)
    (hp : ∃ p ∈ ps, s.partPoison o home p = true) : s.readFound o home ps = .done (s.poisonTrap o.va) := by
  rw [State.readFound, firstSome_none hb]
  exact if_pos (List.any_eq_true.mpr hp)

theorem readPiecewise_poison {s : State} {n : Nat} {o : Opnd} {home : Bool} {ps : List (Nat × Nat × ReadAt)} (hg : s.me.got = [])
    (hb : ∀ p ∈ ps, s.partBar home p = none) (hp : ∃ p ∈ ps, s.partPoison o home p = true) :
    s.readPiecewise n o home ps = .done (s.poisonTrap o.va) := by
  have hleft : (ps.filter fun p => s.me.got.all (·.1 ≠ gotKey n p.1)) = ps := by simp [hg]
  rw [State.readPiecewise, hleft]
  dsimp only
  rw [firstSome_none hb]
  exact if_pos (List.any_eq_true.mpr hp)

theorem read_poison {s s1 s2 : State} {o : Opnd} {n : Nat} {ps : List (Nat × Nat × ReadAt)} (ho : o.scratch = false)
    (hc : s.charge (s.readCost o.va n) = .ok () s1) (hf : s1.findParts o false (piecesOf o.va n) = .ok ps s2) (hg : s2.me.got = [])
    (hb : ∀ p ∈ ps, s2.partBar false p = none) (hp : ∃ p ∈ ps, s2.partPoison o false p = true) :
    s.read o n = .done (s2.poisonTrap o.va) := by
  rw [read_charged ho hc]
  split
  · next h => rw [State.readParts, ← h, hf, bind_ok, readFound_poison hb hp]
  · rw [hf, bind_ok, readPiecewise_poison hg hb hp]

/-! ## A read within one piece -/

theorem mem_upFrom_zero {n i : Nat} : i ∈ upFrom 0 n ↔ i < n := by rw [mem_upFrom]; omega

theorem partPoison_hit {s : State} {o : Opnd} {home : Bool} {va n : Nat} {l : L1Line}
    (h : ∀ i < n, l.poison.contains ((l.pline * 128 + va % 128 + i) / 32) = false) : s.partPoison o home (va, n, .l1 l) = false :=
  List.any_eq_false.mpr fun i hi => by
    have hi := h i (mem_upFrom_zero.mp hi)
    simp_all

theorem partPoison_past {s : State} {o : Opnd} {va n pa : Nat}
    (h : ∀ i < n, s.viewPoison (s.slotReqs s.cur) s.myTower false (pa + i) = false) : s.partPoison o false (va, n, .mem pa) = false :=
  List.any_eq_false.mpr fun i hi => by
    have hi := h i (mem_upFrom_zero.mp hi)
    simp [hi]

/-- What a part of a read leaves changes caches, routers and the count of free choices. -/
theorem partFill_eq (s : State) (home : Bool) (p : Nat × Nat × ReadAt) : ∃ routed gated stale tlb l2 rdc msc cores free, s.partFill home p =
    { s with routed := routed, gated := gated, stale := stale, tlb := tlb, l2 := l2, rdc := rdc, msc := msc, cores := cores, free := free } := by
  unfold State.partFill
  split
  · exact ⟨_, _, _, _, _, _, _, _, _, rfl⟩
  · next pa _ =>
    obtain ⟨_, _, _, _, _, hw⟩ := wakeHome_eq s pa
    dsimp only
    split
    · rw [hw]; exact ⟨_, _, _, _, _, _, _, _, _, rfl⟩
    · obtain ⟨_, _, _, hr⟩ := rdcAdd_eq (s.wakeHome pa) (s.wakeHome pa).myTower pa
      rw [State.l1Fill, hr]
      split
      · rw [hw]; exact ⟨_, _, _, _, _, _, _, _, _, rfl⟩
      · rw [l1Add_eq, hw]; exact ⟨_, _, _, _, _, _, _, _, _, rfl⟩

theorem partFill_me (s : State) (home : Bool) (p : Nat × Nat × ReadAt) : (s.partFill home p).me = s.me := by
  obtain ⟨_, _, _, _, _, _, _, _, _, h⟩ := partFill_eq s home p; rw [h]
theorem partFill_mem (s : State) (home : Bool) (p : Nat × Nat × ReadAt) : (s.partFill home p).mem = s.mem := by
  obtain ⟨_, _, _, _, _, _, _, _, _, h⟩ := partFill_eq s home p; rw [h]

theorem readCost_one {s : State} {va n : Nat} (hn : 0 < n) (hp : va % 32 + n ≤ 32) :
    s.readCost va n = if (s.l1Find s.me.asid (va / 128) false).isSome then 0 else round32 n := by
  rw [State.readCost, linesOf_one hn (by omega)]
  simp

/-- A plain read that a line of the L1 region serves. -/
theorem read_hit {s : State} {o : Opnd} {n : Nat} {l : L1Line} (h : s.HitsL1 o n l) : s.read o n = .ok ((l.data.drop (o.va % 128)).take n) s := by
  obtain ⟨ho, hn, hp, hl, hr, hpoison⟩ := h
  have hc : s.charge (s.readCost o.va n) = .ok () s := by rw [readCost_one hn hp, hl]; exact charge_zero s
  rw [read_one ho hn hp hc, State.readParts, findParts_hit o hl, bind_ok, readFound_one]
  · rfl
  · simp [State.partBar, hr]
  · refine partPoison_hit fun i hi => ?_
    have hpiece : (l.pline * 128 + o.va % 128 + i) / 32 = (l.pline * 128 + o.va % 128) / 32 := by omega
    rw [hpiece]
    exact hpoison

/-- A plain read past the L1 region. -/
theorem read_past {s u : State} {o : Opnd} {n pa : Nat} (h : s.ReadsMemory o n pa u) :
    ∃ t, s.read o n = .ok (u.seenBytes pa n) t ∧ t.me = u.me ∧ t.mem = u.mem := by
  obtain ⟨ho, hn, hp, hl, hb, hpoison, v, hc, hx⟩ := h
  have hme : v.me.asid = s.me.asid := by obtain rfl | ⟨_, rfl, _⟩ := charge_eq_ok hc <;> rfl
  have hcost : s.charge (s.readCost o.va n) = .ok () v := by rw [readCost_one hn hp, hl]; exact hc
  have hlv : v.l1Find v.me.asid (o.va / 128) false = none := by rw [charge_l1Find hc, hme]; exact hl
  have hbar : u.partBar false (o.va, n, .mem pa) = none := hb
  rw [read_one ho hn hp hcost, State.readParts, findParts_past hlv (xlate_eq_ok.mpr hx), bind_ok, readFound_one hbar (partPoison_past hpoison)]
  exact ⟨_, rfl, partFill_me .., partFill_mem ..⟩

end Sys2Proof.Machine
end

section
/-! PROOFS. Loads and stores through an address register (06 R89, R90; 02 R31), and the scratch page that the first access after a restore
brings back (09 R152). -/

namespace Sys2Proof.Machine

/-! ## A page from its frame on the own tower -/

theorem mgets_congr {m m' : List Host.Cell} : ∀ {n a a' : Nat}, (∀ i < n, mget m (a + i) = mget m' (a' + i)) → mgets m a n = mgets m' a' n
  | 0, _, _, _ => rfl
  | n + 1, a, a', h => by
    have htail : mgets m (a + 1) n = mgets m' (a' + 1) n := mgets_congr fun i hi => by
      have h := h (i + 1) (by omega)
      rwa [show a + 1 + i = a + (i + 1) by omega, show a' + 1 + i = a' + (i + 1) by omega]
    rw [mgets, mgets, htail, show mget m a = mget m' a' from h 0 (by omega)]

theorem getElem_mgets (m : List Host.Cell) : ∀ (n a i : Nat) (h : i < (mgets m a n).length), (mgets m a n)[i] = mget m (a + i)
  | 0, _, _, h => absurd h (Nat.not_lt_zero _)
  | n + 1, a, 0, _ => rfl
  | n + 1, a, i + 1, h => by
    have h' := getElem_mgets m n (a + 1) i (by simpa [mgets] using h)
    rw [show a + (i + 1) = a + 1 + i by omega, ← h']
    rfl

/-- Bytes copied from one memory to another read there as they did. -/
theorem mgets_copied (m m' : List Host.Cell) (a pa : Nat) {k n len : Nat} (h : k + n ≤ len) :
    mgets (msets m a (mgets m' pa len)) (a + k) n = mgets m' (pa + k) n := by
  refine mgets_congr fun i hi => ?_
  have hlt : k + i < (mgets m' pa len).length := by rw [mgets_length]; omega
  rw [Nat.add_assoc, mget_msets_in _ _ _ _ hlt, getElem_mgets, Nat.add_assoc]

theorem homeOf_tower_iff {pa t : Nat} : homeOf pa = some (.tower t) ↔ pa / 2 ^ 38 < 4 ∧ pa % 2 ^ 38 < 0x3000000000 ∧ pa / 2 ^ 38 = t := by
  unfold homeOf
  (repeat' split) <;> simp only [Option.some.injEq, Home.tower.injEq, reduceCtorEq, false_iff] <;> omega

/-- The bytes of a page have one home. -/
theorem homeOf_page {pa t k : Nat} (ha : pa % 4096 = 0) (h : homeOf pa = some (.tower t)) (hk : k < 4096) : homeOf (pa + k) = some (.tower t) := by
  rw [homeOf_tower_iff] at h ⊢
  omega

theorem framePa_page (f : Nat) : framePa f % 4096 = 0 := by
  unfold framePa
  omega

/-- `t` is `s` after routers woke for traffic. -/
def WakesTo (s t : State) : Prop := ∃ routed gated stale tlb l2, t = { s with routed := routed, gated := gated, stale := stale, tlb := tlb, l2 := l2 }

theorem WakesTo.refl (s : State) : WakesTo s s := ⟨_, _, _, _, _, rfl⟩
theorem WakesTo.trans {s t u : State} : WakesTo s t → WakesTo t u → WakesTo s u := by
  rintro ⟨_, _, _, _, _, rfl⟩ ⟨_, _, _, _, _, rfl⟩
  exact ⟨_, _, _, _, _, rfl⟩

/-- A line of the own tower's memory is read at its home. -/
theorem fetchRemote_own {s : State} {t pa : Nat} (h : homeOf pa = some (.tower t)) : s.fetchRemote t pa = s.wakeHome pa := by
  have hr : s.rdcOf t pa = none := by simp [State.rdcOf, h]
  simp [State.fetchRemote, hr, State.reachHome, h, State.rdcAdd]

theorem sharedByte_own {s : State} {t pa : Nat} (h : homeOf pa = some (.tower t)) (hp : s.pinOf (pa / 128) = none) : s.sharedByte t pa = mget s.mem pa := by
  simp [State.sharedByte, State.rdcOf, h, State.placeByte, hp]

theorem sharedPoison_own {s : State} {t pa : Nat} (h : homeOf pa = some (.tower t)) (hp : s.poison = []) : s.sharedPoison t pa = false := by
  simp [State.sharedPoison, State.rdcOf, h, State.placePoison, State.isPoison, hp, smem, State.lostByte]

theorem fetchFrame_wakes {s : State} {pa t : Nat} (ha : pa % 4096 = 0) (h : homeOf pa = some (.tower t)) :
    WakesTo s ((upFrom (pa / 128) 32).foldl (fun s l => s.fetchRemote t (l * 128)) s) := by
  refine List.foldlRecOn _ _ (.refl s) fun u hu l hl => hu.trans ?_
  obtain ⟨hlo, hhi⟩ := mem_upFrom.mp hl
  have hh : homeOf (l * 128) = some (.tower t) := by
    rw [show l * 128 = pa + (l * 128 - pa) by omega]
    exact homeOf_page ha h (by omega)
  rw [fetchRemote_own hh]
  exact wakeHome_eq ..

/-- The page as it comes back from a frame on the slot's own tower, clean and unpinned. -/
theorem refillPage_own {s : State} {p f : Nat} (hf : s.me.frames[p]? = some f) (h : homeOf (framePa f) = some (.tower s.myTower))
    (hpins : s.pins = []) (hpoison : s.poison = []) : (s.refillPage s.cur p).mem = s.mem ∧ (s.refillPage s.cur p).me =
      { s.me with mem := msets s.me.mem (4096 * p) (mgets s.mem (framePa f) 4096), absent := sdel s.me.absent p } := by
  have hpa : s.me.backingPa (4096 * p) = some (framePa f) := by simp [Ctx.backingPa, hf]
  have hw := fetchFrame_wakes (s := s) (framePa_page f) h
  have hhome {k : Nat} (hk : k < 4096) := homeOf_page (framePa_page f) h hk
  unfold State.refillPage
  dsimp only
  rw [ctx_cur, hpa]
  dsimp only
  rw [show s.towerOf (coreOfKey s.cur) = s.myTower from rfl]
  generalize List.foldl _ s _ = u at hw ⊢
  have hcur : s.cur = u.cur := by obtain ⟨_, _, _, _, _, rfl⟩ := hw; rfl
  have hbad : ((upFrom 0 128).filter fun i => u.sharedPoison s.myTower (framePa f + 32 * i)) = [] :=
    List.filter_eq_nil_iff.mpr fun i hi => Bool.eq_false_iff.mp (sharedPoison_own (hhome (by have := mem_upFrom_zero.mp hi; omega))
      (by obtain ⟨_, _, _, _, _, rfl⟩ := hw; exact hpoison))
  have hbytes : (upFrom (framePa f) 4096).map (u.sharedByte s.myTower) = mgets s.mem (framePa f) 4096 := by
    rw [← upFrom_map_mget]
    refine List.map_congr_left fun x hx => ?_
    obtain ⟨hlo, hhi⟩ := mem_upFrom.mp hx
    have hx := hhome (k := x - framePa f) (by omega)
    rw [Nat.add_sub_cancel' hlo] at hx
    obtain ⟨_, _, _, _, _, rfl⟩ := hw
    exact sharedByte_own hx (by rw [State.pinOf, hpins]; rfl)
  rw [hbad, hbytes, hcur, setCtx_cur]
  exact ⟨by obtain ⟨_, _, _, _, _, rfl⟩ := hw; rfl, rfl⟩

end Sys2Proof.Machine
end

section
/-! PROOFS. The plain loads and stores, alone and prefixed (06 R89, R90; 02 R31). -/

namespace Sys2Proof.Machine

/-! ## The forms -/

/-- `s` with the word that an illegal-instruction trap of the instruction names. -/
def State.withInsn (s : State) (insn : Word) : State := { s with me := { s.me with insn := insn } }

/-- The access of a load or a store of `n` bytes at aN + x, whose first word is `insn` where it is prefixed. -/
def State.loadForm (s : State) (a : BitVec 4) (i : Instr) (x : Int) (n len : Nat) (sg : Bool) (insn : Word) : AccessForm :=
  { instr := i, areg := a, ea := s.ptr a + x, n, rd := true, wr := false, align := n, kind := .load, st := s.withInsn insn, len, signed := sg }
def State.storeForm (s : State) (a : BitVec 4) (i : Instr) (x : Int) (n len : Nat) (insn : Word) : AccessForm :=
  { instr := i, areg := a, ea := s.ptr a + x, n, rd := false, wr := true, align := n, kind := .store, st := s.withInsn insn, len }

/-- Every load of R89 reads 1, 2, 4 or 8 bytes as `opLoad` does. -/
theorem loadForms_runs {s : State} {d : BitVec 6} {a : BitVec 4} {disp : BitVec 11} {ext : BitVec 26} : ∀ q ∈ s.loadForms d a disp ext,
    ∃ i x n len sg insn, q = s.loadForm a i x n len sg insn ∧ n ∈ [1, 2, 4, 8] ∧
      exec i s = .next (opLoad n sg d a x len (s.withInsn insn)) := by
  have near {i : Instr} {n : Nat} {sg : Bool} (hn : n ∈ [1, 2, 4, 8]) (hi : exec i s = .next (opLoad n sg d a (disp11 disp n) 4 s)) :
      ∃ i' x n' len sg' insn, s.loadForm a i (disp.toInt * n) n 4 sg s.me.insn = s.loadForm a i' x n' len sg' insn ∧ n' ∈ [1, 2, 4, 8] ∧
        exec i' s = .next (opLoad n' sg' d a x len (s.withInsn insn)) := ⟨i, _, n, 4, sg, s.me.insn, rfl, hn, hi⟩
  have far {l : BitVec 3 × Nat × Bool} (hl : l ∈ loadSizes) (hn : l.2.1 ∈ [1, 2, 4, 8]) :
      ∃ i' x n' len sg' insn, s.loadForm a (.extensionPrefix ext (packI 0x10#6 d (w6 a) (disp ++ l.1))) ((ext ++ disp).toInt * l.2.1) l.2.1 8 l.2.2
        ((packI 0x10#6 d (w6 a) (disp ++ l.1)).setWidth 64) = s.loadForm a i' x n' len sg' insn ∧ n' ∈ [1, 2, 4, 8] ∧
        exec i' s = .next (opLoad n' sg' d a x len (s.withInsn insn)) := by
    obtain ⟨i, he, hwf, hi⟩ := loadSizes_instr ext d a disp l hl
    refine ⟨_, _, _, _, _, _, rfl, hn, ?_⟩
    rw [exec_prefix i ext s (fMajor_packI ..) he rfl hwf, hi]
    rfl
  simp only [State.loadForms, List.forall_mem_cons]
  exact ⟨near (by decide) rfl, near (by decide) rfl, near (by decide) rfl, near (by decide) rfl, near (by decide) rfl, near (by decide) rfl,
    near (by decide) rfl, far (l := (0, 1, true)) (by decide) (by decide), far (l := (1, 2, true)) (by decide) (by decide),
    far (l := (2, 4, true)) (by decide) (by decide), far (l := (3, 8, false)) (by decide) (by decide),
    far (l := (4, 1, false)) (by decide) (by decide), far (l := (5, 2, false)) (by decide) (by decide),
    far (l := (6, 4, false)) (by decide) (by decide), fun _ h => nomatch h⟩

/-- Every store of R89 and R90 writes 1, 2, 4 or 8 bytes as `opStore` does. -/
theorem storeForms_runs {s : State} {sig : Bool} {d : BitVec 6} {a : BitVec 4} {disp : BitVec 11} {ext : BitVec 26} :
    ∀ q ∈ s.storeForms sig d a disp ext, ∃ i x n len insn, q = s.storeForm a i x n len insn ∧ n ∈ [1, 2, 4, 8] ∧
      exec i s = .next (opStore n sig d a x len (s.withInsn insn)) := by
  have near {i : Instr} {n : Nat} (hn : n ∈ [1, 2, 4, 8]) (hi : exec i s = .next (opStore n sig d a (disp11 disp n) 4 s)) :
      ∃ i' x n' len insn, s.storeForm a i (disp.toInt * n) n 4 s.me.insn = s.storeForm a i' x n' len insn ∧ n' ∈ [1, 2, 4, 8] ∧
        exec i' s = .next (opStore n' sig d a x len (s.withInsn insn)) := ⟨i, _, n, 4, s.me.insn, rfl, hn, hi⟩
  have far {l : BitVec 2 × Nat} (hl : l ∈ storeSizes) (hn : l.2 ∈ [1, 2, 4, 8]) :
      ∃ i' x n' len insn, s.storeForm a (.extensionPrefix ext (packI 0x11#6 d (w6 a) (disp ++ bit sig ++ l.1))) ((ext ++ disp).toInt * l.2) l.2 8
        ((packI 0x11#6 d (w6 a) (disp ++ bit sig ++ l.1)).setWidth 64) = s.storeForm a i' x n' len insn ∧ n' ∈ [1, 2, 4, 8] ∧
        exec i' s = .next (opStore n' sig d a x len (s.withInsn insn)) := by
    obtain ⟨i, he, hwf, hi⟩ := storeSizes_instr ext sig d a disp l hl
    refine ⟨_, _, _, _, _, rfl, hn, ?_⟩
    rw [exec_prefix i ext s (fMajor_packI ..) he rfl hwf, hi]
    rfl
  simp only [State.storeForms, List.forall_mem_cons]
  exact ⟨near (by decide) rfl, near (by decide) rfl, near (by decide) rfl, near (by decide) rfl, far (l := (0, 1)) (by decide) (by decide),
    far (l := (1, 2)) (by decide) (by decide), far (l := (2, 4)) (by decide) (by decide), far (l := (3, 8)) (by decide) (by decide),
    fun _ h => nomatch h⟩

/-! ## A load -/

/-- A load that its checks let pass, and whose read gives bytes, writes their value. -/
theorem opLoad_of_read {s t u : State} {o : Opnd} {n : Nat} {x : Int} {a : BitVec 4} {bs : List Byte} (sg : Bool) (d : BitVec 6) (len : Nat)
    (hc : s.check a (s.ptr a + x) n true false n = .ok o t) (hr : t.read o n = .ok bs u) :
    opLoad n sg d a x len s = (u.setG d (if sg then (BitVec.ofNat (8 * n) (leNat bs)).signExtend 64 else BitVec.ofNat 64 (leNat bs))).advance len := by
  rw [opLoad, hc, andThen_ok, hr, andThen_ok]
  rfl

theorem access_size_pos : ∀ {n : Nat}, n ∈ [1, 2, 4, 8] → 0 < n := by decide

/-- An aligned access of at most 8 bytes lies in one page. -/
theorem aligned_in_page {ea n : Nat} (hn : n ∈ [1, 2, 4, 8]) (h : n = 0 ∨ (ea : Int) % n = 0) : ea % 4096 + n ≤ 4096 := by
  simp only [List.mem_cons, List.not_mem_nil, or_false] at hn
  obtain rfl | rfl | rfl | rfl := hn <;> omega

theorem absentIn_page {c : Ctx} {ea n : Nat} (hn : 0 < n) (h : c.absent = [ea / 4096]) : c.absentIn ea n = [ea / 4096] := by
  rw [Ctx.absentIn, h, List.filter_cons_of_pos (by simp; omega)]
  rfl

/-- A scratch page that the first access after a restore brings back is read as its frame has it. -/
theorem read_refilled {s : State} {o : Opnd} {ea n f : Nat} (ho : o.scratch = true) (hva : o.va = ea) (hn : 0 < n) (hpage : ea % 4096 + n ≤ 4096)
    (habs : s.me.absent = [ea / 4096]) (hf : s.me.frames[ea / 4096]? = some f) (hh : homeOf (framePa f) = some (.tower s.myTower))
    (hpins : s.pins = []) (hpoison : s.poison = []) (hclean : s.ScratchClean ea n) :
    ∃ t, (s.bringPages s.cur ea n).read o n = .ok (mgets s.mem (framePa f + ea % 4096) n) t ∧ t.mem = s.mem ∧ t.me.absent = [] := by
  subst hva
  obtain ⟨hm, hme⟩ := refillPage_own hf hh hpins hpoison
  rw [State.bringPages, ctx_cur, absentIn_page hn habs, List.foldl_cons, List.foldl_nil]
  generalize s.refillPage s.cur (o.va / 4096) = t at hm hme
  have hbytes := mgets_copied s.me.mem s.mem (4096 * (o.va / 4096)) (framePa f) hpage
  rw [Nat.div_add_mod] at hbytes
  have hclean' : t.ScratchClean o.va n := by
    rw [State.ScratchClean, hme]
    exact hclean
  rw [read_scratch n ho, readScratch_of_clean hclean', hme, hbytes]
  exact ⟨t, rfl, hm, by simp [hme, habs, sdel]⟩

/-! ## What a slot sees of a byte (10 R164) -/

theorem seenBytes_pending {s : State} {x : Nat} {b : Byte} (h : pendingByte (s.slotReqs s.cur) x = some b) : s.seenBytes x 1 = [b] := by
  simp [State.seenBytes, upFrom, State.viewByte, h]

theorem seenBytes_own {s : State} {x : Nat} (h : pendingByte (s.slotReqs s.cur) x = none) (hp : s.pinOf (x / 128) = none)
    (hh : homeOf x = some (.tower s.myTower)) : s.seenBytes x 1 = [mget s.mem x] := by
  simp [State.seenBytes, upFrom, State.viewByte, h, sharedByte_own hh hp]

end Sys2Proof.Machine

open Sys2Proof Sys2Proof.Machine

/-- Settles O10: a load is its checks, a read and a write of the register; the reads are those of scratch, of a page brought back, of a line of the
L1 region and past it. -/
theorem loads : Obligations.Loads := by
  unfold Obligations.Loads
  intro s u d a disp ext q ea pa f l hq hea
  obtain ⟨i, x, n, len, sg, insn, rfl, hn, hrun⟩ := loadForms_runs q hq
  have hpos := access_size_pos hn
  dsimp only
  set q := s.loadForm a i x n len sg insn
  have hptr : (ea : Int) = (s.withInsn insn).ptr a + x := hea.symm
  have hva : q.opnd.va = ea := by show q.ea.toNat = ea; omega
  have global (hok : q.Passes) (hg : q.opnd.scratch = false) : q.st.check a (q.st.ptr a + x) n true false n = .ok q.opnd q.st :=
    hok.check_present fun h => absurd h (Bool.eq_false_iff.mp hg)
  refine ⟨fun hok hc => hrun.trans (congrArg _ ?scratch), fun hok hs habs hf hh hpins hpoison hc => ?refilled,
    fun hok h => hrun.trans (congrArg _ ?hit), fun hok h => ⟨?past, fun x => ⟨fun _ => seenBytes_pending, seenBytes_own⟩⟩⟩
  case scratch => exact opLoad_scratch (s := s.withInsn insn) sg d len hptr hok hc
  case refilled =>
    have hcheck := hok.check_eq
    rw [if_pos hs] at hcheck
    obtain ⟨t, ht, hm, ha⟩ := read_refilled (s := q.st) hs hva hpos (aligned_in_page hn (hea ▸ hok.2.2.1)) habs hf hh hpins hpoison hc
    refine ⟨t, hrun.trans (congrArg _ (opLoad_of_read sg d len hcheck ?_)), hm, ha⟩
    rw [hea]
    exact ht
  case hit =>
    have hread := read_hit h
    rw [hva] at hread
    exact opLoad_of_read sg d len (global hok h.1) hread
  case past =>
    obtain ⟨t, ht, hme, hmem⟩ := read_past h
    exact ⟨t, hrun.trans (congrArg _ (opLoad_of_read sg d len (global hok h.1) ht)), hme, hmem⟩

/-- Settles O11: the store writes its bytes at the address, and the memory's rules say which bytes read as before. -/
theorem scratchStores : Obligations.ScratchStores := by
  unfold Obligations.ScratchStores
  intro s sig d a disp ext ea q hq hea hok
  obtain ⟨i, x, n, len, insn, rfl, hn, hrun⟩ := storeForms_runs q hq
  refine ⟨_, hrun.trans (congrArg _ (opStore_scratch (s := s.withInsn insn) sig d len hea.symm hok)), rfl, ?_, fun y hy => ?_⟩
  · have h := mgets_msets (leBytes n (s.getG d).toNat) s.me.mem ea
    rw [leBytes_length] at h
    exact (congrArg leNat h).trans (leNat_leBytes ..)
  · refine mget_msets_out _ _ ?_
    rw [leBytes_length]
    exact hy
end

section
/-! PROOFS. The six checks of every kind of access (06 R88). -/

namespace Sys2Proof.Machine

/-! ## What an access that passes checks 1 to 4 does first -/

theorem bind_andThen {α β : Type} (r : Res α) (f : α → State → Res β) (g : β → State → State) :
    (r.bind f).andThen g = r.andThen fun x s => (f x s).andThen g := by
  cases r <;> rfl

theorem write_andThen {data : List Byte} {n : Nat} (hn : data.length = n) (s : State) (o : Opnd) (sig : Bool) (g : Unit → State → State) :
    (s.write o data sig).andThen g = (s.writeReady o n).andThen fun ps t => g () (t.writeNow o ps data sig false) := by
  rw [← hn]
  exact bind_andThen ..

/-- How an access of each kind begins once checks 1 to 4 have passed; a load leaves out the poison of bytes that it does not count. -/
def AccessForm.Begins (q : AccessForm) (run : State) : AccessKind → Prop
  | .load => ∃ skip f, (∀ x, q.sees (x - q.opnd.va) = true → skip.contains x = false) ∧
      run = (q.on.read { q.opnd with skip := skip } q.n).andThen f
  | .store => ∃ f, run = (q.on.writeReady q.opnd q.n).andThen f
  | .place sc => ∃ f g, run = if q.opnd.scratch then (q.on.readScratch q.opnd q.n).andThen f else (q.on.readHome q.opnd q.n sc).andThen g
  | .rmw => ∃ sc sig host f g, run = (q.on.rmw q.opnd q.n sc sig host f).andThen g
  | .red => ∃ f g, run = if q.opnd.scratch then f else (q.on.xlate q.opnd q.opnd.va .write).andThen g
  | .stl => ∃ sc sig data f, data.length = q.n ∧ run = (q.on.stlWrite q.opnd sc sig data).andThen f

/-- An access form runs its checks, then the access itself if it is made. -/
structure AccessForm.Runs (q : AccessForm) (s : State) : Prop where
  begins : ∃ k, exec q.instr s = .next ((q.st.check q.areg q.ea q.n q.rd q.wr q.align).andThen k) ∧
    (q.goes = true → q.Begins (k q.opnd q.st) q.kind)
  pos : 0 < q.n
  absent : q.st.me.absent = s.me.absent
  poison : q.on.me.poison = s.me.poison

/-! ## Every form runs so -/

theorem loadForm_runs {s : State} {d : BitVec 6} {a : BitVec 4} {disp : BitVec 11} {ext : BitVec 26} : ∀ q ∈ s.loadForms d a disp ext, q.Runs s := by
  intro q hq
  obtain ⟨i, x, n, len, sg, insn, rfl, hn, hrun⟩ := loadForms_runs q hq
  exact ⟨⟨_, hrun, fun _ => ⟨[], _, fun _ _ => rfl, rfl⟩⟩, access_size_pos hn, rfl, rfl⟩

theorem storeForm_runs {s : State} {sig : Bool} {d : BitVec 6} {a : BitVec 4} {disp : BitVec 11} {ext : BitVec 26} :
    ∀ q ∈ s.storeForms sig d a disp ext, q.Runs s := by
  intro q hq
  obtain ⟨i, x, n, len, insn, rfl, hn, hrun⟩ := storeForms_runs q hq
  exact ⟨⟨_, hrun, fun _ => ⟨_, write_andThen (leBytes_length ..) ..⟩⟩, access_size_pos hn, rfl, rfl⟩

theorem ringForm_runs {s : State} {h a : BitVec 4} : ∀ q ∈ s.ringForms h a, q.Runs s := by
  refine List.forall_mem_singleton.mpr ⟨⟨_, rfl, fun _ => ⟨[], _, fun _ _ => rfl, rfl⟩⟩, ?_, rfl, rfl⟩
  exact Nat.zero_lt_succ 23

/-- The access of `n` bytes at aN's pointer that an instruction of 11 R180-R189 makes. -/
def State.pointerForm (s : State) (a : BitVec 4) (n : Nat) (rd wr : Bool) (kind : AccessKind) (i : Instr) : AccessForm :=
  { instr := i, areg := a, ea := (s.me.getA a).ptr.toNat, n, rd, wr, align := n, kind, st := s }

theorem wordSize_pos (w : Bool) : 0 < if w then 4 else 8 := by cases w <;> decide

theorem amo_runs {s : State} {i : Instr} {op : AOp} {sc : BitVec 2} {sig w : Bool} {d b : BitVec 6} {a : BitVec 4}
    (h : exec i s = .next (opAmo op sc sig w d a b s)) : (s.pointerForm a (if w then 4 else 8) false true .rmw i).Runs s :=
  ⟨⟨_, h, fun _ => ⟨_, _, _, _, _, rfl⟩⟩, wordSize_pos w, rfl, rfl⟩

theorem red_runs {s : State} {i : Instr} {op : BitVec 4} {sc : BitVec 2} {sig w : Bool} {b : BitVec 6} {a : BitVec 4}
    (h : exec i s = .next (opRed op sc sig w a b s)) : (s.pointerForm a (if w then 4 else 8) false true .red i).Runs s :=
  ⟨⟨_, h, fun _ => ⟨_, _, rfl⟩⟩, wordSize_pos w, rfl, rfl⟩

theorem lda_runs (s : State) (sc size : BitVec 2) (d : BitVec 6) (a : BitVec 4) :
    (s.pointerForm a (2 ^ size.toNat) true false (.place sc) (.lda sc size d a)).Runs s :=
  ⟨⟨_, rfl, fun _ => ⟨_, _, rfl⟩⟩, Nat.two_pow_pos _, rfl, rfl⟩

theorem stl_runs (s : State) (sc size : BitVec 2) (sig : Bool) (d : BitVec 6) (a : BitVec 4) :
    (s.pointerForm a (2 ^ size.toNat) false true .stl (.stl sc sig size d a)).Runs s :=
  ⟨⟨_, rfl, fun _ => ⟨_, _, _, _, leBytes_length .., rfl⟩⟩, Nat.two_pow_pos _, rfl, rfl⟩

theorem wait_runs {s : State} {i : Instr} {n : Nat} {gt b : BitVec 6} {a : BitVec 4} (hn : 0 < n) (h : exec i s = .next (opWait n gt a b s)) :
    (s.pointerForm a n true false (.place 0b10) i).Runs s :=
  ⟨⟨_, h, fun _ => ⟨_, _, rfl⟩⟩, hn, rfl, rfl⟩

theorem atomicForm_runs {s : State} {sc size : BitVec 2} {sig w : Bool} {d b : BitVec 6} {a : BitVec 4} :
    ∀ q ∈ s.atomicForms sc size sig w d b a, q.Runs s := by
  simp only [State.atomicForms, List.forall_mem_append, List.forall_mem_map, List.forall_mem_cons, List.not_mem_nil, false_imp_iff, implies_true,
    and_true]
  exact ⟨⟨⟨amo_runs rfl, amo_runs rfl, amo_runs rfl, amo_runs rfl, amo_runs rfl, amo_runs rfl, amo_runs rfl, amo_runs rfl, amo_runs rfl,
      amo_runs rfl, amo_runs rfl, amo_runs rfl, amo_runs rfl⟩,
    red_runs rfl, red_runs rfl, red_runs rfl, red_runs rfl, red_runs rfl, red_runs rfl, red_runs rfl, red_runs rfl⟩,
    red_runs (w := true) rfl, lda_runs .., stl_runs .., wait_runs (by decide) rfl, wait_runs (by decide) rfl⟩

theorem vCheck_owned {s : State} {v : BitVec 5} (h : s.me.ownsV v = true) (f : State → State) : s.vCheck [v] f = f s := by
  rw [State.vCheck, List.all_cons, h]
  rfl

/-- An active lane's byte is not among the skipped ones. -/
theorem skipped_active {m : KWord} {va x : Nat} (h : m.getLsbD (x - va) = true) : (skipped m va).contains x = false := by
  rw [List.contains_eq_mem, decide_eq_false_iff_not, skipped, List.mem_map]
  rintro ⟨i, hi, rfl⟩
  rw [Nat.add_sub_cancel_left] at h
  simp [active, h] at hi

theorem fmtBytes_pos (f : Fmt) : 0 < f.bytes := by cases f <;> decide

theorem vectorForm_runs {s : State} {f : Fmt} {v : BitVec 5} {a : BitVec 4} {disp : BitVec 5} {k : BitVec 3} (ho : s.me.ownsV v = true) :
    ∀ q ∈ s.vectorForms f v a disp k, q.Runs s := by
  have hld : exec (.vld v a disp k) s = .next (opVld v a disp k s) := rfl
  have hst : exec (.vst v a disp k) s = .next (opVst v a disp k s) := rfl
  have hbc : exec (.vldBc f v a disp k) s = .next (opVldBc f v a disp k s) := rfl
  rw [opVld, vCheck_owned ho] at hld
  rw [opVst, vCheck_owned ho] at hst
  rw [opVldBc, vCheck_owned ho] at hbc
  simp only [State.vectorForms, List.forall_mem_cons]
  refine ⟨⟨⟨_, hld, fun hg => ?_⟩, Nat.two_pow_pos 7, rfl, rfl⟩, ⟨⟨_, hst, fun hg => ?_⟩, Nat.two_pow_pos 7, rfl, rfl⟩,
    ⟨⟨_, hbc, fun hg => ?_⟩, fmtBytes_pos f, rfl, rfl⟩, fun _ h => nomatch h⟩
  · exact ⟨_, _, fun x => skipped_active, if_neg (of_decide_eq_true hg)⟩
  · exact ⟨_, if_neg (of_decide_eq_true hg)⟩
  · exact ⟨[], _, fun _ _ => rfl, if_neg (by rw [show anyActive f (s.me.getK k) = true from hg]; decide)⟩

end Sys2Proof.Machine
end

section
/-! PROOFS. The six checks of every kind of access (06 R88): what translation and poison refuse. -/

namespace Sys2Proof.Machine

/-! ## Translation (check 5) -/

theorem writeParts_done {s t : State} {o : Opnd} {n : Nat} (ho : o.scratch = false) (hn : 0 < n) (hx : s.xlate o o.va .write = .done t) :
    s.writeParts o n = .done t := by
  obtain ⟨k, l, hp⟩ := linesOf_cons o.va hn
  rw [State.writeParts, if_neg (Bool.eq_false_iff.mp ho), hp, State.xlateParts, hx]
  rfl

theorem writeReady_done {s t : State} {o : Opnd} {n : Nat} (ho : o.scratch = false) (hn : 0 < n) (hx : s.xlate o o.va .write = .done t) :
    s.writeReady o n = .done t := by
  rw [State.writeReady, writeParts_done ho hn hx, bind_done]

theorem readHome_charged {s s1 : State} {n : Nat} (hc : s.charge (round32 n) = .ok () s1) (o : Opnd) (sc : BitVec 2) :
    s.readHome o n sc = (s1.xlate o o.va .read).bind fun pa s => (s.leavePin sc pa).bind fun _ s =>
      (s.readFound o true [(o.va, n, .mem pa)]).bind fun bs s => .ok (pa, bs) s := by
  rw [State.readHome, hc, bind_ok]

theorem rmw_untranslated {s s1 t : State} {o : Opnd} {n : Nat} (ho : o.scratch = false) (hc : s.charge (round32 n) = .ok () s1)
    (hx : s1.xlate o o.va .write = .done t) (sc : BitVec 2) (sig host : Bool) (f : List Byte → Option (List Byte)) :
    s.rmw o n sc sig host f = .done t := by
  rw [State.rmw, if_neg (Bool.eq_false_iff.mp ho), hc, bind_ok, hx, bind_done]

theorem stlWrite_untranslated {s s1 t : State} {o : Opnd} {data : List Byte} (ho : o.scratch = false)
    (hc : s.charge (round32 data.length) = .ok () s1) (hx : s1.xlate o o.va .write = .done t) (sc : BitVec 2) (sig : Bool) :
    s.stlWrite o sc sig data = .done t := by
  rw [State.stlWrite, if_neg (Bool.eq_false_iff.mp ho), hc, bind_ok, hx, bind_done]

theorem AccessForm.Begins.untranslated {q : AccessForm} {s1 t run : State} (hb : q.Begins run q.kind) (hg : q.opnd.scratch = false) (hn : 0 < q.n)
    (hc : q.on.charge q.cost = .ok () s1) (hl : q.kind = .load → s1.l1Find s1.me.asid (q.opnd.va / 128) false = none)
    (hx : s1.xlate q.opnd q.opnd.va q.acc = .done t) : run = t := by
  have hsc : ¬ q.opnd.scratch = true := Bool.eq_false_iff.mp hg
  unfold AccessForm.cost at hc
  unfold AccessForm.acc at hx
  cases hk : q.kind with rw [hk] at hb hc hx
  | load =>
    obtain ⟨skip, f, -, rfl⟩ := hb
    obtain ⟨m, l, hp⟩ := piecesOf_cons q.opnd.va hn
    rw [read_findParts_done (o := { q.opnd with skip := skip }) hg hc (by rw [hp]; exact findParts_done l (hl hk) hx), andThen_done]
  | store =>
    obtain ⟨f, rfl⟩ := hb
    cases (charge_zero q.on).symm.trans hc
    rw [writeReady_done hg hn hx, andThen_done]
  | place sc =>
    obtain ⟨f, g, rfl⟩ := hb
    rw [if_neg hsc, readHome_charged hc, hx, bind_done, andThen_done]
  | rmw =>
    obtain ⟨sc, sig, host, f, g, rfl⟩ := hb
    rw [rmw_untranslated hg hc hx, andThen_done]
  | red =>
    obtain ⟨f, g, rfl⟩ := hb
    cases (charge_zero q.on).symm.trans hc
    rw [if_neg hsc, hx, andThen_done]
  | stl =>
    obtain ⟨sc, sig, data, f, hd, rfl⟩ := hb
    rw [stlWrite_untranslated hg (hd ▸ hc) hx, andThen_done]

/-! ## Poison (check 6) -/

theorem readScratch_poison {s : State} {o : Opnd} {n : Nat}
    (h : ∃ i < n, o.skip.contains (o.va + i) = false ∧ smem s.me.poison ((o.va + i) / 32) = true) : s.readScratch o n = .done (s.poisonTrap o.va) := by
  obtain ⟨i, hi, hskip, hp⟩ := h
  refine if_pos (List.any_eq_true.mpr ⟨o.va + i, mem_upFrom.mpr ⟨by omega, by omega⟩, ?_⟩)
  rw [hp, hskip]
  rfl

/-- Scratch: of a load, of a read at a place, of an atomic. -/
theorem AccessForm.Begins.poison_scratch {q : AccessForm} {run : State} (hb : q.Begins run q.kind) (hs : q.opnd.scratch = true) (hr : q.reads = true)
    (hp : ∃ i < q.n, q.sees i = true ∧ smem q.on.me.poison ((q.opnd.va + i) / 32) = true) : run = q.on.poisonTrap q.opnd.va := by
  obtain ⟨i, hi, hsees, hp⟩ := hp
  have whole : q.on.readScratch q.opnd q.n = .done (q.on.poisonTrap q.opnd.va) := readScratch_poison ⟨i, hi, rfl, hp⟩
  unfold AccessForm.reads at hr
  cases hk : q.kind with rw [hk] at hb hr
  | load =>
    obtain ⟨skip, f, hskip, rfl⟩ := hb
    have hlane : skip.contains (q.opnd.va + i) = false := hskip _ (by rw [Nat.add_sub_cancel_left]; exact hsees)
    have hlanes : q.on.readScratch { q.opnd with skip := skip } q.n = .done (q.on.poisonTrap q.opnd.va) := readScratch_poison ⟨i, hi, hlane, hp⟩
    rw [read_scratch (o := { q.opnd with skip := skip }) _ hs, hlanes, andThen_done]
  | place sc =>
    obtain ⟨f, g, rfl⟩ := hb
    rw [if_pos hs, whole, andThen_done]
  | rmw =>
    obtain ⟨sc, sig, host, f, g, rfl⟩ := hb
    rw [State.rmw, if_pos hs, whole, bind_done, andThen_done]
  | store | red | stl => cases hr

theorem partPoison_of_byte {s : State} {o : Opnd} {p : Nat × Nat × ReadAt} {i : Nat} (hi : i < p.2.1) (hskip : o.skip.contains (p.1 + i) = false) :
    (∀ l, p.2.2 = .l1 l → l.poison.contains ((l.pline * 128 + p.1 % 128 + i) / 32) = true) →
    (∀ pa, p.2.2 = .mem pa → s.viewPoison (s.slotReqs s.cur) s.myTower false (pa + i) = true) → s.partPoison o false p = true := by
  intro hl hm
  refine List.any_eq_true.mpr ⟨i, mem_upFrom_zero.mpr hi, ?_⟩
  rw [hskip]
  cases h : p.2.2 with
  | l1 l => exact hl l h
  | mem pa => exact hm pa h

/-- A load from memory, of the parts it found. -/
theorem AccessForm.Begins.poison_load {q : AccessForm} {s1 s2 run : State} {ps : List (Nat × Nat × ReadAt)} (hb : q.Begins run q.kind)
    (hk : q.kind = .load) (hg : q.opnd.scratch = false) (hc : q.on.charge q.cost = .ok () s1)
    (hf : s1.findParts q.opnd false (piecesOf q.opnd.va q.n) = .ok ps s2) (hgot : s2.me.got = []) (hbar : ∀ p ∈ ps, s2.partBar false p = none)
    (hp : ∃ p ∈ ps, ∃ i < p.2.1, q.sees (p.1 + i - q.opnd.va) = true ∧
      ∀ o : Opnd, o.skip.contains (p.1 + i) = false → s2.partPoison o false p = true) : run = s2.poisonTrap q.opnd.va := by
  unfold AccessForm.cost at hc
  rw [hk] at hb hc
  obtain ⟨skip, f, hskip, rfl⟩ := hb
  obtain ⟨p, hmem, i, -, hsees, hpoison⟩ := hp
  rw [read_poison (o := { q.opnd with skip := skip }) hg hc (by rw [findParts_skip]; exact hf) hgot hbar ⟨p, hmem, hpoison _ (hskip _ hsees)⟩,
    andThen_done]

/-- A read at a place. -/
theorem AccessForm.Begins.poison_place {q : AccessForm} {s1 s2 s3 run : State} {sc : BitVec 2} {pa : Nat} (hb : q.Begins run q.kind)
    (hk : q.kind = .place sc) (hg : q.opnd.scratch = false) (hc : q.on.charge q.cost = .ok () s1)
    (hx : s1.translate s1.meWho q.opnd.va q.opnd.cls .read = .ok pa s2) (hl : s2.leavePin sc pa = .ok () s3) (hown : s3.ownStore pa q.n = false)
    (hbar : s3.readBar pa true = none) (hp : ∃ i < q.n, s3.placePoison (pa + i) = true) : run = s3.poisonTrap q.opnd.va := by
  unfold AccessForm.cost at hc
  rw [hk] at hb hc
  obtain ⟨f, g, rfl⟩ := hb
  obtain ⟨i, hi, hp⟩ := hp
  have hpart : s3.partBar true (q.opnd.va, q.n, .mem pa) = none := by simp [State.partBar, hown, hbar]
  have hpoison : s3.partPoison q.opnd true (q.opnd.va, q.n, .mem pa) = true := List.any_eq_true.mpr ⟨i, mem_upFrom_zero.mpr hi, hp⟩
  rw [if_neg (Bool.eq_false_iff.mp hg), readHome_charged hc, xlate_eq_ok.mpr hx, bind_ok, hl, bind_ok,
    readFound_poison (by simpa using hpart) ⟨_, List.mem_singleton_self _, hpoison⟩, bind_done, andThen_done]

/-- An atomic. -/
theorem AccessForm.Begins.poison_rmw {q : AccessForm} {s1 s2 run : State} {pa : Nat} (hb : q.Begins run q.kind)
    (hk : q.kind = .rmw) (hg : q.opnd.scratch = false) (hc : q.on.charge q.cost = .ok () s1)
    (hx : s1.translate s1.meWho q.opnd.va q.opnd.cls .write = .ok pa s2) (hh : homeOf pa ≠ some .host) (hbar : s2.readBar pa true = none)
    (hp : s2.placeBad pa q.n = true) : run = s2.poisonTrap q.opnd.va := by
  unfold AccessForm.cost at hc
  rw [hk] at hb hc
  obtain ⟨sc, sig, host, f, g, rfl⟩ := hb
  rw [State.rmw, if_neg (Bool.eq_false_iff.mp hg), hc, bind_ok, xlate_eq_ok.mpr hx, bind_ok, if_neg (fun h => hh h.1), hbar]
  dsimp only
  rw [if_pos hp, andThen_done]

end Sys2Proof.Machine

open Sys2Proof Sys2Proof.Machine

/-- Settles O9: every form runs its checks and then begins as its kind of access does, which says where translation and poison end it. -/
theorem accessChecks : Obligations.AccessChecks := by
  unfold Obligations.AccessChecks
  intro s s1 s2 s3 f sc sc' size sig w d b v vd h a disp ext k q pa ps ho hq
  have hruns : q.Runs s := by
    simp only [List.mem_append] at hq
    obtain (((hq | hq) | hq) | hq) | hq := hq
    · exact loadForm_runs q hq
    · exact storeForm_runs q hq
    · exact atomicForm_runs q hq
    · exact vectorForm_runs ho q hq
    · exact ringForm_runs q hq
  obtain ⟨⟨k, hrun, hk⟩, hn, habsent, hpoison⟩ := hruns
  have passed (hp : q.Passes) (hs : q.opnd.scratch = true → s.me.absentIn q.opnd.va q.n = []) : exec q.instr s = .next (k q.opnd q.st) := by
    rw [hrun, hp.check_present fun h => by rw [Ctx.absentIn, habsent]; exact hs h, andThen_ok]
  have global (hg : q.Passes ∧ q.goes = true ∧ q.opnd.scratch = false) {t : State} (ht : k q.opnd q.st = t) : exec q.instr s = .next t := by
    rw [passed hg.1 fun h => absurd h (Bool.eq_false_iff.mp hg.2.2), ht]
  refine ⟨AccessForm.refused_of_check k hrun, fun hg hc hl => ?translation, fun hp hgo hs habs hr hbad => ?scratch,
    fun hg hc hkind hf hgot hbar hbad => ?load, fun hg hc hkind hx hl hown hbar hbad => ?place, fun hg hc hkind hx hh hbar hbad => ?rmw⟩
  case translation => exact hg.1.1.untranslated fun t hx => global hg ((hk hg.2.1).untranslated hg.2.2 hn hc hl hx)
  case scratch =>
    rw [passed hp fun _ => habs]
    exact congrArg _ ((hk hgo).poison_scratch hs hr (by rw [hpoison]; exact hbad))
  case load =>
    obtain ⟨p, hmem, i, hi, hsees, hb⟩ := hbad
    refine global hg ((hk hg.2.1).poison_load hkind hg.2.2 hc hf hgot hbar ⟨p, hmem, i, hi, hsees, fun o hskip => ?_⟩)
    exact partPoison_of_byte hi hskip (fun l hp => by rw [hp] at hb; exact hb) (fun pa hp => by rw [hp] at hb; exact hb)
  case place => exact global hg ((hk hg.2.1).poison_place hkind hg.2.2 hc hx hl hown hbar hbad)
  case rmw => exact global hg ((hk hg.2.1).poison_rmw hkind hg.2.2 hc hx hh hbar hbad)
end

section
/-! PROOFS. RBIND: the handle that a ring's words give (06 R95). -/

namespace Sys2Proof.Machine

/-! ## The words of a ring -/

theorem leNat_take : ∀ (l : List Byte) (n : Nat), leNat (l.take n) = leNat l % 256 ^ n
  | [], n => by simp [leNat]
  | _ :: _, 0 => by simp [leNat, Nat.mod_one]
  | b :: l, n + 1 => by
    have hb := b.isLt
    rw [List.take_succ_cons, leNat, leNat, leNat_take l n, Nat.pow_succ', Nat.mod_mul, show (b.toNat + 256 * leNat l) / 256 = leNat l by omega,
      show (b.toNat + 256 * leNat l) % 256 = b.toNat by omega]

/-- The `i`-th 64-bit word of a ring's words. -/
def ringWord (bs : List Byte) (i : Nat) : Word := BitVec.ofNat 64 (leNat ((bs.drop (8 * i)).take 8))

theorem bitsNat_testBit (x hi lo j : Nat) : (bitsNat x hi lo).testBit j = (decide (j < hi + 1 - lo) && x.testBit (j + lo)) := by
  rw [bitsNat, Nat.testBit_mod_two_pow, Nat.testBit_div_two_pow]

theorem bitsNat_lt (x hi lo : Nat) : bitsNat x hi lo < 2 ^ (hi + 1 - lo) := Nat.mod_lt _ (Nat.two_pow_pos _)

/-- Bits of a number's first eight bytes. -/
theorem bitsNat_take (bs : List Byte) {hi : Nat} (lo : Nat) (h : hi < 64) : bitsNat (leNat (bs.take 8)) hi lo = bitsNat (leNat bs) hi lo := by
  refine Nat.eq_of_testBit_eq fun j => ?_
  rw [bitsNat_testBit, bitsNat_testBit, leNat_take, show 256 ^ 8 = 2 ^ 64 by decide, Nat.testBit_mod_two_pow]
  by_cases hj : j < hi + 1 - lo
  · rw [decide_eq_true (show j + lo < 64 by omega), Bool.true_and]
  · rw [decide_eq_false hj, Bool.false_and, Bool.false_and]

theorem extractLsb'_eq_bits (x : Nat) {lo n hi : Nat} (h : hi < 64) (hn : hi + 1 = lo + n) :
    (BitVec.ofNat 64 x).extractLsb' lo n = BitVec.ofNat n (bitsNat x hi lo) := by
  refine BitVec.eq_of_getLsbD_eq fun j hj => ?_
  rw [BitVec.getLsbD_extractLsb', BitVec.getLsbD_ofNat, BitVec.getLsbD_ofNat, bitsNat_testBit, decide_eq_true hj,
    decide_eq_true (show lo + j < 64 by omega), decide_eq_true (show j < hi + 1 - lo by omega), Nat.add_comm lo j]

/-- The handle of a ring's words, and whether it names a usable ring. -/
def ringHandle (bs : List Byte) : QReg :=
  ⟨(ringWord bs 0).extractLsb' 0 56, (ringWord bs 1).extractLsb' 0 56, (ringWord bs 2).extractLsb' 0 5, (ringWord bs 2).extractLsb' 8 5,
    (ringWord bs 2).extractLsb' 16 2, 0, 0⟩

def QReg.Usable (h : QReg) : Prop :=
  h.ctrl.toNat % 32 = 0 ∧ 1 ≤ h.m.toNat ∧ h.m.toNat ≤ 16 ∧ 4 ≤ h.s.toNat ∧ h.s.toNat ≤ 13 ∧ h.slots.toNat % 2 ^ h.s.toNat = 0

/-- RBIND after its read. -/
def State.BindsRing (s : State) (run : Out) (q : BitVec 4) (bs : List Byte) : Prop :=
  ((ringHandle bs).role = 0 ∨ (ringHandle bs).Usable → run = .next ((s.setQ q (ringHandle bs)).advance 4)) ∧
    ((ringHandle bs).role ≠ 0 → ¬ (ringHandle bs).Usable → run = .next (s.trap 0x07 (q.setWidth 64)))

theorem ringHandle_eq (bs : List Byte) : ringHandle bs = ⟨BitVec.ofNat 56 (bitsNat (leNat (bs.take 8)) 55 0),
    BitVec.ofNat 56 (bitsNat (leNat ((bs.drop 8).take 8)) 55 0), BitVec.ofNat 5 (bitsNat (leNat (bs.drop 16)) 4 0),
    BitVec.ofNat 5 (bitsNat (leNat (bs.drop 16)) 12 8), BitVec.ofNat 2 (bitsNat (leNat (bs.drop 16)) 17 16), 0, 0⟩ := by
  unfold ringHandle ringWord
  have bits (x lo n hi : Nat) (h : hi < 64 ∧ hi + 1 = lo + n) := extractLsb'_eq_bits x h.1 h.2
  rw [bits _ 0 56 55 (by decide), bits _ 0 56 55 (by decide), bits _ 0 5 4 (by decide), bits _ 8 5 12 (by decide), bits _ 16 2 17 (by decide),
    bitsNat_take _ 0 (show 4 < 64 by decide), bitsNat_take _ 8 (show 12 < 64 by decide), bitsNat_take _ 16 (show 17 < 64 by decide)]
  rfl

theorem toNat_bits {n : Nat} (x hi lo : Nat) (h : hi + 1 - lo = n) : (BitVec.ofNat n (bitsNat x hi lo)).toNat = bitsNat x hi lo := by
  rw [BitVec.toNat_ofNat, Nat.mod_eq_of_lt (h ▸ bitsNat_lt x hi lo)]

/-- RBIND binds to the handle of what it reads. -/
theorem rbind_of_read {s t u : State} {o : Opnd} {q a : BitVec 4} {bs : List Byte} (hc : s.check a (s.ptr a) 24 true false 0 = .ok o t)
    (hr : t.read o 24 = .ok bs u) : u.BindsRing (exec (.rbind q a) s) q bs := by
  have hrun : exec (.rbind q a) s = .next (opRbind q a s) := rfl
  rw [opRbind, hc, andThen_ok, hr, andThen_ok] at hrun
  rw [State.BindsRing, QReg.Usable, ringHandle_eq, hrun]
  dsimp only
  rw [toNat_bits _ 55 0 rfl, toNat_bits _ 55 0 rfl, toNat_bits _ 4 0 rfl, toNat_bits _ 12 8 rfl]
  have hrole : (BitVec.ofNat 2 (bitsNat (leNat (bs.drop 16)) 17 16) = 0) ↔ bitsNat (leNat (bs.drop 16)) 17 16 = 0 := by
    rw [← BitVec.toNat_inj, toNat_bits _ 17 16 rfl]
    rfl
  refine ⟨fun h => congrArg _ ?_, fun h0 hbad => congrArg _ ?_⟩
  · split
    · rfl
    · next h0 => exact if_neg (by have := h.resolve_left (mt hrole.mp h0); omega)
  · rw [if_neg (mt hrole.mpr h0)]
    exact if_pos (by omega)

/-- Global memory through an address register that passes checks 1 to 4, of a read with no alignment. -/
theorem check_read_global {s : State} {a : BitVec 4} {ea n : Nat} (hs : (s.me.getA a).scratch = false) (hb : (s.me.getA a).base.toNat ≤ ea)
    (hl : ea + n ≤ (s.me.getA a).limit.toNat) (hr : (s.me.getA a).r = true) :
    s.check a ea n true false 0 = .ok ⟨false, ea, (s.me.getA a).cls, 0, a.toNat, []⟩ s :=
  check_eq_ok.mpr ⟨by omega, by omega, by rw [hr]; rfl, fun h => h.1 rfl, by rw [hs]; rfl, by rw [hs]; rfl, by rw [hs]; rfl⟩

end Sys2Proof.Machine

open Sys2Proof Sys2Proof.Machine

/-- Settles O24: whatever the read gives, RBIND binds to its handle; the reads are those of a load. -/
theorem ringBind : Obligations.RingBind := by
  unfold Obligations.RingBind
  intro s u q a ea pa l bs hea
  dsimp only
  have global (h : (s.me.getA a).scratch = false ∧ (s.me.getA a).base.toNat ≤ ea ∧ ea + 24 ≤ (s.me.getA a).limit.toNat ∧ (s.me.getA a).r = true) :
      s.check a (s.ptr a) 24 true false 0 = .ok ⟨false, ea, (s.me.getA a).cls, 0, a.toNat, []⟩ s := by
    rw [State.ptr, ← hea]
    exact check_read_global h.1 h.2.1 h.2.2.1 h.2.2.2
  refine ⟨fun hok hclean => ?scratch, fun hg h => rbind_of_read (global hg) (read_hit h), fun hg h => ?past,
    fun hg => ⟨rbind_of_read (global hg), fun h => ?ends⟩⟩
  case scratch =>
    have hc : s.check a (s.ptr a) 24 true false 0 = .ok ⟨true, ea, (s.me.getA a).cls, 0, a.toNat, []⟩ s := by
      rw [State.ptr, ← hea]
      exact check_scratchOk hok
    exact rbind_of_read hc ((read_scratch 24 rfl).trans (readScratch_of_clean (o := ⟨true, ea, (s.me.getA a).cls, 0, a.toNat, []⟩) hclean))
  case past =>
    obtain ⟨t, ht, hme, hmem⟩ := read_past h
    exact ⟨t, hme, hmem, rbind_of_read (global hg) ht⟩
  case ends =>
    have hrun : exec (.rbind q a) s = .next (opRbind q a s) := rfl
    rw [hrun, opRbind, global hg, andThen_ok, h, andThen_done]
end

section
/-! PROOFS. RWAIT, RFILL and RFREE (06 R96, R98). -/

namespace Sys2Proof.Machine

/-! ## A read of the counters -/

theorem leavePin_device (s : State) (pa : Nat) : s.leavePin 0b10 pa = .ok () s := by
  unfold State.leavePin
  split
  · exact if_neg fun h => absurd h.1 (by decide)
  · rfl

theorem placeByte_congr {s t : State} (hp : t.pins = s.pins) (hm : t.mem = s.mem) (pa : Nat) : t.placeByte pa = s.placeByte pa := by
  rw [State.placeByte, State.placeByte, State.pinOf, State.pinOf, hp, hm]

theorem partFill_placeByte (s : State) (home : Bool) (p : Nat × Nat × ReadAt) (pa : Nat) : (s.partFill home p).placeByte pa = s.placeByte pa := by
  obtain ⟨_, _, _, _, _, _, _, _, _, h⟩ := partFill_eq s home p
  rw [h]
  exact placeByte_congr rfl rfl pa

theorem acquire_placeByte (s : State) (scope : BitVec 2) (pa : Nat) : (s.acquire scope).placeByte pa = s.placeByte pa := by
  unfold State.acquire
  split
  · rfl
  · exact placeByte_congr rfl rfl pa

/-- One part read at its place gives the bytes that stand there. -/
theorem readFound_place {s t : State} {o : Opnd} {va n pa : Nat} {bs : List Byte} (h : s.readFound o true [(va, n, .mem pa)] = .ok bs t) :
    bs = (upFrom pa n).map t.placeByte := by
  unfold State.readFound at h
  split at h
  · cases h
  · split at h
    · cases h
    · cases h
      rw [List.flatMap_singleton, List.foldl_cons, List.foldl_nil, funext (partFill_placeByte s true (va, n, .mem pa))]
      rfl

/-- The counters read are those that stand at their place. -/
theorem readCounts_eq_ok {s u : State} {q : BitVec 4} {pa : Nat} {c : RingCounts} (h : s.readCounts q = .ok (pa, c) u) :
    c = ringCounts ((upFrom pa 16).map u.placeByte) := by
  unfold State.readCounts State.readHome at h
  obtain ⟨⟨pa', bs⟩, s1, h, hc⟩ := bind_eq_ok.mp h
  obtain ⟨_, s2, -, h⟩ := bind_eq_ok.mp h
  obtain ⟨pa2, s3, -, h⟩ := bind_eq_ok.mp h
  rw [leavePin_device, bind_ok] at h
  obtain ⟨bs2, s4, hr, h⟩ := bind_eq_ok.mp h
  cases h
  cases hc
  rw [readFound_place hr, funext (acquire_placeByte s1 0b10)]

/-! ## A monitor armed changes no slot's key -/

theorem wakeOne_cur (s : State) (k : SlotKey) : (s.wakeOne k).cur = s.cur := by
  unfold State.wakeOne
  dsimp only
  split
  · exact setCtx_cur_eq ..
  · exact setCtx_cur_eq ..
  all_goals rfl

theorem addWatch_cur (s : State) (cl line : Nat) : (s.addWatch cl line).cur = s.cur := by
  obtain ⟨_, _, _, _, _, hw⟩ := wakeHome_eq s (line * 128)
  unfold State.addWatch
  dsimp only
  rw [hw]
  (repeat' split) <;> rfl

theorem monitorOverflow_cur (s : State) (cl : Nat) : (s.monitorOverflow cl).cur = s.cur := foldl_keeps (p := State.cur) wakeOne_cur _ _

theorem arm_cur (s : State) (line : Nat) : (s.arm line).cur = s.cur := by
  have watched : ∀ t : State, t.cur = s.cur → (match t.pinOf line with | some _ => t | none => t.addWatch s.myMonitor line).cur = s.cur := by
    intro t ht
    split
    · exact ht
    · rw [addWatch_cur, ht]
  refine watched _ ?_
  split
  · rfl
  · split
    · exact monitorOverflow_cur ..
    · rfl

/-! ## What the instructions do with them -/

section
variable {s u : State} {q : BitVec 4} {pa : Nat} {c : RingCounts}

theorem opRwait_misuse {head : Bool} {b : BitVec 6} (h : (if head then (s.me.getQ q).consumer else (s.me.getQ q).producer) = false ∨
    2 ^ (s.me.getQ q).m.toNat < (s.getG b).toNat) : opRwait head q b s = s.trap 0x07 (q.setWidth 64) := if_pos h

theorem opRcount_misuse (filled : Bool) (d : BitVec 6) (h : (s.me.getQ q).role = 0) : opRcount filled d q s = s.trap 0x07 (q.setWidth 64) := if_pos h

/-- The state of an RWAIT that does not park: its monitor armed for the read and cleared again. -/
def State.rearmed (u : State) (pa : Nat) : State := (u.arm (pa / 128)).disarm (u.arm (pa / 128)).myMonitor (pa / 128)

theorem opRwait_enough {head : Bool} {b : BitVec 6} {count : Int} (hr : (if head then (s.me.getQ q).consumer else (s.me.getQ q).producer) = true)
    (hn : (s.getG b).toNat ≤ 2 ^ (s.me.getQ q).m.toNat) (h : s.readCounts q = .ok (pa, c) u)
    (hcount : (if head then (c.filled.toNat : Int) else c.free (s.me.getQ q).m.toNat) = count) (hge : (s.getG b).toNat = 0 ∨ (s.getG b).toNat ≤ count) :
    opRwait head q b s = ((u.rearmed pa).setQ q (if head then { s.me.getQ q with headSeen := BitVec.ofInt 32 (max (-(2 ^ 31)) count) }
      else { s.me.getQ q with tailSeen := BitVec.ofInt 32 (max (-(2 ^ 31)) count) })).advance 4 := by
  subst hcount
  unfold opRwait
  dsimp only
  rw [if_neg (by rw [hr]; rintro (h | h); cases h; omega), h, andThen_ok]
  dsimp only
  rw [if_pos hge, State.rearmed, State.myMonitor, State.myMonitor, State.myCore, State.myCore, arm_cur]

theorem opRwait_short {head : Bool} {b : BitVec 6} {count : Int} (hr : (if head then (s.me.getQ q).consumer else (s.me.getQ q).producer) = true)
    (hn : (s.getG b).toNat ≤ 2 ^ (s.me.getQ q).m.toNat) (h : s.readCounts q = .ok (pa, c) u)
    (hcount : (if head then (c.filled.toNat : Int) else c.free (s.me.getQ q).m.toNat) = count) (h0 : (s.getG b).toNat ≠ 0) (hlt : count < (s.getG b).toNat) :
    opRwait head q b s = (u.arm (pa / 128)).park (.rwait (pa / 128)) := by
  subst hcount
  unfold opRwait
  dsimp only
  rw [if_neg (by rw [hr]; rintro (h | h); cases h; omega), h, andThen_ok]
  dsimp only
  rw [if_neg (by omega)]

theorem opRcount_counts (filled : Bool) (d : BitVec 6) (hrole : (s.me.getQ q).role ≠ 0) (h : s.readCounts q = .ok (pa, c) u) :
    opRcount filled d q s = (u.setG d (BitVec.ofInt 64 (if filled then c.filled.toNat else c.free (s.me.getQ q).m.toNat))).advance 4 := by
  rw [opRcount, if_neg hrole, h, andThen_ok]
  rfl

end

theorem ofInt_filled (x : BitVec 32) : BitVec.ofInt 32 (max (-(2 ^ 31)) (x.toNat : Int)) = x := by
  rw [max_eq_right (by omega), BitVec.ofInt_natCast, BitVec.ofNat_toNat, BitVec.setWidth_eq]

end Sys2Proof.Machine

open Sys2Proof Sys2Proof.Machine

/-- Settles O25: the counters are those at their place, and each instruction is its equation in them. -/
theorem ringCounters : Obligations.RingCounters := by
  unfold Obligations.RingCounters
  intro s u q b d pa c
  dsimp only
  refine ⟨fun h => ⟨readCounts_eq_ok h, fun hr hn hge => ?headEnough, fun hr hn hge => ?tailEnough, fun hr hn hlt => ?headShort,
    fun hr hn h0 hlt => ?tailShort, fun hrole => ⟨?fill, ?free⟩⟩, fun hm => congrArg _ (opRwait_misuse (head := true) hm),
    fun hm => congrArg _ (opRwait_misuse (head := false) hm), fun h0 => ⟨congrArg _ (opRcount_misuse true d h0), congrArg _ (opRcount_misuse false d h0)⟩⟩
  case headEnough =>
    have h := opRwait_enough (head := true) (count := c.filled.toNat) hr hn h rfl (.inr (Int.ofNat_le.mpr hge))
    rw [if_pos rfl, ofInt_filled] at h
    exact congrArg _ h
  case tailEnough => exact congrArg _ (opRwait_enough (head := false) hr hn h rfl hge)
  case headShort => exact congrArg _ (opRwait_short (head := true) hr hn h rfl (by omega) (Int.ofNat_lt.mpr hlt))
  case tailShort => exact congrArg _ (opRwait_short (head := false) hr hn h rfl h0 hlt)
  case fill =>
    have h := opRcount_counts true d hrole h
    rw [if_pos rfl, BitVec.ofInt_natCast, BitVec.ofNat_toNat] at h
    exact congrArg _ h
  case free => exact congrArg _ (opRcount_counts false d hrole h)
end

section
/-! PROOFS. Writes performed at once at their place: the pin store of a pinned line, else the home (10 R163, R168, R172; 11 R178). -/

namespace Sys2Proof.Machine

/-! ## States with the same bytes at every place -/

/-- Both states have the same memory, the same pins and the same issuing slot. -/
def SamePlaces (s t : State) : Prop := t.pins = s.pins ∧ t.mem = s.mem ∧ t.me = s.me

theorem SamePlaces.trans {s t u : State} : SamePlaces s t → SamePlaces t u → SamePlaces s u := by
  rintro ⟨hp, hm, hc⟩ ⟨hp', hm', hc'⟩
  exact ⟨hp'.trans hp, hm'.trans hm, hc'.trans hc⟩

theorem SamePlaces.placeByte {s t : State} (h : SamePlaces s t) (pa : Nat) : t.placeByte pa = s.placeByte pa := placeByte_congr h.1 h.2.1 pa

theorem State.StoredBy.congr {u t t' : State} {pl : Place} {pa : Nat} {data : List Byte} (h : u.StoredBy t pl pa data) (hs : SamePlaces t t') :
    u.StoredBy t' pl pa data := by
  obtain ⟨hin, hout, hmem⟩ := h
  refine ⟨fun i hi => (hs.placeByte _).trans (hin i hi), fun hb x hx => (hs.placeByte _).trans (hout hb x hx), ?_⟩
  rw [hs.2.1]
  exact hmem

theorem RaisesTo.samePlaces {s t : State} : RaisesTo s t → SamePlaces s t := by
  rintro ⟨l, rfl⟩
  exact ⟨rfl, rfl, rfl⟩

theorem l1Store_samePlaces (s : State) (pa : Nat) (d : List (Option Byte)) : SamePlaces s (s.l1Store pa d) := by
  unfold State.l1Store
  dsimp only
  split <;> exact ⟨rfl, rfl, rfl⟩

theorem signal_samePlaces (s : State) (pa : Nat) : SamePlaces s (s.signal pa) := ⟨rfl, rfl, rfl⟩

theorem acquire_samePlaces (s : State) (scope : BitVec 2) : SamePlaces s (s.acquire scope) := by
  unfold State.acquire
  split <;> exact ⟨rfl, rfl, rfl⟩

theorem standsPinned_samePlaces (s : State) (va : Nat) (cls : Bool) (pa : Nat) : SamePlaces s (s.standsPinned va cls pa) := by
  unfold State.standsPinned
  split <;> exact ⟨rfl, rfl, rfl⟩

theorem wakeHome_samePlaces (s : State) (pa : Nat) : SamePlaces s (s.wakeHome pa) := by
  obtain ⟨_, _, _, _, _, hw⟩ := wakeHome_eq s pa
  rw [hw]
  exact ⟨rfl, rfl, rfl⟩

theorem ringFreed_raises (s : State) : RaisesTo s s.ringFreed := by
  refine RaisesTo.trans (.foldl (fun s m => .raise ..) _ s) (.foldl (fun s t => ?_) _ _)
  split
  · exact .refl s
  · exact .raise ..

/-! ## A write at its home -/

@[simp] theorem bringUp_pins (t : Nat) (need : Vector (BitVec 20) 4) : ∀ (n : Nat) (s : State), (s.bringUp t need n).pins = s.pins
  | 0, _ => rfl
  | n + 1, s => by
    unfold State.bringUp
    split
    · rfl
    · split
      · rw [bringUp_pins]; rfl
      · rfl

@[simp] theorem reach_pins (s : State) (t : Nat) (need : Vector (BitVec 20) 4) : (s.reach t need).pins = s.pins := by
  unfold State.reach
  split
  · rfl
  · rw [(clockMoved_raises ..).samePlaces.1, bringUp_pins]

@[simp] theorem openGap_pins (s : State) (h : Nat) : (s.openGap h).pins = s.pins := by
  unfold State.openGap
  split
  · rfl
  · exact foldl_keeps (p := State.pins) (fun s u => reach_pins s u _) _ s

/-- A write performed for an agent leaves every pin. -/
theorem performFrom_pins {s : State} {pa h : Nat} (hh : homeOf pa = some (.tower h)) (w : Nat) (d : List Byte) (c : Bool) (bad : List Nat) :
    (s.performFrom w pa d c bad).pins = s.pins := by
  obtain ⟨_, _, _, _, _, _, _, _, _, _, e⟩ := performAt_tower_eq hh ((s.openGap h).reach h (s.vc w)) d c bad
  have hp : (((s.openGap h).reach h (s.vc w)).performAt pa d c bad).pins = s.pins := by rw [e, reach_pins, openGap_pins]
  unfold State.performFrom
  rw [hh]
  dsimp only
  rw [apply_ite State.pins, reach_pins, ite_self, hp]

theorem SameTasks.me {s t : State} (h : SameTasks s t) : t.me = s.me := congrArg (·.1.1) h

theorem inHbm_iff {pa : Nat} : inHbm pa = true ↔ ∃ h, homeOf pa = some (.tower h) := by
  unfold inHbm
  split
  · next h hh => simp [hh]
  · next hne => simpa using hne

/-- Bytes of one line. -/
theorem line_of_offset {pa i n : Nat} (hline : pa % 128 + n ≤ 128) (hi : i < n) : (pa + i) / 128 = pa / 128 ∧ (pa + i) % 128 = pa % 128 + i := by omega

theorem performFrom_stored {s : State} {pa : Nat} {d : List Byte} (hh : inHbm pa = true) (hline : pa % 128 + d.length ≤ 128)
    (hp : s.pinOf (pa / 128) = none) (w : Nat) (c : Bool) (bad : List Nat) :
    s.StoredBy (s.performFrom w pa d c bad) .home pa d ∧ (s.performFrom w pa d c bad).me = s.me := by
  obtain ⟨h, hh⟩ := inHbm_iff.mp hh
  have hpins := performFrom_pins (s := s) hh w d c bad
  have hmem : (s.performFrom w pa d c bad).mem = msets s.mem pa d := by
    rw [performFrom_mem, if_pos]
    simp [State.mapped, hh]
  have hpin (l : Nat) : (s.performFrom w pa d c bad).pinOf l = s.pinOf l := by rw [State.pinOf, hpins, State.pinOf]
  refine ⟨⟨fun i hi => ?_, fun _ x hx => ?_, hmem ▸ storedAt_msets ..⟩, (performFrom_tasks s w pa d c bad).me⟩
  · rw [State.placeByte, hpin, (line_of_offset hline hi).1, hp, hmem]
    dsimp only
    rw [mget_msets_in _ _ _ _ hi, List.getD_eq_getElem _ _ hi]
  · rw [State.placeByte, hpin, hmem, State.placeByte, mget_msets_out _ _ hx]

/-! ## A write at the pin store -/

/-- Bytes put into a line's data at their offsets. -/
theorem getElem?_setCells : ∀ (d : List Byte) {a : Nat} {l : List Byte} (j : Nat), a % 128 + d.length ≤ 128 → l.length = 128 →
    ((cells a d).foldl (fun l c => l.set (c.1 % 128) c.2) l)[j]? =
      if a % 128 ≤ j ∧ j < a % 128 + d.length then d[j - a % 128]? else l[j]?
  | [], a, l, j, _, _ => by
    rw [if_neg (by simp)]
    rfl
  | b :: d, a, l, j, hd, hl => by
    rw [List.length_cons] at hd
    have hset : (cells a (b :: d)).foldl (fun l c => l.set (c.1 % 128) c.2) l =
        (cells (a + 1) d).foldl (fun l c => l.set (c.1 % 128) c.2) (l.set (a % 128) b) := rfl
    rw [hset, getElem?_setCells d j (by omega) (by rw [List.length_set, hl]), List.getElem?_set, List.length_cons]
    by_cases hj : a % 128 = j
    · subst hj
      rw [if_neg (by omega), if_pos rfl, if_pos (by omega), if_pos (by omega), Nat.sub_self]
      rfl
    · rw [if_neg hj]
      by_cases hin : a % 128 ≤ j ∧ j < a % 128 + (d.length + 1)
      · rw [if_pos hin, if_pos (by omega), show j - a % 128 = j - (a + 1) % 128 + 1 by omega, List.getElem?_cons_succ]
      · rw [if_neg hin, if_neg (by omega)]

/-- A pin with bytes written to its line. -/
def Pin.put (p : Pin) (pa : Nat) (d : List Byte) : Pin := { p with data := (cells pa d).foldl (fun l c => l.set (c.1 % 128) c.2) p.data }

theorem pinOf_putPin_same {s : State} {pa : Nat} {p : Pin} (h : s.pinOf (pa / 128) = some p) (d : List Byte) :
    (s.putPin pa d).pinOf (pa / 128) = some (p.put pa d) :=
  find?_mapIf (p := fun q : Pin => q.pline == pa / 128) (f := fun q => q.put pa d) (fun _ h => h) h

theorem pinOf_putPin_other (s : State) {pa l : Nat} (hl : l ≠ pa / 128) (d : List Byte) : (s.putPin pa d).pinOf l = s.pinOf l := by
  have hp : ((fun p : Pin => p.pline == l) ∘ fun p => if p.pline == pa / 128 then p.put pa d else p) = fun p => p.pline == l := by
    funext p
    simp only [Function.comp_apply]
    split <;> rfl
  show (List.map (fun p : Pin => if p.pline == pa / 128 then p.put pa d else p) s.pins).find? (fun p => p.pline == l) = s.pins.find? (fun p => p.pline == l)
  rw [List.find?_map, hp]
  cases hf : s.pins.find? (fun p => p.pline == l) with
  | none => rfl
  | some p =>
    have hpl : p.pline = l := by simpa using List.find?_some hf
    rw [Option.map_some, if_neg (by simp [hpl, hl])]

theorem putPin_stored {s : State} {pa : Nat} {d : List Byte} {p : Pin} (hline : pa % 128 + d.length ≤ 128) (hp : s.pinOf (pa / 128) = some p)
    (hlen : p.data.length = 128) : s.StoredBy (s.putPin pa d) .unit pa d := by
  refine ⟨fun i hi => ?_, fun _ x hx => ?_, rfl⟩
  · obtain ⟨hl, ho⟩ := line_of_offset hline hi
    rw [State.placeByte, hl, pinOf_putPin_same hp, ho]
    dsimp only [Pin.put]
    rw [List.getD_eq_getElem?_getD, getElem?_setCells d _ hline hlen, if_pos (by omega), Nat.add_sub_cancel_left, ← List.getD_eq_getElem?_getD]
    rfl
  · by_cases hl : x / 128 = pa / 128
    · rw [State.placeByte, State.placeByte, hl, pinOf_putPin_same hp, hp]
      dsimp only [Pin.put]
      rw [List.getD_eq_getElem?_getD, getElem?_setCells d _ hline hlen, if_neg (by omega), ← List.getD_eq_getElem?_getD]
    · rw [State.placeByte, pinOf_putPin_other s hl, putPin_mem, State.placeByte]

/-! ## A release at device scope, and the write it makes -/

theorem placeOf_device (s : State) (pa : Nat) : s.placeOf 0b10 pa = if (s.pinOf (pa / 128)).isSome then .unit else .home := by
  have hpins : s.pinsAt 0b10 pa = none := if_neg (by simp [narrow])
  rw [State.placeOf, hpins]
  simp

/-- A release at device scope is done, and its write goes to the pin store of a line that is pinned, and home else. -/
theorem releaseAt_device {s u : State} {pa : Nat} {pl : Place} (h : s.releaseAt 0b10 pa = .ok pl u) :
    s.release 0b10 = .ok () u ∧ pl = if (u.pinOf (pa / 128)).isSome then .unit else .home := by
  have hw : s.widen 0b10 pa = (0b10, s) := if_neg (by simp [narrow])
  rw [State.releaseAt, hw] at h
  obtain ⟨_, t, hr, h⟩ := bind_eq_ok.mp h
  dsimp only at h
  split at h
  · cases h
  · cases h
    exact ⟨hr, placeOf_device ..⟩

theorem performNow_stored {u : State} {o : Opnd} {pl : Place} {pa : Nat} {data : List Byte} {sig : Bool} (hh : inHbm pa = true)
    (hline : pa % 128 + data.length ≤ 128) (hlen : ∀ p ∈ u.pins, p.data.length = 128)
    (hpl : pl = if (u.pinOf (pa / 128)).isSome then .unit else .home) :
    u.StoredBy (u.performNow o pl pa data sig) pl pa data ∧ (u.performNow o pl pa data sig).me = u.me := by
  have copies (t : State) : SamePlaces t (if sig then (t.l1Store pa (data.map some)).signal pa else t.l1Store pa (data.map some)) := by
    split
    · exact (l1Store_samePlaces ..).trans (signal_samePlaces ..)
    · exact l1Store_samePlaces ..
  subst hpl
  cases hp : u.pinOf (pa / 128) with
  | none =>
    obtain ⟨hs, hme⟩ := performFrom_stored hh hline hp u.myTower true []
    exact ⟨hs.congr (copies _), (copies _).2.2.trans hme⟩
  | some p =>
    have hs := (standsPinned_samePlaces (u.putPin pa data) o.va o.cls pa).trans (copies _)
    exact ⟨(putPin_stored hline hp (hlen p (List.mem_of_find?_eq_some hp))).congr hs, hs.2.2⟩

end Sys2Proof.Machine
end

section
/-! PROOFS. RADV: one write of a ring's control block at its place (06 R97). -/

namespace Sys2Proof.Machine

/-! ## An atomic access of HBM at device scope -/

theorem hostAnswer_hbm {s : State} {pa : Nat} (hh : inHbm pa = true) (o : Opnd) : s.hostAnswer o pa = .ok () s := by
  obtain ⟨h, hh⟩ := inHbm_iff.mp hh
  exact if_neg (by simp [hh])

section
variable {s v u : State} {o : Opnd} {n pa : Nat} {pl : Place} {sig host : Bool} {f : List Byte → Option (List Byte)}

theorem inHbm_not_host (hh : inHbm pa = true) : homeOf pa ≠ some .host := by
  obtain ⟨h, hh⟩ := inHbm_iff.mp hh
  simp [hh]

/-- One that writes has stored its bytes at the place of its release. -/
theorem rmw_stores {new : List Byte} (hr : s.Released o n 0b10 pa pl v u) (hh : inHbm pa = true) (hbar : v.readBar pa true = none)
    (hbad : v.placeBad pa n = false) (hf : f ((upFrom pa n).map v.homeView) = some new) (hn : new.length = n) :
    ∃ t, s.rmw o n 0b10 sig host f = .ok ((upFrom pa n).map v.homeView) t ∧ u.StoredBy t pl pa new ∧ t.me = u.me := by
  obtain ⟨⟨ho, -, hline, s1, hc, hx⟩, hlen, hrel⟩ := hr
  have hpl := (releaseAt_device hrel).2
  obtain ⟨hs, hme⟩ := performNow_stored (o := o) (sig := sig) hh (by rw [hn]; exact hline) hlen hpl
  have hfirst : u.releaseFirst pl = u := by rw [hpl]; split <;> rfl
  have hac := acquire_samePlaces (u.performNow o pl pa new sig) 0b10
  refine ⟨_, ?_, hs.congr hac, hac.2.2.trans hme⟩
  rw [State.rmw, if_neg (Bool.eq_false_iff.mp ho), hc, bind_ok, hx, bind_ok, if_neg (fun h => inHbm_not_host hh h.1), hbar]
  dsimp only
  rw [if_neg (Bool.eq_false_iff.mp hbad), hf]
  dsimp only
  rw [hrel, bind_ok, hostAnswer_hbm hh, bind_ok, hfirst]

/-- One that does not write leaves what stands at every place. -/
theorem rmw_keeps (hr : s.Released o n 0b10 pa pl v u) (hh : inHbm pa = true) (hbar : v.readBar pa true = none)
    (hbad : v.placeBad pa n = false) (hf : f ((upFrom pa n).map v.homeView) = none) :
    ∃ t, s.rmw o n 0b10 sig host f = .ok ((upFrom pa n).map v.homeView) t ∧ SamePlaces u t := by
  obtain ⟨⟨ho, -, hline, s1, hc, hx⟩, hlen, hrel⟩ := hr
  have hdrop : SamePlaces (u.wakeHome pa) ((u.wakeHome pa).l1Drop u.myCore (pa / 128)) := ⟨rfl, rfl, rfl⟩
  refine ⟨_, ?_, ((wakeHome_samePlaces u pa).trans hdrop).trans (acquire_samePlaces _ 0b10)⟩
  rw [State.rmw, if_neg (Bool.eq_false_iff.mp ho), hc, bind_ok, hx, bind_ok, if_neg (fun h => inHbm_not_host hh h.1), hbar]
  dsimp only
  rw [if_neg (Bool.eq_false_iff.mp hbad), hf]
  dsimp only
  rw [(releaseAt_device hrel).1, bind_ok, hostAnswer_hbm hh, bind_ok]

end

/-! ## The control block -/

theorem putCounts_length {old : List Byte} (h : old.length = 16) (c : RingCounts) : (putCounts old c).length = 16 := by
  simp [putCounts, h]

/-- The bytes of an access as the slot's own program order has them. -/
theorem homeView_length (s : State) (pa n : Nat) : ((upFrom pa n).map s.homeView).length = n := by rw [List.length_map, upFrom_length]

/-- The block that RADV.H and RADV.T write for a count of `n`. -/
def headMoved (n : BitVec 32) (old : List Byte) : Option (List Byte) :=
  some (putCounts old { ringCounts old with head := (ringCounts old).head + n })
def tailMoved (n : BitVec 32) (old : List Byte) : Option (List Byte) :=
  if (ringCounts old).resv = (ringCounts old).tail then
    some (putCounts old { ringCounts old with tail := (ringCounts old).tail + n, resv := (ringCounts old).tail + n })
  else none

theorem opRadvH_within {s : State} {q : BitVec 4} {b : BitVec 6} (hr : (s.me.getQ q).role.getLsbD 0 = true)
    (hn : (s.getG b).toNat ≤ (s.me.getQ q).headSeen.toNat) :
    opRadvH q b s = (s.rmw (s.ctrlOpnd q) 16 0b10 true true (headMoved ((s.getG b).setWidth 32))).andThen fun _ t =>
      ((t.setQ q { s.me.getQ q with headSeen := (s.me.getQ q).headSeen - (s.getG b).setWidth 32 }).ringFreed).advance 4 :=
  if_neg (by rw [QReg.consumer, hr]; rintro (h | h); cases h; omega)

theorem opRadvT_within {s : State} {q : BitVec 4} {b : BitVec 6} (hr : (s.me.getQ q).role.getLsbD 1 = true)
    (hn : ((s.getG b).toNat : Int) ≤ max 0 (s.me.getQ q).tailSeen.toInt) :
    opRadvT q b s = (s.rmw (s.ctrlOpnd q) 16 0b10 true true (tailMoved ((s.getG b).setWidth 32))).andThen fun old t =>
      if (ringCounts old).resv = (ringCounts old).tail then
        (t.setQ q { s.me.getQ q with tailSeen := (s.me.getQ q).tailSeen - (s.getG b).setWidth 32 }).advance 4
      else t.ringMisuse q :=
  if_neg (by rw [QReg.producer, hr]; rintro (h | h); cases h; omega)

theorem setQ_stored {u t : State} {pl : Place} {pa : Nat} {data : List Byte} (q : BitVec 4) (h : QReg) (hs : u.StoredBy t pl pa data) :
    u.StoredBy (t.setQ q h) pl pa data := hs

end Sys2Proof.Machine

open Sys2Proof Sys2Proof.Machine

/-- Settles O26: RADV is one atomic access of the control block, which stores the counters moved, or leaves them where the reservation is ahead. -/
theorem ringAdvance : Obligations.RingAdvance := by
  unfold Obligations.RingAdvance
  intro s v u q b pa pl old
  dsimp only
  have hH : exec (.radvH q b) s = .next (opRadvH q b s) := rfl
  have hT : exec (.radvT q b) s = .next (opRadvT q b s) := rfl
  refine ⟨fun hr hn h => ?head, fun hr hn h hc => ?tail, fun hr hn h hc => ?ahead, fun hm => congrArg _ (if_pos hm), fun hm => congrArg _ (if_pos hm)⟩
  case head =>
    obtain ⟨hrel, hh, hbar, hbad, rfl⟩ := h
    obtain ⟨t, ht, hs, hme⟩ := rmw_stores (sig := true) (host := true) (f := headMoved ((s.getG b).setWidth 32)) hrel hh hbar hbad rfl
      (putCounts_length (homeView_length ..) _)
    have hfree := (ringFreed_raises (t.setQ q { s.me.getQ q with headSeen := (s.me.getQ q).headSeen - (s.getG b).setWidth 32 })).samePlaces
    refine ⟨_, ?_, hfree.2.2.trans (congrArg (Ctx.setQ · q _) hme), State.StoredBy.congr (setQ_stored q _ hs) hfree⟩
    rw [hH, opRadvH_within hr hn, ht, andThen_ok]
  case tail =>
    obtain ⟨hrel, hh, hbar, hbad, rfl⟩ := h
    obtain ⟨t, ht, hs, hme⟩ := rmw_stores (sig := true) (host := true) (f := tailMoved ((s.getG b).setWidth 32)) hrel hh hbar hbad (if_pos hc)
      (putCounts_length (homeView_length ..) _)
    refine ⟨_, ?_, congrArg (Ctx.setQ · q _) hme, setQ_stored q _ hs⟩
    rw [hT, opRadvT_within hr hn, ht, andThen_ok, if_pos hc]
  case ahead =>
    obtain ⟨hrel, hh, hbar, hbad, rfl⟩ := h
    obtain ⟨t, ht, hs⟩ := rmw_keeps (sig := true) (host := true) (f := tailMoved ((s.getG b).setWidth 32)) hrel hh hbar hbad (if_neg hc)
    refine ⟨t, ?_, hs.2.1, hs.2.2⟩
    rw [hT, opRadvT_within hr hn, ht, andThen_ok, if_neg hc]
    rfl
end

section
/-! PROOFS. Translation changes no task (09 R146-R149). -/

namespace Sys2Proof.Machine

theorem wakeHome_tasks (s : State) (pa : Nat) : SameTasks s (s.wakeHome pa) := by
  unfold State.wakeHome
  split
  · exact wakeRouter_tasks ..
  · exact .refl s

theorem mscAdd_tasks (s : State) (pline : Nat) : SameTasks s (s.mscAdd pline) := by
  obtain ⟨_, _, h⟩ := mscAdd_eq s pline
  rw [h]
  rfl

theorem fillL2_tasks (s : State) (e : TlbEntry) (va : Nat) : SameTasks s (s.fillL2 e va) := by
  unfold State.fillL2
  dsimp only
  split
  · exact SameTasks.trans (t := { s with l2 := _, free := _ }) rfl (mscAdd_tasks ..)
  · exact .refl s

theorem prefetch_tasks (s : State) (e : TlbEntry) (va : Nat) : SameTasks s (s.prefetch e va) := by
  have ahead (l : List Nat) (t : State) : SameTasks t (l.foldl (fun s l => s.fillL2 e (l * 128)) t) := .foldl (fun s _ => fillL2_tasks s e _) l t
  unfold State.prefetch
  dsimp only
  split
  · refine SameTasks.trans ?_ (ahead _ _)
    split <;> rfl
  · split <;> rfl

theorem setAD_tasks (s : State) (w : Nat) (l : Leaf) (write : Bool) : SameTasks s (s.setAD w l write) := by
  have keeps (e : Nat) : SameTasks s (if e = l.entry then s else s.performFrom w l.slot (leBytes 8 e) true) := by
    split
    · exact .refl s
    · exact performFrom_tasks ..
  exact keeps _

theorem walkSlice_tasks {s u : State} {w : Who} {h va : Nat} {cls : Bool} {acc : Acc} {e : TlbEntry}
    (hok : s.walkSlice w h va cls acc = .ok (e, u)) : SameTasks s u := by
  have walked (root : Nat) : SameTasks s (s.walkWake root va cls) := .foldl wakeHome_tasks _ s
  unfold State.walkSlice at hok
  dsimp only at hok
  split at hok
  · cases hok
  · split at hok
    · cases hok
    · cases hok
      exact ((walked _).trans (setAD_tasks ..)).trans rfl

/-- A translation that succeeds has moved caches and clocks only. -/
theorem translate_tasks {s u : State} {w : Who} {va pa : Nat} {cls : Bool} {acc : Acc} (hok : s.translate w va cls acc = .ok pa u) :
    SameTasks s u := by
  unfold State.translate at hok
  dsimp only at hok
  have hw : SameTasks s ((if w.core < 1028 then s.wakeCore w.core else s).wakeRouter w.tower (s.sliceOf w.tower va)) := by
    refine SameTasks.trans ?_ (wakeRouter_tasks ..)
    split
    · exact wakeRouter_tasks ..
    · exact .refl s
  generalize (if w.core < 1028 then s.wakeCore w.core else s).wakeRouter w.tower (s.sliceOf w.tower va) = v at hok hw
  split at hok
  · split at hok
    · cases hok; exact hw
    · cases hok
  · split at hok
    · cases hok
    · next e x hgot =>
      have hx : SameTasks v x := by
        split at hgot
        · cases hgot; exact .refl v
        · exact walkSlice_tasks hgot
      split at hok
      · cases hok
        exact ((hw.trans hx).trans (prefetch_tasks ..)).trans (fillL2_tasks ..)
      · cases hok

theorem xlate_tasks {s u : State} {o : Opnd} {va pa : Nat} {acc : Acc} (h : s.xlate o va acc = .ok pa u) : SameTasks s u :=
  translate_tasks (xlate_eq_ok.mp h)

theorem findParts_tasks {o : Opnd} {home : Bool} : ∀ {l : List (Nat × Nat)} {s u : State} {ps : List (Nat × Nat × ReadAt)},
    s.findParts o home l = .ok ps u → SameTasks s u
  | [], s, u, ps, h => by cases h; exact .refl s
  | (va, n) :: l, s, u, ps, h => by
    obtain ⟨x, t, hfirst, h⟩ := bind_eq_ok.mp h
    obtain ⟨rest, v, hrest, h⟩ := bind_eq_ok.mp h
    cases h
    refine SameTasks.trans ?_ (findParts_tasks hrest)
    split at hfirst
    · cases hfirst; exact .refl s
    · obtain ⟨pa, w, hx, h⟩ := bind_eq_ok.mp hfirst
      cases h
      exact xlate_tasks hx

end Sys2Proof.Machine
end

section
/-! PROOFS. MOVB: the read of a piece, its write, and the checks of both pointers (06 R91, R92; 12 R193, R194). -/

namespace Sys2Proof.Machine

/-! ## What a step does -/

section
variable {s : State} {ad sa : BitVec 4} {gn : BitVec 6}

theorem opMovb_complete (hne : ad ≠ sa) (hg : s.getG gn = 0) : opMovb ad sa gn s = s.advance 4 := by
  rw [opMovb, if_neg hne, if_pos hg]

/-- With no piece in flight it reads one. -/
theorem opMovb_first (hne : ad ≠ sa) (hg : s.getG gn ≠ 0) (hm : s.me.movb = []) :
    opMovb ad sa gn s = (s.movbRead ad sa 0 (min 32 (s.getG gn).toNat)).andThen fun _ t => t := by
  have hpos : 0 < (s.getG gn).toNat := Nat.pos_of_ne_zero (toNat_ne_zero hg)
  have hnext : s.movbNext gn = some (0, min 32 (s.getG gn).toNat) := by
    rw [State.movbNext, hm]
    exact if_pos ⟨by decide, hpos⟩
  rw [opMovb, if_neg hne, if_neg hg, hm, hnext]

/-- With pieces in flight and none to read it writes the oldest. -/
theorem opMovb_write {m : MovPiece} {rest : List MovPiece} (hne : ad ≠ sa) (hg : s.getG gn ≠ 0) (hm : s.me.movb = m :: rest)
    (hnext : s.movbNext gn = none) : opMovb ad sa gn s = s.movbWrite ad sa gn m := by
  rw [opMovb, if_neg hne, if_neg hg, hm, hnext]

/-- With both to do it reads, or else writes. -/
theorem opMovb_both {m : MovPiece} {rest : List MovPiece} {off k : Nat} (hne : ad ≠ sa) (hg : s.getG gn ≠ 0) (hm : s.me.movb = m :: rest)
    (hnext : s.movbNext gn = some (off, k)) :
    (∃ u, s.movbRead ad sa off k = .ok () u ∧ opMovb ad sa gn s = { u with free := u.free + 1 }) ∨
      (∃ t, s.movbRead ad sa off k = .done t ∧ t.me.run = .running ∧ t.me.got ≠ s.me.got ∧ opMovb ad sa gn s = t) ∨
      opMovb ad sa gn s = s.movbWrite ad sa gn m ∨ opMovb ad sa gn s = { s with free := s.free + 1 }.movbWrite ad sa gn m := by
  rw [opMovb, if_neg hne, if_neg hg, hm, hnext]
  dsimp only
  split
  · split
    · next u hu => exact .inl ⟨u, hu, rfl⟩
    · next t ht =>
      split
      · next h => exact .inr (.inl ⟨t, ht, h.1, h.2.1, rfl⟩)
      · exact .inr (.inr (.inl rfl))
  · exact .inr (.inr (.inr rfl))

/-! ## The write of a piece -/

/-- A piece of `n` bytes has moved in scratch: its bytes stand at the destination, and the registers count it. -/
def State.PieceMoved (s t : State) (ad sa : BitVec 4) (gn : BitVec 6) (n : Nat) (data : List Byte) : Prop :=
  let src := s.me.getA sa
  let dst := s.me.getA ad
  (∀ k < n, mget t.me.mem (dst.ptr.toNat + k) = data.getD k 0) ∧
    (∀ x, x < dst.ptr.toNat ∨ dst.ptr.toNat + n ≤ x → mget t.me.mem x = mget s.me.mem x) ∧
    t.me.getA sa = { src with ptr := src.ptr + BitVec.ofNat 56 n } ∧ t.me.getA ad = { dst with ptr := dst.ptr + BitVec.ofNat 56 n } ∧
    t.mem = s.mem ∧ (s.me.rep = none → t.getG gn = s.getG gn - BitVec.ofNat 64 n) ∧
    (s.me.rep = none → t.me.pc = if s.getG gn = BitVec.ofNat 64 n then s.me.pc + 4 else s.me.pc)

theorem Ctx.advance_keeps (c : Ctx) (len : Nat) : (c.advance len).mem = c.mem ∧ (c.advance len).a = c.a := by
  have setG_keeps (n : BitVec 6) (v : Word) : (c.setG n v).mem = c.mem ∧ (c.setG n v).a = c.a := by
    rw [Ctx.setG_eq]
    exact ⟨rfl, rfl⟩
  unfold Ctx.advance
  split
  · exact ⟨rfl, rfl⟩
  · dsimp only
    split <;> exact setG_keeps ..

/-- The registers after a piece of `n` bytes. -/
def Ctx.moved (c : Ctx) (ad sa : BitVec 4) (gn : BitVec 6) (n : Nat) : Ctx :=
  ((c.setA sa { c.getA sa with ptr := (c.getA sa).ptr + BitVec.ofNat 56 n }).setA ad
    { c.getA ad with ptr := (c.getA ad).ptr + BitVec.ofNat 56 n }).setG gn (c.getG gn - BitVec.ofNat 64 n)

theorem Ctx.moved_eq (c : Ctx) (ad sa : BitVec 4) (gn : BitVec 6) (n : Nat) :
    c.moved ad sa gn n = { c with a := (c.moved ad sa gn n).a, g := (c.moved ad sa gn n).g } := by
  unfold Ctx.moved
  rw [Ctx.setG_eq]
  rfl

theorem Ctx.getG_moved (c : Ctx) (ad sa : BitVec 4) {gn : BitVec 6} (n : Nat) (h : gn ≠ 0) :
    (c.moved ad sa gn n).getG gn = c.getG gn - BitVec.ofNat 64 n := Ctx.getG_setG _ _ h

theorem Ctx.getA_moved {c : Ctx} {ad sa : BitVec 4} (gn : BitVec 6) (n : Nat) (hne : ad ≠ sa) :
    (c.moved ad sa gn n).getA sa = { c.getA sa with ptr := (c.getA sa).ptr + BitVec.ofNat 56 n } ∧
      (c.moved ad sa gn n).getA ad = { c.getA ad with ptr := (c.getA ad).ptr + BitVec.ofNat 56 n } := by
  have setG_getA (x : Ctx) (v : Word) (r : BitVec 4) : (x.setG gn v).getA r = x.getA r := by rw [Ctx.setG_eq]; rfl
  unfold Ctx.moved
  rw [setG_getA, setG_getA, Ctx.getA_setA_ne _ _ hne.symm, Ctx.getA_setA, Ctx.getA_setA]
  exact ⟨rfl, rfl⟩

/-- A piece counted: the instruction completes with the last, and leaves the piece from those in flight otherwise. -/
theorem movbDone_eq (s : State) (ad sa : BitVec 4) (gn : BitVec 6) (n : Nat) : s.movbDone ad sa gn n =
    if s.getG gn = BitVec.ofNat 64 n then { s with me := (s.me.moved ad sa gn n).advance 4 }
    else { s with me := { s.me.moved ad sa gn n with movb := (s.me.moved ad sa gn n).movb.drop 1 } } := by
  unfold State.movbDone
  dsimp only
  by_cases h : s.getG gn = BitVec.ofNat 64 n
  · rw [if_pos h, if_pos (by rw [h]; exact BitVec.sub_self _)]
    rfl
  · rw [if_neg h, if_neg (mt sub_eq_zero.mp h)]
    rfl

/-- Of the rest of the context a piece counted leaves the memory, and alone the program counter too. -/
theorem movbDone_keeps (s : State) (ad sa : BitVec 4) (gn : BitVec 6) (n : Nat) :
    (s.movbDone ad sa gn n).mem = s.mem ∧ (s.movbDone ad sa gn n).me.mem = s.me.mem ∧
      (∀ r, (s.movbDone ad sa gn n).me.getA r = (s.me.moved ad sa gn n).getA r) ∧
      (s.me.rep = none → (∀ r, (s.movbDone ad sa gn n).getG r = (s.me.moved ad sa gn n).getG r) ∧
        (s.movbDone ad sa gn n).me.pc = if s.getG gn = BitVec.ofNat 64 n then s.me.pc + 4 else s.me.pc) := by
  have hmoved := s.me.moved_eq ad sa gn n
  rw [movbDone_eq]
  generalize s.me.moved ad sa gn n = c at hmoved
  have hmem : c.mem = s.me.mem := by rw [hmoved]
  have hpc : c.pc = s.me.pc := by rw [hmoved]
  have hrep : c.rep = s.me.rep := by rw [hmoved]
  by_cases hlast : s.getG gn = BitVec.ofNat 64 n
  · rw [if_pos hlast, if_pos hlast]
    refine ⟨rfl, (c.advance_keeps 4).1.trans hmem, fun r => ?_, fun h => ?_⟩
    · simp only [Ctx.getA, (c.advance_keeps 4).2]
    · rw [Ctx.advance_once (hrep.trans h), ← hpc]
      exact ⟨fun _ => rfl, rfl⟩
  · rw [if_neg hlast, if_neg hlast]
    exact ⟨rfl, hmem, fun _ => rfl, fun _ => ⟨fun _ => rfl, hpc⟩⟩

theorem movbDone_moved {s : State} {data : List Byte} (hne : ad ≠ sa) (hg : s.getG gn ≠ 0) :
    s.PieceMoved ((s.writeScratch (s.me.getA ad).ptr.toNat data).movbDone ad sa gn data.length) ad sa gn data.length data := by
  have hgn : gn ≠ 0 := fun h => hg (by rw [h]; exact Ctx.getG_zero _)
  obtain ⟨hm, hmem, hA, hrep⟩ := movbDone_keeps (s.writeScratch (s.me.getA ad).ptr.toNat data) ad sa gn data.length
  obtain ⟨hsrc, hdst⟩ := Ctx.getA_moved (c := (s.writeScratch (s.me.getA ad).ptr.toNat data).me) gn data.length hne
  refine ⟨fun k hk => ?_, fun x hx => ?_, (hA sa).trans hsrc, (hA ad).trans hdst, hm, fun h => ((hrep h).1 gn).trans (Ctx.getG_moved _ _ _ _ hgn),
    fun h => (hrep h).2⟩
  · rw [hmem, List.getD_eq_getElem _ _ hk]
    exact mget_msets_in _ _ _ _ hk
  · rw [hmem]
    exact mget_msets_out _ _ hx

/-- The write of a piece to scratch. -/
theorem movbWrite_scratch {s : State} {m : MovPiece} (hok : s.ScratchOk ad (s.me.getA ad).ptr.toNat m.data.length false true 0) :
    s.movbWrite ad sa gn m = (s.writeScratch (s.me.getA ad).ptr.toNat m.data).movbDone ad sa gn m.data.length := by
  have hc : s.check ad (s.ptr ad) m.data.length false true 0 = .ok ⟨true, (s.me.getA ad).ptr.toNat, (s.me.getA ad).cls, 0, ad.toNat, []⟩ s :=
    check_scratchOk hok
  rw [State.movbWrite, hc, andThen_ok]
  rfl

/-- A write whose translation is done and which the port lets leave. -/
theorem movbWrite_ready {s s1 s2 : State} {m : MovPiece} {o : Opnd} {ps : List (Nat × Nat × Nat)}
    (hc : s.check ad (s.ptr ad) m.data.length false true 0 = .ok o s1)
    (hsend : o.scratch = true ∨ (s1.core s1.myCore).portFree (s1.cycleAt s1.myCore) = true) (hw : s1.writeParts o m.data.length = .ok ps s2) :
    s.movbWrite ad sa gn m = (s2.writeNow o ps m.data false true).movbDone ad sa gn m.data.length := by
  have hfree : ¬ (!o.scratch && !(s1.core s1.myCore).portFree (s1.cycleAt s1.myCore)) = true := by
    obtain h | h := hsend <;> simp [h]
  rw [State.movbWrite, hc, andThen_ok, if_neg hfree, hw, andThen_ok]

/-- One that the port makes wait. -/
theorem movbWrite_waits {s s1 : State} {m : MovPiece} {o : Opnd} (hc : s.check ad (s.ptr ad) m.data.length false true 0 = .ok o s1)
    (ho : o.scratch = false) (hsend : ¬ (s1.core s1.myCore).portFree (s1.cycleAt s1.myCore) = true) : s.movbWrite ad sa gn m = s1 := by
  rw [State.movbWrite, hc, andThen_ok, if_pos (by simp [ho, hsend])]

theorem writeParts_scratch {s : State} {o : Opnd} {n : Nat} (ho : o.scratch = true) : s.writeParts o n = .ok [] s := if_pos ho

theorem movbWrite_untranslated {s t : State} {m : MovPiece} {o : Opnd} (hc : s.check ad (s.ptr ad) m.data.length false true 0 = .ok o s)
    (ho : o.scratch = false) (hsend : (s.core s.myCore).portFree (s.cycleAt s.myCore) = true) (hn : 0 < m.data.length)
    (hx : s.xlate o o.va .write = .done t) : s.movbWrite ad sa gn m = t := by
  rw [State.movbWrite, hc, andThen_ok, if_neg (by simp [hsend]), writeParts_done ho hn hx, andThen_done]

/-! ## The read of a piece -/

/-- What a piece read still has to pass, the checks of its destination, before it is in flight. -/
def State.movbLand (s : State) (ad : BitVec 4) (n : Nat) (bs : List Byte) : Res Unit :=
  (s.check ad (s.ptr ad) n false true 0).bind fun dst s =>
    (s.writeParts dst n).bind fun ps s =>
      .ok () { s with me := { s.me with
        paid := false, got := [], movb := s.me.movb ++ [⟨dst.scratch, if dst.scratch then [(dst.va, n)] else ps.map (·.2), bs⟩] } }

theorem movbRead_first (s : State) (ad sa : BitVec 4) (n : Nat) :
    s.movbRead ad sa 0 n = (s.check sa (s.ptr sa) n true false 0).bind fun src t => (t.charge (t.pieceCost ad sa)).bind fun _ u =>
      (u.movbSource src n).bind fun bs v => v.movbLand ad n bs := by
  have hptr (t : State) (r : BitVec 4) : t.ptr r + ((0 : Nat) : Int) = t.ptr r := Int.add_zero _
  simp only [State.movbRead, State.movbLand, hptr]

/-- The source, once its checks and its charge have passed. -/
theorem movbRead_charged {s s1 : State} {o : Opnd} {n : Nat} (hc : s.check sa (s.ptr sa) n true false 0 = .ok o s)
    (hcharge : s.charge (s.pieceCost ad sa) = .ok () s1) :
    s.movbRead ad sa 0 n = (s1.movbSource o n).bind fun bs v => v.movbLand ad n bs := by
  rw [movbRead_first, hc, bind_ok, hcharge, bind_ok]

theorem charge_movb {s v : State} {cost : Nat} (h : s.charge cost = .ok () v) : v.me.movb = s.me.movb ∧ v.me.poison = s.me.poison := by
  obtain rfl | ⟨_, rfl, _⟩ := charge_eq_ok h <;> exact ⟨rfl, rfl⟩

theorem movbSource_scratch {s : State} {o : Opnd} {n : Nat} (ho : o.scratch = true) (hm : s.me.movb = []) : s.movbSource o n = s.readScratch o n := by
  rw [State.movbSource, if_pos ho, hm]
  rfl

theorem movbSource_untranslated {s t : State} {o : Opnd} {n : Nat} (ho : o.scratch = false) (hn : 0 < n)
    (hl : s.l1Find s.me.asid (o.va / 128) false = none) (hx : s.xlate o o.va .read = .done t) : s.movbSource o n = .done t := by
  obtain ⟨k, l, hp⟩ := piecesOf_cons o.va hn
  rw [State.movbSource, if_neg (Bool.eq_false_iff.mp ho), hp, findParts_done l hl hx, bind_done]

theorem movbSource_poison {s t : State} {o : Opnd} {n : Nat} {ps : List (Nat × Nat × ReadAt)} (ho : o.scratch = false) (hm : s.me.movb = [])
    (hf : s.findParts o false (piecesOf o.va n) = .ok ps t) (hg : t.me.got = []) (hb : ∀ p ∈ ps, t.partBar false p = none)
    (hp : ∃ p ∈ ps, t.partPoison o false p = true) : s.movbSource o n = .done (t.poisonTrap o.va) := by
  have hmt : t.me.movb = [] := by rw [(findParts_tasks hf).me, hm]
  rw [State.movbSource, if_neg (Bool.eq_false_iff.mp ho), hf, bind_ok, hmt]
  exact readPiecewise_poison hg hb hp

theorem movbLand_untranslated {s t : State} {o : Opnd} {n : Nat} {bs : List Byte} (hc : s.check ad (s.ptr ad) n false true 0 = .ok o s)
    (ho : o.scratch = false) (hn : 0 < n) (hx : s.xlate o o.va .write = .done t) : s.movbLand ad n bs = .done t := by
  rw [State.movbLand, hc, bind_ok, writeParts_done ho hn hx, bind_done]

/-- The first read of an instruction whose source passes its checks goes on from its charge. -/
theorem opMovb_source {s s1 : State} {n : Nat} (hne : ad ≠ sa) (hg : s.getG gn ≠ 0) (hm : s.me.movb = []) (hn : n = min 32 (s.getG gn).toNat)
    (hp : (s.movbFrom ad sa gn n).Passes) (habs : (s.movbFrom ad sa gn n).opnd.scratch = true → s.me.absentIn (s.movbFrom ad sa gn n).opnd.va n = [])
    (hcharge : s.charge (s.pieceCost ad sa) = .ok () s1) : opMovb ad sa gn s =
      (s1.movbSource (s.movbFrom ad sa gn n).opnd n).andThen fun bs v => (v.movbLand ad n bs).andThen fun _ t => t := by
  have hc : s.check sa (s.ptr sa) n true false 0 = .ok (s.movbFrom ad sa gn n).opnd s := hp.check_present habs
  rw [opMovb_first hne hg hm, ← hn, movbRead_charged hc hcharge, bind_andThen]

/-- A piece in scratch on both sides is read at once. -/
theorem movbRead_scratch {s : State} {n : Nat} (hm : s.me.movb = []) (hsrc : s.ScratchOk sa (s.me.getA sa).ptr.toNat n true false 0)
    (hdst : s.ScratchOk ad (s.me.getA ad).ptr.toNat n false true 0) (hclean : s.ScratchClean (s.me.getA sa).ptr.toNat n) :
    s.movbRead ad sa 0 n = .ok () { s with me := { s.me with
      paid := false, got := [], movb := [⟨true, [((s.me.getA ad).ptr.toNat, n)], mgets s.me.mem (s.me.getA sa).ptr.toNat n⟩] } } := by
  have hcost : s.charge (s.pieceCost ad sa) = .ok () s := by
    rw [State.pieceCost, if_pos hsrc.1, if_pos hdst.1]
    exact charge_zero s
  have hland : s.check ad (s.ptr ad) n false true 0 = .ok ⟨true, (s.me.getA ad).ptr.toNat, (s.me.getA ad).cls, 0, ad.toNat, []⟩ s :=
    check_scratchOk hdst
  rw [movbRead_charged (check_scratchOk hsrc) hcost, movbSource_scratch rfl hm, readScratch_of_clean hclean, bind_ok, State.movbLand, hland, bind_ok,
    writeParts_scratch rfl, bind_ok, hm]
  rfl

end
end Sys2Proof.Machine

open Sys2Proof Sys2Proof.Machine

/-- Settles O13: each step is a read or a write of a piece, whose checks, translation and poison are those of `movbRead` and `movbWrite`. -/
theorem blockMove : Obligations.BlockMove := by
  unfold Obligations.BlockMove
  intro s s1 s2 ad sa gn n m rest parts bs
  dsimp only
  intro hne
  have run : exec (.movb ad sa gn) s = .next (opMovb ad sa gn s) := rfl
  rw [run]
  have first (hg : s.getG gn ≠ 0) (hm : s.me.movb = []) (hk : n = min 32 (s.getG gn).toNat) :
      opMovb ad sa gn s = (s.movbRead ad sa 0 n).andThen fun _ t => t := hk ▸ opMovb_first hne hg hm
  refine ⟨fun hg => congrArg _ (opMovb_complete hne hg), fun hg hm hk => ⟨fun hsrc hdst hclean => ?inScratch, fun u hu => ?read⟩,
    fun hg hm hlen => ?inFlight, fun hg hm hk => ⟨?sourceChecks, fun hp habs hcharge => ?source⟩⟩
  case inScratch => rw [first hg hm hk, movbRead_scratch hm hsrc hdst hclean, andThen_ok]
  case read => rw [first hg hm hk]; obtain h | h := hu <;> rw [h] <;> rfl
  case inFlight =>
    subst hlen
    have write (hnext : s.movbNext gn = none) {t : State} (ht : s.movbWrite ad sa gn m = t) : (.next (opMovb ad sa gn s) : Out) = .next t :=
      congrArg _ ((opMovb_write hne hg hm hnext).trans ht)
    refine ⟨fun hok => ⟨fun hnext => ⟨_, write hnext (movbWrite_scratch hok), movbDone_moved hne hg⟩, fun off k hnext => ?both⟩,
      fun o t ps u hnext hc hsend hw => write hnext (movbWrite_ready hc hsend hw),
      fun o t hnext hc ho hsend => write hnext (movbWrite_waits hc ho hsend),
      fun hnext => ⟨AccessForm.refused_of_check _ (write hnext rfl), fun hp ho hsend hpos => hp.1.untranslated fun t hx => write hnext ?_⟩⟩
    case both =>
      obtain ⟨u, hu, h⟩ | ⟨t, ht, hr, hgot, h⟩ | h | h := opMovb_both hne hg hm hnext
      · exact ⟨_, congrArg _ h, .inr (.inl ⟨u, hu, rfl⟩)⟩
      · exact ⟨t, congrArg _ h, .inr (.inr ⟨ht, hr, hgot⟩)⟩
      · exact ⟨_, congrArg _ (h.trans (movbWrite_scratch hok)), .inl (movbDone_moved hne hg)⟩
      · exact ⟨_, congrArg _ (h.trans (movbWrite_scratch (s := { s with free := s.free + 1 }) hok)),
          .inl (movbDone_moved (s := { s with free := s.free + 1 }) hne hg)⟩
    exact movbWrite_untranslated (hp.check_present fun h => absurd h (Bool.eq_false_iff.mp ho)) ho hsend hpos hx
  case sourceChecks =>
    have reads := first hg hm hk
    rw [movbRead_first, bind_andThen] at reads
    exact AccessForm.refused_of_check _ (congrArg _ reads)
  case source =>
    have hn : 0 < n := by
      have := toNat_ne_zero hg
      omega
    have hm1 : s1.me.movb = [] := (charge_movb hcharge).1.trans hm
    have goes := opMovb_source hne hg hm hk hp habs hcharge
    have ends {t : State} (ht : s1.movbSource (s.movbFrom ad sa gn n).opnd n = .done t) : (.next (opMovb ad sa gn s) : Out) = .next t := by
      rw [goes, ht, andThen_done]
    refine ⟨fun ho hbad => ends ?scratchPoison, fun ho hl => hp.1.untranslated fun t hx => ends (movbSource_untranslated ho hn hl hx),
      fun ho hf hgot hb hbad => ends (movbSource_poison ho hm1 hf hgot hb hbad), fun hsource => ?landing⟩
    case scratchPoison =>
      obtain ⟨i, hi, hbad⟩ := hbad
      rw [movbSource_scratch ho hm1]
      exact readScratch_poison ⟨i, hi, rfl, (charge_movb hcharge).2 ▸ hbad⟩
    case landing =>
      have lands : opMovb ad sa gn s = (s2.movbLand ad n bs).andThen fun _ t => t := by rw [goes, hsource, andThen_ok]
      refine ⟨AccessForm.refused_of_check _ (congrArg _ (lands.trans (bind_andThen ..))), fun hp' ho' => hp'.1.untranslated fun t hx => ?_⟩
      have hc : s2.check ad (s2.ptr ad) n false true 0 = .ok (s2.movbInto ad sa gn n).opnd s2 :=
        hp'.check_present fun h => absurd h (Bool.eq_false_iff.mp ho')
      rw [lands, movbLand_untranslated hc ho' hn hx, andThen_done]
end

section
/-! PROOFS. Lanes of a vector register (08 R123-R125): reading a lane of a register that was joined from lanes, and the lane operations under a
mask. -/

namespace Sys2Proof.Machine

/-! ## Lanes (R123) -/

theorem fmtWidth_pos (f : Fmt) : 0 < f.width := by cases f <;> decide
theorem lanesOf_pos (f : Fmt) : 0 < lanesOf f := by cases f <;> decide
theorem lanesOf_le (f : Fmt) : lanesOf f ≤ 128 := by cases f <;> decide

/-- The lanes fill the register. -/
theorem lanesOf_mul_width (f : Fmt) : lanesOf f * f.width = 1024 := by cases f <;> rfl

theorem lane_end_le {f : Fmt} {i : Nat} (h : i < lanesOf f) : i * f.width + f.width ≤ 1024 := by
  rw [← lanesOf_mul_width f, ← Nat.succ_mul]
  exact Nat.mul_le_mul_right _ h

theorem laneGet_lt (f : Fmt) (v : VWord) (i : Nat) : laneGet f v i < 2 ^ f.width := BitVec.isLt _

@[simp] theorem laneGet_mod (f : Fmt) (v : VWord) (i : Nat) : laneGet f v i % 2 ^ f.width = laneGet f v i := Nat.mod_eq_of_lt (laneGet_lt f v i)

/-- A digit of the number that lanes are joined to. -/
theorem digit_joined (w : Nat) : ∀ (l : List Nat) (i : Nat),
    l.foldr (fun x acc => x % 2 ^ w + 2 ^ w * acc) 0 / 2 ^ (i * w) % 2 ^ w = l.getD i 0 % 2 ^ w
  | [], i => by simp
  | x :: t, 0 => by simp
  | x :: t, i + 1 => by
    have hlow : x % 2 ^ w / 2 ^ w = 0 := Nat.div_eq_of_lt (Nat.mod_lt _ (Nat.two_pow_pos w))
    rw [List.foldr_cons, Nat.succ_mul, Nat.add_comm (i * w), Nat.pow_add, ← Nat.div_div_eq_div_mul, Nat.add_mul_div_left _ _ (Nat.two_pow_pos w),
      hlow, Nat.zero_add, digit_joined w t i]
    rfl

/-- Bits of a number that lie within a register. -/
theorem extract_ofNat_toNat {n x : Nat} {start len : Nat} (h : start + len ≤ n) :
    ((BitVec.ofNat n x).extractLsb' start len).toNat = x / 2 ^ start % 2 ^ len := by
  have hn : 2 ^ n = 2 ^ start * 2 ^ (n - start) := by rw [← Nat.pow_add, Nat.add_sub_cancel' (by omega)]
  rw [BitVec.extractLsb'_toNat, BitVec.toNat_ofNat, Nat.shiftRight_eq_div_pow, hn, Nat.mod_mul_right_div_self,
    Nat.mod_mod_of_dvd _ (Nat.pow_dvd_pow 2 (by omega))]

theorem laneGet_laneJoin {f : Fmt} {i : Nat} (l : List Nat) (h : i < lanesOf f) : laneGet f (laneJoin f l) i = l.getD i 0 % 2 ^ f.width := by
  rw [laneGet, laneJoin, extract_ofNat_toNat (lane_end_le h), digit_joined]

/-! ## Under a mask (R124) -/

theorem getD_map_range {α : Type} {n i : Nat} (g : Nat → α) (d : α) (h : i < n) : ((List.range n).map g).getD i d = g i := by
  simp [h]

theorem lanesAre_laneWrite (f : Fmt) (m : KWord) (old : VWord) (g : Nat → Nat) : LanesAre f m old (laneWrite f m old g) g := by
  intro i hi
  rw [laneWrite, laneGet_laneJoin _ hi, getD_map_range _ _ hi]
  by_cases h : m.getLsbD i = true
  · rw [if_pos h, if_pos (show active m i = true from h)]
  · rw [if_neg h, if_neg (show ¬ active m i = true from h), laneGet_mod]

/-- Lanes are named by any function that has the same value in each. -/
theorem LanesAre.congr {f : Fmt} {m : KWord} {old new : VWord} {g g' : Nat → Nat} (h : LanesAre f m old new g)
    (hg : ∀ i < lanesOf f, g i % 2 ^ f.width = g' i % 2 ^ f.width) : LanesAre f m old new g' := fun i hi => by
  rw [h i hi, hg i hi]

theorem LanesAre.active {f : Fmt} {m : KWord} {old new : VWord} {g : Nat → Nat} (h : LanesAre f m old new g) {i : Nat} (hi : i < lanesOf f)
    (hm : m.getLsbD i = true) : laneGet f new i = g i % 2 ^ f.width := by rw [h i hi, if_pos hm]

theorem LanesAre.inactive {f : Fmt} {m : KWord} {old new : VWord} {g : Nat → Nat} (h : LanesAre f m old new g) {i : Nat} (hi : i < lanesOf f)
    (hm : m.getLsbD i = false) : laneGet f new i = laneGet f old i := by rw [h i hi, hm]; rfl

/-! ## Forms over owned registers (R125) -/

theorem vCheck_allOwned {s : State} {l : List (BitVec 5)} (h : ∀ r ∈ l, s.me.ownsV r = true) (f : State → State) : s.vCheck l f = f s :=
  if_pos (List.all_eq_true.mpr h)

/-- A form over vector registers gives `d` the lanes `g i` where the mask has them, and nothing else changes. -/
def State.GivesLanes (s : State) (f : Fmt) (d : BitVec 5) (k : BitVec 3) (g : Nat → Nat) (run : Out) : Prop :=
  ∃ w : VWord, run = .next ((s.setV d w).advance 4) ∧ LanesAre f (s.me.getK k) (s.me.getV d) w g

theorem State.GivesLanes.congr {s : State} {f : Fmt} {d : BitVec 5} {k : BitVec 3} {g g' : Nat → Nat} {run : Out} (h : s.GivesLanes f d k g run)
    (hg : ∀ i < lanesOf f, g i % 2 ^ f.width = g' i % 2 ^ f.width) : s.GivesLanes f d k g' run :=
  let ⟨w, hw, hl⟩ := h
  ⟨w, hw, hl.congr hg⟩

section
variable {s : State} {d a b : BitVec 5}

theorem opLanes_gives (f : Fmt) (op : Nat → Nat → Nat → Nat) (k : BitVec 3) (h : ∀ r ∈ [d, a, b], s.me.ownsV r = true) :
    s.GivesLanes f d k (fun i => op (laneGet f (s.me.getV a) i) (laneGet f (s.me.getV b) i) (laneGet f (s.me.getV d) i))
      (.next (opLanes f op d a b k s)) :=
  ⟨_, congrArg _ (vCheck_allOwned h _), lanesAre_laneWrite _ _ _ _⟩

theorem opLane1_gives (f : Fmt) (op : Nat → Nat) (k : BitVec 3) (h : ∀ r ∈ [d, a], s.me.ownsV r = true) :
    s.GivesLanes f d k (fun i => op (laneGet f (s.me.getV a) i)) (.next (opLane1 f op d a k s)) :=
  ⟨_, congrArg _ (vCheck_allOwned h _), lanesAre_laneWrite _ _ _ _⟩

end

end Sys2Proof.Machine
end

section
/-! PROOFS. Lane arithmetic (08 R130, R131, R139): sums, products, logic and shifts, minima and signs, the fused forms. -/

namespace Sys2Proof.Machine

/-! ## Integer lanes -/

/-- The integer of a lane: unsigned in UINT8, signed in the other formats. -/
theorem intVal_lane {f : Fmt} {x : Nat} (h : x < 2 ^ f.width) : intVal f x = if f = .uint8 then (x : Int) else (BitVec.ofNat f.width x).toInt := by
  cases f
  case uint8 => exact congrArg Int.ofNat (Nat.mod_eq_of_lt h)
  all_goals rfl

theorem intVal_laneGet (f : Fmt) (v : VWord) (i : Nat) :
    intVal f (laneGet f v i) = if f = .uint8 then (laneGet f v i : Int) else (BitVec.ofNat f.width (laneGet f v i)).toInt :=
  intVal_lane (laneGet_lt f v i)

section
variable {f : Fmt} (fv : Val → Val → Val) (fi : Int → Int → Int) (a b : Nat)

theorem laneBin_float (h : f.isFloat = true) : laneBin f fv fi a b = f.rne (fv (f.decode a) (f.decode b)) := if_pos h
theorem laneBin_int (h : f.isFloat = false) : laneBin f fv fi a b = wrap f (fi (intVal f a) (intVal f b)) := if_neg (Bool.eq_false_iff.mp h)
theorem laneMin_int (h : f.isFloat = false) : laneMin f a b = if intVal f a ≤ intVal f b then a else b := if_neg (Bool.eq_false_iff.mp h)
theorem laneMax_int (h : f.isFloat = false) : laneMax f a b = if intVal f a ≤ intVal f b then b else a := if_neg (Bool.eq_false_iff.mp h)

end

/-! ## Minima and signs (R130) -/

theorem isNan_iff {v : Val} : isNan v = true ↔ v = .nan := beq_iff_eq

section
variable {f : Fmt} {a b : Nat} (hf : f.isFloat = true)
include hf

theorem laneMin_nan (h : f.decode a = .nan ∨ f.decode b = .nan) : laneMin f a b = f.canonNan := by simp [laneMin, hf, isNan_iff, h]
theorem laneMax_nan (h : f.decode a = .nan ∨ f.decode b = .nan) : laneMax f a b = f.canonNan := by simp [laneMax, hf, isNan_iff, h]

theorem laneMin_num (ha : f.decode a ≠ .nan) (hb : f.decode b ≠ .nan) : laneMin f a b = if belowZ (f.decode a) (f.decode b) then a else b := by
  simp [laneMin, hf, isNan_iff, ha, hb]
theorem laneMax_num (ha : f.decode a ≠ .nan) (hb : f.decode b ≠ .nan) : laneMax f a b = if belowZ (f.decode a) (f.decode b) then b else a := by
  simp [laneMax, hf, isNan_iff, ha, hb]

theorem laneAbs_nan (h : f.decode a = .nan) : laneAbs f a = f.canonNan := by simp [laneAbs, hf, isNan_iff, h]
theorem laneNeg_nan (h : f.decode a = .nan) : laneNeg f a = f.canonNan := by simp [laneNeg, hf, isNan_iff, h]
theorem laneAbs_num (h : f.decode a ≠ .nan) : laneAbs f a = a % signBit f := by simp [laneAbs, hf, isNan_iff, h]

end

theorem canonNan_mod (f : Fmt) : f.canonNan % 2 ^ f.width = f.canonNan := by cases f <;> decide

theorem belowZ_eq (p q : Val) : belowZ p q = (p.cmp q == .lt || (p.cmp q == .eq && p.isNegZero && !q.isNegZero)) := by
  unfold belowZ
  cases p.cmp q <;> rfl

/-- The top bit inverted. -/
theorem xor_top {w a : Nat} (hw : 0 < w) (h : a < 2 ^ w) : a ^^^ 2 ^ (w - 1) = (a + 2 ^ (w - 1)) % 2 ^ w := by
  obtain ⟨n, rfl⟩ := Nat.exists_eq_add_one.mpr hw
  have disjoint {b : Nat} (hb : b < 2 ^ n) : b ^^^ 2 ^ n = b + 2 ^ n := by
    rw [Nat.add_comm, ← Nat.mul_one (2 ^ n), Nat.two_pow_add_eq_or_of_lt hb, Nat.mul_one]
    refine Nat.eq_of_testBit_eq fun i => ?_
    by_cases hi : n = i
    · subst hi
      simp [Nat.testBit_lt_two_pow hb]
    · simp [hi]
  have hpow : 2 ^ (n + 1) = 2 ^ n + 2 ^ n := by omega
  rw [Nat.add_sub_cancel, hpow]
  by_cases ha : a < 2 ^ n
  · rw [disjoint ha, Nat.mod_eq_of_lt (by omega)]
  · obtain ⟨b, rfl⟩ := Nat.exists_eq_add_of_le' (Nat.le_of_not_lt ha)
    have hb : b < 2 ^ n := by omega
    rw [← disjoint hb, Nat.xor_xor_cancel_right, disjoint hb, Nat.add_assoc, Nat.add_mod_right, Nat.mod_eq_of_lt (by omega)]

theorem laneNeg_num {f : Fmt} {a : Nat} (hf : f.isFloat = true) (h : f.decode a ≠ .nan) (ha : a < 2 ^ f.width) :
    laneNeg f a = (a + 2 ^ (f.width - 1)) % 2 ^ f.width := by
  rw [← xor_top (fmtWidth_pos f) ha]
  simp [laneNeg, hf, isNan_iff, h, signBit]

theorem intVal_modEq {f : Fmt} {a : Nat} (ha : a < 2 ^ f.width) : intVal f a ≡ a [ZMOD 2 ^ f.width] := by
  rw [intVal_lane ha]
  split
  · rfl
  · rw [Int.ModEq, BitVec.toInt_eq_toNat_bmod, BitVec.toNat_ofNat, Nat.mod_eq_of_lt ha]
    exact_mod_cast Int.bmod_emod

theorem laneNeg_int {f : Fmt} {a : Nat} (hf : f.isFloat = false) (ha : a < 2 ^ f.width) : laneNeg f a = (2 ^ f.width - a) % 2 ^ f.width := by
  have h : -intVal f a ≡ ((2 ^ f.width - a : Nat) : Int) [ZMOD 2 ^ f.width] := by
    refine (intVal_modEq ha).neg.trans ?_
    rw [Nat.cast_sub ha.le]
    simp [Int.ModEq]
  rw [laneNeg, if_neg (Bool.eq_false_iff.mp hf), wrap, h]
  exact_mod_cast Int.toNat_natCast _

theorem natAbs_intVal_lt (f : Fmt) {a : Nat} (ha : a < 2 ^ f.width) : (intVal f a).natAbs < 2 ^ f.width := by
  rw [intVal_lane ha]
  split
  · exact ha
  · have hlo := BitVec.le_two_mul_toInt (x := BitVec.ofNat f.width a)
    have hhi := BitVec.two_mul_toInt_lt (x := BitVec.ofNat f.width a)
    have := Nat.two_pow_pos f.width
    zify
    rw [abs_lt]
    constructor <;> omega

theorem laneAbs_int {f : Fmt} {a : Nat} (hf : f.isFloat = false) (ha : a < 2 ^ f.width) : laneAbs f a = (intVal f a).natAbs := by
  rw [laneAbs, if_neg (Bool.eq_false_iff.mp hf), wrap]
  exact_mod_cast (Int.toNat_natCast _).trans (Nat.mod_eq_of_lt (natAbs_intVal_lt f ha))

end Sys2Proof.Machine

open Sys2Proof Sys2Proof.Machine

/-- Settles O27: each form is `opLanes` of its own lane function, exact and rounded once in a floating format, wrapped in an integer one. -/
theorem vectorArithmetic : Obligations.VectorArithmetic := by
  unfold Obligations.VectorArithmetic
  intro s f d a b k ho x y int wrap ops
  have gives (op : Nat → Nat → Nat → Nat) := opLanes_gives f op k ho
  have hx (i : Nat) : intVal f (x i) = int (x i) := intVal_laneGet f _ i
  have hy (i : Nat) : intVal f (y i) = int (y i) := intVal_laneGet f _ i
  refine List.forall_mem_append.mpr ⟨?logic, ?arith⟩
  case logic =>
    simp only [List.forall_mem_cons]
    exact ⟨gives _, gives _, gives _, (gives _).congr fun i _ => Nat.mod_mod _ _, gives _, gives _, fun _ h => nomatch h⟩
  case arith =>
    split
    case isTrue hf =>
      have bin (fv fi) : s.GivesLanes f d k (fun i => f.rne (fv (f.decode (x i)) (f.decode (y i))))
          (.next (opLanes f (fun a b _ => laneBin f fv fi a b) d a b k s)) :=
        (gives _).congr fun i _ => congrArg (· % _) (laneBin_float _ _ _ _ hf)
      simp only [List.forall_mem_cons]
      exact ⟨bin _ _, bin _ _, bin _ _, fun _ h => nomatch h⟩
    case isFalse hf =>
      have hf : f.isFloat = false := Bool.eq_false_iff.mpr hf
      have bin (fv fi) : s.GivesLanes f d k (fun i => wrap (fi (int (x i)) (int (y i))))
          (.next (opLanes f (fun a b _ => laneBin f fv fi a b) d a b k s)) :=
        (gives _).congr fun i _ => by rw [laneBin_int _ _ _ _ hf, hx, hy]; rfl
      simp only [List.forall_mem_cons]
      exact ⟨bin _ _, bin _ _, bin _ _, (gives _).congr fun i _ => by rw [laneMin_int _ _ hf, hx, hy],
        (gives _).congr fun i _ => by rw [laneMax_int _ _ hf, hx, hy], fun _ h => nomatch h⟩

/-- Settles O28: the lanes are those of `laneMin`, `laneMax`, `laneAbs` and `laneNeg`, whose values the lemmas on them give. -/
theorem vectorMinMaxSign : Obligations.VectorMinMaxSign := by
  unfold Obligations.VectorMinMaxSign
  intro s f d a b k ho x y below nan top
  have hda : ∀ r ∈ [d, a], s.me.ownsV r = true := fun r hr => ho r (List.mem_append_left [b] hr)
  obtain ⟨mn, hmn, lmn⟩ := opLanes_gives f (fun a b _ => laneMin f a b) k ho
  obtain ⟨mx, hmx, lmx⟩ := opLanes_gives f (fun a b _ => laneMax f a b) k ho
  obtain ⟨ab, hab, lab⟩ := opLane1_gives f (laneAbs f) k hda
  obtain ⟨ng, hng, lng⟩ := opLane1_gives f (laneNeg f) k hda
  have hx (i : Nat) : x i < 2 ^ f.width := laneGet_lt ..
  have hxm (i : Nat) : x i % 2 ^ f.width = x i := laneGet_mod ..
  have hym (i : Nat) : y i % 2 ^ f.width = y i := laneGet_mod ..
  refine ⟨mn, mx, ab, ng, hmn, hmx, hab, hng, fun i hi hm => ?active, fun i hi hm => ?inactive⟩
  case inactive =>
    simp only [List.forall_mem_cons]
    exact ⟨lmn.inactive hi hm, lmx.inactive hi hm, lab.inactive hi hm, lng.inactive hi hm, fun _ h => nomatch h⟩
  case active =>
    rw [lmn.active hi hm, lmx.active hi hm, lab.active hi hm, lng.active hi hm]
    refine ⟨fun hf => ⟨fun h => ?nan, fun hnx hny => ?num, fun h => ?nanSign, fun h => ?numSign⟩, fun hf => ?int⟩
    case nan => rw [laneMin_nan hf h, laneMax_nan hf h, canonNan_mod]; exact ⟨rfl, rfl⟩
    case num =>
      rw [laneMin_num hf hnx hny, laneMax_num hf hnx hny, belowZ_eq]
      exact ⟨(apply_ite (· % _) ..).trans (by rw [hxm, hym]), (apply_ite (· % _) ..).trans (by rw [hxm, hym])⟩
    case nanSign => rw [laneAbs_nan hf h, laneNeg_nan hf h, canonNan_mod]; exact ⟨rfl, rfl⟩
    case numSign =>
      rw [laneAbs_num hf h, laneNeg_num hf h (hx i)]
      exact ⟨Nat.mod_eq_of_lt (Nat.lt_of_le_of_lt (Nat.mod_le ..) (hx i)), Nat.mod_mod ..⟩
    case int =>
      rw [laneNeg_int hf (hx i), Nat.mod_mod, laneAbs_int hf (hx i), Nat.mod_eq_of_lt (natAbs_intVal_lt f (hx i)), intVal_lane (hx i)]
      exact ⟨apply_ite Int.natAbs .., rfl⟩

/-- Settles O29: each form is `opLanes` of `laneFma`, with its signs. -/
theorem vectorFused : Obligations.VectorFused := by
  unfold Obligations.VectorFused
  intro s f d a b k ho p c ops
  have gives (negP negC : Bool) := opLanes_gives f (laneFma f negP negC) k ho
  simp only [ops, List.forall_mem_cons]
  exact ⟨gives false false, gives false true, gives true false, fun _ h => nomatch h⟩
end

section
/-! PROOFS. Masks (08 R132, R135, R138): comparisons of lanes, mask logic, and single lanes and halves of masks in general registers. -/

namespace Sys2Proof.Machine

/-! ## Comparisons (R132) -/

theorem testBit_bits : ∀ (l : List Bool) (i : Nat), (l.foldr (fun b acc => boolNat b + 2 * acc) 0).testBit i = l.getD i false
  | [], i => by simp
  | b :: t, 0 => by cases b <;> simp [boolNat]
  | b :: t, i + 1 => by
    have h : (boolNat b + 2 * t.foldr (fun b acc => boolNat b + 2 * acc) 0) / 2 = t.foldr (fun b acc => boolNat b + 2 * acc) 0 := by
      have hb : boolNat b < 2 := by cases b <;> decide
      omega
    rw [List.foldr_cons, Nat.testBit_succ, h, testBit_bits t i]
    rfl

theorem getLsbD_maskOf (f : Nat → Bool) {i : Nat} (h : i < 128) : (maskOf f).getLsbD i = f i := by
  have hbits := testBit_bits ((List.range 128).map f) i
  rw [List.foldr_map, getD_map_range _ _ h] at hbits
  rw [maskOf, BitVec.getLsbD_ofNat, hbits, decide_eq_true h, Bool.true_and]

/-- What a relation says of two values, either of which may be NaN. -/
def Rel.Means (r : Rel) (a b : Val) : Prop :=
  let num := a ≠ .nan ∧ b ≠ .nan
  match r with
  | .eq => num ∧ a.cmp b = .eq
  | .ne => ¬ (num ∧ a.cmp b = .eq)
  | .lt => num ∧ a.cmp b = .lt
  | .le => num ∧ a.cmp b ≠ .gt
  | .gt => num ∧ a.cmp b = .gt
  | .ge => num ∧ a.cmp b ≠ .lt

theorem Rel.holds_iff (r : Rel) (a b : Val) : r.holds a b = true ↔ r.Means a b := by
  unfold Rel.holds Rel.Means
  by_cases h : a = .nan ∨ b = .nan
  · rw [if_pos h]
    have hn : ¬ (a ≠ .nan ∧ b ≠ .nan) := by tauto
    cases r <;> simp [hn]
  · rw [if_neg h]
    have hn : a ≠ .nan ∧ b ≠ .nan := not_or.mp h
    cases r <;> cases a.cmp b <;> simp [hn]

theorem opCmp_gives {s : State} {a b : BitVec 5} (r : Rel) (f : Fmt) (kd k : BitVec 3) (h : ∀ r ∈ [a, b], s.me.ownsV r = true) :
    ∃ m : KWord, (.next (opCmp r f kd a b k s) : Out) = .next ((s.setK kd m).advance 4) ∧ ∀ i < 128, (m.getLsbD i = true ↔
      i < lanesOf f ∧ (s.me.getK k).getLsbD i = true ∧
        r.Means (f.decode (laneGet f (s.me.getV a) i)) (f.decode (laneGet f (s.me.getV b) i))) := by
  refine ⟨_, congrArg _ (vCheck_allOwned h _), fun i hi => ?_⟩
  rw [getLsbD_maskOf _ hi, ← Rel.holds_iff, Bool.and_eq_true, Bool.and_eq_true, decide_eq_true_eq, and_assoc]
  rfl

/-! ## Masks cut to a format (R135) -/

theorem getLsbD_cutMask (f : Fmt) (m : KWord) (i : Nat) : (cutMask f m).getLsbD i = (decide (i < lanesOf f) && m.getLsbD i) := by
  rw [cutMask, BitVec.getLsbD_ofNat, Nat.testBit_mod_two_pow]
  by_cases h : i < lanesOf f
  · rw [decide_eq_true (Nat.lt_of_lt_of_le h (lanesOf_le f)), Bool.true_and]
    rfl
  · simp [h]

/-! ## Single lanes (R135) -/

theorem extLane_eq (f : Fmt) (x : Nat) :
    extLane f x = if f = .int8 ∨ f = .int32 then (BitVec.ofNat f.width x).signExtend 64 else BitVec.ofNat 64 x := by cases f <;> rfl

/-- One lane of a register replaced. -/
theorem laneGet_set (f : Fmt) (v : VWord) (x : Nat) {i j : Nat} (hi : i < lanesOf f) :
    laneGet f (laneJoin f ((laneList f v).set j (x % 2 ^ f.width))) i = if i = j then x % 2 ^ f.width else laneGet f v i := by
  rw [laneGet_laneJoin _ hi, laneList, List.getD_eq_getElem _ _ (by simpa using hi), List.getElem_set]
  by_cases h : j = i
  · rw [if_pos h, if_pos h.symm, Nat.mod_mod]
  · rw [if_neg h, if_neg (Ne.symm h), List.getElem_map, List.getElem_range, laneGet_mod]

end Sys2Proof.Machine

open Sys2Proof Sys2Proof.Machine

/-- Settles O30: each form is `opCmp` of its relation. -/
theorem vectorCompares : Obligations.VectorCompares := by
  unfold Obligations.VectorCompares
  intro s f kd a b k ho x y num ops
  have gives (r : Rel) := opCmp_gives r f kd k ho
  simp only [ops, List.forall_mem_cons]
  exact ⟨gives .eq, gives .ne, gives .lt, gives .le, gives .gt, gives .ge, fun _ h => nomatch h⟩

/-- Settles O35: a mask cut to a format has its bits, and a lane written stands among the others. -/
theorem masksAndSingles : Obligations.MasksAndSingles := by
  unfold Obligations.MasksAndSingles
  intro s f kd ka kb v d a b p q n cut
  refine ⟨rfl, rfl, rfl, rfl, rfl, ⟨_, rfl, fun i _ => getLsbD_cutMask ..⟩, ⟨_, rfl, fun i hi => ?half⟩, fun hv =>
    ⟨⟨_, congrArg _ (vCheck_owned hv _), fun i hi => laneGet_set f _ _ hi⟩, _, congrArg _ (vCheck_owned hv _), extLane_eq ..⟩⟩
  case half =>
    split
    · rw [BitVec.getLsbD_extractLsb', getLsbD_cutMask, decide_eq_true hi, Bool.true_and, Nat.add_comm]
    · rw [BitVec.getLsbD_extractLsb', getLsbD_cutMask, decide_eq_true hi, Bool.true_and, Nat.zero_add]
end

section
/-! PROOFS. Permutation, broadcast and slides (08 R134). -/

namespace Sys2Proof.Machine

theorem opVperm_gives {s : State} {d a b : BitVec 5} (f : Fmt) (k : BitVec 3) (h : ∀ r ∈ [d, a, b], s.me.ownsV r = true) :
    s.GivesLanes f d k (fun i => laneGet f (s.me.getV a) (laneGet f (s.me.getV b) i % lanesOf f)) (.next (opVperm f d a b k s)) :=
  ⟨_, congrArg _ (vCheck_allOwned h _), lanesAre_laneWrite _ _ _ _⟩

theorem opVmove_gives {s : State} {d a : BitVec 5} (f : Fmt) (src : Nat → Nat → (Nat → Nat) → Nat → Nat) (b : BitVec 5) (k : BitVec 3)
    (h : ∀ r ∈ [d, a], s.me.ownsV r = true) : s.GivesLanes f d k
      (fun i => src (s.getG (b.setWidth 6)).toNat i (laneGet f (s.me.getV a)) (laneGet f (s.me.getV d) i)) (.next (opVmove f src d a b k s)) :=
  ⟨_, congrArg _ (vCheck_allOwned h _), lanesAre_laneWrite _ _ _ _⟩

end Sys2Proof.Machine

open Sys2Proof Sys2Proof.Machine

/-- Settles O32: VPERM is `opVperm`, the others `opVmove` of their lane. -/
theorem vectorMoves : Obligations.VectorMoves := by
  unfold Obligations.VectorMoves
  intro s f d a b k ho x c n ops
  have moves (src : Nat → Nat → (Nat → Nat) → Nat → Nat) := opVmove_gives f src b k fun r hr => ho r (List.mem_append_left [b] hr)
  simp only [ops, List.forall_mem_cons]
  refine ⟨opVperm_gives f k ho, moves _, (moves _).congr fun i _ => ?up, moves _, fun _ h => nomatch h⟩
  case up =>
    by_cases h : i < c
    · rw [if_pos h, if_neg (Nat.not_le.mpr h)]
    · rw [if_neg h, if_pos (Nat.not_lt.mp h)]
end

section
/-! PROOFS. The order of exact values (07 R106): a dyadic is a rational, and values that are not NaN stand in one line, −0 below +0. -/

namespace Sys2Proof

open Machine

/-! ## Dyadics -/

/-- The rational that a dyadic stands for. -/
def Dy.rat (x : Dy) : ℚ := x.m * 2 ^ x.e

theorem Dy.at_cast {x : Dy} {b : Int} (h : b ≤ x.e) : (x.at b : ℚ) = x.rat * 2 ^ (-b) := by
  have hexp : ((2 : ℚ) ^ (x.e - b).toNat) = 2 ^ x.e * 2 ^ (-b) := by
    rw [← zpow_natCast, Int.toNat_of_nonneg (by omega), ← zpow_add₀ two_ne_zero, Int.sub_eq_add_neg]
  rw [Dy.at, Dy.rat]
  push_cast
  rw [hexp, mul_assoc]

theorem Dy.at_lt_at {x y : Dy} {b : Int} (hx : b ≤ x.e) (hy : b ≤ y.e) : x.at b < y.at b ↔ x.rat < y.rat := by
  rw [← Int.cast_lt (R := ℚ), at_cast hx, at_cast hy]
  exact mul_lt_mul_iff_left₀ (zpow_pos two_pos _)

theorem Dy.cmp_lt {x y : Dy} : x.cmp y = .lt ↔ x.rat < y.rat := by
  rw [Dy.cmp, compare_lt_iff_lt, at_lt_at (min_le_left ..) (min_le_right ..)]

theorem Dy.cmp_gt {x y : Dy} : x.cmp y = .gt ↔ y.rat < x.rat := by
  rw [Dy.cmp, compare_gt_iff_gt, at_lt_at (min_le_right ..) (min_le_left ..)]

theorem Dy.cmp_eq {x y : Dy} : x.cmp y = .eq ↔ x.rat = y.rat := by
  rw [le_antisymm_iff (α := ℚ), ← not_lt, ← not_lt, ← cmp_gt (x := x) (y := y), ← cmp_lt (x := x) (y := y)]
  cases x.cmp y <;> decide

/-! ## Values -/

/-- Where a value that is not NaN stands: between the infinities by its rational, −0 before +0. -/
def Val.key : Val → ℤ ×ₗ ℚ ×ₗ ℤ
  | .nan => toLex (0, toLex (0, 0))
  | .inf s => toLex (if s then -1 else 1, toLex (0, 0))
  | .fin s m e => toLex (0, toLex ((Val.dy s m e).rat, if (Val.fin s m e).isNegZero then 0 else 1))

theorem Val.key_lt_iff {p q : Val} (hp : p ≠ .nan) (hq : q ≠ .nan) : p.key < q.key ↔ belowZ p q = true := by
  cases p with
  | nan => exact absurd rfl hp
  | inf s =>
    cases q with
    | nan => exact absurd rfl hq
    | inf t => cases s <;> cases t <;> simp [key, belowZ, cmp, Prod.Lex.toLex_lt_toLex, isNegZero]
    | fin t n f => cases s <;> simp [key, belowZ, cmp, Prod.Lex.toLex_lt_toLex]
  | fin s m e =>
    cases q with
    | nan => exact absurd rfl hq
    | inf t => cases t <;> simp [key, belowZ, cmp, Prod.Lex.toLex_lt_toLex]
    | fin t n f =>
      have hlt := Dy.cmp_lt (x := dy s m e) (y := dy t n f)
      have heq := Dy.cmp_eq (x := dy s m e) (y := dy t n f)
      simp only [key, Prod.Lex.toLex_lt_toLex, belowZ, cmp, ← hlt, ← heq]
      cases (dy s m e).cmp (dy t n f) <;> cases (fin s m e).isNegZero <;> cases (fin t n f).isNegZero <;> simp

end Sys2Proof
end

section
/-! PROOFS. Reductions of a register (08 R133; 07 R120). -/

namespace Sys2Proof.Machine

/-! ## The active lanes -/

/-- The numbers of the active lanes. -/
def activeIdx (f : Fmt) (m : KWord) : List Nat := (List.range (lanesOf f)).filter fun i => m.getLsbD i

theorem filterMap_ite {α β : Type} (p : α → Bool) (g : α → β) (l : List α) :
    (l.map fun i => if p i then some (g i) else none).filterMap id = (l.filter p).map g := by
  induction l with
  | nil => rfl
  | cons i t ih => cases h : p i <;> simpa [h] using ih

theorem activeLanes_present (f : Fmt) (m : KWord) (v : VWord) : (activeLanes f m v).filterMap id = (activeIdx f m).map (laneGet f v) :=
  filterMap_ite ..

/-! ## The largest and the least lane -/

/-- A lane that holds a NaN. -/
def LaneNan (f : Fmt) (a : Nat) : Prop := f.isFloat = true ∧ f.decode a = .nan

/-- Where a lane that holds no NaN stands among those of its format. -/
def laneKey (f : Fmt) (a : Nat) : ℤ ×ₗ ℚ ×ₗ ℤ := if f.isFloat then (f.decode a).key else toLex (intVal f a, toLex (0, 0))

/-- `op` picks one of two, which neither exceeds under `key`. -/
def Picks {α : Type} [LE α] (key : Nat → α) (op : Nat → Nat → Nat) (p : Nat → Prop) : Prop :=
  ∀ a b, p a → p b → (op a b = a ∨ op a b = b) ∧ key a ≤ key (op a b) ∧ key b ≤ key (op a b)

/-- So a fold of it picks one of a list, which none exceeds. -/
theorem Picks.foldl {α : Type} [LinearOrder α] {key : Nat → α} {op : Nat → Nat → Nat} {p : Nat → Prop} (h : Picks key op p) :
    ∀ (l : List Nat) (x : Nat), p x → (∀ y ∈ l, p y) → l.foldl op x ∈ x :: l ∧ ∀ y ∈ x :: l, key y ≤ key (l.foldl op x)
  | [], x, _, _ => by simp
  | b :: t, x, hx, ht => by
    obtain ⟨hb, ht⟩ := List.forall_mem_cons.mp ht
    obtain ⟨hpick, hxo, hbo⟩ := h x b hx hb
    have ho : p (op x b) := by obtain e | e := hpick <;> rw [e] <;> assumption
    obtain ⟨hmem, hmax⟩ := Picks.foldl h t (op x b) ho ht
    obtain ⟨hop, htail⟩ := List.forall_mem_cons.mp hmax
    refine ⟨?_, List.forall_mem_cons.mpr ⟨hxo.trans hop, List.forall_mem_cons.mpr ⟨hbo.trans hop, htail⟩⟩⟩
    rw [List.foldl_cons]
    rw [List.mem_cons] at hmem
    obtain e | e := hmem
    · rw [e]
      obtain e | e := hpick <;> simp [e]
    · simp [e]

section
variable {f : Fmt} {a b : Nat}

theorem laneKey_lt_iff (ha : ¬ LaneNan f a) (hb : ¬ LaneNan f b) :
    laneKey f a < laneKey f b ↔ (if f.isFloat then belowZ (f.decode a) (f.decode b) else decide (intVal f a < intVal f b)) = true := by
  unfold laneKey
  cases hf : f.isFloat
  case true => exact Val.key_lt_iff (fun h => ha ⟨hf, h⟩) fun h => hb ⟨hf, h⟩
  case false => simp [Prod.Lex.toLex_lt_toLex]

/-- The minimum and the maximum of two lanes take one each, by one test of their order. -/
theorem laneMinMax_num (ha : ¬ LaneNan f a) (hb : ¬ LaneNan f b) : ∃ c : Bool, laneMin f a b = (if c then a else b) ∧
    laneMax f a b = (if c then b else a) ∧ (c = true → laneKey f a ≤ laneKey f b) ∧ (c = false → laneKey f b ≤ laneKey f a) := by
  cases hf : f.isFloat
  case true =>
    have hna : f.decode a ≠ .nan := fun h => ha ⟨hf, h⟩
    have hnb : f.decode b ≠ .nan := fun h => hb ⟨hf, h⟩
    have hlt : laneKey f a < laneKey f b ↔ belowZ (f.decode a) (f.decode b) = true := (laneKey_lt_iff ha hb).trans (by rw [hf]; rfl)
    exact ⟨_, laneMin_num hf hna hnb, laneMax_num hf hna hnb, fun h => (hlt.mpr h).le,
      fun h => not_lt.mp (mt hlt.mp (Bool.eq_false_iff.mp h))⟩
  case false =>
    have hle (x y : Nat) : laneKey f x ≤ laneKey f y ↔ intVal f x ≤ intVal f y := by
      simp [laneKey, hf, Prod.Lex.toLex_le_toLex, ← le_iff_lt_or_eq]
    refine ⟨decide (intVal f a ≤ intVal f b), ?_, ?_, fun h => (hle a b).mpr (of_decide_eq_true h),
      fun h => (hle b a).mpr (not_le.mp (of_decide_eq_false h)).le⟩
    · rw [laneMin_int _ _ hf]; simp
    · rw [laneMax_int _ _ hf]; simp

end

theorem laneMax_picks (f : Fmt) : Picks (laneKey f) (laneMax f) (¬ LaneNan f ·) := fun a b ha hb => by
  obtain ⟨c, -, hmax, hle, hge⟩ := laneMinMax_num ha hb
  rw [hmax]
  cases c
  · exact ⟨.inl rfl, le_rfl, hge rfl⟩
  · exact ⟨.inr rfl, hle rfl, le_rfl⟩

theorem laneMin_picks (f : Fmt) : Picks (fun a => OrderDual.toDual (laneKey f a)) (laneMin f) (¬ LaneNan f ·) := fun a b ha hb => by
  obtain ⟨c, hmin, -, hle, hge⟩ := laneMinMax_num ha hb
  rw [hmin]
  cases c
  · exact ⟨.inr rfl, hge rfl, le_rfl⟩
  · exact ⟨.inl rfl, le_rfl, hle rfl⟩

/-! ## The fold's value (R133) -/

theorem canonNan_decode {f : Fmt} (hf : f.isFloat = true) : f.decode f.canonNan = .nan := by
  cases f
  case fp32 | bf16 | fp16 | e4m3 | e5m2 | mk8 => decide
  all_goals cases hf

/-- A fold that meets a NaN ends with the canonical one, whatever follows. -/
theorem foldl_nan {f : Fmt} (hf : f.isFloat = true) {op : Nat → Nat → Nat}
    (hop : ∀ a b, f.decode a = .nan ∨ f.decode b = .nan → op a b = f.canonNan) :
    ∀ (l : List Nat) (x : Nat), l ≠ [] → (∃ y ∈ x :: l, f.decode y = .nan) → l.foldl op x = f.canonNan
  | [], _, h, _ => absurd rfl h
  | b :: t, x, _, hnan => by
    have hacc : f.decode x = .nan ∨ f.decode b = .nan → f.decode (op x b) = .nan := fun h => by rw [hop x b h, canonNan_decode hf]
    obtain ⟨y, hy, hyn⟩ := hnan
    rw [List.mem_cons, List.mem_cons] at hy
    cases t with
    | nil =>
      refine hop x b ?_
      obtain rfl | rfl | h := hy
      · exact .inl hyn
      · exact .inr hyn
      · cases h
    | cons c t =>
      refine foldl_nan hf hop (c :: t) (op x b) (List.cons_ne_nil _ _) ?_
      obtain rfl | rfl | h := hy
      · exact ⟨_, List.mem_cons_self .., hacc (.inl hyn)⟩
      · exact ⟨_, List.mem_cons_self .., hacc (.inr hyn)⟩
      · exact ⟨y, List.mem_cons_of_mem _ h, hyn⟩

theorem redExt_nan {f : Fmt} {largest : Bool} {l : List (Option Nat)} (hf : f.isFloat = true)
    (h : ∃ y ∈ l.filterMap id, f.decode y = .nan) : redExt f largest l = f.canonNan := by
  have hop (a b : Nat) (hab : f.decode a = .nan ∨ f.decode b = .nan) : (if largest then laneMax f else laneMin f) a b = f.canonNan := by
    cases largest
    · exact laneMin_nan hf hab
    · exact laneMax_nan hf hab
  unfold redExt
  split
  · next hl => rw [hl] at h; obtain ⟨_, h, _⟩ := h; cases h
  · next x hl =>
    rw [hl] at h
    obtain ⟨y, hy, hyn⟩ := h
    rw [List.mem_singleton.mp hy] at hyn
    simp [hf, isNan, hyn]
  · next x t hne hl =>
    rw [hl] at h
    exact foldl_nan hf hop t x hne h

theorem redExt_num {f : Fmt} {l : List (Option Nat)} {x : Nat} {t : List Nat} (largest : Bool) (hl : l.filterMap id = x :: t)
    (h : ¬ LaneNan f x) : redExt f largest l = t.foldl (if largest then laneMax f else laneMin f) x := by
  unfold redExt
  rw [hl]
  cases t with
  | nil => exact if_neg fun e => h (by simpa [LaneNan, isNan_iff] using e)
  | cons => rfl

/-- A reduction of lanes that hold no NaN picks one, which none exceeds. -/
theorem redExt_picks {α : Type} [LinearOrder α] {key : Nat → α} {f : Fmt} {largest : Bool}
    (hp : Picks key (if largest then laneMax f else laneMin f) (¬ LaneNan f ·)) {l : List (Option Nat)} {on : List Nat} {x : Nat → Nat}
    (hl : l.filterMap id = on.map x) (hne : on ≠ []) (hn : ∀ i ∈ on, ¬ LaneNan f (x i)) :
    ∃ i ∈ on, redExt f largest l = x i ∧ ∀ j ∈ on, key (x j) ≤ key (x i) := by
  obtain ⟨i, t, rfl⟩ := List.exists_cons_of_ne_nil hne
  obtain ⟨hi, ht⟩ := List.forall_mem_cons.mp hn
  obtain ⟨hmem, hmax⟩ := hp.foldl (t.map x) (x i) hi (List.forall_mem_map.mpr ht)
  rw [← List.map_cons] at hmem hmax
  obtain ⟨j, hj, e⟩ := List.mem_map.mp hmem
  rw [← e] at hmax
  exact ⟨j, hj, (redExt_num largest hl hi).trans e.symm, List.forall_mem_map.mp hmax⟩

theorem redExt_empty {f : Fmt} {l : List (Option Nat)} (largest : Bool) (hl : l.filterMap id = []) : redExt f largest l = redEmpty f largest := by
  rw [redExt, hl]

theorem rneInf_mod (f : Fmt) (neg : Bool) : f.rne (.inf neg) % 2 ^ f.width = f.rne (.inf neg) := by cases f <;> cases neg <;> decide

/-! ## Sums (R120) -/

theorem redSum_int {f : Fmt} (hf : f.isFloat = false) (l : List (Option Nat)) :
    redSum f l = ((l.filterMap id).map (· % 2 ^ f.width)).sum % 2 ^ f.width := if_neg (Bool.eq_false_iff.mp hf)

theorem redSum_float {f : Fmt} (hf : f.isFloat = true) (l : List (Option Nat)) : redSum f l =
    ((treeSum add32 7 (l.map (Option.map fun x => Fmt.rne .fp32 (f.decode x)))).map fun r => f.rne (f32 r)).getD 0 := by
  rw [redSum, if_pos hf]
  cases treeSum add32 7 (l.map (Option.map fun x => Fmt.rne .fp32 (f.decode x))) <;> rfl

/-- The active lanes, widened to FP32. -/
theorem activeLanes_widened (f : Fmt) (m : KWord) (v : VWord) : (activeLanes f m v).map (Option.map fun x => Fmt.rne .fp32 (f.decode x)) =
    (List.range (lanesOf f)).map fun i => if m.getLsbD i then some (Fmt.rne .fp32 (f.decode (laneGet f v i))) else none := by
  rw [activeLanes, List.map_map]
  exact List.map_congr_left fun i _ => apply_ite (Option.map _) ..

/-! ## The result's register (R133) -/

/-- The lanes of a register that has a value in lane 0 and zeros in the others. -/
theorem laneGet_single (f : Fmt) (x : Nat) : laneGet f (laneJoin f [x]) 0 = x % 2 ^ f.width := laneGet_laneJoin _ (lanesOf_pos f)
theorem laneGet_single_ne {f : Fmt} (x : Nat) {i : Nat} (hi : i < lanesOf f) (h : i ≠ 0) : laneGet f (laneJoin f [x]) i = 0 := by
  obtain ⟨j, rfl⟩ := Nat.exists_eq_succ_of_ne_zero h
  rw [laneGet_laneJoin _ hi]
  exact Nat.zero_mod _

end Sys2Proof.Machine

open Sys2Proof Sys2Proof.Machine

/-- Settles O31: a sum is the model's, and an extreme is a fold of `laneMax` or `laneMin`, which picks a lane that none exceeds. -/
theorem vectorReductions : Obligations.VectorReductions := by
  unfold Obligations.VectorReductions
  intro s f d a k ho x on int below tree
  have reduce (g : List (Option Nat) → Nat) : (.next (opReduce g f d a k s) : Out) =
      .next ((s.setV d (laneJoin f [g (activeLanes f (s.me.getK k) (s.me.getV a))])).advance 4) := congrArg _ (vCheck_allOwned ho _)
  have hpresent : (activeLanes f (s.me.getK k) (s.me.getV a)).filterMap id = on.map x := activeLanes_present ..
  have hwide := activeLanes_widened f (s.me.getK k) (s.me.getV a)
  have hmod (i : Nat) : x i % 2 ^ f.width = x i := laneGet_mod ..
  generalize activeLanes f (s.me.getK k) (s.me.getV a) = l at reduce hpresent hwide
  refine ⟨_, _, _, reduce _, reduce _, reduce _, ?zeros, fun hf => ?intSum, fun hf => ?floatSum,
    fun hf ⟨i, hi, hn⟩ => ?nan, fun hne hnum => ?extreme, fun hon => ?empty⟩
  case zeros =>
    simp only [List.forall_mem_cons]
    exact ⟨fun _ => laneGet_single_ne _, fun _ => laneGet_single_ne _, fun _ => laneGet_single_ne _, fun _ h => nomatch h⟩
  all_goals simp only [laneGet_single]
  case intSum =>
    rw [redSum_int hf, hpresent, List.map_map, Nat.mod_mod]
    exact congrArg (fun g => (on.map g).sum % 2 ^ f.width) (funext hmod)
  case floatSum =>
    rw [redSum_float hf, hwide]
    change (tree.map _).getD 0 % _ = _
    cases tree
    · exact Nat.zero_mod _
    · rfl
  case nan =>
    have h : ∃ y ∈ l.filterMap id, f.decode y = .nan := ⟨x i, hpresent ▸ List.mem_map_of_mem hi, hn⟩
    rw [redExt_nan hf h, redExt_nan hf h]
    exact ⟨canonNan_mod f, canonNan_mod f⟩
  case extreme =>
    have hnan : ∀ i ∈ on, ¬ LaneNan f (x i) := fun i hi h => hnum ⟨h.1, i, hi, h.2⟩
    have hbelow {i j : Nat} (hi : i ∈ on) (hj : j ∈ on) (h : laneKey f (x j) ≤ laneKey f (x i)) : below (x i) (x j) = false := by
      have h := mt (laneKey_lt_iff (hnan i hi) (hnan j hj)).mpr (not_lt.mpr h)
      rw [belowZ_eq, intVal_laneGet, intVal_laneGet] at h
      exact Bool.eq_false_iff.mpr h
    obtain ⟨i, hi, hmx, hmax⟩ := redExt_picks (largest := true) (laneMax_picks f) hpresent hne hnan
    obtain ⟨j, hj, hmn, hmin⟩ := redExt_picks (largest := false) (laneMin_picks f) hpresent hne hnan
    rw [hmx, hmn, hmod, hmod]
    exact ⟨⟨i, hi, rfl, fun j hj => hbelow hi hj (hmax j hj)⟩, ⟨j, hj, rfl, fun i hi => hbelow hi hj (hmin i hi)⟩⟩
  case empty =>
    have hnone : l.filterMap id = [] := by rw [hpresent, hon]; rfl
    rw [redExt_empty true hnone, redExt_empty false hnone]
    refine ⟨fun hf => ?_, fun hf => by subst hf; decide⟩
    rw [redEmpty, if_pos hf, redEmpty, if_pos hf]
    exact ⟨rneInf_mod .., rneInf_mod ..⟩
end

section
/-! PROOFS. Conversions and the four FP32 functions (08 R136, R137; 07 R113, R115, R118). -/

namespace Sys2Proof.Machine

/-! ## Conversions (R136) -/

/-- The active lanes among `n` from lane `i` upward. -/
def activeFrom (m : KWord) (i n : Nat) : Nat := ((List.range' i n).filter fun j => m.getLsbD j).length

theorem activeFrom_succ (m : KWord) (i n : Nat) : activeFrom m i (n + 1) = (if active m i then 1 else 0) + activeFrom m (i + 1) n := by
  unfold activeFrom active
  rw [List.range'_succ]
  cases h : m.getLsbD i
  · rw [List.filter_cons_of_neg (by simp [h])]; exact (Nat.zero_add _).symm
  · rw [List.filter_cons_of_pos (by simp [h]), List.length_cons, Nat.add_comm]; rfl

section
variable (dst src : Fmt) (mode : Rnd) (m : KWord) (a old : VWord)

/-- A conversion takes draws: under stochastic rounding, where it is not exact (07 R113, R115). -/
def drawing : Bool := mode == .sr && !exactConv src dst

/-- The generator after `n` draws, if the conversion takes any. -/
def drawn (sr : Word) (n : Nat) : Word := if drawing dst src mode then srSteps sr n else sr

/-- An element converted, with the generator in the state `sr`. -/
def cvtLane (sr : Word) (j : Nat) : Nat :=
  if active m j then
    dst.round (if exactConv src dst then .rne else mode) (src.decode (laneGet src a j)) (if drawing dst src mode then srDraw sr else 0)
  else laneGet dst old j

/-- The generator once lane `i` has taken its draw, if it takes one. -/
def drawAt (sr : Word) (i : Nat) : Word := if active m i && drawing dst src mode then srNext sr else sr

theorem cvtLanes_succ (n i : Nat) (sr : Word) : cvtLanes dst src mode m a old (n + 1) i sr =
    let sr := drawAt dst src mode m sr i
    let t := cvtLanes dst src mode m a old n (i + 1) sr
    (cvtLane dst src mode m a old sr i :: t.1, t.2) := by
  rw [cvtLanes]
  unfold drawAt cvtLane drawing
  cases active m i <;> rfl

theorem drawn_drawAt (sr : Word) (i n : Nat) :
    drawn dst src mode (drawAt dst src mode m sr i) (activeFrom m (i + 1) n) = drawn dst src mode sr (activeFrom m i (n + 1)) := by
  rw [activeFrom_succ, drawn, drawn, drawAt]
  cases active m i <;> cases drawing dst src mode <;> simp [srSteps, Nat.add_comm 1]

theorem drawn_one (sr : Word) (i : Nat) : drawn dst src mode sr (activeFrom m i 1) = drawAt dst src mode m sr i := by
  rw [← drawn_drawAt]
  exact ite_self _

/-- Element by element, each active one rounded with the generator as its own draw leaves it. -/
theorem cvtLanes_eq : ∀ (n i : Nat) (sr : Word), cvtLanes dst src mode m a old n i sr =
    ((List.range n).map fun j => cvtLane dst src mode m a old (drawn dst src mode sr (activeFrom m i (j + 1))) (i + j),
      drawn dst src mode sr (activeFrom m i n))
  | 0, i, sr => congrArg (Prod.mk []) (ite_self sr).symm
  | n + 1, i, sr => by
    have hplace (j : Nat) : i + 1 + j = i + (j + 1) := by omega
    simp only [cvtLanes_succ, cvtLanes_eq n, drawn_drawAt, hplace]
    rw [List.range_succ_eq_map, List.map_cons, List.map_map, drawn_one]
    rfl

end

theorem activeFrom_zero (m : KWord) (n : Nat) : activeFrom m 0 n = ((List.range n).filter fun j => m.getLsbD j).length := by
  rw [activeFrom, List.range_eq_range']

theorem cvtLane_mod (dst src : Fmt) (mode : Rnd) (m : KWord) (a old : VWord) (sr : Word) (j : Nat) :
    cvtLane dst src mode m a old sr j % 2 ^ dst.width = if m.getLsbD j then
      dst.round (if exactConv src dst then .rne else mode) (src.decode (laneGet src a j)) (if drawing dst src mode then srDraw sr else 0) %
        2 ^ dst.width
    else laneGet dst old j := by
  unfold cvtLane active
  split
  · rfl
  · exact laneGet_mod ..

theorem opVcvt_owned {s : State} {d a : BitVec 5} (dst src : Fmt) (mode : Rnd) (k : BitVec 3) (h : ∀ r ∈ [d, a], s.me.ownsV r = true) :
    let t := cvtLanes dst src mode (s.me.getK k) (s.me.getV a) (s.me.getV d) (1024 / max src.width dst.width) 0 s.me.srstate
    opVcvt dst src mode d a k s = (({ s with me := { s.me with srstate := t.2 } } : State).setV d (laneJoin dst t.1)).advance 4 :=
  vCheck_allOwned h _

/-- An active lane takes its draw after those of the lanes below it. -/
theorem activeFrom_zero_succ {m : KWord} {i : Nat} (h : m.getLsbD i = true) : activeFrom m 0 (i + 1) = activeFrom m 0 i + 1 := by
  rw [activeFrom_zero, activeFrom_zero, List.range_succ, List.filter_append, List.length_append, List.filter_cons_of_pos h]
  rfl

/-- The conversion's lanes and its generator. -/
theorem opVcvt_gives {s : State} {d a : BitVec 5} (dst src : Fmt) (mode : Rnd) (k : BitVec 3) (h : ∀ r ∈ [d, a], s.me.ownsV r = true) :
    let n := 1024 / max src.width dst.width
    let sr (j : Nat) : Word := drawn dst src mode s.me.srstate (activeFrom (s.me.getK k) 0 j)
    ∃ w : VWord, opVcvt dst src mode d a k s = (({ s with me := { s.me with srstate := sr n } } : State).setV d w).advance 4 ∧
      ∀ i < lanesOf dst, laneGet dst w i =
        if n ≤ i then 0 else cvtLane dst src mode (s.me.getK k) (s.me.getV a) (s.me.getV d) (sr (i + 1)) i % 2 ^ dst.width := by
  intro n sr
  refine ⟨_, (opVcvt_owned dst src mode k h).trans (by rw [cvtLanes_eq]), fun i hi => ?_⟩
  rw [laneGet_laneJoin _ hi]
  split
  · next hn => rw [List.getD_eq_default _ _ (by simpa using hn)]; exact Nat.zero_mod _
  · next hn => rw [getD_map_range _ _ (Nat.not_le.mp hn), Nat.zero_add]

theorem drawing_eq_false {dst src : Fmt} {mode : Rnd} (h : mode ≠ .sr ∨ exactConv src dst = true) : drawing dst src mode = false := by
  obtain h | h := h
  · cases mode
    case sr => exact absurd rfl h
    all_goals rfl
  · rw [drawing, h, Bool.not_true, Bool.and_false]

/-- The draw of a state is its bits [63:40]. -/
theorem srDraw_eq (sr : Word) : srDraw sr = (sr.extractLsb' 40 24).toNat := by
  have hlt : sr.toNat >>> 40 < 2 ^ 24 := by
    have := sr.isLt
    rw [Nat.shiftRight_eq_div_pow]
    omega
  rw [srDraw, BitVec.toNat_ushiftRight, BitVec.extractLsb'_toNat, Nat.mod_eq_of_lt hlt]

/-! ## FP32 values (07 R106) -/

theorem f32_eq (x : Nat) : f32 x =
    let neg := decide (x / 2 ^ 31 % 2 = 1)
    let c := x % 2 ^ 31
    if c ≤ 0x7F7FFFFF then .fin neg (FPar.fp32.mag c).m.natAbs (FPar.fp32.mag c).e else if c = 0x7F800000 then .inf neg else .nan := by
  simp only [f32, Fmt.decode, FPar.decode, FPar.fp32, Bool.true_and, beq_iff_eq]

theorem f32_nan {x : Nat} (h : 0x7F800000 < x % 2 ^ 31) : f32 x = .nan := by
  rw [f32_eq]
  simp only
  rw [if_neg (by omega), if_neg (by omega)]

theorem fp32Mag_subnormal {c : Nat} (h : c / 2 ^ 23 = 0) : FPar.fp32.mag c = ⟨(c : Nat), -149⟩ := by
  have hc : c % 2 ^ 23 = c := by omega
  exact (if_pos h).trans (by rw [show FPar.fp32.frac = 23 from rfl, hc]; rfl)

theorem fp32Mag_normal {c : Nat} (h : c / 2 ^ 23 ≠ 0) : FPar.fp32.mag c = ⟨(2 ^ 23 + c % 2 ^ 23 : Nat), (c / 2 ^ 23 : Nat) - 150⟩ := by
  refine (if_neg h).trans ?_
  rw [Dy.mk.injEq]
  constructor
  · push_cast; rfl
  · show ((c / 2 ^ 23 : Nat) : Int) - 127 - 23 = _
    omega

/-- Every magnitude but that of the code 0 is positive. -/
theorem fp32Mag_pos {c : Nat} (h : c ≠ 0) : 0 < (FPar.fp32.mag c).m := by
  by_cases hc : c / 2 ^ 23 = 0
  · rw [fp32Mag_subnormal hc]
    exact Int.natCast_pos.mpr (Nat.pos_of_ne_zero h)
  · rw [fp32Mag_normal hc]
    exact Int.natCast_pos.mpr (Nat.add_pos_left (Nat.two_pow_pos 23) _)

/-- A code with the sign bit set that is not −0. -/
theorem f32_neg {x : Nat} (h : 2 ^ 31 < x) (hx : x < 2 ^ 32) : f32 x = .nan ∨ f32 x = .inf true ∨ ∃ m e, m ≠ 0 ∧ f32 x = .fin true m e := by
  have hs : decide (x / 2 ^ 31 % 2 = 1) = true := decide_eq_true (by omega)
  rw [f32_eq, hs]
  dsimp only
  split
  · exact .inr (.inr ⟨_, _, Int.natAbs_ne_zero.mpr (fp32Mag_pos (by omega)).ne', rfl⟩)
  · split
    · exact .inr (.inl rfl)
    · exact .inl rfl

theorem fp32Mag_large {c : Nat} (h : 0x43000000 ≤ c) : 128 ≤ (FPar.fp32.mag c).rat := by
  rw [fp32Mag_normal (by omega), Dy.rat]
  have hman : (2 : ℚ) ^ 23 ≤ ((2 ^ 23 + c % 2 ^ 23 : Nat) : ℤ) := by exact_mod_cast Nat.le_add_right ..
  have hexp : (2 : ℚ) ^ (-16 : ℤ) ≤ 2 ^ (((c / 2 ^ 23 : Nat) : ℤ) - 150) := zpow_le_zpow_right₀ one_le_two (by omega)
  calc (128 : ℚ) = 2 ^ 23 * 2 ^ (-16 : ℤ) := by norm_num
    _ ≤ _ := mul_le_mul hman hexp (by positivity) (by positivity)

/-! ## The functions (08 R137) -/

theorem vrsq_neg {x : Nat} (h : 2 ^ 31 < x) (hx : x < 2 ^ 32) : vrsq (f32 x) = Fmt.canonNan .fp32 := by
  obtain e | e | ⟨m, n, hm, e⟩ := f32_neg h hx <;> rw [e]
  · rfl
  · rfl
  · exact (if_neg hm).trans (if_pos rfl)

theorem vlog2_neg {x : Nat} (h : 2 ^ 31 < x) (hx : x < 2 ^ 32) : vlog2 (f32 x) = Fmt.canonNan .fp32 := by
  obtain e | e | ⟨m, n, hm, e⟩ := f32_neg h hx <;> rw [e]
  · rfl
  · rfl
  · exact (if_neg hm).trans (if_pos rfl)

/-- 2^x for x of 128 or more. -/
theorem vexp2_large {x : Nat} (h : 0x43000000 ≤ x) (hx : x ≤ 0x7F800000) : vexp2 (f32 x) = 0x7F800000 := by
  have hs : decide (x / 2 ^ 31 % 2 = 1) = false := decide_eq_false (by omega)
  have hc : x % 2 ^ 31 = x := by omega
  rw [f32_eq, hs, hc]
  dsimp only
  split
  · refine if_pos fun hlt => ?_
    have hdy : Val.dy false (FPar.fp32.mag x).m.natAbs (FPar.fp32.mag x).e = FPar.fp32.mag x := by
      rw [Val.dy, Int.natAbs_of_nonneg (fp32Mag_pos (by omega)).le]
      rfl
    rw [hdy, Dy.cmp_lt] at hlt
    exact absurd ((fp32Mag_large h).trans_lt hlt) (by norm_num [Dy.rat])
  · rw [if_pos (by omega)]
    rfl

theorem vrcp_special : ∀ t ∈ [(0, 0x7F800000), (2 ^ 31, 2 ^ 31 + 0x7F800000), (0x7F800000, 0), (2 ^ 31 + 0x7F800000, 2 ^ 31)],
    vrcp (f32 t.1) = t.2 ∧ t.2 < 2 ^ 32 := by decide
theorem vrsq_special : ∀ t ∈ [(0, 0x7F800000), (2 ^ 31, 2 ^ 31 + 0x7F800000), (0x7F800000, 0)], vrsq (f32 t.1) = t.2 ∧ t.2 < 2 ^ 32 := by decide
theorem vexp2_special : ∀ t ∈ [(2 ^ 31 + 0x7F800000, 0), (0x7F800000, 0x7F800000), (0x43000000, 0x7F800000)],
    vexp2 (f32 t.1) = t.2 ∧ t.2 < 2 ^ 32 := by decide
theorem vlog2_special : ∀ t ∈ [(0, 2 ^ 31 + 0x7F800000), (2 ^ 31, 2 ^ 31 + 0x7F800000), (0x7F800000, 0x7F800000), (0x3F800000, 0)],
    vlog2 (f32 t.1) = t.2 ∧ t.2 < 2 ^ 32 := by decide

/-- A function's lanes, with its values at NaNs, at negative numbers, at 128 and beyond, and at the arguments of a table. -/
theorem function_gives {s : State} {d a : BitVec 5} {k : BitVec 3} (ho : ∀ r ∈ [d, a], s.me.ownsV r = true)
    {fn : Val → Nat} {i : Instr} {neg large : Prop} {special : List (Instr × Nat × Nat)}
    (hi : exec i s = .next (opLane1 .fp32 (fun x => fn (f32 x)) d a k s)) (hnan : fn .nan = 0x7FC00000)
    (hneg : neg → ∀ v, 2 ^ 31 < v → v < 2 ^ 32 → fn (f32 v) = 0x7FC00000)
    (hlarge : large → ∀ v, 0x43000000 ≤ v → v ≤ 0x7F800000 → fn (f32 v) = 0x7F800000)
    (hspecial : ∀ v r, (i, v, r) ∈ special → fn (f32 v) = r ∧ r < 2 ^ 32) :
    let x (j : Nat) : Nat := laneGet .fp32 (s.me.getV a) j
    ∃ w : VWord, exec i s = .next ((s.setV d w).advance 4) ∧ LanesAre .fp32 (s.me.getK k) (s.me.getV d) w (fun j => fn (f32 (x j))) ∧
      ∀ j < 32, (s.me.getK k).getLsbD j = true →
        (0x7F800000 < x j % 2 ^ 31 → laneGet .fp32 w j = 0x7FC00000) ∧
        (neg → 2 ^ 31 < x j → laneGet .fp32 w j = 0x7FC00000) ∧
        (large → 0x43000000 ≤ x j → x j ≤ 0x7F800000 → laneGet .fp32 w j = 0x7F800000) ∧
        ∀ v r, (i, v, r) ∈ special → x j = v → laneGet .fp32 w j = r := by
  intro x
  obtain ⟨w, hw, hl⟩ := opLane1_gives .fp32 (fun v => fn (f32 v)) k ho
  refine ⟨w, hi.trans hw, hl, fun j hj hm => ?_⟩
  have lane {v : Nat} (h : fn (f32 (x j)) = v) (hv : v < 2 ^ 32) : laneGet .fp32 w j = v := by
    rw [hl.active hj hm, h]
    exact Nat.mod_eq_of_lt hv
  exact ⟨fun h => lane (by rw [f32_nan h, hnan]) (by decide), fun hn h => lane (hneg hn _ h (laneGet_lt ..)) (by decide),
    fun hg h h' => lane (hlarge hg _ h h') (by decide), fun v r hr e => lane (by rw [e]; exact (hspecial v r hr).1) (hspecial v r hr).2⟩

end Sys2Proof.Machine

open Sys2Proof Sys2Proof.Machine

/-- Settles O33: VCVT's lanes and generator are those of `opVcvt_gives`, and the functions' those of `function_gives`, with each one's values at
the arguments of R137's table. That a conversion to the same format is exact is the model's reading (log 16, DEDUCED). -/
theorem vectorConversions : Obligations.VectorConversions := by
  unfold Obligations.VectorConversions
  intro s f g mode d a k ho x fs n on sign inf nan special
  have hon (j : Nat) : activeFrom (s.me.getK k) 0 j = on j := activeFrom_zero ..
  refine ⟨fun h => ?plain, fun h => ?stochastic, fun v => rfl, ?functions⟩
  case plain =>
    obtain ⟨w, hw, hl⟩ := opVcvt_gives f g mode k ho
    have hd := drawing_eq_false h
    simp only [drawn, hd, Bool.false_eq_true, if_false] at hw
    refine ⟨w, congrArg _ hw, fun i hi => ?_⟩
    rw [hl i hi, cvtLane_mod, hd]
    rfl
  case stochastic =>
    have hd : drawing f g .sr = true := by rw [drawing, h]; rfl
    obtain ⟨w, hw, hl⟩ := opVcvt_gives f g .sr k ho
    simp only [drawn, hd, if_true, hon] at hw
    simp only [drawn, hd, if_true] at hl
    refine ⟨w, congrArg _ hw, fun i hi => ?_⟩
    rw [hl i hi, cvtLane_mod, hd, h, ← srDraw_eq, ← hon]
    cases hm : (s.me.getK k).getLsbD i
    · rfl
    · rw [activeFrom_zero_succ hm]
      rfl
  case functions =>
    refine List.forall_mem_cons.mpr ⟨function_gives ho rfl rfl nofun nofun fun v r h => vrcp_special (v, r) ?_, List.forall_mem_cons.mpr
      ⟨function_gives ho rfl rfl (fun _ _ => vrsq_neg) nofun fun v r h => vrsq_special (v, r) ?_, List.forall_mem_cons.mpr
      ⟨function_gives ho rfl rfl nofun (fun _ _ => vexp2_large) fun v r h => vexp2_special (v, r) ?_, List.forall_mem_singleton.mpr
      (function_gives ho rfl rfl (fun _ _ => vlog2_neg) nofun fun v r h => vlog2_special (v, r) ?_)⟩⟩⟩
    all_goals
      simpa only [special, sign, inf, List.mem_cons, Prod.mk.injEq, reduceCtorEq, true_and, false_and, false_or, or_false, List.not_mem_nil] using h
end

section
/-! PROOFS. Vector loads and stores under a mask (08 R127-R129): the bytes of a register, masked bytes in scratch, and the forms once their checks
have passed. -/

namespace Sys2Proof.Machine

/-! ## The bytes of a register (R127) -/

def vByte (v : VWord) (i : Nat) : Byte := v.extractLsb' (8 * i) 8

theorem leNat_byte : ∀ (l : List Byte) (i : Nat), leNat l / 2 ^ (8 * i) % 2 ^ 8 = (l.getD i 0).toNat
  | [], i => by simp [leNat]
  | b :: t, 0 => by have := b.isLt; simp only [leNat, Nat.mul_zero, Nat.pow_zero, Nat.div_one, List.getD_cons_zero]; omega
  | b :: t, i + 1 => by
    have hlow : (b.toNat + 256 * leNat t) / 2 ^ 8 = leNat t := by have := b.isLt; omega
    rw [leNat, Nat.mul_succ, Nat.add_comm (8 * i), Nat.pow_add, ← Nat.div_div_eq_div_mul, hlow, leNat_byte t i]
    rfl

theorem leBytes_getD : ∀ (n v i : Nat), i < n → (leBytes n v).getD i 0 = BitVec.ofNat 8 (v / 2 ^ (8 * i))
  | 0, _, _, h => absurd h (Nat.not_lt_zero _)
  | n + 1, v, 0, _ => by simp [leBytes]
  | n + 1, v, i + 1, h => by
    rw [Nat.mul_succ, Nat.add_comm (8 * i), Nat.pow_add, ← Nat.div_div_eq_div_mul]
    exact leBytes_getD n (v / 256) i (Nat.lt_of_succ_lt_succ h)

theorem vByte_vOfBytes (l : List Byte) {i : Nat} (h : i < 128) : vByte (vOfBytes l) i = l.getD i 0 :=
  BitVec.eq_of_toNat_eq (by rw [vByte, vOfBytes, extract_ofNat_toNat (by omega), leNat_byte])

theorem vBytes_getD (v : VWord) {i : Nat} (h : i < 128) : (vBytes v).getD i 0 = vByte v i := by
  refine BitVec.eq_of_toNat_eq ?_
  rw [vBytes, leBytes_getD _ _ _ h, vByte, BitVec.toNat_ofNat, BitVec.extractLsb'_toNat, Nat.shiftRight_eq_div_pow]

theorem vByte_byteMerge (m : KWord) (old : VWord) (bs : List Byte) {i : Nat} (h : i < 128) :
    vByte (byteMerge m old bs) i = if m.getLsbD i then bs.getD i 0 else vByte old i := by
  rw [byteMerge, vByte_vOfBytes _ h, getD_map_range _ _ h, vBytes_getD _ h]
  rfl

/-! ## Masked bytes in scratch (R127) -/

theorem maskCells_cons (va : Nat) (x : Option Byte) (t : List (Option Byte)) :
    maskCells va (x :: t) = (x.map fun b => (va, b)).toList ++ maskCells (va + 1) t := by
  cases x <;> rfl

/-- A byte reads as the mask's data has it, and as before where that has none. -/
theorem mget_mputs_maskCells : ∀ (d : List (Option Byte)) (m : List Host.Cell) (va x : Nat),
    mget (mputs m (maskCells va d)) x = (if va ≤ x then d.getD (x - va) none else none).getD (mget m x)
  | [], m, va, x => by simp [maskCells, mputs]
  | c :: t, m, va, x => by
    have tail (m : List Host.Cell) := mget_mputs_maskCells t m (va + 1) x
    rw [maskCells_cons]
    by_cases h : x = va
    · subst h
      rw [if_pos (Nat.le_refl x), Nat.sub_self]
      simp only [if_neg (Nat.not_succ_le_self x)] at tail
      cases c with
      | none => exact tail m
      | some b => exact (tail _).trans (mget_mset ..)
    · have hd : (if va + 1 ≤ x then t.getD (x - (va + 1)) none else none) = if va ≤ x then (c :: t).getD (x - va) none else none := by
        by_cases hx : va ≤ x
        · rw [if_pos hx, if_pos (by omega), show x - va = x - (va + 1) + 1 by omega]
          rfl
        · rw [if_neg hx, if_neg (by omega)]
      rw [← hd]
      cases c with
      | none => exact tail m
      | some b => exact (tail _).trans (by rw [mget_mset_ne _ _ h])

theorem mget_maskScratch (s : State) (va : Nat) (m : KWord) (v : VWord) (x : Nat) : mget (s.maskScratch va (maskBytes m (vBytes v))).me.mem x =
    if va ≤ x ∧ x < va + 128 ∧ m.getLsbD (x - va) = true then vByte v (x - va) else mget s.me.mem x := by
  refine (mget_mputs_maskCells ..).trans ?_
  by_cases h : va ≤ x ∧ x < va + 128
  · have hx : x - va < 128 := by omega
    rw [if_pos h.1, maskBytes, getD_map_range _ _ hx, vBytes_getD _ hx, active]
    cases m.getLsbD (x - va) <;> simp [h]
  · have hout : ¬ (va ≤ x ∧ x < va + 128 ∧ m.getLsbD (x - va) = true) := fun h' => h ⟨h'.1, h'.2.1⟩
    rw [if_neg hout]
    by_cases hx : va ≤ x
    · rw [if_pos hx, List.getD_eq_default _ _ (by simp [maskBytes]; omega)]
      rfl
    · rw [if_neg hx]
      rfl

/-! ## Pieces (R129; 01 R16) -/

theorem piecesOf_128 {va : Nat} (h : va % 32 = 0) : piecesOf va 128 = [(va, 32), (va + 32, 32), (va + 64, 32), (va + 96, 32)] := by
  have cut {v : Nat} (hv : v % 32 = 0) (f k : Nat) : splitAtSize 32 (f + 1) v (32 * (k + 1)) = (v, 32) :: splitAtSize 32 f (v + 32) (32 * k) := by
    have hmin : min (32 * (k + 1)) (32 - v % 32) = 32 := by omega
    have hrest : 32 * (k + 1) - 32 = 32 * k := by omega
    rw [splitAtSize, if_neg (by omega), hmin]
    dsimp only
    rw [hrest]
  exact (cut h 5 3).trans (by rw [cut (by omega) 4 2, cut (by omega) 3 1, cut (by omega) 2 0]; rfl)

/-- The parts found are those sought. -/
theorem findParts_ranges {o : Opnd} {home : Bool} : ∀ {l : List (Nat × Nat)} {s u : State} {ps : List (Nat × Nat × ReadAt)},
    s.findParts o home l = .ok ps u → ps.map (fun p => (p.1, p.2.1)) = l
  | [], s, u, ps, h => by cases h; rfl
  | (va, n) :: l, s, u, ps, h => by
    obtain ⟨_, _, _, h⟩ := bind_eq_ok.mp h
    obtain ⟨_, _, hrest, h⟩ := bind_eq_ok.mp h
    cases h
    rw [List.map_cons, findParts_ranges hrest]

/-- The pieces of an instruction's `n`-th read that it has not read yet. -/
def State.leftPieces (s : State) (n : Nat) (ps : List (Nat × Nat × ReadAt)) : List (Nat × Nat × ReadAt) :=
  ps.filter fun p => s.me.got.all (·.1 ≠ gotKey n p.1)

/-- `s` with the bytes of one more piece. -/
def State.gotPiece (s : State) (n : Nat) (home : Bool) (p : Nat × Nat × ReadAt) : State :=
  { s with free := s.free + 1, me := { s.me with got := s.me.got ++ [(gotKey n p.1, s.partBytes home p)] } }

/-- A piece read past the L1 region wakes its home's router. -/
def State.wakePiece (s : State) (p : Nat × Nat × ReadAt) : State :=
  match p.2.2 with
  | .l1 _ => s
  | .mem pa => s.wakeHome pa

theorem wakePiece_keeps (s : State) (p : Nat × Nat × ReadAt) : (s.wakePiece p).me = s.me ∧ (s.wakePiece p).mem = s.mem := by
  unfold State.wakePiece
  split
  · exact ⟨rfl, rfl⟩
  · next pa _ =>
    obtain ⟨_, _, _, _, _, h⟩ := wakeHome_eq s pa
    rw [h]
    exact ⟨rfl, rfl⟩

section
variable {s : State} {n : Nat} {o : Opnd} {home : Bool} {ps : List (Nat × Nat × ReadAt)} {p : Nat × Nat × ReadAt}

/-- The last piece ends the read. -/
theorem readPiecewise_last (hl : s.leftPieces n ps = [p]) (hb : s.partBar home p = none) (hp : s.partPoison o home p = false) :
    s.readPiecewise n o home ps =
      .ok (gotBytes n ps (s.gotPiece n home p).me.got) (ps.foldl (fun s p => s.partFill home p) (s.gotPiece n home p)) := by
  unfold State.leftPieces at hl
  rw [State.readPiecewise, hl]
  dsimp only
  rw [firstSome_none (List.forall_mem_singleton.mpr hb)]
  exact if_neg (by simp [hp])

/-- One before it leaves the others to be read. -/
theorem readPiecewise_more (hl : 1 < (s.leftPieces n ps).length) (hb : ∀ p ∈ s.leftPieces n ps, s.partBar home p = none)
    (hp : ∀ p ∈ s.leftPieces n ps, s.partPoison o home p = false) : ∃ t, ∃ p ∈ s.leftPieces n ps,
      s.readPiecewise n o home ps = .done t ∧ t.me = (s.gotPiece n home p).me ∧ t.mem = s.mem := by
  have hne : (s.leftPieces n ps).length ≠ 1 := by omega
  have hlt : Config.loadOrder s.free % (s.leftPieces n ps).length < (s.leftPieces n ps).length := Nat.mod_lt _ (by omega)
  generalize hp' : (s.leftPieces n ps)[Config.loadOrder s.free % (s.leftPieces n ps).length] = p
  have hget : (s.leftPieces n ps)[if (s.leftPieces n ps).length = 1 then 0 else Config.loadOrder s.free % (s.leftPieces n ps).length]? = some p := by
    rw [if_neg hne, List.getElem?_eq_getElem hlt, hp']
  have hmem : p ∈ s.leftPieces n ps := hp' ▸ List.getElem_mem hlt
  refine ⟨(s.gotPiece n home p).wakePiece p, p, hmem, ?_, wakePiece_keeps ..⟩
  unfold State.leftPieces at hb hp hne hget
  rw [State.readPiecewise]
  dsimp only
  rw [firstSome_none hb]
  dsimp only
  rw [if_neg (by simpa using hp), hget]
  exact if_neg hne

end

/-- An operand of which a mask takes the bytes. -/
def Opnd.under (o : Opnd) (m : KWord) : Opnd := { o with skip := skipped m o.va }

/-- A byte of a part is poisoned. -/
def State.poisonAt (s : State) (p : Nat × Nat × ReadAt) (j : Nat) : Bool :=
  match p.2.2 with
  | .l1 l => l.poison.contains ((l.pline * 128 + p.1 % 128 + j) / 32)
  | .mem pa => s.viewPoison (s.slotReqs s.cur) s.myTower false (pa + j)

/-- A part carries no poison for a mask that has none of its poisoned bytes. -/
theorem partPoison_under {s : State} {o : Opnd} {m : KWord} {p : Nat × Nat × ReadAt} (hlo : o.va ≤ p.1) (hhi : p.1 + p.2.1 ≤ o.va + 128)
    (h : ∀ j < p.2.1, m.getLsbD (p.1 + j - o.va) = true → s.poisonAt p j = false) : s.partPoison (o.under m) false p = false := by
  refine List.any_eq_false.mpr fun j hj => ?_
  have hj := mem_upFrom_zero.mp hj
  by_cases hm : m.getLsbD (p.1 + j - o.va) = true
  · have hclean := h j hj hm
    obtain ⟨x, n, at_⟩ := p
    cases at_ <;> simp_all [State.poisonAt]
  · have hskip : p.1 + j ∈ (o.under m).skip := List.mem_map.mpr ⟨p.1 + j - o.va, by simp [active, hm]; omega, by omega⟩
    simp [hskip]

/-! ## The forms (R127, R128) -/

theorem advance_issued (s : State) (len : Nat) : s.issued.advance len = s.advance len := by
  have hsetG (n : BitVec 6) (v : Word) : s.issued.me.setG n v = { s.me.setG n v with issued := true } := by
    unfold Ctx.setG
    split <;> rfl
  have hended (c : Ctx) : { c with issued := true }.ended = c.ended := rfl
  have hme : s.issued.me.advance len = s.me.advance len := by
    unfold Ctx.advance
    rw [show s.issued.me.rep = s.me.rep from rfl, show s.issued.me.getG = s.me.getG from rfl, show s.issued.me.ended = s.me.ended from rfl,
      show s.issued.me.pc = s.me.pc from rfl]
    simp only [hsetG, hended]
  exact congrArg (fun c => { s with me := c }) hme

section
variable {s : State} {d : BitVec 5} {a : BitVec 4} {disp : BitVec 5} {o : Opnd} (ho : s.me.ownsV d = true) (k : BitVec 3)
include ho

theorem opVld_checked (hc : s.check a (s.vea a disp) 128 true false 128 = .ok o s) : opVld d a disp k s =
    if s.me.getK k = 0 then s.advance 4
    else (s.issued.read (o.under (s.me.getK k)) 128).andThen fun bs t =>
      (t.setV d (byteMerge (s.me.getK k) (t.me.getV d) bs)).advance 4 := by
  rw [opVld, vCheck_owned ho, hc, andThen_ok]
  rfl

theorem opVst_checked (hc : s.check a (s.vea a disp) 128 false true 128 = .ok o s) : opVst d a disp k s =
    if s.me.getK k = 0 then s.advance 4
    else (s.issued.writeReady o 128).andThen fun ps t =>
      (t.writeMask o ps (maskBytes (s.me.getK k) (vBytes (t.me.getV d))) false false).advance 4 := by
  rw [opVst, vCheck_owned ho, hc, andThen_ok]

theorem opVldBc_checked {f : Fmt} (hc : s.check a (s.vea a disp) f.bytes true false f.bytes = .ok o s) : opVldBc f d a disp k s =
    if !anyActive f (s.me.getK k) then s.advance 4
    else (s.issued.read o f.bytes).andThen fun bs t =>
      (t.setV d (laneWrite f (s.me.getK k) (t.me.getV d) fun _ => leNat bs)).advance 4 := by
  rw [opVldBc, vCheck_owned ho, hc, andThen_ok]

end

@[simp] theorem setV_getV (s : State) (d : BitVec 5) : s.setV d (s.me.getV d) = s := by
  have h : s.me.setV d (s.me.getV d) = s.me := congrArg (fun v => { s.me with v := v }) (Vector.set_getElem_self _)
  exact congrArg (fun c => { s with me := c }) h

/-- A form that writes a register once its access is issued, as one that is not issued does. -/
theorem setV_advance_issued (s : State) (d : BitVec 5) (w : VWord) (len : Nat) : (s.issued.setV d w).advance len = (s.setV d w).advance len :=
  advance_issued (s.setV d w) len

theorem getD_mgets (m : List Host.Cell) (a : Nat) {n i : Nat} (h : i < n) : (mgets m a n).getD i 0 = mget m (a + i) := by
  have hi : i < (mgets m a n).length := by rw [mgets_length]; exact h
  rw [List.getD_eq_getElem _ _ hi, getElem_mgets]

theorem anyActive_eq_false {f : Fmt} {m : KWord} (h : anyActive f m = false) {i : Nat} (hi : i < lanesOf f) : m.getLsbD i = false :=
  Bool.eq_false_iff.mpr (List.any_eq_false.mp h i (List.mem_range.mpr hi))

/-- With no active lane every lane keeps its value. -/
theorem lanesAre_none {f : Fmt} {m : KWord} (h : anyActive f m = false) (old : VWord) (g : Nat → Nat) : LanesAre f m old old g := fun i hi => by
  rw [anyActive_eq_false h hi]
  rfl

section
variable {s : State} {d : BitVec 5} {a : BitVec 4} {disp : BitVec 5} {ea : Nat} (ho : s.me.ownsV d = true) (hea : s.vea a disp = ea) (k : BitVec 3)
include ho hea

theorem opVld_scratch (hok : s.ScratchOk a ea 128 true false 128) (hclean : s.ScratchClean ea 128) : ∃ w : VWord,
    opVld d a disp k s = (s.setV d w).advance 4 ∧
      ∀ i < 128, vByte w i = if (s.me.getK k).getLsbD i then mget s.me.mem (ea + i) else vByte (s.me.getV d) i := by
  rw [opVld_checked ho k (by rw [hea]; exact check_scratchOk hok)]
  by_cases hm : s.me.getK k = 0
  · rw [if_pos hm, hm]
    exact ⟨s.me.getV d, by rw [setV_getV], fun i _ => by simp⟩
  · rw [if_neg hm, read_scratch _ rfl, readScratch_of_clean (by exact hclean), andThen_ok]
    refine ⟨_, setV_advance_issued .., fun i hi => ?_⟩
    rw [vByte_byteMerge _ _ _ hi]
    rw [getD_mgets _ _ hi]
    rfl

theorem opVst_scratch (hok : s.ScratchOk a ea 128 false true 128) : ∃ t : State, opVst d a disp k s = t.advance 4 ∧
    t = { s with me := { s.me with mem := t.me.mem, poison := t.me.poison } } ∧ ∀ x, mget t.me.mem x =
      if ea ≤ x ∧ x < ea + 128 ∧ (s.me.getK k).getLsbD (x - ea) = true then vByte (s.me.getV d) (x - ea) else mget s.me.mem x := by
  rw [opVst_checked ho k (by rw [hea]; exact check_scratchOk hok)]
  by_cases hm : s.me.getK k = 0
  · rw [if_pos hm, hm]
    exact ⟨s, rfl, rfl, fun x => by simp⟩
  · rw [if_neg hm, writeReady_scratch _ rfl, andThen_ok]
    exact ⟨s.maskScratch ea (maskBytes (s.me.getK k) (vBytes (s.me.getV d))), advance_issued (s.maskScratch ea _) 4, rfl,
      mget_maskScratch _ _ _ _⟩

theorem opVldBc_scratch {f : Fmt} (hok : s.ScratchOk a ea f.bytes true false f.bytes) (hclean : s.ScratchClean ea f.bytes) : ∃ w : VWord,
    opVldBc f d a disp k s = (s.setV d w).advance 4 ∧ LanesAre f (s.me.getK k) (s.me.getV d) w fun _ => s.scratchVal ea f.bytes := by
  rw [opVldBc_checked ho k (by rw [hea]; exact check_scratchOk hok)]
  cases hany : anyActive f (s.me.getK k)
  · exact ⟨s.me.getV d, by rw [setV_getV]; rfl, lanesAre_none hany _ _⟩
  · rw [Bool.not_true, if_neg (by decide), read_scratch _ rfl, readScratch_of_clean (by exact hclean), andThen_ok]
    exact ⟨_, setV_advance_issued .., lanesAre_laneWrite _ _ _ _⟩

end

/-! ## Global lines (R128, R129) -/

section
variable {s s1 u : State} {d : BitVec 5} {a : BitVec 4} {disp : BitVec 5} {o : Opnd} {k : BitVec 3} {ps : List (Nat × Nat × ReadAt)}

/-- The read of a VLD from a global line, once it is charged (to `s1`) and its pieces `ps` are found (with the state then `u`). -/
structure VldFound (s s1 u : State) (a : BitVec 4) (disp : BitVec 5) (o : Opnd) (k : BitVec 3) (ps : List (Nat × Nat × ReadAt)) : Prop where
  check : s.check a (s.vea a disp) 128 true false 128 = .ok o s
  global : o.scratch = false
  aligned : o.va % 32 = 0
  active : s.me.getK k ≠ 0
  charge : s.issued.charge (s.issued.readCost o.va 128) = .ok () s1
  found : s1.findParts (o.under (s.me.getK k)) false (piecesOf o.va 128) = .ok ps u

theorem partFills_keep (home : Bool) : ∀ (ps : List (Nat × Nat × ReadAt)) (s : State),
    (ps.foldl (fun s p => s.partFill home p) s).me = s.me ∧ (ps.foldl (fun s p => s.partFill home p) s).mem = s.mem
  | [], s => ⟨rfl, rfl⟩
  | p :: ps, s => by
    obtain ⟨hme, hmem⟩ := partFills_keep home ps (s.partFill home p)
    exact ⟨hme.trans (partFill_me ..), hmem.trans (partFill_mem ..)⟩

section
variable (h : VldFound s s1 u a disp o k ps)
include h

/-- Its pieces lie in the line. -/
theorem VldFound.in_line {p : Nat × Nat × ReadAt} (hp : p ∈ ps) : o.va ≤ p.1 ∧ p.1 + p.2.1 ≤ o.va + 128 := by
  have hmem : (p.1, p.2.1) ∈ piecesOf o.va 128 := findParts_ranges h.found ▸ List.mem_map_of_mem (f := fun p => (p.1, p.2.1)) hp
  rw [piecesOf_128 h.aligned] at hmem
  simp only [List.mem_cons, Prod.mk.injEq, List.not_mem_nil, or_false] at hmem
  omega

variable (ho : s.me.ownsV d = true) (hb : ∀ p ∈ u.leftPieces 0 ps, u.partBar false p = none)
  (hc : ∀ p ∈ u.leftPieces 0 ps, ∀ j < p.2.1, (s.me.getK k).getLsbD (p.1 + j - o.va) = true → u.poisonAt p j = false)

include hc in
theorem VldFound.clean : ∀ p ∈ u.leftPieces 0 ps, u.partPoison (o.under (s.me.getK k)) false p = false := fun p hp =>
  have hline := h.in_line (List.mem_filter.mp hp).1
  partPoison_under hline.1 hline.2 (hc p hp)

include ho

theorem VldFound.run : opVld d a disp k s = (u.readPiecewise 0 (o.under (s.me.getK k)) false ps).andThen fun bs t =>
    (t.setV d (byteMerge (s.me.getK k) (t.me.getV d) bs)).advance 4 := by
  have hf := h.found
  rw [opVld_checked ho k h.check, if_neg h.active, read_charged (o := o.under (s.me.getK k)) h.global h.charge,
    show (o.under (s.me.getK k)).va = o.va from rfl]
  rw [piecesOf_128 h.aligned] at hf ⊢
  dsimp only
  rw [hf, bind_ok]

include hb hc

/-- With more than one piece left it reads one. -/
theorem VldFound.more (hl : 1 < (u.leftPieces 0 ps).length) : ∃ t, ∃ p ∈ u.leftPieces 0 ps,
    opVld d a disp k s = t ∧ t.me = (u.gotPiece 0 false p).me ∧ t.mem = u.mem := by
  obtain ⟨t, p, hp, hr, hme, hmem⟩ := readPiecewise_more hl hb (h.clean hc)
  exact ⟨t, p, hp, by rw [h.run ho, hr, andThen_done], hme, hmem⟩

/-- With the last it completes. -/
theorem VldFound.last {p : Nat × Nat × ReadAt} (hl : u.leftPieces 0 ps = [p]) : ∃ (t : State) (w : VWord),
    opVld d a disp k s = (t.setV d w).advance 4 ∧ t.mem = u.mem ∧ t.me.v = u.me.v ∧ ∀ i < 128, vByte w i =
      if (s.me.getK k).getLsbD i then (gotBytes 0 ps (u.gotPiece 0 false p).me.got).getD i 0 else vByte (u.me.getV d) i := by
  have hp : p ∈ u.leftPieces 0 ps := by rw [hl]; exact List.mem_singleton_self p
  obtain ⟨hme, hmem⟩ := partFills_keep false ps (u.gotPiece 0 false p)
  have hv : (ps.foldl (fun s p => s.partFill false p) (u.gotPiece 0 false p)).me.v = u.me.v := (congrArg Ctx.v hme).trans rfl
  rw [h.run ho, readPiecewise_last hl (hb p hp) (h.clean hc p hp), andThen_ok]
  refine ⟨_, _, rfl, hmem, hv, fun i hi => ?_⟩
  rw [vByte_byteMerge _ _ _ hi, Ctx.getV, hv]
  rfl

end

/-- VLD.BC writes the element that its read gives. -/
theorem opVldBc_read {f : Fmt} {t : State} {bs : List Byte} (ho : s.me.ownsV d = true)
    (hc : s.check a (s.vea a disp) f.bytes true false f.bytes = .ok o s) (hany : anyActive f (s.me.getK k) = true)
    (hr : s.issued.read o f.bytes = .ok bs t) : ∃ w : VWord, opVldBc f d a disp k s = (t.setV d w).advance 4 ∧
      LanesAre f (s.me.getK k) (t.me.getV d) w fun _ => leNat bs := by
  rw [opVldBc_checked ho k hc, hany, Bool.not_true, if_neg (by decide), hr, andThen_ok]
  exact ⟨_, rfl, lanesAre_laneWrite _ _ _ _⟩

end

end Sys2Proof.Machine

open Sys2Proof Sys2Proof.Machine

/-- Settles O34: a form in scratch is its bytes under the mask; from global lines VLD goes piece by piece, in an order that is free (log 80), as
`VldFound` says, and VLD.BC reads as a load does. -/
theorem vectorMemory : Obligations.VectorMemory := by
  unfold Obligations.VectorMemory
  intro s s1 u f d a disp k ea pa l ps ho hea m byte
  have hva : s.vea a disp = ea := by rw [hea]; rfl
  have completes {t : State} {P : VWord → Prop} (h : ∃ w, t = (s.setV d w).advance 4 ∧ P w) :
      ∃ w, (.next t : Out) = .next ((s.setV d w).advance 4) ∧ P w := h.imp fun w h => ⟨congrArg _ h.1, h.2⟩
  refine ⟨fun hok hclean => completes (opVld_scratch ho hva k hok hclean), fun hok => ?vst,
    fun hok hclean => completes (opVldBc_scratch ho hva k hok hclean), ?global⟩
  case vst =>
    obtain ⟨t, h, ht, hmem⟩ := opVst_scratch ho hva k hok
    exact ⟨t, congrArg _ h, ht, hmem⟩
  case global =>
    have hpass {q : AccessForm} (hq : q.Passes) (hs : q.opnd.scratch = false) :
        q.st.check q.areg q.ea q.n q.rd q.wr q.align = .ok q.opnd q.st := hq.check_present fun h => absurd h (Bool.eq_false_iff.mp hs)
    refine List.forall_mem_cons.mpr ⟨fun hq hs => ⟨fun hg => ?vldNone, fun _ hg hcharge hfound => ?vld, nofun⟩,
      List.forall_mem_cons.mpr ⟨fun hq hs => ⟨fun hg => ?vstNone, nofun, nofun⟩,
      List.forall_mem_singleton.mpr fun hq hs => ⟨fun hg => ?bcNone, nofun, fun _ hg => ?bc⟩⟩⟩
    case vldNone => exact congrArg _ ((opVld_checked ho k (hpass hq hs)).trans (if_pos (not_not.mp (of_decide_eq_false hg))))
    case vstNone => exact congrArg _ ((opVst_checked ho k (hpass hq hs)).trans (if_pos (not_not.mp (of_decide_eq_false hg))))
    case bcNone => exact congrArg _ ((opVldBc_checked ho k (hpass hq hs)).trans (if_pos (by rw [Bool.not_eq_true']; exact hg)))
    case vld =>
      intro left hclear
      have haligned : (128 : Nat) = 0 ∨ s.vea a disp % (128 : Nat) = 0 := hq.2.2.1
      have hal : ea % 32 = 0 := by rw [hva] at haligned; omega
      subst hea
      have found : VldFound s s1 u a disp _ k ps := ⟨hpass hq hs, hs, hal, of_decide_eq_true hg, hcharge, hfound⟩
      have hbar : ∀ p ∈ left, u.partBar false p = none := fun p hp => (hclear p hp).1
      have hclean := fun p hp => (hclear p hp).2
      refine ⟨fun hl => ?_, fun p hl => ?_⟩
      · obtain ⟨t, p, hp, ht, hme, hmem⟩ := found.more ho hbar hclean hl
        exact ⟨t, p, hp, congrArg _ ht, hme, hmem⟩
      · obtain ⟨t, w, ht, hmem, hv, hw⟩ := found.last ho hbar hclean hl
        exact ⟨t, w, congrArg _ ht, hmem, hv, hw⟩
    case bc =>
      subst hea
      refine ⟨fun hit => ?_, fun hpast => ?_⟩
      · obtain ⟨w, hw, hl⟩ := opVldBc_read ho (hpass hq hs) hg (read_hit hit)
        exact ⟨s.issued, w, congrArg _ hw, rfl, hl⟩
      · obtain ⟨t, hr, hme, hmem⟩ := read_past hpast
        obtain ⟨w, hw, hl⟩ := opVldBc_read ho (hpass hq hs) hg hr
        exact ⟨t, w, congrArg _ hw, hmem, hme ▸ hl⟩
end

section
/-! PROOFS. The physical address map (09 R144). -/

namespace Sys2Proof.Machine

/-- Above the towers' half, the host's window and the peers' fill what 52 bits can address. -/
theorem homeOf_outer_iff {pa : Nat} : (homeOf pa = some .host ∨ ∃ p, homeOf pa = some (.peer p)) ↔ 0x8000000000000 ≤ pa ∧ pa < 2 ^ 52 := by
  unfold homeOf
  split
  · split <;> simp <;> omega
  · split
    · simp; omega
    · split <;> simp <;> omega

/-- Below the host's window an address has a home at a tower or none. -/
theorem homeOf_below {pa : Nat} (h : pa < 0x8000000000000) : homeOf pa = none ∨ ∃ t < 4, homeOf pa = some (.tower t) := by
  unfold homeOf
  rw [if_pos h]
  split
  · next hb => exact .inr ⟨_, hb.1, rfl⟩
  · exact .inl rfl

/-- A tower's memory is the first 192 GiB of its 256 GiB of addresses. -/
theorem homeOf_tower_iff_range {pa t : Nat} (ht : t < 4) :
    homeOf pa = some (.tower t) ↔ t * 2 ^ 38 ≤ pa ∧ pa ≤ t * 2 ^ 38 + 0x2FFFFFFFFF := by
  rw [homeOf_tower_iff]
  omega

/-- No address has more than 52 bits. -/
theorem homeOf_beyond {pa : Nat} (h : 2 ^ 52 ≤ pa) : homeOf pa = none := by
  unfold homeOf
  rw [if_neg (by omega), if_neg (by omega), if_neg (by omega)]

end Sys2Proof.Machine

open Sys2Proof Sys2Proof.Machine in
/-- Settles O60: the windows of the towers, of the host and of the peers, one after another. -/
theorem physicalMap : Obligations.PhysicalMap := by
  intro pa t
  refine ⟨homeOf_tower_iff_range, fun hlow hout => ?_, ?_, homeOf_beyond⟩
  · refine (homeOf_below hlow).resolve_right ?_
    rintro ⟨u, hu, hpa⟩
    have := (homeOf_tower_iff_range hu).1 hpa
    have := hout u hu
    omega
  · rw [homeOf_outer_iff]
    omega
end

section
/-! PROOFS. Every step keeps device memory in canonical form (09 R144, 10 R163): one lemma for each operation of the machine, in the model's order,
from the operations on the slot up to the step. Four operations write memory: a write put in place (`State.putBytes`), a released payload block that is
zeroed, a tensor table that is zeroed, and the reset, which keeps it. Every other operation is made of these and of updates of other fields,
so its proof names the operations in which its branches end. -/

namespace Sys2Proof.Machine

/-! ## The invariant, of a state and of the outcomes that carry one -/

/-- Device memory is in canonical form. -/
def State.MemWf (s : State) : Prop := Memory.wf s.mem = true

def Look.MemWf : Look → Prop
  | .ok _ s => s.MemWf
  | .fault s => s.MemWf
  | .denied s => s.MemWf

def Res.MemWf : Res α → Prop
  | .ok _ s => s.MemWf
  | .done s => s.MemWf

def Got.MemWf : Got α → Prop
  | .ok _ s => s.MemWf
  | .wait s => s.MemWf
  | .none s => s.MemWf

def Eng.MemWf : Eng α → Prop
  | .ok _ s => s.MemWf
  | .fault _ s => s.MemWf
  | .denied _ s => s.MemWf
  | .wait s => s.MemWf

/-- The same of a walk's answer: an entry with the state, or the state in which the walk stopped. -/
def WalkMemWf : Except State (TlbEntry × State) → Prop
  | .ok p => p.2.MemWf
  | .error s => s.MemWf

/-- The same of a step: the next state, if there is one. -/
def Out.MemWf : Out → Prop
  | .next s => s.MemWf
  | .fault _ => True
  | .refused _ => True

/-! ## Sequences, branches and repetitions -/

theorem Res.bind_memWf {r : Res α} {f : α → State → Res β} (hr : r.MemWf) (hf : ∀ a s, s.MemWf → (f a s).MemWf) : (r.bind f).MemWf := by
  cases r with
  | ok a t => exact hf a t hr
  | done t => exact hr

theorem Res.andThen_memWf {r : Res α} {f : α → State → State} (hr : r.MemWf) (hf : ∀ a s, s.MemWf → (f a s).MemWf) : (r.andThen f).MemWf := by
  cases r with
  | ok a t => exact hf a t hr
  | done t => exact hr

theorem Got.bind_memWf {g : Got α} {f : α → State → Got β} (hg : g.MemWf) (hf : ∀ a s, s.MemWf → (f a s).MemWf) : (g.bind f).MemWf := by
  cases g with
  | ok a t => exact hf a t hg
  | wait t => exact hg
  | none t => exact hg

theorem Eng.bind_memWf {r : Eng α} {f : α → State → Eng β} (hr : r.MemWf) (hf : ∀ a s, s.MemWf → (f a s).MemWf) : (r.bind f).MemWf := by
  cases r with
  | ok a t => exact hf a t hr
  | fault v t => exact hr
  | denied v t => exact hr
  | wait t => exact hr

theorem ite_memWf {c : Prop} [Decidable c] {s t : State} (h : s.MemWf) (h' : t.MemWf) : (if c then s else t).MemWf := by
  split
  · exact h
  · exact h'

theorem foldl_memWf {f : State → α → State} {l : List α} {s : State} (hf : ∀ s a, s.MemWf → (f s a).MemWf) (h : s.MemWf) :
    (l.foldl f s).MemWf := foldl_wf hf l s h

/-- What leaves memory alone keeps its form. -/
theorem State.MemWf.congr {s t : State} (h : s.MemWf) (e : t.mem = s.mem) : t.MemWf := by
  rw [State.MemWf, e]
  exact h

/-- Writing the same bytes at several addresses keeps the canonical form. -/
theorem wf_foldl_msets (l : List Nat) (d : List Byte) {m : List Host.Cell} (h : Memory.wf m = true) :
    Memory.wf (l.foldl (fun m p => msets m p d) m) = true :=
  List.foldlRecOn (motive := fun m => Memory.wf m = true) l _ h fun _ h p _ => wf_msets d p h

theorem firstSome_eq_some {f : α → Option β} {l : List α} {b : β} (e : firstSome f l = some b) : ∃ a ∈ l, f a = some b := by
  induction l with
  | nil => cases e
  | cons x t ih =>
    unfold firstSome at e
    split at e
    · next hx => exact ⟨x, List.mem_cons_self, hx.trans e⟩
    · obtain ⟨a, ha, hf⟩ := ih e
      exact ⟨a, List.mem_cons_of_mem x ha, hf⟩

variable {s : State}

/-! ## The slot, its registers, traps and waits (Ops) -/

theorem setTower_memWf {t x} (h : s.MemWf) : (s.setTower t x).MemWf := h
theorem setCore_memWf {c x} (h : s.MemWf) : (s.setCore c x).MemWf := h
theorem setCluster_memWf {c x} (h : s.MemWf) : (s.setCluster c x).MemWf := h

theorem setCtx_memWf {k c} (h : s.MemWf) : (s.setCtx k c).MemWf := by
  unfold State.setCtx
  exact ite_memWf h h

theorem switch_memWf {k} (h : s.MemWf) : (s.switch k).MemWf := by
  unfold State.switch
  exact ite_memWf h h

theorem setSpace_memWf {asid x} (h : s.MemWf) : (s.setSpace asid x).MemWf := h
theorem raise_memWf {i} (h : s.MemWf) : (s.raise i).MemWf := h
theorem raises_memWf {l} (h : s.MemWf) : (s.raises l).MemWf := h
theorem report_memWf {r} (h : s.MemWf) : (s.report r).MemWf := h
theorem byFirmware_memWf {f} (h : s.MemWf) (hf : ∀ s, s.MemWf → (f s).MemWf) : (s.byFirmware f).MemWf := ite_memWf h (hf s h)
theorem setG_memWf {n v} (h : s.MemWf) : (s.setG n v).MemWf := h
theorem setA_memWf {n v} (h : s.MemWf) : (s.setA n v).MemWf := h
theorem setQ_memWf {n v} (h : s.MemWf) : (s.setQ n v).MemWf := h
theorem setK_memWf {n v} (h : s.MemWf) : (s.setK n v).MemWf := h
theorem setV_memWf {n v} (h : s.MemWf) : (s.setV n v).MemWf := h
theorem advance_memWf {len} (h : s.MemWf) : (s.advance len).MemWf := h
theorem retG_memWf {d v len} (h : s.MemWf) : (s.retG d v len).MemWf := h
theorem jump_memWf {target} (h : s.MemWf) : (s.jump target).MemWf := h
theorem beginSuspendKey_memWf {k cause} (h : s.MemWf) : (s.beginSuspendKey k cause).MemWf := raise_memWf (setCtx_memWf h)
theorem beginSuspend_memWf {cause} (h : s.MemWf) : (s.beginSuspend cause).MemWf := beginSuspendKey_memWf h

theorem trapTo_memWf {code info ret} (h : s.MemWf) : (s.trapTo code info ret).MemWf := by
  unfold State.trapTo
  grind [beginSuspend_memWf, State.MemWf]

theorem trap_memWf {code info} (h : s.MemWf) : (s.trap code info).MemWf := trapTo_memWf h
theorem illegal_memWf (h : s.MemWf) : s.illegal.MemWf := trap_memWf h
theorem limitTrap_memWf {num va} (h : s.MemWf) : (s.limitTrap num va).MemWf := trap_memWf h
theorem permTrap_memWf {src num va} (h : s.MemWf) : (s.permTrap src num va).MemWf := trap_memWf h
theorem misaligned_memWf {va} (h : s.MemWf) : (s.misaligned va).MemWf := trap_memWf h
theorem ringMisuse_memWf {q} (h : s.MemWf) : (s.ringMisuse q).MemWf := trap_memWf h
theorem poisonTrap_memWf {va} (h : s.MemWf) : (s.poisonTrap va).MemWf := trap_memWf h

theorem eret_memWf (h : s.MemWf) : s.eret.MemWf := by
  unfold State.eret
  grind [illegal_memWf, State.MemWf]

theorem stall_memWf {y} (h : s.MemWf) : (s.stall y).MemWf := h
theorem hold_memWf {y} (h : s.MemWf) : (s.hold y).MemWf := h
theorem park_memWf {p} (h : s.MemWf) : (s.park p).MemWf := h
theorem touch_memWf {core} (h : s.MemWf) : (s.touch core).MemWf := h
theorem wakeSlot_memWf {k} (h : s.MemWf) : (s.wakeSlot k).MemWf := touch_memWf (setCtx_memWf h)
theorem completeSlot_memWf {k f len} (h : s.MemWf) : (s.completeSlot k f len).MemWf := touch_memWf (setCtx_memWf h)

/-! ## Homes, translation, the port, reads, writes, pins and announcements (Memory) -/

theorem wakeRouter_memWf {t sl} (h : s.MemWf) : (s.wakeRouter t sl).MemWf := h.congr (wakeRouter_mem ..)
theorem wakeCore_memWf {core} (h : s.MemWf) : (s.wakeCore core).MemWf := wakeRouter_memWf h
theorem wakeHome_memWf {pa} (h : s.MemWf) : (s.wakeHome pa).MemWf := h.congr (wakeHome_mem ..)
theorem applyAnn_memWf {a} (h : s.MemWf) : (s.applyAnn a).MemWf := h
theorem mscAdd_memWf {pline} (h : s.MemWf) : (s.mscAdd pline).MemWf := h.congr (mscAdd_mem ..)
theorem performAt_memWf {pa data clean bad} (h : s.MemWf) : (s.performAt pa data clean bad).MemWf := performAt_wf s pa data clean bad h
theorem clockMoved_memWf {u} (h : s.MemWf) : (s.clockMoved u).MemWf := h.congr (clockMoved_mem ..)
theorem reach_memWf {t need} (h : s.MemWf) : (s.reach t need).MemWf := h.congr (reach_mem ..)

theorem performFrom_memWf {w pa data clean bad} (h : s.MemWf) : (s.performFrom w pa data clean bad).MemWf :=
  performFrom_wf s w pa data clean bad h

theorem addWatch_memWf {cl line} (h : s.MemWf) : (s.addWatch cl line).MemWf := h.congr (addWatch_mem ..)
theorem putPin_memWf {pa data clean bad} (h : s.MemWf) : (s.putPin pa data clean bad).MemWf := h
theorem pinLine_memWf {cl pline tid} (h : s.MemWf) : (s.pinLine cl pline tid).MemWf := h.congr (pinLine_mem ..)
theorem retryDones_memWf (h : s.MemWf) : s.retryDones.MemWf := h.congr (retryDones_mem ..)
theorem endPin_memWf {p} (h : s.MemWf) : (s.endPin p).MemWf := endPin_wf s p h
theorem place_memWf {w pa data clean bad} (h : s.MemWf) : (s.place w pa data clean bad).MemWf := place_wf s w pa data clean bad h
theorem unpinTask_memWf {tid} (h : s.MemWf) : (s.unpinTask tid).MemWf := unpinTask_wf s tid h
theorem signal_memWf {pa} (h : s.MemWf) : (s.signal pa).MemWf := h
theorem walkWake_memWf {root va cls} (h : s.MemWf) : (s.walkWake root va cls).MemWf := foldl_memWf (fun _ _ h => wakeHome_memWf h) h
theorem setAD_memWf {w l write} (h : s.MemWf) : (s.setAD w l write).MemWf := ite_memWf h (performFrom_memWf h)
theorem faultRecord_memWf {t r} (h : s.MemWf) : (s.faultRecord t r).MemWf := h
theorem addTlb_memWf {e} (h : s.MemWf) : (s.addTlb e).MemWf := h
theorem addL2_memWf {l} (h : s.MemWf) : (s.addL2 l).MemWf := mscAdd_memWf (by grind [State.MemWf])

theorem walkSlice_memWf {w sl va cls acc} (h : s.MemWf) : WalkMemWf (s.walkSlice w sl va cls acc) := by
  unfold State.walkSlice
  grind [faultRecord_memWf, walkWake_memWf, setAD_memWf, addTlb_memWf, WalkMemWf]

theorem fillL2_memWf {e va} (h : s.MemWf) : (s.fillL2 e va).MemWf := by
  unfold State.fillL2
  exact ite_memWf (addL2_memWf h) h

theorem prefetch_memWf {e va} (h : s.MemWf) : (s.prefetch e va).MemWf :=
  ite_memWf (foldl_memWf (fun _ _ h => fillL2_memWf h) (ite_memWf h h)) (ite_memWf h h)

theorem translate_memWf {w va cls acc} (h : s.MemWf) : (s.translate w va cls acc).MemWf := by
  unfold State.translate
  grind [wakeRouter_memWf, wakeCore_memWf, walkSlice_memWf, fillL2_memWf, prefetch_memWf, Look.MemWf, WalkMemWf]

theorem chargeFor_memWf {item cost} (h : s.MemWf) : (s.chargeFor item cost).MemWf := by
  unfold State.chargeFor
  grind [setCore_memWf, raise_memWf, hold_memWf, State.MemWf, Res.MemWf]

theorem charge_memWf {cost} (h : s.MemWf) : (s.charge cost).MemWf := chargeFor_memWf h
theorem l1Add_memWf {core l} (h : s.MemWf) : (s.l1Add core l).MemWf := h.congr (l1Add_mem ..)
theorem l1Flush_memWf {core} (h : s.MemWf) : (s.l1Flush core).MemWf := h
theorem l1Drop_memWf {core pline} (h : s.MemWf) : (s.l1Drop core pline).MemWf := h
theorem l1Fill_memWf {core k l} (h : s.MemWf) : (s.l1Fill core k l).MemWf := ite_memWf (l1Drop_memWf h) (l1Add_memWf h)
theorem l1Store_memWf {pa d} (h : s.MemWf) : (s.l1Store pa d).MemWf := ite_memWf (l1Drop_memWf h) (setCore_memWf h)

theorem xlate_memWf {o va acc} (h : s.MemWf) : (s.xlate o va acc).MemWf := by
  unfold State.xlate
  grind [translate_memWf, beginSuspend_memWf, permTrap_memWf, Res.MemWf, Look.MemWf]

theorem rdcAdd_memWf {t pa} (h : s.MemWf) : (s.rdcAdd t pa).MemWf := by
  unfold State.rdcAdd
  grind [mscAdd_memWf, State.MemWf]

theorem findParts_memWf {o home l} (h : s.MemWf) : (s.findParts o home l).MemWf := by
  induction l generalizing s with
  | nil => exact h
  | cons p t ih =>
    refine Res.bind_memWf ?_ fun _ _ h => Res.bind_memWf (ih h) fun _ _ h => h
    split
    · exact h
    · exact Res.bind_memWf (xlate_memWf h) fun _ _ h => h

theorem partFill_memWf {home p} (h : s.MemWf) : (s.partFill home p).MemWf := h.congr (partFill_mem ..)

theorem readFound_memWf {o home ps} (h : s.MemWf) : (s.readFound o home ps).MemWf := by
  unfold State.readFound
  split
  · exact stall_memWf h
  split
  · exact poisonTrap_memWf h
  · exact foldl_memWf (fun _ _ h => partFill_memWf h) h

theorem readParts_memWf {o home l} (h : s.MemWf) : (s.readParts o home l).MemWf :=
  Res.bind_memWf (findParts_memWf h) fun _ _ h => readFound_memWf h

theorem readScratch_memWf {o len} (h : s.MemWf) : (s.readScratch o len).MemWf := by
  unfold State.readScratch
  grind [poisonTrap_memWf, Res.MemWf]

theorem readPiecewise_memWf {n o home ps} (h : s.MemWf) : (s.readPiecewise n o home ps).MemWf := by
  unfold State.readPiecewise
  dsimp only
  split
  · exact stall_memWf h
  split
  · exact poisonTrap_memWf h
  split
  · exact h
  split
  · exact foldl_memWf (fun _ _ h => partFill_memWf h) h
  · next p _ _ =>
    cases p.2.2 with
    | l1 _ => exact h
    | mem pa => exact wakeHome_memWf h

theorem read_memWf {o len} (h : s.MemWf) : (s.read o len).MemWf := by
  unfold State.read
  grind [readScratch_memWf, Res.bind_memWf, charge_memWf, readParts_memWf, findParts_memWf, readPiecewise_memWf]

theorem leavePin_memWf {scope pa} (h : s.MemWf) : (s.leavePin scope pa).MemWf := by
  unfold State.leavePin
  grind [endPin_memWf, stall_memWf, Res.MemWf]

theorem readHome_memWf {o len scope} (h : s.MemWf) : (s.readHome o len scope).MemWf :=
  Res.bind_memWf (charge_memWf h) fun _ _ h => Res.bind_memWf (xlate_memWf h) fun _ _ h => Res.bind_memWf (leavePin_memWf h) fun _ _ h =>
    Res.bind_memWf (readFound_memWf h) fun _ _ h => h

theorem xlateParts_memWf {o acc l} (h : s.MemWf) : (s.xlateParts o acc l).MemWf := by
  induction l generalizing s with
  | nil => exact h
  | cons p t ih => exact Res.bind_memWf (xlate_memWf h) fun _ _ h => Res.bind_memWf (ih h) fun _ _ h => h

theorem pushReq_memWf {va cls pa op scope sig paid} (h : s.MemWf) : (s.pushReq va cls pa op scope sig paid).MemWf :=
  raise_memWf (by grind [setCore_memWf, State.MemWf])

theorem pushStore_memWf {o va pa d sig paid} (h : s.MemWf) : (s.pushStore o va pa d sig paid).MemWf :=
  ite_memWf h (pushReq_memWf (l1Store_memWf h))

theorem pushLine_memWf {o va pa data sig paid} (h : s.MemWf) : (s.pushLine o va pa data sig paid).MemWf :=
  foldl_memWf (fun _ _ h => pushStore_memWf h) h

theorem pushStores_memWf {o sig paid l data} (h : s.MemWf) : (s.pushStores o sig paid l data).MemWf := by
  induction l generalizing s data with
  | nil => exact h
  | cons p t ih => exact ih (pushLine_memWf h)

theorem writeScratch_memWf {va data} (h : s.MemWf) : (s.writeScratch va data).MemWf := h
theorem maskScratch_memWf {va data} (h : s.MemWf) : (s.maskScratch va data).MemWf := h

theorem writeParts_memWf {o len} (h : s.MemWf) : (s.writeParts o len).MemWf := by
  unfold State.writeParts
  grind [Res.bind_memWf, xlateParts_memWf, stall_memWf, Res.MemWf]

theorem writeReady_memWf {o len} (h : s.MemWf) : (s.writeReady o len).MemWf := by
  unfold State.writeReady
  grind [Res.bind_memWf, writeParts_memWf, stall_memWf, Res.MemWf]

theorem writeMask_memWf {o ps data sig paid} (h : s.MemWf) : (s.writeMask o ps data sig paid).MemWf :=
  ite_memWf (maskScratch_memWf h) (pushStores_memWf h)

theorem writeNow_memWf {o ps data sig paid} (h : s.MemWf) : (s.writeNow o ps data sig paid).MemWf :=
  ite_memWf (writeScratch_memWf h) (pushStores_memWf h)

theorem write_memWf {o data sig} (h : s.MemWf) : (s.write o data sig).MemWf := Res.bind_memWf (writeReady_memWf h) fun _ _ h => writeNow_memWf h

theorem aheadFill_memWf {core asid vline} (h : s.MemWf) : (s.aheadFill core asid vline).MemWf := by
  unfold State.aheadFill
  grind [wakeRouter_memWf, wakeCore_memWf, reach_memWf, rdcAdd_memWf, wakeHome_memWf, l1Add_memWf]

theorem aheadLine_memWf {core vline} (h : s.MemWf) : (s.aheadLine core vline).MemWf := ite_memWf h (raise_memWf (setCore_memWf h))
theorem runAhead_memWf {va} (h : s.MemWf) : (s.runAhead va).MemWf := foldl_memWf (fun _ _ h => ite_memWf (aheadLine_memWf h) h) h

theorem fetchLine_memWf {va} (h : s.MemWf) : (s.fetchLine va).MemWf := by
  unfold State.fetchLine
  grind [Res.bind_memWf, chargeFor_memWf, xlate_memWf, stall_memWf, runAhead_memWf, rdcAdd_memWf, wakeHome_memWf, l1Fill_memWf, State.MemWf,
    Res.MemWf]

theorem fetchWord_memWf {va} (h : s.MemWf) : (s.fetchWord va).MemWf := by
  unfold State.fetchWord
  grind [Res.bind_memWf, fetchLine_memWf, poisonTrap_memWf, Res.MemWf]

theorem acquire_memWf {scope} (h : s.MemWf) : (s.acquire scope).MemWf := ite_memWf h (l1Flush_memWf h)
theorem acquireAll_memWf {core} (h : s.MemWf) : (s.acquireAll core).MemWf := l1Flush_memWf (reach_memWf h)

theorem release_memWf {scope} (h : s.MemWf) : (s.release scope).MemWf := by
  unfold State.release
  grind [unpinTask_memWf, stall_memWf, Res.MemWf]

theorem pinBuffered_memWf {cl} (h : s.MemWf) : (s.pinBuffered cl).MemWf :=
  foldl_memWf (fun _ _ h => by grind [putPin_memWf, signal_memWf]) (foldl_memWf (fun _ _ h => pinLine_memWf h) h)

theorem standsPinned_memWf {va cls pa} (h : s.MemWf) : (s.standsPinned va cls pa).MemWf := by
  unfold State.standsPinned
  grind [State.MemWf]

theorem performNow_memWf {o pl pa data sig} (h : s.MemWf) : (s.performNow o pl pa data sig).MemWf := by
  unfold State.performNow
  grind [standsPinned_memWf, putPin_memWf, pinLine_memWf, performFrom_memWf, l1Store_memWf, signal_memWf]

theorem widen_memWf {scope pa} (h : s.MemWf) : (s.widen scope pa).2.MemWf := by
  unfold State.widen
  grind [State.MemWf]

theorem releaseStart_memWf {scope} (h : s.MemWf) : (s.releaseStart scope).MemWf := by
  unfold State.releaseStart
  grind [release_memWf, Res.MemWf]

theorem releaseFirst_memWf {pl} (h : s.MemWf) : (s.releaseFirst pl).MemWf := by
  unfold State.releaseFirst
  grind [pinBuffered_memWf]

theorem releaseAt_memWf {scope pa} (h : s.MemWf) : (s.releaseAt scope pa).MemWf := by
  unfold State.releaseAt
  grind [widen_memWf, Res.bind_memWf, releaseStart_memWf, stall_memWf, Res.MemWf]

theorem untilApplied_memWf {scope} (h : s.MemWf) : (s.untilApplied scope).MemWf := ite_memWf (stall_memWf h) h

/-! ## The frames behind a task (Backing) -/

theorem reachHome_memWf {t pa} (h : s.MemWf) : (s.reachHome t pa).MemWf := by
  unfold State.reachHome
  grind [wakeHome_memWf, reach_memWf]

theorem fetchRemote_memWf {t pa} (h : s.MemWf) : (s.fetchRemote t pa).MemWf := ite_memWf h (rdcAdd_memWf (reachHome_memWf h))
theorem useFrames_memWf {fs} (h : s.MemWf) : (s.useFrames fs).MemWf := h
theorem dropFrames_memWf {fs} (h : s.MemWf) : (s.dropFrames fs).MemWf := h

theorem writeBackLine_memWf {w c line} (h : s.MemWf) : (s.writeBackLine w c line).MemWf := by
  unfold State.writeBackLine
  grind [performFrom_memWf]

theorem writeBack_memWf {k} (h : s.MemWf) : (s.writeBack k).MemWf := foldl_memWf (fun _ _ h => writeBackLine_memWf h) h

theorem refillPage_memWf {k p} (h : s.MemWf) : (s.refillPage k p).MemWf := by
  unfold State.refillPage
  dsimp only
  split
  · exact h
  · exact setCtx_memWf (foldl_memWf (fun _ _ h => fetchRemote_memWf h) h)

theorem bringPages_memWf {k va n} (h : s.MemWf) : (s.bringPages k va n).MemWf := foldl_memWf (fun _ _ h => refillPage_memWf h) h

/-! ## Operands (Operands) -/

theorem check_memWf {num ea n rd wr align} (h : s.MemWf) : (s.check num ea n rd wr align).MemWf := by
  unfold State.check
  grind [limitTrap_memWf, permTrap_memWf, misaligned_memWf, bringPages_memWf, Res.MemWf]

/-! ## Register forms (Scalar) -/

theorem opImm_memWf {f d a imm len} (h : s.MemWf) : (opImm f d a imm len s).MemWf := h

/-! ## Address registers (Address) -/

theorem rangeTrap_memWf {ad v} (h : s.MemWf) : (s.rangeTrap ad v).MemWf := limitTrap_memWf h
theorem opAset_memWf {ad ga gb} (h : s.MemWf) : (opAset ad ga gb s).MemWf := ite_memWf (rangeTrap_memWf h) (advance_memWf (setA_memWf h))
theorem opAsetl_memWf {ad ga} (h : s.MemWf) : (opAsetl ad ga s).MemWf := ite_memWf (rangeTrap_memWf h) (advance_memWf (setA_memWf h))

theorem opMove_memWf {ad aa by_ len} (h : s.MemWf) : (opMove ad aa by_ len s).MemWf :=
  ite_memWf (advance_memWf (setA_memWf h)) (rangeTrap_memWf h)

/-! ## Loads, stores and block moves (LoadStore) -/

theorem opLoad_memWf {n signed d a disp len} (h : s.MemWf) : (opLoad n signed d a disp len s).MemWf :=
  Res.andThen_memWf (check_memWf h) fun _ _ h => Res.andThen_memWf (read_memWf h) fun _ _ h => retG_memWf h

theorem opStore_memWf {n sig d a disp len} (h : s.MemWf) : (opStore n sig d a disp len s).MemWf :=
  Res.andThen_memWf (check_memWf h) fun _ _ h => Res.andThen_memWf (write_memWf h) fun _ _ h => advance_memWf h

theorem movbSource_memWf {o n} (h : s.MemWf) : (s.movbSource o n).MemWf := by
  unfold State.movbSource
  grind [stall_memWf, readScratch_memWf, Res.bind_memWf, findParts_memWf, readPiecewise_memWf, Res.MemWf]

theorem movbRead_memWf {ad sa off n} (h : s.MemWf) : (s.movbRead ad sa off n).MemWf := by
  unfold State.movbRead
  grind [Res.bind_memWf, check_memWf, charge_memWf, movbSource_memWf, writeParts_memWf, State.MemWf, Res.MemWf]

theorem movbDone_memWf {ad sa gn n} (h : s.MemWf) : (s.movbDone ad sa gn n).MemWf := by
  unfold State.movbDone
  grind [setA_memWf, setG_memWf, advance_memWf, State.MemWf]

theorem movbWrite_memWf {ad sa gn m} (h : s.MemWf) : (s.movbWrite ad sa gn m).MemWf :=
  Res.andThen_memWf (check_memWf h) fun _ _ h => ite_memWf h (Res.andThen_memWf (writeParts_memWf h) (fun _ _ h => movbDone_memWf (writeNow_memWf
    h)))

theorem opMovb_memWf {ad sa gn} (h : s.MemWf) : (opMovb ad sa gn s).MemWf := by
  unfold opMovb
  grind [illegal_memWf, advance_memWf, Res.andThen_memWf, movbRead_memWf, movbWrite_memWf, State.MemWf, Res.MemWf]

/-! ## Control flow and system registers (Control) -/

theorem opBranch_memWf {taken off len} (h : s.MemWf) : (opBranch taken off len s).MemWf := ite_memWf (jump_memWf h) (advance_memWf h)
theorem opCall_memWf {d off len} (h : s.MemWf) : (opCall d off len s).MemWf := h

theorem opJump_memWf {link a} (h : s.MemWf) : (opJump link a s).MemWf := by
  unfold opJump
  grind [misaligned_memWf, jump_memWf, setG_memWf]

theorem repWord_memWf (h : s.MemWf) : s.repWord.MemWf := by
  unfold State.repWord
  grind [Res.bind_memWf, fetchWord_memWf, Res.MemWf]

theorem opRep_memWf {n} (h : s.MemWf) : (opRep n s).MemWf := by
  unfold opRep
  grind [Res.andThen_memWf, repWord_memWf, trap_memWf, jump_memWf, State.MemWf]

theorem opSleep_memWf {a} (h : s.MemWf) : (opSleep a s).MemWf := ite_memWf (advance_memWf h) (park_memWf h)
theorem targetErr_memWf {sup} (h : s.MemWf) : (s.targetErr sup).MemWf := h

theorem remoteRead_memWf {sup num} (h : s.MemWf) : (s.remoteRead sup num).2.MemWf := by
  unfold State.remoteRead
  grind [targetErr_memWf]

theorem remoteWrite_memWf {sup num v} (h : s.MemWf) : (s.remoteWrite sup num v).MemWf := by
  unfold State.remoteWrite
  grind [targetErr_memWf, setCore_memWf]

theorem sysRead_memWf {num p} (h : s.MemWf) (e : s.sysRead num = some p) : p.2.MemWf := by
  by_cases hn : num ∈ plainRegs
  · simp only [plainRegs, List.mem_cons, List.not_mem_nil, or_false] at hn
    obtain rfl | rfl | rfl | rfl | rfl | rfl | rfl | rfl | rfl | rfl | rfl | rfl := hn <;> cases e <;> exact h
  · rw [sysRead_other hn] at e
    clear hn
    grind [remoteRead_memWf]

theorem opSysrd_memWf {d num} (h : s.MemWf) : (opSysrd d num s).MemWf := by
  unfold opSysrd
  split
  · next e => exact sysRead_memWf h e
  · exact illegal_memWf h

theorem opSyswr_memWf {num a} (h : s.MemWf) : (opSyswr num a s).MemWf := by
  by_cases hn : num = 0x002 ∨ num = 0x004 ∨ num = 0x020
  · obtain rfl | rfl | rfl := hn <;> exact h
  · rw [opSyswr_other (fun e => hn (.inl e)) (fun e => hn (.inr (.inl e))) (fun e => hn (.inr (.inr e)))]
    exact ite_memWf h (ite_memWf (ite_memWf (ite_memWf h (remoteWrite_memWf h)) (trap_memWf h)) (illegal_memWf h))

/-! ## Waits and watches (Waiting) -/

theorem wakeOne_memWf {k} (h : s.MemWf) : (s.wakeOne k).MemWf := by
  unfold State.wakeOne
  grind [completeSlot_memWf, l1Flush_memWf, wakeSlot_memWf]

theorem wakeLine_memWf {cl line} (h : s.MemWf) : (s.wakeLine cl line).MemWf :=
  foldl_memWf (fun _ _ h => wakeOne_memWf h) (by grind [reach_memWf, State.MemWf])

theorem monitorOverflow_memWf {cl} (h : s.MemWf) : (s.monitorOverflow cl).MemWf :=
  foldl_memWf (fun _ _ h => wakeOne_memWf h) (by grind [State.MemWf])

theorem arm_memWf {line} (h : s.MemWf) : (s.arm line).MemWf := by
  unfold State.arm
  grind [monitorOverflow_memWf, addWatch_memWf, State.MemWf]

theorem disarm_memWf {cl line} (h : s.MemWf) : (s.disarm cl line).MemWf := by
  unfold State.disarm
  grind [raise_memWf, State.MemWf]

theorem unparkWatch_memWf {k} (h : s.MemWf) : (s.unparkWatch k).MemWf := by
  unfold State.unparkWatch
  grind [disarm_memWf, setCtx_memWf]

theorem hostAnswer_memWf {o pa} (h : s.MemWf) : (s.hostAnswer o pa).MemWf := by
  unfold State.hostAnswer
  grind [permTrap_memWf, State.MemWf, Res.MemWf]

theorem rmw_memWf {o n scope sig host f} (h : s.MemWf) : (s.rmw o n scope sig host f).MemWf := by
  unfold State.rmw
  grind [Res.bind_memWf, readScratch_memWf, writeScratch_memWf, charge_memWf, xlate_memWf, permTrap_memWf, stall_memWf, poisonTrap_memWf,
    releaseAt_memWf, hostAnswer_memWf, acquire_memWf, performNow_memWf, releaseFirst_memWf, release_memWf, l1Drop_memWf, wakeHome_memWf,
    Res.MemWf]

theorem ringFreed_memWf (h : s.MemWf) : s.ringFreed.MemWf :=
  foldl_memWf (fun _ _ h => ite_memWf h (raise_memWf h)) (foldl_memWf (fun _ _ h => raise_memWf h) h)

/-! ## Rings (Rings) -/

theorem opRbind_memWf {q a} (h : s.MemWf) : (opRbind q a s).MemWf :=
  Res.andThen_memWf (check_memWf h) fun _ _ h => Res.andThen_memWf (read_memWf h) fun _ _ h => ite_memWf (advance_memWf (setQ_memWf h)) (ite_memWf
    (ringMisuse_memWf h) (advance_memWf (setQ_memWf h)))

theorem readCounts_memWf {q} (h : s.MemWf) : (s.readCounts q).MemWf := Res.bind_memWf (readHome_memWf h) fun _ _ h => acquire_memWf h

theorem opRwait_memWf {head q b} (h : s.MemWf) : (opRwait head q b s).MemWf :=
  ite_memWf (ringMisuse_memWf h) (Res.andThen_memWf (readCounts_memWf h) (fun _ _ h => ite_memWf (advance_memWf (setQ_memWf (disarm_memWf
    (arm_memWf h)))) (park_memWf (arm_memWf h))))

theorem opRadvH_memWf {q b} (h : s.MemWf) : (opRadvH q b s).MemWf :=
  ite_memWf (ringMisuse_memWf h) (Res.andThen_memWf (rmw_memWf h) (fun _ _ h => advance_memWf (ringFreed_memWf (setQ_memWf h))))

theorem opRadvT_memWf {q b} (h : s.MemWf) : (opRadvT q b s).MemWf :=
  ite_memWf (ringMisuse_memWf h) (Res.andThen_memWf (rmw_memWf h) (fun _ _ h => ite_memWf (advance_memWf (setQ_memWf h)) (ringMisuse_memWf h)))

theorem opRcount_memWf {filled d q} (h : s.MemWf) : (opRcount filled d q s).MemWf :=
  ite_memWf (ringMisuse_memWf h) (Res.andThen_memWf (readCounts_memWf h) (fun _ _ h => retG_memWf h))

/-! ## Atomics, reductions, releases (Atomics) -/

theorem opAmo_memWf {op sc sig w d a b} (h : s.MemWf) : (opAmo op sc sig w d a b s).MemWf :=
  Res.andThen_memWf (check_memWf h) fun _ _ h => Res.andThen_memWf (rmw_memWf h) fun _ _ h => ite_memWf (retG_memWf h) (untilApplied_memWf
    (retG_memWf h))

theorem redScratch_memWf {o n op x} (h : s.MemWf) : (s.redScratch o n op x).MemWf := ite_memWf (report_memWf h) (writeScratch_memWf h)

theorem opRed_memWf {op sc sig w a b} (h : s.MemWf) : (opRed op sc sig w a b s).MemWf := by
  unfold opRed
  grind [Res.andThen_memWf, check_memWf, advance_memWf, redScratch_memWf, xlate_memWf, permTrap_memWf, stall_memWf, leavePin_memWf,
    hostAnswer_memWf, pushReq_memWf, l1Drop_memWf]

theorem opLda_memWf {sc size d a} (h : s.MemWf) : (opLda sc size d a s).MemWf :=
  Res.andThen_memWf (check_memWf h) fun _ _ h => ite_memWf (Res.andThen_memWf (readScratch_memWf h) (fun _ _ h => retG_memWf h))
    (Res.andThen_memWf (readHome_memWf h) (fun _ _ h => retG_memWf (acquire_memWf h)))

theorem stlWrite_memWf {o scope sig data} (h : s.MemWf) : (s.stlWrite o scope sig data).MemWf := by
  unfold State.stlWrite
  grind [writeScratch_memWf, Res.bind_memWf, charge_memWf, xlate_memWf, releaseAt_memWf, performNow_memWf, releaseFirst_memWf, Res.MemWf]

theorem opStl_memWf {sc sig size d a} (h : s.MemWf) : (opStl sc sig size d a s).MemWf :=
  Res.andThen_memWf (check_memWf h) fun _ _ h => Res.andThen_memWf (stlWrite_memWf h) fun _ _ h => ite_memWf (advance_memWf h) (untilApplied_memWf
    (advance_memWf h))

theorem opWait_memWf {n gt a b} (h : s.MemWf) : (opWait n gt a b s).MemWf :=
  Res.andThen_memWf (check_memWf h) fun _ _ h => ite_memWf (Res.andThen_memWf (readScratch_memWf h) (fun _ _ h => permTrap_memWf h))
    (Res.andThen_memWf (readHome_memWf h) (fun _ _ h => ite_memWf (retG_memWf (disarm_memWf (arm_memWf h))) (park_memWf (arm_memWf h))))

/-! ## Vector forms (Vector) -/

theorem vCheck_memWf {l f} (h : s.MemWf) (hf : ∀ s, s.MemWf → (f s).MemWf) : (s.vCheck l f).MemWf := ite_memWf (hf s h) (illegal_memWf h)

theorem opLanes_memWf {fmt f vd va vb k} (h : s.MemWf) : (opLanes fmt f vd va vb k s).MemWf :=
  vCheck_memWf h fun _ h => advance_memWf (setV_memWf h)

theorem opLane1_memWf {fmt f vd va k} (h : s.MemWf) : (opLane1 fmt f vd va k s).MemWf := vCheck_memWf h fun _ h => advance_memWf (setV_memWf h)
theorem opCmp_memWf {r f kd va vb k} (h : s.MemWf) : (opCmp r f kd va vb k s).MemWf := vCheck_memWf h fun _ h => advance_memWf (setK_memWf h)
theorem opReduce_memWf {g f vd va k} (h : s.MemWf) : (opReduce g f vd va k s).MemWf := vCheck_memWf h fun _ h => advance_memWf (setV_memWf h)
theorem opVperm_memWf {f vd va vb k} (h : s.MemWf) : (opVperm f vd va vb k s).MemWf := vCheck_memWf h fun _ h => advance_memWf (setV_memWf h)

theorem opVmove_memWf {f src vd va gb k} (h : s.MemWf) : (opVmove f src vd va gb k s).MemWf :=
  vCheck_memWf h fun _ h => advance_memWf (setV_memWf h)

theorem opVcvt_memWf {dst src mode vd va k} (h : s.MemWf) : (opVcvt dst src mode vd va k s).MemWf := by
  unfold opVcvt
  grind [vCheck_memWf, advance_memWf, setV_memWf, State.MemWf]

theorem issued_memWf (h : s.MemWf) : s.issued.MemWf := h

theorem opVld_memWf {vd a disp k} (h : s.MemWf) : (opVld vd a disp k s).MemWf :=
  vCheck_memWf h fun _ h => Res.andThen_memWf (check_memWf h) fun _ _ h => ite_memWf (advance_memWf h) (Res.andThen_memWf (read_memWf
    (issued_memWf h)) (fun _ _ h => advance_memWf (setV_memWf h)))

theorem opVst_memWf {vs a disp k} (h : s.MemWf) : (opVst vs a disp k s).MemWf :=
  vCheck_memWf h fun _ h => Res.andThen_memWf (check_memWf h) fun _ _ h => ite_memWf (advance_memWf h) (Res.andThen_memWf (writeReady_memWf
    (issued_memWf h)) (fun _ _ h => advance_memWf (writeMask_memWf h)))

theorem opVldBc_memWf {f vd a disp k} (h : s.MemWf) : (opVldBc f vd a disp k s).MemWf :=
  vCheck_memWf h fun _ h => Res.andThen_memWf (check_memWf h) fun _ _ h => ite_memWf (advance_memWf h) (Res.andThen_memWf (read_memWf
    (issued_memWf h)) (fun _ _ h => advance_memWf (setV_memWf h)))

/-! ## Prefixed words (Prefix) -/

theorem opExtended_memWf {ext next i} (h : s.MemWf) : (opExtended ext next i s).MemWf := by
  unfold opExtended
  grind [opImm_memWf, retG_memWf, opMove_memWf, opLoad_memWf, opStore_memWf, opBranch_memWf, opCall_memWf, trap_memWf]

theorem opPrefix_memWf {ext next} (h : s.MemWf) : (opPrefix ext next s).MemWf := by
  unfold opPrefix
  grind [opExtended_memWf, trap_memWf, State.MemWf]

/-! ## Slots, groups and the Sorting Office's accesses (Sched) -/

theorem repool_memWf {core} (h : s.MemWf) : (s.repool core).MemWf := h
theorem account_memWf {core} (h : s.MemWf) : (s.account core).MemWf := h
theorem takeBars_memWf {core tid bars} (h : s.MemWf) : (s.takeBars core tid bars).MemWf := h

theorem placeCtx_memWf {k c} (h : s.MemWf) : (s.placeCtx k c).MemWf := by
  unfold State.placeCtx
  grind [account_memWf, repool_memWf, setCtx_memWf, wakeCore_memWf, touch_memWf, acquireAll_memWf, State.MemWf]

theorem placeNew_memWf {k asid tid gid sh pc keys f} (h : s.MemWf) : (s.placeNew k asid tid gid sh pc keys f).MemWf :=
  placeCtx_memWf (useFrames_memWf (takeBars_memWf h))

theorem zeroTile_memWf {t} (h : s.MemWf) : (s.zeroTile t).MemWf := h
theorem dropTile_memWf {t} (h : s.MemWf) : (s.dropTile t).MemWf := h
theorem lookAgain_memWf (h : s.MemWf) : s.lookAgain.MemWf := h

theorem freeSlot_memWf {k} (h : s.MemWf) : (s.freeSlot k).MemWf := by
  refine lookAgain_memWf (raise_memWf (setCore_memWf (ite_memWf (setCluster_memWf ?_) ?_))) <;>
    exact repool_memWf (setCtx_memWf (foldl_memWf (fun _ _ h => dropTile_memWf h) (account_memWf (core := coreOfKey k) h)))

theorem endSlot_memWf {k} (h : s.MemWf) : (s.endSlot k).MemWf := dropFrames_memWf (freeSlot_memWf (unpinTask_memWf h))
theorem dropParts_memWf {tid} (h : s.MemWf) : (s.dropParts tid).MemWf := h

theorem startUnit_memWf {t kind need} (h : s.MemWf) : (s.startUnit t kind need).MemWf := by
  unfold State.startUnit
  grind [raise_memWf, State.MemWf]

theorem releaseKeys_memWf {id} (h : s.MemWf) : (s.releaseKeys id).MemWf := h

theorem devRead_memWf {w cls va n} (h : s.MemWf) : (s.devRead w cls va n).MemWf := by
  unfold State.devRead
  grind [translate_memWf, reachHome_memWf, Got.MemWf, Look.MemWf]

theorem soRead_memWf {t asid core va n} (h : s.MemWf) : (s.soRead t asid core va n).MemWf := devRead_memWf h
theorem dropPartials_memWf {reader} (h : s.MemWf) : (s.dropPartials reader).MemWf := h

theorem devReads_memWf {w cls reader n va len} (h : s.MemWf) : (s.devReads w cls reader n va len).MemWf := by
  unfold State.devReads
  grind [Got.bind_memWf, devRead_memWf, State.MemWf, Got.MemWf]

theorem addDone_memWf {t asid core va} (h : s.MemWf) : (s.addDone t asid core va).MemWf := by
  unfold State.addDone
  grind [translate_memWf, faultRecord_memWf, report_memWf, signal_memWf, performFrom_memWf, State.MemWf, Look.MemWf]

theorem kindOf_memWf {t asid core va} (h : s.MemWf) : (s.kindOf t asid core va).MemWf := by
  unfold State.kindOf
  grind [soRead_memWf, Got.MemWf]

theorem kindsOf_memWf {t asid core x y} (h : s.MemWf) : (s.kindsOf t asid core x y).MemWf :=
  Got.bind_memWf (kindOf_memWf h) fun _ _ h => Got.bind_memWf (kindOf_memWf h) fun _ _ h => h

theorem overflow_memWf {t i} (h : s.MemWf) : (s.overflow t i).MemWf := ite_memWf h (raise_memWf (report_memWf h))
theorem pigeonFault_memWf {t f} (h : s.MemWf) : (s.pigeonFault t f).MemWf := ite_memWf (ite_memWf (overflow_memWf h) h) (overflow_memWf h)
theorem placeMeet_memWf {k unit m e keys} (h : s.MemWf) : (s.placeMeet k unit m e keys).MemWf := placeNew_memWf h
theorem setGroup_memWf {g} (h : s.MemWf) : (s.setGroup g).MemWf := h
theorem leaveQueues_memWf {id} (h : s.MemWf) : (s.leaveQueues id).MemWf := h

theorem endGroup_memWf {g core signal} (h : s.MemWf) : (s.endGroup g core signal).MemWf := by
  unfold State.endGroup
  grind [leaveQueues_memWf, releaseKeys_memWf, addDone_memWf, State.MemWf]

theorem breakGroup_memWf {gid} (h : s.MemWf) : (s.breakGroup gid).MemWf := by
  unfold State.breakGroup
  split
  · exact h
  · exact foldl_memWf (fun _ _ h => endSlot_memWf h) (ite_memWf h h)

theorem leaveGroup_memWf {gid core retired} (h : s.MemWf) : (s.leaveGroup gid core retired).MemWf := by
  unfold State.leaveGroup
  grind [breakGroup_memWf, setGroup_memWf, endGroup_memWf]

theorem endTask_memWf {k retired} (h : s.MemWf) : (s.endTask k retired).MemWf := by
  unfold State.endTask
  grind [dropParts_memWf, endSlot_memWf, leaveGroup_memWf, releaseKeys_memWf]

theorem addLaunch_memWf {asid b d count} (h : s.MemWf) : (s.addLaunch asid b d count).MemWf := by
  unfold State.addLaunch
  grind [raise_memWf, State.MemWf]

/-! ## Net instructions (Net) -/

theorem wireTrap_memWf {va} (h : s.MemWf) : (s.wireTrap va).MemWf := trap_memWf h

theorem netXlate_memWf {va acc} (h : s.MemWf) : (s.netXlate va acc).MemWf := by
  unfold State.netXlate
  grind [translate_memWf, hold_memWf, report_memWf, permTrap_memWf, Res.MemWf, Look.MemWf]

theorem chargeNth_memWf {n cost} (h : s.MemWf) : (s.chargeNth n cost).MemWf := by
  unfold State.chargeNth
  grind [Res.bind_memWf, charge_memWf, State.MemWf, Res.MemWf]

theorem nextPart_memWf (h : s.MemWf) : s.nextPart.MemWf := h

theorem netPeek_memWf {va} (h : s.MemWf) : (s.netPeek va).MemWf := by
  unfold State.netPeek
  grind [Res.bind_memWf, netXlate_memWf, stall_memWf, l1Drop_memWf, wakeHome_memWf, Res.MemWf]

theorem netGet_memWf {va poison} (h : s.MemWf) : (s.netGet va poison).MemWf := by
  unfold State.netGet
  grind [Res.bind_memWf, netPeek_memWf, poisonTrap_memWf, Res.MemWf]

theorem netRead_memWf {n va poison} (h : s.MemWf) : (s.netRead n va poison).MemWf :=
  Res.bind_memWf (chargeNth_memWf h) fun _ _ h => netGet_memWf h

theorem netPut_memWf {va data} (h : s.MemWf) : (s.netPut va data).MemWf := by
  unfold State.netPut
  grind [Res.bind_memWf, netXlate_memWf, stall_memWf, place_memWf, l1Store_memWf, standsPinned_memWf, Res.MemWf]

theorem netWrite_memWf {n va data} (h : s.MemWf) : (s.netWrite n va data).MemWf := Res.bind_memWf (chargeNth_memWf h) fun _ _ h => netPut_memWf h

theorem netStart_memWf (h : s.MemWf) : s.netStart.MemWf := by
  unfold State.netStart
  grind [stall_memWf, Res.MemWf]

theorem netReleased_memWf (h : s.MemWf) : s.netReleased.MemWf := by
  unfold State.netReleased
  grind [stall_memWf, Res.MemWf]

theorem takeItems_memWf {agents size n p} (h : s.MemWf) (e : s.takeItems agents size n = some p) : p.2.MemWf := by
  induction n generalizing s p with
  | zero => cases e; exact h
  | succ n ih =>
    unfold State.takeItems at e
    grind [State.MemWf]

theorem takeAgents_memWf {n p} (h : s.MemWf) (e : s.takeAgents n = some p) : p.2.MemWf := takeItems_memWf h e
theorem takeCells_memWf {n p} (h : s.MemWf) (e : s.takeCells n = some p) : p.2.MemWf := takeItems_memWf h e
theorem unalloc_memWf {va} (h : s.MemWf) : (s.unalloc va).MemWf := h

theorem checkAgent_memWf {n va} (h : s.MemWf) : (s.checkAgent n va).MemWf := by
  unfold State.checkAgent
  grind [permTrap_memWf, misaligned_memWf, wireTrap_memWf, netRead_memWf, Res.MemWf]

theorem checkCell_memWf {n va} (h : s.MemWf) : (s.checkCell n va).MemWf := by
  unfold State.checkCell
  grind [permTrap_memWf, misaligned_memWf, wireTrap_memWf, netRead_memWf, Res.MemWf]

theorem checkSlot_memWf {n va} (h : s.MemWf) : (s.checkSlot n va).MemWf := by
  unfold State.checkSlot
  split
  · exact permTrap_memWf h
  split
  · exact misaligned_memWf h
  split
  · exact wireTrap_memWf h
  · exact Res.bind_memWf (Res.bind_memWf (chargeNth_memWf h) fun _ _ h => netPeek_memWf h)
      fun _ _ h => by grind [wireTrap_memWf, poisonTrap_memWf, netRead_memWf, Res.MemWf]

theorem checkRef_memWf {n w} (h : s.MemWf) : (s.checkRef n w).MemWf := by
  unfold State.checkRef
  grind [checkAgent_memWf, checkSlot_memWf, checkCell_memWf, wireTrap_memWf, Res.MemWf]

theorem enqueueMeet_memWf {c x y} (h : s.MemWf) : (s.enqueueMeet c x y).MemWf :=
  Res.bind_memWf (netReleased_memWf h) fun _ _ h => Res.bind_memWf (netRead_memWf h) fun _ _ h => Res.bind_memWf (netRead_memWf h) fun _ _ h =>
    raise_memWf h

theorem checkX_memWf {n x} (h : s.MemWf) : (s.checkX n x).MemWf := by
  unfold State.checkX
  grind [Res.bind_memWf, netRead_memWf, wireTrap_memWf, Res.MemWf]

theorem joinCheck_memWf {n x y} (h : s.MemWf) : (s.joinCheck n x y).MemWf := by
  unfold State.joinCheck
  grind [Res.bind_memWf, checkX_memWf, netRead_memWf, wireTrap_memWf, Res.MemWf]

theorem setCont_memWf {c} (h : s.MemWf) : (s.setCont c).MemWf := h

theorem netJoin_memWf {c x y cell} (h : s.MemWf) : (s.netJoin c x y cell).MemWf := by
  unfold State.netJoin
  dsimp only
  split
  · split
    · next e => exact takeCells_memWf h e
    · exact stall_memWf h
  · exact h

theorem netLate_memWf {c va d} (h : s.MemWf) : (s.netLate c va d).MemWf := by
  unfold State.netLate
  grind [Res.bind_memWf, netRead_memWf, hold_memWf, nextPart_memWf, setCont_memWf, wireTrap_memWf, netWrite_memWf, Res.MemWf]

theorem netLink_memWf {c x w} (h : s.MemWf) : (s.netLink c x w).MemWf := by
  unfold State.netLink
  grind [Res.bind_memWf, checkCell_memWf, checkX_memWf, joinCheck_memWf, Res.MemWf]

theorem netExchange_memWf {c x cell} (h : s.MemWf) : (s.netExchange c x cell).MemWf := by
  unfold State.netExchange
  grind [Res.bind_memWf, netReleased_memWf, netRead_memWf, wireTrap_memWf, netPut_memWf, Res.MemWf]

theorem wakeBlock_memWf {asid core va pages} (h : s.MemWf) : (s.wakeBlock asid core va pages).MemWf := by
  unfold State.wakeBlock
  split
  · exact h
  · exact foldl_memWf (fun _ _ h => walkWake_memWf h) h

theorem dropBlock_memWf {asid core va pages} (h : s.MemWf) : (s.dropBlock asid core va pages).MemWf := by
  have h : (s.wakeBlock asid core va pages).MemWf := wakeBlock_memWf h
  unfold State.dropBlock State.MemWf
  dsimp only
  split
  · exact wf_foldl_msets _ _ h
  · exact h

theorem soXlate_memWf {t asid core va} (h : s.MemWf) : (s.soXlate t asid core va).MemWf := by
  unfold State.soXlate
  grind [translate_memWf, raise_memWf, faultRecord_memWf, Got.MemWf, Look.MemWf]

theorem releaseBlock_memWf {count pages} (h : s.MemWf) : (s.releaseBlock count pages).MemWf := raise_memWf (setTower_memWf (dropBlock_memWf h))

theorem shareStep_memWf {count up} (h : s.MemWf) : (s.shareStep count up).MemWf := by
  unfold State.shareStep
  grind [misaligned_memWf, Res.bind_memWf, rmw_memWf, wireTrap_memWf, Res.MemWf]

theorem netBuild_memWf {c b} (h : s.MemWf) : (s.netBuild c b).MemWf := by
  unfold State.netBuild
  dsimp only
  split
  · exact stall_memWf h
  · next s1 e =>
    have h1 : s1.MemWf := takeAgents_memWf h e
    split
    · exact stall_memWf h
    · next e => exact takeCells_memWf h1 e

theorem netFinish_memWf {c} (h : s.MemWf) : (s.netFinish c).MemWf := by
  unfold State.netFinish
  grind [stall_memWf, setCont_memWf, retG_memWf, releaseBlock_memWf]

theorem netAfter_memWf {c r} (h : s.MemWf) (e : s.netAfter c = some r) : r.MemWf := by
  unfold State.netAfter at e
  grind [wireTrap_memWf, netExchange_memWf, netLate_memWf, enqueueMeet_memWf, unalloc_memWf, netJoin_memWf, netLink_memWf, Res.MemWf]

theorem netPiece_memWf {c va d rest} (h : s.MemWf) : (s.netPiece c va d rest).MemWf := by
  unfold State.netPiece
  grind [Res.bind_memWf, netWrite_memWf, nextPart_memWf, setCont_memWf, State.MemWf, Res.MemWf]

theorem netNext_memWf {c r} (h : s.MemWf) (e : s.netNext c = some r) : r.MemWf := by
  unfold State.netNext at e
  grind [netBuild_memWf, Res.bind_memWf, netWrite_memWf, netPiece_memWf, netAfter_memWf, Res.MemWf]

theorem netRun_memWf {n c} (h : s.MemWf) : (State.netRun n c s).MemWf := by
  induction n generalizing c s with
  | zero => exact netFinish_memWf h
  | succ n ih =>
    unfold State.netRun
    split
    · next e => exact Res.andThen_memWf (netNext_memWf (setCont_memWf h) e) fun _ _ h => ih h
    · exact netFinish_memWf h

theorem netGo_memWf {c} (h : s.MemWf) : (s.netGo c).MemWf := netRun_memWf h

theorem netResume_memWf {start} (h : s.MemWf) (hstart : ∀ s, s.MemWf → (start s).MemWf) : (s.netResume start).MemWf := by
  unfold State.netResume
  grind [netGo_memWf]

theorem opAgld_memWf {ad ga} (h : s.MemWf) : (opAgld ad ga s).MemWf :=
  Res.andThen_memWf (checkAgent_memWf h) fun _ _ h => ite_memWf (wireTrap_memWf h) (advance_memWf (setA_memWf h))

theorem opAnew_memWf {gd ga} (h : s.MemWf) : (opAnew gd ga s).MemWf :=
  netResume_memWf h fun _ h => Res.andThen_memWf (netStart_memWf h) fun _ _ h => by
    split
    · next e => exact netGo_memWf (takeAgents_memWf h e)
    · exact stall_memWf h

theorem opWire_memWf {gd} (h : s.MemWf) : (opWire gd s).MemWf :=
  netResume_memWf h fun _ h => Res.andThen_memWf (netStart_memWf h) fun _ _ h => by
    split
    · next e => exact netGo_memWf (takeCells_memWf h e)
    · exact stall_memWf h

theorem opAfree_memWf {ga} (h : s.MemWf) : (opAfree ga s).MemWf :=
  netResume_memWf h fun _ h => Res.andThen_memWf (netStart_memWf h) fun _ _ h => Res.andThen_memWf (checkAgent_memWf h) fun _ _ h => netGo_memWf
    (nextPart_memWf h)

theorem linkStart_memWf (h : s.MemWf) : s.linkStart.MemWf := Res.bind_memWf (netStart_memWf h) fun _ _ h => release_memWf h

theorem opLink_memWf {gd ga gb} (h : s.MemWf) : (opLink gd ga gb s).MemWf :=
  netResume_memWf h fun _ h => ite_memWf (wireTrap_memWf h) (ite_memWf (wireTrap_memWf h) (Res.andThen_memWf (linkStart_memWf h) (fun _ _ h =>
    Res.andThen_memWf (checkRef_memWf h) (fun _ _ h => Res.andThen_memWf (checkRef_memWf h) (fun _ _ h => netGo_memWf (nextPart_memWf h))))))

theorem pieceWords_memWf {va count} (h : s.MemWf) : (s.pieceWords va count).MemWf :=
  List.foldlRecOn _ _ h fun _ hr _ _ => Res.bind_memWf hr fun _ _ h => Res.bind_memWf (netGet_memWf h) fun _ _ h => h

theorem recordPiece_memWf {left} (h : s.MemWf) : (s.recordPiece left).MemWf := by
  unfold State.recordPiece
  grind [Res.bind_memWf, pieceWords_memWf, State.MemWf, Res.MemWf]

theorem recordWords_memWf {n cost a off count} (h : s.MemWf) : (s.recordWords n cost a off count).MemWf := by
  unfold State.recordWords
  grind [Res.bind_memWf, chargeNth_memWf, recordPiece_memWf, Res.MemWf]

theorem facing_memWf {d x kind} (h : s.MemWf) : (s.facing d x kind).MemWf := by
  unfold State.facing
  grind [Res.bind_memWf, checkAgent_memWf, wireTrap_memWf, recordWords_memWf, Res.MemWf]

theorem shareFor_memWf {hd words up} (h : s.MemWf) : (s.shareFor hd words up).MemWf := by
  unfold State.shareFor
  grind [shareStep_memWf, Res.MemWf]

theorem commute_memWf {dup gd d x hx wd wx} (h : s.MemWf) : (s.commute dup gd d x hx wd wx).MemWf := by
  unfold State.commute
  grind [wireTrap_memWf, Res.andThen_memWf, shareFor_memWf, netGo_memWf, nextPart_memWf]

theorem opAdup_memWf {gd ga gb} (h : s.MemWf) : (opAdup gd ga gb s).MemWf :=
  netResume_memWf h fun _ h => Res.andThen_memWf (linkStart_memWf h) fun _ _ h => Res.andThen_memWf (facing_memWf h) fun _ _ h => commute_memWf h

theorem opAera_memWf {gd ga gb} (h : s.MemWf) : (opAera gd ga gb s).MemWf :=
  netResume_memWf h fun _ h => Res.andThen_memWf (linkStart_memWf h) fun _ _ h => Res.andThen_memWf (facing_memWf h) fun _ _ h => commute_memWf h

theorem opPay_memWf {up gd ga} (h : s.MemWf) : (opPay up gd ga s).MemWf :=
  netResume_memWf h fun _ h => Res.andThen_memWf (netStart_memWf h) fun _ _ h => Res.andThen_memWf (checkAgent_memWf h) fun _ _ h => ite_memWf
    (retG_memWf h) (Res.andThen_memWf (recordWords_memWf h) (fun _ _ h => Res.andThen_memWf (shareStep_memWf h) (fun _ _ h => netGo_memWf
    (nextPart_memWf h))))

/-! ## Launches, rules and keys (Office) -/

theorem launchFault_memWf {reason} (h : s.MemWf) : (s.launchFault reason).MemWf := trap_memWf h

theorem storeRule_memWf {sp e valid} (h : s.MemWf) : (s.storeRule sp e valid).MemWf := by
  unfold State.storeRule
  exact ite_memWf (stall_memWf (ite_memWf h h)) h

theorem opRuleset_memWf {a} (h : s.MemWf) : (opRuleset a s).MemWf := by
  unfold opRuleset
  grind [permTrap_memWf, Res.andThen_memWf, check_memWf, read_memWf, launchFault_memWf, storeRule_memWf]

theorem towerAnswer_memWf {k} (h : s.MemWf) : (s.towerAnswer k).MemWf := by
  unfold State.towerAnswer
  grind [completeSlot_memWf, setCtx_memWf]

theorem setGovernor_memWf {t ga gb} (h : s.MemWf) : (s.setGovernor t ga gb).MemWf := by
  unfold State.setGovernor
  exact ite_memWf (ite_memWf h h) (ite_memWf (foldl_memWf (fun _ _ h => account_memWf h) h) h)

theorem flipRules_memWf {t asid key n} (h : s.MemWf) : (s.flipRules t asid key n).MemWf := by
  unfold State.flipRules
  grind [setSpace_memWf]

theorem settleTowers_memWf {k} (h : s.MemWf) : (s.settleTowers k).MemWf :=
  foldl_memWf (fun _ _ h => by grind [towerAnswer_memWf, flipRules_memWf, setGovernor_memWf]) (by grind [State.MemWf])

theorem opRulepub_memWf (h : s.MemWf) : (opRulepub s).MemWf := ite_memWf (permTrap_memWf h) (raises_memWf (hold_memWf h))

theorem officeRead_memWf {va len} (h : s.MemWf) : (s.officeRead va len).MemWf :=
  Res.bind_memWf (findParts_memWf h) fun _ _ h => readPiecewise_memWf h

theorem indCount_memWf {b scope} (h : s.MemWf) : (s.indCount b scope).MemWf :=
  Res.bind_memWf (xlate_memWf h) fun _ _ h => Res.bind_memWf (leavePin_memWf h) fun _ _ h => Res.bind_memWf (readParts_memWf h) fun _ _ h =>
    acquire_memWf h

theorem opLaunch_memWf {ind e gd a} (h : s.MemWf) : (opLaunch ind e gd a s).MemWf :=
  Res.andThen_memWf (check_memWf h) fun _ _ h => Res.andThen_memWf (read_memWf h) fun _ _ h => Res.andThen_memWf (release_memWf h) fun _ _ h =>
    Res.andThen_memWf (officeRead_memWf h) fun _ _ h => by
    grind [launchFault_memWf, Res.andThen_memWf, indCount_memWf, retG_memWf, addLaunch_memWf, Res.MemWf]

theorem opRetire_memWf (h : s.MemWf) : (opRetire s).MemWf :=
  ite_memWf (stall_memWf h) (Res.andThen_memWf (release_memWf h) (fun _ _ h => endTask_memWf h))

theorem handOver_memWf {g d} (h : s.MemWf) : (s.handOver g d).MemWf := by
  unfold State.handOver
  grind [raises_memWf, raise_memWf, State.MemWf]

theorem holdKey_memWf {key g d} (h : s.MemWf) : (s.holdKey key g d).MemWf :=
  ite_memWf (ite_memWf (endGroup_memWf (setGroup_memWf (endSlot_memWf (report_memWf (setCtx_memWf h))))) (setGroup_memWf (endSlot_memWf
    (report_memWf (setCtx_memWf h))))) (ite_memWf (handOver_memWf (setGroup_memWf (setCtx_memWf h))) (setGroup_memWf (setCtx_memWf h)))

theorem holdSlot_memWf {g d} (h : s.MemWf) : (s.holdSlot g d).MemWf := holdKey_memWf h

theorem retirePassed_memWf {g d} (h : s.MemWf) : (s.retirePassed g d).MemWf :=
  Res.andThen_memWf (release_memWf h) fun _ _ h => ite_memWf (holdSlot_memWf h) (stall_memWf h)

theorem opRetireS_memWf (h : s.MemWf) : (opRetireS s).MemWf := by
  unfold opRetireS
  grind [illegal_memWf, retirePassed_memWf, launchFault_memWf, Res.andThen_memWf, officeRead_memWf, State.MemWf]

theorem releaseKey_memWf {k} (h : s.MemWf) : (s.releaseKey k).MemWf := by
  unfold State.releaseKey
  grind [setTower_memWf, raise_memWf]

theorem opKrel_memWf {gd ga} (h : s.MemWf) : (opKrel gd ga s).MemWf :=
  ite_memWf (Res.andThen_memWf (release_memWf h) (fun _ _ h => retG_memWf (releaseKey_memWf h))) (retG_memWf h)

theorem opGovset_memWf {ga gb} (h : s.MemWf) : (opGovset ga gb s).MemWf :=
  ite_memWf (permTrap_memWf h) (ite_memWf (advance_memWf h) (raises_memWf (hold_memWf h)))

theorem opProfrd_memWf {gd ga} (h : s.MemWf) : (opProfrd gd ga s).MemWf := by
  unfold opProfrd
  grind [permTrap_memWf, retG_memWf, account_memWf, State.MemWf]

/-! ## Steps of the Sorting Office (OfficeSteps) -/

theorem pigeonPut_memWf {t m} (h : s.MemWf) : (s.pigeonPut t m).MemWf := ite_memWf (overflow_memWf h) h

theorem offer_memWf {k} (h : s.MemWf) : (s.offer k).MemWf := by
  unfold State.offer
  grind [raise_memWf]

theorem opMeetEnqueue_memWf {asid core x y} (h : s.MemWf) : (opMeetEnqueue asid core x y s).MemWf := by
  unfold opMeetEnqueue
  grind [kindsOf_memWf, raise_memWf, pigeonFault_memWf, offer_memWf, pigeonPut_memWf, overflow_memWf, setTower_memWf, State.MemWf, Got.MemWf]

theorem takeMeet_memWf {asid x y p} (h : s.MemWf) (e : s.takeMeet asid x y = some p) : p.2.MemWf := by
  unfold State.takeMeet at e
  obtain ⟨r, -, hr⟩ := firstSome_eq_some e
  grind [State.MemWf]

theorem execMeetEnqueue_memWf {asid x y} (h : s.MemWf) : (execMeetEnqueue asid x y s).MemWf := by
  unfold execMeetEnqueue
  split
  · next e => exact opMeetEnqueue_memWf (takeMeet_memWf h e)
  · exact h

theorem enlarge_memWf {t} (h : s.MemWf) : (s.enlarge t).MemWf := foldl_memWf (fun _ _ h => ite_memWf h h) h

theorem opHeldEnqueueEntry_memWf {t} (h : s.MemWf) : (opHeldEnqueueEntry t s).MemWf := by
  unfold opHeldEnqueueEntry
  grind [byFirmware_memWf, enlarge_memWf, raise_memWf, pigeonPut_memWf, setTower_memWf]

theorem grantAll_memWf {unit ks} (h : s.MemWf) : (s.grantAll unit ks).MemWf := foldl_memWf (fun _ _ h => setTower_memWf h) h

theorem payload_memWf {t m e} (h : s.MemWf) : (s.payload t m e).MemWf := by
  unfold State.payload
  split
  · exact soRead_memWf h
  · exact h

theorem bindMeet_memWf {k t m a b} (h : s.MemWf) : (s.bindMeet k t m a b).MemWf := by
  unfold State.bindMeet
  grind [pigeonFault_memWf, payload_memWf, setTower_memWf, placeMeet_memWf, grantAll_memWf, startUnit_memWf, offer_memWf, State.MemWf, Got.MemWf]

theorem dequeueMeet_memWf {k t m} (h : s.MemWf) : (s.dequeueMeet k t m).MemWf := by
  unfold State.dequeueMeet
  grind [kindsOf_memWf, setTower_memWf, raise_memWf, bindMeet_memWf, Got.MemWf]

theorem placeGroup_memWf {l unit n} (h : s.MemWf) : (s.placeGroup l unit n).MemWf := by
  unfold State.placeGroup
  grind [raises_memWf, raise_memWf, State.MemWf]

theorem restoreAt_memWf {sd k} (h : s.MemWf) : (s.restoreAt sd k).MemWf := by
  unfold State.restoreAt
  grind [placeCtx_memWf, holdKey_memWf, State.MemWf]

theorem restoreTask_memWf {sd} (h : s.MemWf) : (s.restoreTask sd).MemWf := by
  unfold State.restoreTask
  grind [restoreAt_memWf]

theorem opTaskRestore_memWf {tid} (h : s.MemWf) : (opTaskRestore tid s).MemWf := by
  unfold opTaskRestore
  grind [restoreTask_memWf]

theorem placeUnit_memWf {k u m e} (h : s.MemWf) : (s.placeUnit k u m e).MemWf := placeMeet_memWf h

theorem tryGroup_memWf {l} (h : s.MemWf) : (s.tryGroup l).MemWf := by
  unfold State.tryGroup
  grind [placeGroup_memWf, raises_memWf]

theorem opGroupPlacement_memWf {id} (h : s.MemWf) : (opGroupPlacement id s).MemWf := by
  unfold opGroupPlacement
  grind [tryGroup_memWf, startUnit_memWf, State.MemWf]

theorem dropDispatch_memWf {k gid} (h : s.MemWf) : (s.dropDispatch k gid).MemWf := leaveGroup_memWf (by grind [State.MemWf])

theorem opGroupDispatch_memWf {gid core} (h : s.MemWf) : (opGroupDispatch gid core s).MemWf := by
  unfold opGroupDispatch
  grind [raise_memWf, placeNew_memWf, dropDispatch_memWf, State.MemWf]

theorem passOn_memWf {core} (h : s.MemWf) : (s.passOn core).MemWf := offer_memWf h

theorem opSlotFill_memWf {k} (h : s.MemWf) : (opSlotFill k s).MemWf := by
  unfold opSlotFill
  grind [passOn_memWf, raise_memWf, restoreTask_memWf, tryGroup_memWf, placeUnit_memWf, dequeueMeet_memWf]

theorem opKeyRequest_memWf {unit key} (h : s.MemWf) : (opKeyRequest unit key s).MemWf := by
  unfold opKeyRequest
  grind [setTower_memWf, raise_memWf]

theorem unitReady_memWf {u} (h : s.MemWf) : (s.unitReady u).MemWf := by
  unfold State.unitReady
  grind [offer_memWf, raise_memWf, State.MemWf]

theorem opKeyGrant_memWf {unit key} (h : s.MemWf) : (opKeyGrant unit key s).MemWf := by
  unfold opKeyGrant
  grind [raise_memWf, unitReady_memWf, State.MemWf]

theorem opKeyRelease_memWf {unit key} (h : s.MemWf) : (opKeyRelease unit key s).MemWf := ite_memWf (releaseKey_memWf h) h

theorem takeRelease_memWf {key p} (h : s.MemWf) (e : s.takeRelease key = some p) : p.2.MemWf := by
  unfold State.takeRelease at e
  obtain ⟨r, -, hr⟩ := firstSome_eq_some e
  grind [State.MemWf]

theorem execKeyRelease_memWf {key} (h : s.MemWf) : (execKeyRelease key s).MemWf := by
  unfold execKeyRelease
  split
  · next e => exact opKeyRelease_memWf (takeRelease_memWf h e)
  · exact h

theorem serveWaiting_memWf {t n} (h : s.MemWf) : (s.serveWaiting t n).MemWf := by
  induction n generalizing s with
  | zero => exact h
  | succ n ih =>
    unfold State.serveWaiting
    dsimp only
    split
    · exact h
    · exact ite_memWf (ih (opKeyRequest_memWf h)) h

theorem opKeyTableEntryFree_memWf {t} (h : s.MemWf) : (opKeyTableEntryFree t s).MemWf := serveWaiting_memWf h

theorem succSlot_memWf {g m d keys k} (h : s.MemWf) : (s.succSlot g m d keys k).MemWf := by
  unfold State.succSlot
  exact lookAgain_memWf (acquireAll_memWf (repool_memWf (setCtx_memWf (useFrames_memWf (dropFrames_memWf
    (takeBars_memWf (foldl_memWf (fun _ _ h => dropTile_memWf h) h)))))))

theorem opSuccessorStart_memWf {gid} (h : s.MemWf) : (opSuccessorStart gid s).MemWf := by
  unfold opSuccessorStart
  split
  · exact h
  split
  · exact h
  · exact ite_memWf h (ite_memWf h (foldl_memWf (fun _ _ h => succSlot_memWf h) h))

theorem offerCore_memWf {core} (h : s.MemWf) : (s.offerCore core).MemWf := h

theorem govern_memWf {t cls} (h : s.MemWf) : (s.govern t cls).MemWf := by
  unfold State.govern
  grind [offerCore_memWf, setCore_memWf]

theorem opGovernorEvaluation_memWf {t} (h : s.MemWf) : (opGovernorEvaluation t s).MemWf := foldl_memWf (fun _ _ h => govern_memWf h) h

theorem opRulePublicationFlip_memWf {t asid key} (h : s.MemWf) : (opRulePublicationFlip t asid key s).MemWf := by
  unfold opRulePublicationFlip
  grind [towerAnswer_memWf, flipRules_memWf]

theorem opBusySlotPoll_memWf {k} (h : s.MemWf) : (opBusySlotPoll k s).MemWf := by
  unfold opBusySlotPoll
  grind [wakeSlot_memWf]

theorem opBusyWaitReport_memWf {k} (h : s.MemWf) : (opBusyWaitReport k s).MemWf := by
  unfold opBusyWaitReport
  grind [report_memWf, setCtx_memWf]

/-! ## Accesses of the engines (Engine) -/

theorem engXlate_memWf {w va cls acc} (h : s.MemWf) : (s.engXlate w va cls acc).MemWf := by
  unfold State.engXlate
  grind [translate_memWf, Eng.MemWf, Look.MemWf]

theorem engBytes_memWf {w pa n} (h : s.MemWf) : (s.engBytes w pa n).2.MemWf := by
  unfold State.engBytes
  grind [reachHome_memWf, rdcAdd_memWf]

theorem engLine_memWf {w va n cls} (h : s.MemWf) : (s.engLine w va n cls).MemWf := by
  unfold State.engLine
  grind [Eng.bind_memWf, engXlate_memWf, engBytes_memWf, Eng.MemWf]

theorem engLines_memWf {w cls l} (h : s.MemWf) : (s.engLines w cls l).MemWf := by
  induction l generalizing s with
  | nil => exact h
  | cons p t ih => exact Eng.bind_memWf (engLine_memWf h) fun _ _ h => Eng.bind_memWf (ih h) fun _ _ h => h

theorem engRead_memWf {w va n} (h : s.MemWf) : (s.engRead w va n).MemWf := engLines_memWf h

theorem payPiece_memWf {k asid id paid} (h : s.MemWf) : (s.payPiece k asid id paid).2.MemWf := by
  unfold State.payPiece
  grind [setCore_memWf, raise_memWf]

theorem engPay_memWf {k asid id cost paid} (h : s.MemWf) : (s.engPay k asid id cost paid).2.MemWf := by
  unfold State.engPay
  grind [payPiece_memWf, wakeCore_memWf]

theorem leavePortE_memWf {k id} (h : s.MemWf) : (s.leavePortE k id).MemWf := h

theorem engUnpin_memWf {w tid scope pa} (h : s.MemWf) : (s.engUnpin w tid scope pa).MemWf := by
  unfold State.engUnpin
  grind [endPin_memWf]

theorem putPiece_memWf {t cs p} (h : s.MemWf) : (s.putPiece t cs p).MemWf := place_memWf h
theorem trapKey_memWf {k code info} (h : s.MemWf) : (s.trapKey k code info).MemWf := trap_memWf (by grind [switch_memWf, State.MemWf])
theorem detachKey_memWf {k f} (h : s.MemWf) : (s.detachKey k f).MemWf := completeSlot_memWf h

/-! ## Matrix commands (Matrix) -/

theorem tensorTrap_memWf {id reason} (h : s.MemWf) : (s.tensorTrap id reason).MemWf := trap_memWf h
theorem matrixTrap_memWf {reason} (h : s.MemWf) : (s.matrixTrap reason).MemWf := trap_memWf h
theorem ownTile_memWf {acc} (h : s.MemWf) : (s.ownTile acc).MemWf := h
theorem wakeArray_memWf {cl} (h : s.MemWf) : (s.wakeArray cl).MemWf := ite_memWf (raise_memWf h) h

theorem engineLeave_memWf {e} (h : s.MemWf) : (s.engineLeave e).MemWf := by
  unfold State.engineLeave
  split
  · exact release_memWf h
  · grind [stall_memWf, Res.MemWf]

theorem enterM_memWf {c} (h : s.MemWf) : (s.enterM c).MemWf := by
  unfold State.enterM
  grind [wakeArray_memWf, advance_memWf, hold_memWf, State.MemWf]

theorem leaveM_memWf {c} (h : s.MemWf) : (s.leaveM c).MemWf := by
  unfold State.leaveM
  grind [engineLeave_memWf, enterM_memWf, State.MemWf, Res.MemWf]

theorem issueM_memWf {c} (h : s.MemWf) : (s.issueM c).MemWf := leaveM_memWf (by grind [State.MemWf])

theorem resumeM_memWf {start} (h : s.MemWf) (hstart : ∀ s, s.MemWf → (start s).MemWf) : (s.resumeM start).MemWf := by
  unfold State.resumeM
  grind [leaveM_memWf]

theorem useMatrix_memWf (h : s.MemWf) : s.useMatrix.MemWf := h

theorem aCheck_memWf {x f src} (h : s.MemWf) : (s.aCheck x f src).MemWf := by
  unfold State.aCheck
  grind [matrixTrap_memWf, tensorTrap_memWf, Res.MemWf]

theorem opMma_memWf {rg e shape f acc src gb} (h : s.MemWf) : (opMma rg e shape f acc src gb s).MemWf :=
  resumeM_memWf h fun _ h => by
    grind [illegal_memWf, matrixTrap_memWf, Res.andThen_memWf, aCheck_memWf, useMatrix_memWf, advance_memWf, setG_memWf, issueM_memWf, ownTile_memWf]

theorem opBld_memWf {e tr f id ga gb gc} (h : s.MemWf) : (opBld e tr f id ga gb gc s).MemWf :=
  resumeM_memWf h fun _ h => by grind [illegal_memWf, matrixTrap_memWf, tensorTrap_memWf, issueM_memWf, useMatrix_memWf]

theorem opAst_memWf {e z f r id acc ga gb} (h : s.MemWf) : (opAst e z f r id acc ga gb s).MemWf :=
  resumeM_memWf h fun _ h => by grind [illegal_memWf, matrixTrap_memWf, tensorTrap_memWf, ownTile_memWf, issueM_memWf, State.MemWf]

theorem opAclr_memWf {acc} (h : s.MemWf) : (opAclr acc s).MemWf :=
  ite_memWf (illegal_memWf h) (ite_memWf (matrixTrap_memWf h) (issueM_memWf (ownTile_memWf h)))

theorem opMxw_memWf {ga} (h : s.MemWf) : (opMxw ga s).MemWf := ite_memWf (illegal_memWf h) (advance_memWf (setCluster_memWf h))
theorem opMxwait_memWf (h : s.MemWf) : (opMxwait s).MemWf := ite_memWf (advance_memWf (acquireAll_memWf h)) (park_memWf h)

/-! ## Steps of the matrix engine (MatrixSteps) -/

theorem putM_memWf {c} (h : s.MemWf) : (s.putM c).MemWf := h
theorem arrayFree_memWf {cl} (h : s.MemWf) : (s.arrayFree cl).MemWf := ite_memWf (raise_memWf (setCluster_memWf h)) (setCluster_memWf h)

theorem entryFree_memWf {cl q} (h : s.MemWf) : (s.entryFree cl q).MemWf := by
  unfold State.entryFree
  grind [wakeArray_memWf, completeSlot_memWf, setCluster_memWf, State.MemWf]

theorem dropM_memWf {c} (h : s.MemWf) : (s.dropM c).MemWf := by
  unfold State.dropM
  grind [leavePortE_memWf, entryFree_memWf, arrayFree_memWf, State.MemWf]

theorem putSteps_memWf {c n} (h : s.MemWf) : (s.putSteps c n).MemWf := setCtx_memWf h

theorem undoDraws_memWf {c} (h : s.MemWf) : (s.undoDraws c).MemWf := by
  unfold State.undoDraws
  grind [setCtx_memWf]

theorem faultM_memWf {c va} (h : s.MemWf) : (s.faultM c va).MemWf := beginSuspendKey_memWf (undoDraws_memWf (dropM_memWf h))
theorem deniedM_memWf {c src num va} (h : s.MemWf) : (s.deniedM c src num va).MemWf := trapKey_memWf (undoDraws_memWf (dropM_memWf h))
theorem trapM_memWf {c reason} (h : s.MemWf) : (s.trapM c reason).MemWf := trapKey_memWf (undoDraws_memWf (dropM_memWf h))

theorem opMatrixCommandStop_memWf {cl} (h : s.MemWf) : (opMatrixCommandStop cl s).MemWf := by
  unfold opMatrixCommandStop
  grind [undoDraws_memWf, dropM_memWf]

theorem mapLines_memWf {w acc l} (h : s.MemWf) : (s.mapLines w acc l).MemWf := by
  induction l generalizing s with
  | nil => exact h
  | cons _ t ih => exact Eng.bind_memWf (engXlate_memWf h) fun _ _ h => Eng.bind_memWf (ih h) fun _ _ h => h

theorem reselect_memWf {c} (h : s.MemWf) : (s.reselect c).MemWf := h

theorem startBlock_memWf {c acc} (h : s.MemWf) : (s.startBlock c acc).MemWf := by
  unfold State.startBlock
  grind [mapLines_memWf, faultM_memWf, deniedM_memWf, reselect_memWf, raise_memWf, detachKey_memWf, putM_memWf, Eng.MemWf]

theorem ringRead_memWf {c q} (h : s.MemWf) : (s.ringRead c q).MemWf := engRead_memWf h

theorem firstStep_memWf {c} (h : s.MemWf) : (s.firstStep c).MemWf := by
  unfold State.firstStep
  grind [raise_memWf]

theorem payM_memWf {c cost} (h : s.MemWf) : (s.payM c cost).2.MemWf := by
  unfold State.payM
  grind [engPay_memWf, putM_memWf]

theorem startMma_memWf {c} (h : s.MemWf) : (s.startMma c).MemWf := by
  unfold State.startMma
  grind [firstStep_memWf, putM_memWf, payM_memWf, reselect_memWf, ringRead_memWf, faultM_memWf, deniedM_memWf, trapM_memWf, putSteps_memWf,
    Eng.MemWf]

theorem startM_memWf {c} (h : s.MemWf) : (s.startM c).MemWf := by
  unfold State.startM
  grind [startMma_memWf, startBlock_memWf, raise_memWf]

theorem opMatrixArbiterSelect_memWf {cl} (h : s.MemWf) : (opMatrixArbiterSelect cl s).MemWf := by
  unfold opMatrixArbiterSelect
  grind [startM_memWf, setCluster_memWf]

theorem readOn_memWf {c l} (h : s.MemWf) : (s.readOn c l).MemWf := by
  unfold State.readOn
  grind [Eng.bind_memWf, engRead_memWf, putM_memWf, State.MemWf, Eng.MemWf]

theorem finishMma_memWf {c} (h : s.MemWf) : (s.finishMma c).MemWf := raise_memWf (putM_memWf (detachKey_memWf (putSteps_memWf h)))

theorem addKStep_memWf {c} (h : s.MemWf) : (s.addKStep c).MemWf := by
  unfold State.addKStep
  grind [putSteps_memWf, putM_memWf, finishMma_memWf, raise_memWf, trapM_memWf, State.MemWf]

theorem kStepM_memWf {c} (h : s.MemWf) : (s.kStepM c).MemWf := by
  unfold State.kStepM
  grind [payM_memWf, raise_memWf, readOn_memWf, faultM_memWf, deniedM_memWf, addKStep_memWf, Eng.MemWf]

theorem opMmaKStep_memWf {cl} (h : s.MemWf) : (opMmaKStep cl s).MemWf := by
  unfold opMmaKStep
  grind [kStepM_memWf]

theorem addChunk_memWf {c rows} (h : s.MemWf) : (s.addChunk c rows).MemWf := by
  unfold State.addChunk
  grind [trapM_memWf, putSteps_memWf, putM_memWf, finishMma_memWf, raise_memWf, State.MemWf]

theorem chunkRows_memWf {c filled} (h : s.MemWf) : (s.chunkRows c filled).MemWf := by
  unfold State.chunkRows
  grind [payM_memWf, raise_memWf, readOn_memWf, faultM_memWf, deniedM_memWf, addChunk_memWf, Eng.MemWf]

theorem chunkM_memWf {c q} (h : s.MemWf) : (s.chunkM c q).MemWf := by
  unfold State.chunkM
  grind [chunkRows_memWf, payM_memWf, raise_memWf, ringRead_memWf, faultM_memWf, deniedM_memWf, trapM_memWf, Eng.MemWf]

theorem opMmaRgChunkStart_memWf {cl} (h : s.MemWf) : (opMmaRgChunkStart cl s).MemWf := by
  unfold opMmaRgChunkStart
  grind [chunkM_memWf]

theorem reachBlock_memWf {c l} (h : s.MemWf) : (s.reachBlock c l).MemWf :=
  ite_memWf h (ite_memWf (reachHome_memWf h) (rdcAdd_memWf (reachHome_memWf h)))

theorem putB_memWf {cs} (h : s.MemWf) : (s.putB cs).MemWf := h
theorem zeroWindow_memWf {tile w} (h : s.MemWf) : (s.zeroWindow tile w).MemWf := h

theorem wakeMx_memWf {tid} (h : s.MemWf) : (s.wakeMx tid).MemWf := by
  unfold State.wakeMx
  grind [completeSlot_memWf, acquireAll_memWf]

theorem endM_memWf {c} (h : s.MemWf) : (s.endM c).MemWf := wakeMx_memWf (dropM_memWf h)
theorem againM_memWf {c} (h : s.MemWf) : (s.againM c).MemWf := h
theorem fillB_memWf {c} (h : s.MemWf) : (s.fillB c).MemWf := endM_memWf (putB_memWf h)

theorem bldPiece_memWf {c} (h : s.MemWf) : (s.bldPiece c).MemWf := by
  unfold State.bldPiece
  grind [fillB_memWf, againM_memWf, reachBlock_memWf, putM_memWf, State.MemWf]

theorem completeBld_memWf {c} (h : s.MemWf) : (s.completeBld c).MemWf := by
  unfold State.completeBld
  grind [payM_memWf, againM_memWf, bldPiece_memWf]

theorem astWindow_memWf {c} (h : s.MemWf) : (s.astWindow c).MemWf := againM_memWf (putM_memWf (ite_memWf (zeroWindow_memWf h) h))

theorem astPiece_memWf {c l} (h : s.MemWf) : (s.astPiece c l).MemWf := by
  unfold State.astPiece
  grind [endM_memWf, engUnpin_memWf, againM_memWf, putPiece_memWf, putM_memWf, State.MemWf]

theorem completeAst_memWf {c} (h : s.MemWf) : (s.completeAst c).MemWf := by
  unfold State.completeAst
  grind [astWindow_memWf, againM_memWf, endM_memWf, payM_memWf, astPiece_memWf]

theorem completeM_memWf {c} (h : s.MemWf) : (s.completeM c).MemWf := by
  unfold State.completeM
  grind [endM_memWf, zeroTile_memWf, completeBld_memWf, completeAst_memWf]

theorem opMatrixCommandComplete_memWf {cl} (h : s.MemWf) : (opMatrixCommandComplete cl s).MemWf := by
  unfold opMatrixCommandComplete
  grind [completeM_memWf]

/-! ## Mailboxes and the front of the engines (Front) -/

theorem dispatchBlock_memWf {w cls reader b ind} (h : s.MemWf) : (s.dispatchBlock w cls reader b ind).MemWf := by
  unfold State.dispatchBlock
  grind [devReads_memWf, addLaunch_memWf, Got.MemWf]

theorem launchHandler_memWf {asid core bar block} (h : s.MemWf) : (s.launchHandler asid core bar block).MemWf := h
theorem handled_memWf {x} (h : s.MemWf) : (s.handled x).MemWf := h

theorem retryHandler_memWf {core bar} (h : s.MemWf) : (s.retryHandler core bar).MemWf := by
  unfold State.retryHandler
  grind [Got.bind_memWf, devReads_memWf, dispatchBlock_memWf, raise_memWf, report_memWf, handled_memWf, Got.MemWf]

theorem vector_memWf {v} (h : s.MemWf) : (s.vector v).MemWf := by
  unfold State.vector
  grind [State.MemWf]

theorem unmask_memWf (h : s.MemWf) : s.unmask.MemWf := foldl_memWf (fun _ _ h => ite_memWf h h) h

theorem fePut_memWf {pa data} (h : s.MemWf) : (s.fePut pa data).MemWf := by
  unfold State.fePut
  grind [signal_memWf, performFrom_memWf, Got.MemWf]

theorem feWrite_memWf {asid va data} (h : s.MemWf) : (s.feWrite asid va data).MemWf := by
  unfold State.feWrite
  grind [translate_memWf, fePut_memWf, Got.MemWf, Look.MemWf]

theorem packetEnd_memWf {id status reason} (h : s.MemWf) : (s.packetEnd id status reason).MemWf := h

/-! ## Copy commands (Copy) -/

theorem copyTrap_memWf {reason} (h : s.MemWf) : (s.copyTrap reason).MemWf := trap_memWf h

theorem enterE_memWf {c} (h : s.MemWf) : (s.enterE c).MemWf := by
  unfold State.enterE
  grind [hold_memWf, raise_memWf, State.MemWf]

theorem leaveE_memWf {c} (h : s.MemWf) : (s.leaveE c).MemWf := by
  unfold State.leaveE
  grind [engineLeave_memWf, enterE_memWf, State.MemWf, Res.MemWf]

theorem resumeE_memWf {start} (h : s.MemWf) (hstart : ∀ s, s.MemWf → (start s).MemWf) : (s.resumeE start).MemWf := by
  unfold State.resumeE
  grind [leaveE_memWf]

theorem engCheck_memWf {num len wr} (h : s.MemWf) : (s.engCheck num len wr).MemWf := by
  unfold State.engCheck
  grind [limitTrap_memWf, permTrap_memWf, copyTrap_memWf, Res.MemWf]

theorem engIssue_memWf {c} (h : s.MemWf) : (s.engIssue c).MemWf := by
  unfold State.engIssue
  grind [advance_memWf, leaveE_memWf, State.MemWf]

theorem emptyCopy_memWf {c} (h : s.MemWf) : (s.emptyCopy c).MemWf := h

theorem opCpy_memWf {add e ad sa gb} (h : s.MemWf) : (opCpy add e ad sa gb s).MemWf :=
  resumeE_memWf h fun _ h => by grind [copyTrap_memWf, Res.andThen_memWf, engCheck_memWf, emptyCopy_memWf, engIssue_memWf]

theorem opCpyMc_memWf {e wx wy gm sa gb} (h : s.MemWf) : (opCpyMc e wx wy gm sa gb s).MemWf :=
  resumeE_memWf h fun _ h => by grind [copyTrap_memWf, Res.andThen_memWf, engCheck_memWf, emptyCopy_memWf, engIssue_memWf]

theorem opPost_memWf {e gr sa gb} (h : s.MemWf) : (opPost e gr sa gb s).MemWf :=
  resumeE_memWf h fun _ h => by grind [copyTrap_memWf, Res.andThen_memWf, engCheck_memWf, engIssue_memWf]

theorem opPostMb_memWf {e ge gb} (h : s.MemWf) : (opPostMb e ge gb s).MemWf :=
  resumeE_memWf h fun _ h => by grind [copyTrap_memWf, leaveE_memWf, State.MemWf]

theorem opPostQ_memWf {e tag ad sa gb} (h : s.MemWf) : (opPostQ e tag ad sa gb s).MemWf :=
  resumeE_memWf h fun _ h => by grind [copyTrap_memWf, Res.andThen_memWf, engCheck_memWf, engIssue_memWf]

theorem opToksend_memWf {e gt sa gb} (h : s.MemWf) : (opToksend e gt sa gb s).MemWf :=
  resumeE_memWf h fun _ h => by grind [copyTrap_memWf, Res.andThen_memWf, engCheck_memWf, engIssue_memWf]

theorem setBox_memWf {core n b} (h : s.MemWf) : (s.setBox core n b).MemWf := h
theorem opMboxCfg_memWf {ga} (h : s.MemWf) : (opMboxCfg ga s).MemWf := ite_memWf (copyTrap_memWf h) (advance_memWf (setBox_memWf h))
theorem opMboxRd_memWf {gd ga} (h : s.MemWf) : (opMboxRd gd ga s).MemWf := retG_memWf (acquireAll_memWf h)

theorem opCsnap_memWf {a ga} (h : s.MemWf) : (opCsnap a ga s).MemWf := by
  unfold opCsnap
  grind [copyTrap_memWf, Res.andThen_memWf, check_memWf, advance_memWf, acquire_memWf, writeScratch_memWf, writeParts_memWf, stall_memWf,
    hold_memWf, raises_memWf, State.MemWf]

theorem setBar_memWf {core bar b} (h : s.MemWf) : (s.setBar core bar b).MemWf := h

theorem opBarInit_memWf {bar ga gb} (h : s.MemWf) : (opBarInit bar ga gb s).MemWf :=
  ite_memWf (copyTrap_memWf h) (ite_memWf (copyTrap_memWf h) (advance_memWf (setBar_memWf h)))

theorem opBarArrive_memWf {bar ga gk} (h : s.MemWf) : (opBarArrive bar ga gk s).MemWf :=
  Res.andThen_memWf (release_memWf h) fun _ _ h => advance_memWf (raise_memWf h)

theorem opBarWait_memWf {bar gt} (h : s.MemWf) : (opBarWait bar gt s).MemWf :=
  ite_memWf (copyTrap_memWf h) (ite_memWf (retG_memWf (acquireAll_memWf h)) (park_memWf h))

/-! ## Steps of the copy and post engines (CopySteps) -/

theorem putE_memWf {c} (h : s.MemWf) : (s.putE c).MemWf := h
theorem failE_memWf {id status} (h : s.MemWf) : (s.failE id status).MemWf := h
theorem engineGo_memWf {cl} (h : s.MemWf) : (s.engineGo cl).MemWf := ite_memWf (raise_memWf h) h

theorem entryFreeE_memWf {cl q} (h : s.MemWf) : (s.entryFreeE cl q).MemWf := by
  unfold State.entryFreeE
  grind [raise_memWf, State.MemWf]

theorem finishE_memWf {c} (h : s.MemWf) : (s.finishE c).MemWf := by
  unfold State.finishE
  grind [engineGo_memWf, packetEnd_memWf, State.MemWf]

theorem settleOne_memWf {id} (h : s.MemWf) : (s.settleOne id).MemWf := by
  unfold State.settleOne
  grind [raise_memWf, finishE_memWf]

theorem settle_memWf {id} (h : s.MemWf) : (s.settle id).MemWf := foldl_memWf (fun _ _ h => settleOne_memWf h) (settleOne_memWf h)

theorem applied_memWf {cmd status} (h : s.MemWf) : (s.applied cmd status).MemWf := by
  unfold State.applied
  grind [settle_memWf, failE_memWf, State.MemWf]

theorem owe_memWf {id n} (h : s.MemWf) : (s.owe id n).MemWf := h
theorem putBytesRead_memWf {c n} (h : s.MemWf) : (s.putBytesRead c n).MemWf := ite_memWf h (setCtx_memWf h)

theorem stopE_memWf {c} (h : s.MemWf) : (s.stopE c).MemWf := by
  unfold State.stopE
  grind [leavePortE_memWf, entryFreeE_memWf, engineGo_memWf, putBytesRead_memWf, settle_memWf, putE_memWf, State.MemWf]

theorem faultE_memWf {c va} (h : s.MemWf) : (s.faultE c va).MemWf := by
  unfold State.faultE
  grind [settle_memWf, putE_memWf, detachKey_memWf, stopE_memWf, beginSuspendKey_memWf]

theorem deniedE_memWf {c src num va} (h : s.MemWf) : (s.deniedE c src num va).MemWf := by
  unfold State.deniedE
  grind [settle_memWf, putE_memWf, trapKey_memWf, stopE_memWf]

theorem trapE_memWf {c reason} (h : s.MemWf) : (s.trapE c reason).MemWf := by
  unfold State.trapE
  grind [settle_memWf, putE_memWf, trapKey_memWf, stopE_memWf]

theorem sendMsg_memWf {c kind data bar counter count} (h : s.MemWf) : (s.sendMsg c kind data bar counter count).MemWf := h
theorem releaseSlot_memWf {c} (h : s.MemWf) : (s.releaseSlot c).MemWf := ite_memWf h (detachKey_memWf h)

theorem payE_memWf {c} (h : s.MemWf) : (s.payE c).2.MemWf := by
  unfold State.payE
  grind [engPay_memWf, putE_memWf]

theorem sendRow_memWf {c} (h : s.MemWf) : (s.sendRow c).MemWf := by
  unfold State.sendRow
  grind [payE_memWf, raise_memWf, engRead_memWf, faultE_memWf, deniedE_memWf, settle_memWf, releaseSlot_memWf, putE_memWf, trapE_memWf,
    sendMsg_memWf, Eng.MemWf]

theorem detachE_memWf {c} (h : s.MemWf) : (s.detachE c).MemWf := by
  unfold State.detachE
  grind [settle_memWf, releaseSlot_memWf, putE_memWf, raise_memWf, sendMsg_memWf, sendRow_memWf]

theorem engPages_memWf {w cls acc l} (h : s.MemWf) : (s.engPages w cls acc l).MemWf := by
  induction l generalizing s with
  | nil => exact h
  | cons p t ih => exact Eng.bind_memWf (engXlate_memWf h) fun _ _ h => Eng.bind_memWf (ih h) fun _ _ h => h

theorem startAdd_memWf {c} (h : s.MemWf) : (s.startAdd c).MemWf := by
  unfold State.startAdd
  grind [raise_memWf, engPages_memWf, faultE_memWf, deniedE_memWf, trapE_memWf, Eng.MemWf]

theorem startNext_memWf {cl} (h : s.MemWf) : (s.startNext cl).MemWf := by
  unfold State.startNext
  grind [setCluster_memWf, engineGo_memWf, entryFreeE_memWf, putE_memWf, startAdd_memWf, raise_memWf]

theorem engSource_memWf {c n} (h : s.MemWf) : (s.engSource c n).MemWf := by
  unfold State.engSource
  grind [bringPages_memWf, engLines_memWf, Eng.MemWf]

theorem tookPiece_memWf {c bs} (h : s.MemWf) : (s.tookPiece c bs).MemWf :=
  ite_memWf (detachE_memWf (raises_memWf (putBytesRead_memWf (putE_memWf h)))) (raise_memWf (raises_memWf (putBytesRead_memWf (putE_memWf h))))

theorem readPiece_memWf {c} (h : s.MemWf) : (s.readPiece c).MemWf := by
  unfold State.readPiece
  grind [raise_memWf, payE_memWf, trapE_memWf, engSource_memWf, faultE_memWf, deniedE_memWf, tookPiece_memWf, Eng.MemWf]

theorem opEngineCommandStart_memWf {cl cmd} (h : s.MemWf) : (opEngineCommandStart cl cmd s).MemWf := by
  unfold opEngineCommandStart
  grind [startNext_memWf, detachE_memWf, readPiece_memWf]

theorem putBacking_memWf {w c a bs} (h : s.MemWf) : (s.putBacking w c a bs).MemWf := foldl_memWf (fun _ _ h => by grind [performFrom_memWf]) h

theorem putScratch_memWf {w tid a bs} (h : s.MemWf) : (s.putScratch w tid a bs).MemWf := by
  unfold State.putScratch
  grind [bringPages_memWf, setCtx_memWf, putBacking_memWf]

theorem addHeld_memWf {cl cmd asid va n k} (h : s.MemWf) : (s.addHeld cl cmd asid va n k).MemWf := h
theorem deniedRecord_memWf {w va cls} (h : s.MemWf) : (s.deniedRecord w va cls).MemWf := h
theorem holdE_memWf {c va n k} (h : s.MemWf) : (s.holdE c va n k).MemWf := ite_memWf (addHeld_memWf h) (putE_memWf h)
theorem roomFreed_memWf {cl} (h : s.MemWf) : (s.roomFreed cl).MemWf := foldl_memWf (fun _ _ h => raise_memWf h) h
theorem addPart_memWf {t pa bs} (h : s.MemWf) : (s.addPart t pa bs).MemWf := ite_memWf (report_memWf h) (place_memWf h)
theorem addScratch_memWf {w tid a bs} (h : s.MemWf) : (s.addScratch w tid a bs).MemWf := ite_memWf (report_memWf h) (putScratch_memWf h)

theorem landed_memWf {c n count} (h : s.MemWf) : (s.landed c n count).MemWf := by
  unfold State.landed
  grind [putE_memWf, raise_memWf, owe_memWf, settle_memWf]

theorem holdPiece_memWf {c p va} (h : s.MemWf) : (s.holdPiece c p va).MemWf := ite_memWf (addHeld_memWf (putE_memWf h)) (putE_memWf h)
theorem reachAll_memWf {scope clock} (h : s.MemWf) : (s.reachAll scope clock).MemWf := ite_memWf (foldl_memWf (fun _ _ h => reach_memWf h) h) h

theorem putPart_memWf {c cs put} (h : s.MemWf) (hput : ∀ s, s.MemWf → (put s).MemWf) : (s.putPart c cs put).2.MemWf :=
  reachAll_memWf (ite_memWf (foldl_memWf (fun _ _ h => signal_memWf h) (hput s h)) (hput s h))

theorem writeParts32_memWf {c p ps} (h : s.MemWf) : (s.writeParts32 c p ps).MemWf := by
  unfold State.writeParts32
  grind [addPart_memWf, putPiece_memWf, putPart_memWf, raises_memWf, landed_memWf, State.MemWf]

theorem writeGlobal_memWf {c p} (h : s.MemWf) : (s.writeGlobal c p).MemWf := by
  unfold State.writeGlobal
  have hp : (s.engPages (s.eWho c) c.dst.cls .engWrite (linesOf (c.dst.addr + p.off) p.data.length)).MemWf := engPages_memWf h
  dsimp only
  split
  · next e => rw [e] at hp; exact holdPiece_memWf hp
  · next e => rw [e] at hp; exact holdPiece_memWf (deniedRecord_memWf hp)
  · next e => rw [e] at hp; exact hp
  · next ps s e =>
    have hs : s.MemWf := by rw [e] at hp; exact hp
    refine ite_memWf (settle_memWf (failE_memWf hs)) (ite_memWf (settle_memWf (failE_memWf hs))
      (ite_memWf (raise_memWf ?_) (writeParts32_memWf ?_))) <;>
    exact foldl_memWf (fun _ _ h => engUnpin_memWf h) hs

theorem writeTask_memWf {c p} (h : s.MemWf) : (s.writeTask c p).MemWf :=
  landed_memWf (ite_memWf (foldl_memWf (fun _ _ h => addScratch_memWf h) h) (putScratch_memWf h))

theorem opEnginePieceWrite_memWf {id} (h : s.MemWf) : (opEnginePieceWrite id s).MemWf := by
  unfold opEnginePieceWrite
  grind [raise_memWf, writeTask_memWf, writeGlobal_memWf, State.MemWf]

theorem mcReceive_memWf {c p core} (h : s.MemWf) : (s.mcReceive c p core).MemWf := by
  unfold State.mcReceive
  grind [failE_memWf, putScratch_memWf, raise_memWf, owe_memWf]

theorem opMulticastReplicate_memWf {id} (h : s.MemWf) : (opMulticastReplicate id s).MemWf := by
  unfold opMulticastReplicate
  split
  · exact h
  split
  · exact ite_memWf h (settle_memWf (foldl_memWf (fun _ _ h => mcReceive_memWf h) (putE_memWf h)))
  · exact h

theorem placeWord_memWf {c pa data} (h : s.MemWf) : (s.placeWord c pa data).MemWf := ite_memWf (putPin_memWf (pinLine_memWf h)) (place_memWf h)
theorem coverParts_memWf {c} (h : s.MemWf) : (s.coverParts c).MemWf := foldl_memWf (fun _ _ h => reachAll_memWf (reach_memWf h)) h

theorem finishSnap_memWf {c} (h : s.MemWf) : (s.finishSnap c).MemWf :=
  ite_memWf (completeSlot_memWf (acquireAll_memWf (finishE_memWf h))) (finishE_memWf h)

theorem opCompletionWordWrite_memWf {id} (h : s.MemWf) : (opCompletionWordWrite id s).MemWf := by
  unfold opCompletionWordWrite
  grind [raise_memWf, finishSnap_memWf, finishE_memWf, coverParts_memWf, engXlate_memWf, holdE_memWf, deniedRecord_memWf, engUnpin_memWf,
    signal_memWf, placeWord_memWf, reachAll_memWf, Eng.MemWf]

theorem opPeerAcknowledge_memWf {id} (h : s.MemWf) : (opPeerAcknowledge id s).MemWf := by
  unfold opPeerAcknowledge
  grind [settle_memWf, putE_memWf]

theorem opPostQRecordSend_memWf {id} (h : s.MemWf) : (opPostQRecordSend id s).MemWf := by
  unfold opPostQRecordSend
  grind [raise_memWf, sendMsg_memWf, coverParts_memWf]

theorem putMsg_memWf {m} (h : s.MemWf) : (s.putMsg m).MemWf := h
theorem endMsg_memWf {m status} (h : s.MemWf) : (s.endMsg m status).MemWf := applied_memWf (by grind [State.MemWf])

theorem holdMsg_memWf {m va k} (h : s.MemWf) : (s.holdMsg m va k).MemWf := by
  unfold State.holdMsg
  grind [addHeld_memWf, State.MemWf]

theorem countRow_memWf {m} (h : s.MemWf) : (s.countRow m).MemWf := by
  unfold State.countRow
  grind [State.MemWf]

theorem fillPart_memWf {w cells i} (h : s.MemWf) : (s.fillPart w cells i).MemWf := by
  unfold State.fillPart
  grind [place_memWf]

theorem filledSlot_memWf {w m slot} (h : s.MemWf) : (s.filledSlot w m slot).MemWf := raise_memWf (putMsg_memWf (reachAll_memWf h))

theorem fillSlot_memWf {m slot} (h : s.MemWf) : (s.fillSlot m slot).MemWf := by
  unfold State.fillSlot
  grind [engPages_memWf, filledSlot_memWf, report_memWf, holdMsg_memWf, deniedRecord_memWf, raise_memWf, fillPart_memWf, putMsg_memWf,
    State.MemWf, Eng.MemWf]

theorem takeSlot_memWf {w pa c} (h : s.MemWf) : (s.takeSlot w pa c).MemWf := by
  unfold State.takeSlot
  grind [place_memWf, State.MemWf]

theorem reserve_memWf {m} (h : s.MemWf) : (s.reserve m).MemWf := by
  unfold State.reserve
  grind [engXlate_memWf, holdMsg_memWf, deniedRecord_memWf, raise_memWf, endMsg_memWf, report_memWf, putMsg_memWf, takeSlot_memWf, fillSlot_memWf,
    countRow_memWf, Eng.MemWf]

theorem deliver_memWf {m} (h : s.MemWf) : (s.deliver m).MemWf :=
  ite_memWf (endMsg_memWf h) (ite_memWf (raise_memWf h) (ite_memWf (putMsg_memWf (wakeCore_memWf h)) (reserve_memWf (wakeCore_memWf h))))

theorem opPostDelivery_memWf {id} (h : s.MemWf) : (opPostDelivery id s).MemWf := by
  unfold opPostDelivery
  grind [deliver_memWf]

theorem opTokenRowArrival_memWf {id} (h : s.MemWf) : (opTokenRowArrival id s).MemWf := by
  unfold opTokenRowArrival
  grind [deliver_memWf]

theorem opRingReservationResume_memWf {id} (h : s.MemWf) : (opRingReservationResume id s).MemWf := by
  unfold opRingReservationResume
  grind [raise_memWf, fillSlot_memWf, State.MemWf]

theorem windowMoved_memWf (h : s.MemWf) : s.windowMoved.MemWf := ringFreed_memWf h

theorem markFilled_memWf {w pa slot} (h : s.MemWf) : (s.markFilled w pa slot).MemWf := by
  unfold State.markFilled
  grind [signal_memWf, place_memWf, windowMoved_memWf, State.MemWf]

theorem ringPa_memWf {m} (h : s.MemWf) : (s.ringPa m).2.MemWf := by
  unfold State.ringPa
  grind [engXlate_memWf, Eng.MemWf]

theorem countMsg_memWf {m} (h : s.MemWf) : (s.countMsg m).MemWf := by
  unfold State.countMsg
  grind [raise_memWf, applied_memWf, State.MemWf]

theorem opFillReport_memWf {id} (h : s.MemWf) : (opFillReport id s).MemWf := by
  unfold opFillReport
  grind [ringPa_memWf, raise_memWf, countMsg_memWf, markFilled_memWf]

theorem opMailboxArrival_memWf {id} (h : s.MemWf) : (opMailboxArrival id s).MemWf := by
  unfold opMailboxArrival
  grind [endMsg_memWf, raise_memWf, setBox_memWf, wakeCore_memWf]

theorem wakeBar_memWf {bar k} (h : s.MemWf) : (s.wakeBar bar k).MemWf := by
  unfold State.wakeBar
  grind [completeSlot_memWf, acquireAll_memWf]

theorem dropArrival_memWf {a} (h : s.MemWf) : (s.dropArrival a).MemWf := by
  unfold State.dropArrival
  grind [applied_memWf, report_memWf]

theorem arriveAt_memWf {core asid a} (h : s.MemWf) : (s.arriveAt core asid a).MemWf := by
  have hw (s : State) (h : s.MemWf) : State.MemWf ((slotKeys core).foldl (fun s k => s.wakeBar a.bar k) s) := foldl_memWf (fun _ _ h =>
    wakeBar_memWf h) h
  exact applied_memWf (ite_memWf (ite_memWf (launchHandler_memWf (hw _ h)) (hw _ h)) h)

theorem opFrameBarrierArrival_memWf {tid a} (h : s.MemWf) : (opFrameBarrierArrival tid a s).MemWf := by
  unfold opFrameBarrierArrival
  grind [dropArrival_memWf, applied_memWf, launchHandler_memWf, State.MemWf]

theorem arrive_memWf {a} (h : s.MemWf) : (s.arrive a).MemWf := by
  unfold State.arrive
  grind [arriveAt_memWf, dropArrival_memWf, opFrameBarrierArrival_memWf, raise_memWf]

theorem opBarrierArrival_memWf {a} (h : s.MemWf) : (opBarrierArrival a s).MemWf :=
  ite_memWf (retryHandler_memWf h) (ite_memWf (raise_memWf h) (arrive_memWf (reach_memWf (wakeCore_memWf h))))

theorem dropHeld_memWf {w} (h : s.MemWf) : (s.dropHeld w).MemWf := roomFreed_memWf (by grind [State.MemWf])
theorem wakeBehind_memWf {m} (h : s.MemWf) : (s.wakeBehind m).MemWf := foldl_memWf (fun _ _ h => raise_memWf h) h

theorem replay_memWf {w} (h : s.MemWf) : (s.replay w).MemWf := by
  unfold State.replay
  grind [raise_memWf, putE_memWf, wakeBehind_memWf, addDone_memWf]

theorem opHeldWriteRelease_memWf {id} (h : s.MemWf) : (opHeldWriteRelease id s).MemWf := by
  unfold opHeldWriteRelease
  grind [replay_memWf, dropHeld_memWf]

theorem fillPoison_memWf {m slot} (h : s.MemWf) : (s.fillPoison m slot).MemWf := fillSlot_memWf (putMsg_memWf h)
theorem putPub_memWf {t p} (h : s.MemWf) : (s.putPub t p).MemWf := ite_memWf (setTower_memWf h) (raise_memWf (setTower_memWf h))

theorem dropPublish_memWf {t} (h : s.MemWf) : (s.dropPublish t).MemWf := by
  unfold State.dropPublish
  grind [putPub_memWf, soXlate_memWf, performFrom_memWf, report_memWf, Got.MemWf]

theorem dropPieceE_memWf {w} (h : s.MemWf) : (s.dropPieceE w).MemWf := by
  unfold State.dropPieceE
  grind [settle_memWf, report_memWf, failE_memWf]

theorem discard_memWf {w} (h : s.MemWf) : (s.discard w).MemWf := by
  unfold State.discard
  grind [dropPieceE_memWf, finishE_memWf, wakeBehind_memWf, endMsg_memWf, fillPoison_memWf, failE_memWf, dropPublish_memWf]

theorem opHeldWriteAbandon_memWf {id} (h : s.MemWf) : (opHeldWriteAbandon id s).MemWf := by
  unfold opHeldWriteAbandon
  grind [discard_memWf, dropHeld_memWf]

theorem opHeldWriteRoomFree_memWf {id} (h : s.MemWf) : (opHeldWriteRoomFree id s).MemWf := by
  unfold opHeldWriteRoomFree
  split
  · exact h
  · refine ite_memWf h (ite_memWf (settle_memWf ?_) ?_) <;>
    exact foldl_memWf (fun _ _ h => by grind [raise_memWf]) (engineGo_memWf (putE_memWf h))

theorem pubReserve_memWf {t ctrl pa p} (h : s.MemWf) : (s.pubReserve t ctrl pa p).MemWf := by
  unfold State.pubReserve
  grind [report_memWf, reachHome_memWf, takeSlot_memWf, Got.MemWf]

theorem publishStep_memWf {t p} (h : s.MemWf) : (s.publishStep t p).MemWf := by
  unfold State.publishStep
  grind [Got.bind_memWf, soXlate_memWf, pubReserve_memWf, performFrom_memWf, markFilled_memWf, Got.MemWf]

theorem holdPublish_memWf {t asid} (h : s.MemWf) : (s.holdPublish t asid).MemWf := h

theorem opFreeRingHeldPublish_memWf {t} (h : s.MemWf) : (opFreeRingHeldPublish t s).MemWf := by
  unfold opFreeRingHeldPublish
  grind [publishStep_memWf, putPub_memWf, holdPublish_memWf, Got.MemWf]

/-! ## Suspension and restore (Suspend) -/

theorem stopHeld_memWf {k} (h : s.MemWf) : (s.stopHeld k).MemWf := by
  unfold State.stopHeld
  grind [completeSlot_memWf, stopE_memWf, raise_memWf, undoDraws_memWf, dropM_memWf]

theorem dropLeaving_memWf {k} (h : s.MemWf) : (s.dropLeaving k).MemWf := by
  unfold State.dropLeaving
  grind [undoDraws_memWf, dropM_memWf, State.MemWf]

theorem leavePort_memWf {k} (h : s.MemWf) : (s.leavePort k).MemWf := h

theorem settle79_memWf {k} (h : s.MemWf) : (s.settle79 k).MemWf := by
  unfold State.settle79
  grind [settleTowers_memWf, reachAll_memWf]

theorem halt_memWf {k cause} (h : s.MemWf) : (s.halt k cause).MemWf :=
  beginSuspendKey_memWf (leavePort_memWf (dropLeaving_memWf (stopHeld_memWf (unparkWatch_memWf (settle79_memWf h)))))

theorem opPreemptionRequest_memWf {k} (h : s.MemWf) : (opPreemptionRequest k s).MemWf := by
  unfold opPreemptionRequest
  grind [setCtx_memWf, halt_memWf]

theorem saveTask_memWf {k cause} (h : s.MemWf) : (s.saveTask k cause).MemWf := by
  unfold State.saveTask
  grind [writeBack_memWf, freeSlot_memWf, raise_memWf, pigeonFault_memWf, State.MemWf]

theorem endResident_memWf {k} (h : s.MemWf) : (s.endResident k).MemWf := endTask_memWf (report_memWf h)

theorem opTaskSuspension_memWf {k} (h : s.MemWf) : (opTaskSuspension k s).MemWf := by
  unfold opTaskSuspension
  grind [unpinTask_memWf, endResident_memWf, saveTask_memWf, raise_memWf]

theorem unpigeon_memWf {tid} (h : s.MemWf) : (s.unpigeon tid).MemWf :=
  foldl_memWf (fun _ _ h => ite_memWf (setTower_memWf h) (raise_memWf (setTower_memWf h))) h

theorem opTaskRelease_memWf {tid} (h : s.MemWf) : (opTaskRelease tid s).MemWf := by
  unfold opTaskRelease
  grind [raise_memWf, unpigeon_memWf, State.MemWf]

theorem endSuspended_memWf {x} (h : s.MemWf) : (s.endSuspended x).MemWf := by
  unfold State.endSuspended
  grind [report_memWf, unpigeon_memWf, dropParts_memWf, dropFrames_memWf, leaveGroup_memWf, releaseKeys_memWf, State.MemWf]

theorem opCourierEndTask_memWf {tid} (h : s.MemWf) : (opCourierEndTask tid s).MemWf := by
  unfold opCourierEndTask
  grind [endResident_memWf, setCtx_memWf, halt_memWf, endSuspended_memWf]

theorem suspendHeld_memWf {k} (h : s.MemWf) : (s.suspendHeld k).MemWf := raise_memWf (setCtx_memWf (by grind [setGroup_memWf]))

theorem evacuate_memWf {readable k} (h : s.MemWf) : (s.evacuate readable k).MemWf := by
  unfold State.evacuate
  grind [suspendHeld_memWf, endResident_memWf, setCtx_memWf, halt_memWf]

theorem discardMessages_memWf {core} (h : s.MemWf) : (s.discardMessages core).MemWf :=
  ite_memWf h (foldl_memWf (fun _ _ h => dropArrival_memWf h) (foldl_memWf (fun _ _ h => dropDispatch_memWf h)
      (foldl_memWf (fun _ _ h => endMsg_memWf h) h)))

theorem testCore_memWf {core passes} (h : s.MemWf) : (s.testCore core passes).MemWf :=
  ite_memWf (raises_memWf (setCore_memWf h)) (raise_memWf (setCore_memWf h))

theorem stopCore_memWf {core readable} (h : s.MemWf) : (s.stopCore core readable).MemWf :=
  report_memWf (l1Flush_memWf (foldl_memWf (fun _ _ h => evacuate_memWf h) h))

theorem serveCore_memWf {core passes} (h : s.MemWf) : (s.serveCore core passes).MemWf :=
  testCore_memWf (discardMessages_memWf (by grind [State.MemWf]))

theorem opCoreFault_memWf {core readable passes} (h : s.MemWf) : (opCoreFault core readable passes s).MemWf :=
  ite_memWf h (ite_memWf (raise_memWf (stopCore_memWf h)) (ite_memWf (serveCore_memWf h) (raise_memWf h)))

theorem opCoreStallDetect_memWf {core readable passes} (h : s.MemWf) : (opCoreStallDetect core readable passes s).MemWf :=
  ite_memWf (opCoreFault_memWf h) h

theorem opRemoteRegisterAccess_memWf {tower write num val} (h : s.MemWf) : (opRemoteRegisterAccess tower write num val s).MemWf := by
  unfold opRemoteRegisterAccess
  grind [remoteWrite_memWf, remoteRead_memWf]

theorem fetchEnded_memWf {k} (h : s.MemWf) : (s.fetchEnded k).MemWf := by
  unfold State.fetchEnded
  grind [dropLeaving_memWf]

theorem opInstructionFetch_memWf (h : s.MemWf) : (opInstructionFetch s).MemWf := by
  unfold opInstructionFetch
  grind [fetchLine_memWf, fetchEnded_memWf, Res.MemWf]

/-! ## Steps of ports, slices, walks and homes (Slices) -/

theorem opRouterPowerGate_memWf {t sl} (h : s.MemWf) : (opRouterPowerGate t sl s).MemWf := by
  unfold opRouterPowerGate
  grind [State.MemWf]

theorem putReq_memWf {r} (h : s.MemWf) : (s.putReq r).MemWf := h

theorem paidSlot_memWf {k item} (h : s.MemWf) : (s.paidSlot k item).MemWf := by
  unfold State.paidSlot
  grind [setCtx_memWf]

theorem leaves_memWf {core w} (h : s.MemWf) : (s.leaves core w).MemWf := by
  unfold State.leaves
  grind [paidSlot_memWf, raise_memWf, putReq_memWf, aheadFill_memWf, State.MemWf]

theorem portTenant_memWf {core pick i} (h : s.MemWf) : (s.portTenant core pick i).2.MemWf := by
  unfold State.portTenant
  grind [leaves_memWf, setCore_memWf, wakeCore_memWf]

theorem portRound_memWf {core pick l} (h : s.MemWf) : (s.portRound core pick l).MemWf := by
  induction l generalizing s with
  | nil => exact h
  | cons i rest ih =>
    have hp : (s.portTenant core pick i).2.MemWf := portTenant_memWf h
    unfold State.portRound
    split
    · next e => rw [e] at hp; exact ite_memWf hp hp
    · next e => rw [e] at hp; exact ih hp

theorem opPortRequestLeave_memWf {core pick} (h : s.MemWf) : (opPortRequestLeave core pick s).MemWf :=
  ite_memWf (portRound_memWf h) (raise_memWf h)

theorem opShaperRefill_memWf {t} (h : s.MemWf) : (opShaperRefill t s).MemWf := foldl_memWf (fun _ _ h => raises_memWf (setCore_memWf h)) h

theorem forward_memWf {r} (h : s.MemWf) : (s.forward r).MemWf := by
  unfold State.forward
  grind [raise_memWf, putReq_memWf]

theorem reTranslate_memWf {r} (h : s.MemWf) : (s.reTranslate r).MemWf := by
  unfold State.reTranslate
  grind [translate_memWf, Look.MemWf]

theorem nextAfter_memWf {r} (h : s.MemWf) : (s.nextAfter r).MemWf := by
  unfold State.nextAfter
  grind [raise_memWf]

theorem opSliceRequest_memWf {id} (h : s.MemWf) : (opSliceRequest id s).MemWf := by
  unfold opSliceRequest
  grind [wakeRouter_memWf, reTranslate_memWf, forward_memWf, nextAfter_memWf, raise_memWf, State.MemWf, Look.MemWf]

theorem opTranslationWalk_memWf {q} (h : s.MemWf) : (opTranslationWalk q s).MemWf := by
  unfold opTranslationWalk
  grind [walkSlice_memWf, wakeRouter_memWf, halt_memWf, WalkMemWf]

theorem opRemoteDataCacheRequest_memWf {id} (h : s.MemWf) : (opRemoteDataCacheRequest id s).MemWf := by
  unfold opRemoteDataCacheRequest
  grind [raise_memWf, putReq_memWf]

theorem performed_memWf {r} (h : s.MemWf) : (s.performed r).MemWf :=
  nextAfter_memWf (ite_memWf (ite_memWf (l1Drop_memWf (putReq_memWf h)) (putReq_memWf h)) (raise_memWf (putReq_memWf h)))

theorem performReq_memWf {r} (h : s.MemWf) : (s.performReq r).MemWf :=
  performed_memWf (by grind [report_memWf, putPin_memWf, performAt_memWf, signal_memWf])

theorem atHome_memWf {r} (h : s.MemWf) : (s.atHome r).MemWf :=
  ite_memWf h (ite_memWf h (ite_memWf (ite_memWf h (performReq_memWf h)) (ite_memWf h (ite_memWf (putReq_memWf h) (performReq_memWf h)))))

theorem opPerformAtHome_memWf {id} (h : s.MemWf) : (opPerformAtHome id s).MemWf := by
  unfold opPerformAtHome
  grind [atHome_memWf]

theorem opClockGapWriteResume_memWf {id} (h : s.MemWf) : (opClockGapWriteResume id s).MemWf := by
  unfold opClockGapWriteResume
  grind [atHome_memWf, putReq_memWf]

theorem opResponseDelivery_memWf {id} (h : s.MemWf) : (opResponseDelivery id s).MemWf := by
  unfold opResponseDelivery
  grind [wakeCore_memWf, l1Drop_memWf, State.MemWf]

theorem opAnnouncementApply_memWf {dst home} (h : s.MemWf) : (opAnnouncementApply dst home s).MemWf := by
  unfold opAnnouncementApply
  grind [clockMoved_memWf, applyAnn_memWf]

theorem opAccessRetry_memWf {k} (h : s.MemWf) : (opAccessRetry k s).MemWf := by
  unfold opAccessRetry
  grind [wakeSlot_memWf, l1Flush_memWf, raise_memWf]

theorem opWatchMessage_memWf {cl line} (h : s.MemWf) : (opWatchMessage cl line s).MemWf := by
  unfold opWatchMessage
  grind [addWatch_memWf]

theorem opWatchWithdrawal_memWf {cl line} (h : s.MemWf) : (opWatchWithdrawal cl line s).MemWf := by
  unfold opWatchWithdrawal
  grind [wakeHome_memWf, raise_memWf, State.MemWf]

theorem opWatchWithdrawalAck_memWf {cl line} (h : s.MemWf) : (opWatchWithdrawalAck cl line s).MemWf := by
  unfold opWatchWithdrawalAck
  grind [wakeCore_memWf, State.MemWf]

theorem opWaitTimeout_memWf {k} (h : s.MemWf) : (opWaitTimeout k s).MemWf := by
  unfold opWaitTimeout
  grind [disarm_memWf, completeSlot_memWf]

theorem opSleepExpiry_memWf {k} (h : s.MemWf) : (opSleepExpiry k s).MemWf := by
  unfold opSleepExpiry
  grind [completeSlot_memWf]

theorem opBarWaitTimeout_memWf {k} (h : s.MemWf) : (opBarWaitTimeout k s).MemWf := by
  unfold opBarWaitTimeout
  grind [completeSlot_memWf, acquireAll_memWf]

theorem putShoot_memWf {x} (h : s.MemWf) : (s.putShoot x).MemWf := h
theorem dropAt_memWf {d t sl} (h : s.MemWf) : (s.dropAt d t sl).MemWf := h

theorem coresInvalidate_memWf {d t sl} (h : s.MemWf) : (s.coresInvalidate d t sl).MemWf :=
  foldl_memWf (fun _ _ h => setCtx_memWf h) (foldl_memWf (fun _ _ h => setCore_memWf h) h)

theorem opShootdownDescriptor_memWf {d t sl} (h : s.MemWf) : (opShootdownDescriptor d t sl s).MemWf := by
  unfold opShootdownDescriptor
  grind [wakeRouter_memWf, putShoot_memWf, raises_memWf, raise_memWf, coresInvalidate_memWf, dropAt_memWf, State.MemWf]

theorem opShootdownDrainComplete_memWf {id t sl} (h : s.MemWf) : (opShootdownDrainComplete id t sl s).MemWf := by
  unfold opShootdownDrainComplete
  grind [raise_memWf, putShoot_memWf]

theorem mailboxReply_memWf {status} (h : s.MemWf) : (s.mailboxReply status).MemWf := vector_memWf (by grind [State.MemWf])

theorem opShootdownAck_memWf {id t sl} (h : s.MemWf) : (opShootdownAck id t sl s).MemWf := by
  unfold opShootdownAck
  grind [raise_memWf, mailboxReply_memWf, signal_memWf, performFrom_memWf, putShoot_memWf, State.MemWf]

theorem opMigrationStallLift_memWf {frame bytes} (h : s.MemWf) : (opMigrationStallLift frame bytes s).MemWf := by
  unfold opMigrationStallLift
  exact foldl_memWf (fun _ _ h => by grind [putReq_memWf, raise_memWf]) (retryDones_memWf h)

theorem opUncorrectableError_memWf {p} (h : s.MemWf) : (opUncorrectableError p s).MemWf := by
  unfold opUncorrectableError
  grind [setCore_memWf, setCtx_memWf, State.MemWf]

theorem opSliceMarkedDead_memWf {t sl} (h : s.MemWf) : (opSliceMarkedDead t sl s).MemWf := h

/-! ## The host front end, links and the mailbox (HostSide) -/

theorem retrain_memWf (h : s.MemWf) : s.retrain.MemWf := by
  unfold State.retrain
  grind [raise_memWf, State.MemWf]

theorem opEnumerationUpdate_memWf (h : s.MemWf) : (opEnumerationUpdate s).MemWf := retrain_memWf (vector_memWf (by grind [State.MemWf]))
theorem cutOff_memWf {l c} (h : s.MemWf) : (s.cutOff l c).MemWf := settle_memWf (failE_memWf (putE_memWf h))

theorem opEwefonisLinkFailure_memWf {l} (h : s.MemWf) : (opEwefonisLinkFailure l s).MemWf :=
  raise_memWf (foldl_memWf (fun _ _ h => cutOff_memWf h) h)

theorem opMemoryTrainingComplete_memWf {fail} (h : s.MemWf) : (opMemoryTrainingComplete fail s).MemWf := by
  unfold opMemoryTrainingComplete
  grind [State.MemWf]

theorem opDroopDetect_memWf {t} (h : s.MemWf) : (opDroopDetect t s).MemWf := by
  unfold opDroopDetect
  grind [setTower_memWf, State.MemWf]

theorem putRing_memWf {i r} (h : s.MemWf) : (s.putRing i r).MemWf := h
theorem ringReach_memWf {r n} (h : s.MemWf) : (s.ringReach r n).MemWf := foldl_memWf (fun _ _ h => reachHome_memWf h) h
theorem stopRing_memWf {i reason} (h : s.MemWf) : (s.stopRing i reason).MemWf := vector_memWf (putRing_memWf (by grind [State.MemWf]))

theorem opRingTailDoorbell_memWf {i tail} (h : s.MemWf) : (opRingTailDoorbell i tail s).MemWf := by
  unfold opRingTailDoorbell
  grind [putRing_memWf, stopRing_memWf]

theorem opRingRestart_memWf {i newhead} (h : s.MemWf) : (opRingRestart i newhead s).MemWf := ite_memWf (putRing_memWf (dropPartials_memWf h)) h
theorem opRingEnable_memWf {i enable} (h : s.MemWf) : (opRingEnable i enable s).MemWf := ite_memWf (putRing_memWf h) h

theorem feRelease_memWf {scope t} (h : s.MemWf) (e : s.feRelease scope = some t) : t.MemWf := by
  unfold State.feRelease at e
  grind [reachAll_memWf]

theorem writeRecord_memWf {q status reason t} (h : s.MemWf) (e : s.writeRecord q status reason = some t) : t.MemWf := by
  unfold State.writeRecord at e
  grind [feRelease_memWf, feWrite_memWf, fePut_memWf, reachAll_memWf, Got.MemWf]

theorem flushRecord_memWf {i} (h : s.MemWf) : (s.flushRecord i).MemWf := by
  unfold State.flushRecord
  split
  · exact h
  dsimp only
  split
  · exact h
  · next e =>
    have h := writeRecord_memWf h e
    exact ite_memWf (vector_memWf h) h

theorem takePacket_memWf {i r hd} (h : s.MemWf) : (s.takePacket i r hd).MemWf := ringReach_memWf (putRing_memWf (by grind [State.MemWf]))

theorem hostLaunch_memWf {i r hd ind} (h : s.MemWf) : (s.hostLaunch i r hd ind).MemWf := by
  unfold State.hostLaunch
  grind [packetEnd_memWf, takePacket_memWf, dropPartials_memWf, dispatchBlock_memWf, Got.MemWf]

theorem hostCopy_memWf {i r hd add} (h : s.MemWf) : (s.hostCopy i r hd add).MemWf := by
  unfold State.hostCopy
  grind [feRelease_memWf, takePacket_memWf, packetEnd_memWf, raise_memWf, State.MemWf]

theorem hostSignal_memWf {i r hd add} (h : s.MemWf) : (s.hostSignal i r hd add).MemWf := by
  unfold State.hostSignal
  grind [packetEnd_memWf, takePacket_memWf, feRelease_memWf, translate_memWf, signal_memWf, performFrom_memWf, reachAll_memWf, Look.MemWf]

theorem endWait_memWf {i w status} (h : s.MemWf) : (s.endWait i w status).MemWf := h

theorem pollWait_memWf {i w} (h : s.MemWf) : (s.pollWait i w).MemWf := by
  unfold State.pollWait
  grind [translate_memWf, endWait_memWf, reachHome_memWf, Look.MemWf]

theorem hostWait_memWf {i r hd ge} (h : s.MemWf) : (s.hostWait i r hd ge).MemWf :=
  ite_memWf (packetEnd_memWf (takePacket_memWf h)) (pollWait_memWf (putRing_memWf (takePacket_memWf h)))

theorem beginPacket_memWf {i r hd} (h : s.MemWf) : (s.beginPacket i r hd).MemWf := by
  unfold State.beginPacket
  grind [packetEnd_memWf, takePacket_memWf, hostLaunch_memWf, hostCopy_memWf, hostSignal_memWf, hostWait_memWf]

theorem packetStep_memWf {i k} (h : s.MemWf) : (s.packetStep i k).MemWf := by
  unfold State.packetStep
  grind [flushRecord_memWf, pollWait_memWf, stopRing_memWf, beginPacket_memWf, State.MemWf]

theorem opPacketWaitTimeout_memWf {i} (h : s.MemWf) : (opPacketWaitTimeout i s).MemWf := by
  unfold opPacketWaitTimeout
  grind [endWait_memWf]

theorem apertureWake_memWf {addr} (h : s.MemWf) : (s.apertureWake addr).MemWf := by
  unfold State.apertureWake
  grind [walkWake_memWf]

theorem opBar2Write_memWf {addr data} (h : s.MemWf) : (opBar2Write addr data s).MemWf := by
  unfold opBar2Write
  refine ite_memWf h (foldl_memWf (fun _ _ h => ?_) h)
  dsimp only
  split
  · exact ite_memWf (apertureWake_memWf h) (apertureWake_memWf h)
  · exact apertureWake_memWf h

theorem bar2Piece_memWf {reader q t} (h : s.MemWf) (e : s.bar2Piece reader q = some t) : t.MemWf := by
  unfold State.bar2Piece at e
  grind [apertureWake_memWf, fetchRemote_memWf, State.MemWf]

theorem opBar2Read_memWf {addr len} (h : s.MemWf) : (opBar2Read addr len s).MemWf := by
  unfold opBar2Read
  dsimp only
  split
  · exact h
  split
  · exact h
  split
  · exact h
  · next e =>
    have h := bar2Piece_memWf h e
    exact ite_memWf h h

theorem ringWrite_memWf {i at_ data} (h : s.MemWf) : (s.ringWrite i at_ data).MemWf :=
  ite_memWf h (ite_memWf (opRingRestart_memWf (ite_memWf (opRingEnable_memWf (ite_memWf (putRing_memWf (ite_memWf (opRingTailDoorbell_memWf h) h))
    (ite_memWf (opRingTailDoorbell_memWf h) h))) (ite_memWf (putRing_memWf (ite_memWf (opRingTailDoorbell_memWf h) h)) (ite_memWf
    (opRingTailDoorbell_memWf h) h)))) (ite_memWf (opRingEnable_memWf (ite_memWf (putRing_memWf (ite_memWf (opRingTailDoorbell_memWf h) h))
    (ite_memWf (opRingTailDoorbell_memWf h) h))) (ite_memWf (putRing_memWf (ite_memWf (opRingTailDoorbell_memWf h) h)) (ite_memWf
    (opRingTailDoorbell_memWf h) h))))

theorem opBar0RegisterWrite_memWf {off data} (h : s.MemWf) : (opBar0RegisterWrite off data s).MemWf := by
  unfold opBar0RegisterWrite
  grind [ringWrite_memWf, unmask_memWf, State.MemWf]

theorem mailboxAnswer_memWf {code at_ data status} (h : s.MemWf) : (s.mailboxAnswer code at_ data status).MemWf :=
  mailboxReply_memWf (by grind [State.MemWf])

theorem mailboxRequest_memWf {code f} (h : s.MemWf) (hf : ∀ s, s.MemWf → (f s).MemWf) : (s.mailboxRequest code f).MemWf :=
  ite_memWf (byFirmware_memWf h hf) h

theorem courierCommand_memWf {code f} (h : s.MemWf) (hf : ∀ s, s.MemWf → (f s).MemWf) : (s.courierCommand code f).MemWf :=
  mailboxRequest_memWf h fun s h => ite_memWf (hf s h) (mailboxAnswer_memWf h)

theorem opIdentity_memWf (h : s.MemWf) : (opIdentity s).MemWf := mailboxRequest_memWf h fun _ h => mailboxAnswer_memWf h

theorem opAttest_memWf {nonce bus} (h : s.MemWf) : (opAttest nonce bus s).MemWf :=
  mailboxRequest_memWf h fun _ h => mailboxAnswer_memWf (performAt_memWf h)

theorem zeroTable_memWf {base} (h : s.MemWf) : (s.zeroTable base).MemWf := wf_filter _ h

theorem opCreateAs_memWf {tenant seed g} (h : s.MemWf) : (opCreateAs tenant seed g s).MemWf := by
  unfold opCreateAs
  grind [courierCommand_memWf, mailboxAnswer_memWf, setSpace_memWf, zeroTable_memWf, State.MemWf]

theorem dropWork_memWf {asid} (h : s.MemWf) : (s.dropWork asid).MemWf :=
  foldl_memWf (fun _ _ h => setTower_memWf h) (foldl_memWf (fun _ _ h => releaseKeys_memWf (by grind [State.MemWf])) (by grind [State.MemWf]))

theorem freeSpace_memWf {asid} (h : s.MemWf) : (s.freeSpace asid).MemWf := h

theorem opDestroyAs_memWf {asid} (h : s.MemWf) : (opDestroyAs asid s).MemWf :=
  courierCommand_memWf h fun s h => ite_memWf (mailboxAnswer_memWf h) (by
    have he (l : List Nat) : State.MemWf (l.foldl (fun s tid => opCourierEndTask tid s) (s.dropWork asid)) :=
      foldl_memWf (fun _ _ h => opCourierEndTask_memWf h) (dropWork_memWf h)
    have ha (l : List Held) (t : State) (ht : t.MemWf) : State.MemWf (l.foldl (fun s h => opHeldWriteAbandon h.id s) t) :=
      foldl_memWf (fun _ _ h => opHeldWriteAbandon_memWf h) ht
    exact ite_memWf (mailboxAnswer_memWf (freeSpace_memWf (ha _ _ (he _)))) (ha _ _ (he _)))

theorem opRingSetup_memWf {i loc base size asid} (h : s.MemWf) : (opRingSetup i loc base size asid s).MemWf :=
  courierCommand_memWf h fun _ h => mailboxAnswer_memWf (putRing_memWf h)

theorem opTensorSet_memWf {asid id image} (h : s.MemWf) : (opTensorSet asid id image s).MemWf := by
  unfold opTensorSet
  grind [courierCommand_memWf, mailboxAnswer_memWf, raise_memWf, place_memWf, State.MemWf]

/-! ## The dispatch (Dispatch) -/

theorem exec_memWf {i} (h : s.MemWf) : Out.MemWf (exec i s) := by
  cases i with
  | add | sub | and | or | xor | sll | srl | sra | mul | mulh | mulhu | div | divu | rem | remu | min | max | minu | maxu | seq | sne
  | slt | sltu | clz | ctz | popc | addi | andi | ori | xori | slli | srli | srai | slti | sltiu | lui | amov | aperm | aget | agetb
  | agetl | agetp | bra | call | kand | kor | kxor | knot | kmov | ksetg | kgetg | hint | reset | l1LineExpiry | linkTrainingComplete
  | droopRecover | dieLinkStateChange => exact h
  | aset => exact opAset_memWf h
  | asetl => exact opAsetl_memWf h
  | aadv | aaddi => exact opMove_memWf h
  | ldB | ldH | ldW | ldD | ldBu | ldHu | ldWu => exact opLoad_memWf h
  | stB | stH | stW | stD => exact opStore_memWf h
  | amoAdd | amoAnd | amoOr | amoXor | amoMin | amoMax | amoMinu | amoMaxu | amoSwap | cas | casGt | casVer | casPtag => exact opAmo_memWf h
  | redAdd | redAnd | redOr | redXor | redMin | redMax | redMinu | redMaxu | redFadd => exact opRed_memWf h
  | lda => exact opLda_memWf h
  | stl => exact opStl_memWf h
  | fence => exact Res.andThen_memWf (release_memWf h) (fun _ _ h => advance_memWf (acquire_memWf h))
  | waitW | waitD => exact opWait_memWf h
  | beqz | bnez | bltz | bgez | bgtz | blez | bkany | bknone => exact opBranch_memWf h
  | jmp | callr => exact opJump_memWf h
  | rwaitH | rwaitT => exact opRwait_memWf h
  | radvH => exact opRadvH_memWf h
  | radvT => exact opRadvT_memWf h
  | rfill | rfree => exact opRcount_memWf h
  | rbind => exact opRbind_memWf h
  | sysrd => exact opSysrd_memWf h
  | syswr => exact opSyswr_memWf h
  | trap => exact trapTo_memWf h
  | eret => exact eret_memWf h
  | sleep => exact opSleep_memWf h
  | movb => exact opMovb_memWf h
  | rep => exact opRep_memWf h
  | vadd | vsub | vmul | vmin | vmax | vfma | vfms | vfnma | vand | vor | vxor | vshl | vshr | vsra => exact opLanes_memWf h
  | vabs | vneg | vrcp | vrsq | vexp2 | vlog2 => exact opLane1_memWf h
  | vceq | vcne | vclt | vcle | vcgt | vcge => exact opCmp_memWf h
  | vrsum | vrmax | vrmin => exact opReduce_memWf h
  | vperm => exact opVperm_memWf h
  | vbcast | vslideup | vslidedn => exact opVmove_memWf h
  | vcvt => exact opVcvt_memWf h
  | vld => exact opVld_memWf h
  | vst => exact opVst_memWf h
  | vldBc => exact opVldBc_memWf h
  | vmovg => exact vCheck_memWf h (fun _ h => advance_memWf (setV_memWf h))
  | vext => exact vCheck_memWf h (fun _ h => retG_memWf h)
  | agld => exact opAgld_memWf h
  | anew => exact opAnew_memWf h
  | afree => exact opAfree_memWf h
  | wire => exact opWire_memWf h
  | link => exact opLink_memWf h
  | adup => exact opAdup_memWf h
  | aera => exact opAera_memWf h
  | payshare | paydrop => exact opPay_memWf h
  | ruleset => exact opRuleset_memWf h
  | rulepub => exact opRulepub_memWf h
  | launch | launchInd => exact opLaunch_memWf h
  | retire => exact opRetire_memWf h
  | retireS => exact opRetireS_memWf h
  | yieldSlot => exact beginSuspend_memWf (advance_memWf h)
  | krel => exact opKrel_memWf h
  | govset => exact opGovset_memWf h
  | profrd => exact opProfrd_memWf h
  | mma | mmaRg => exact opMma_memWf h
  | bld => exact opBld_memWf h
  | aclr => exact opAclr_memWf h
  | mxw => exact opMxw_memWf h
  | mxwait => exact opMxwait_memWf h
  | ast => exact opAst_memWf h
  | cpy | cpyAdd => exact opCpy_memWf h
  | cpyMc => exact opCpyMc_memWf h
  | post => exact opPost_memWf h
  | postMb => exact opPostMb_memWf h
  | postQ => exact opPostQ_memWf h
  | toksend => exact opToksend_memWf h
  | mboxCfg => exact opMboxCfg_memWf h
  | mboxRd => exact opMboxRd_memWf h
  | csnap => exact opCsnap_memWf h
  | barInit => exact opBarInit_memWf h
  | barArrive => exact opBarArrive_memWf h
  | barWait => exact opBarWait_memWf h
  | extensionPrefix => exact opPrefix_memWf h
  | illegalInstruction => exact trap_memWf h
  | instructionFetch => exact opInstructionFetch_memWf h
  | routerPowerGate => exact opRouterPowerGate_memWf h
  | routerWake => exact wakeRouter_memWf h
  | portRequestLeave => exact opPortRequestLeave_memWf h
  | shaperRefill => exact opShaperRefill_memWf h
  | sliceRequest => exact opSliceRequest_memWf h
  | translationWalk => exact opTranslationWalk_memWf h
  | remoteDataCacheRequest => exact opRemoteDataCacheRequest_memWf h
  | performAtHome => exact opPerformAtHome_memWf h
  | responseDelivery => exact opResponseDelivery_memWf h
  | announcementApply => exact opAnnouncementApply_memWf h
  | clockGapWriteResume => exact opClockGapWriteResume_memWf h
  | accessRetry => exact opAccessRetry_memWf h
  | watchMessage => exact opWatchMessage_memWf h
  | watchWithdrawal => exact opWatchWithdrawal_memWf h
  | watchWithdrawalAck => exact opWatchWithdrawalAck_memWf h
  | wakeWrite => exact wakeLine_memWf (wakeCore_memWf h)
  | waitTimeout => exact opWaitTimeout_memWf h
  | sleepExpiry => exact opSleepExpiry_memWf h
  | barWaitTimeout => exact opBarWaitTimeout_memWf h
  | busySlotPoll => exact opBusySlotPoll_memWf h
  | busyWaitReport => exact opBusyWaitReport_memWf h
  | shootdownDescriptor => exact opShootdownDescriptor_memWf h
  | shootdownDrainComplete => exact opShootdownDrainComplete_memWf h
  | shootdownAck => exact opShootdownAck_memWf h
  | migrationWriteStall => exact byFirmware_memWf h fun _ h => h
  | migrationStallLift => exact byFirmware_memWf h fun _ h => opMigrationStallLift_memWf h
  | uncorrectableError => exact opUncorrectableError_memWf h
  | meetEnqueue => exact execMeetEnqueue_memWf h
  | heldEnqueueEntry => exact opHeldEnqueueEntry_memWf h
  | slotFill => exact opSlotFill_memWf h
  | keyRequest => exact ite_memWf (opKeyRequest_memWf h) h
  | keyGrant => exact opKeyGrant_memWf h
  | keyRelease => exact execKeyRelease_memWf h
  | keyTableEntryFree => exact opKeyTableEntryFree_memWf h
  | groupPlacement => exact opGroupPlacement_memWf h
  | groupDispatch => exact opGroupDispatch_memWf h
  | successorStart => exact opSuccessorStart_memWf h
  | governorEvaluation => exact opGovernorEvaluation_memWf h
  | governorSetting => exact towerAnswer_memWf (setGovernor_memWf h)
  | rulePublicationFlip => exact opRulePublicationFlip_memWf h
  | preemptionRequest => exact byFirmware_memWf h (fun _ h => opPreemptionRequest_memWf h)
  | taskSuspension => exact opTaskSuspension_memWf h
  | taskRelease => exact byFirmware_memWf h (fun _ h => opTaskRelease_memWf h)
  | taskRestore => exact opTaskRestore_memWf h
  | courierEndTask => exact byFirmware_memWf h (fun _ h => opCourierEndTask_memWf h)
  | coreFault => exact byFirmware_memWf h (fun _ h => opCoreFault_memWf h)
  | coreStallDetect => exact byFirmware_memWf h (fun _ h => opCoreStallDetect_memWf h)
  | remoteRegisterAccess => exact byFirmware_memWf h (fun _ h => opRemoteRegisterAccess_memWf h)
  | matrixArbiterSelect => exact opMatrixArbiterSelect_memWf h
  | mmaKStep => exact opMmaKStep_memWf h
  | mmaRgChunkStart => exact opMmaRgChunkStart_memWf h
  | matrixCommandStop => exact opMatrixCommandStop_memWf h
  | matrixCommandComplete => exact opMatrixCommandComplete_memWf h
  | engineCommandStart => exact opEngineCommandStart_memWf h
  | enginePieceWrite => exact opEnginePieceWrite_memWf h
  | heldWriteRelease => exact byFirmware_memWf h (fun _ h => opHeldWriteRelease_memWf h)
  | heldWriteAbandon => exact byFirmware_memWf h (fun _ h => opHeldWriteAbandon_memWf h)
  | heldWriteRoomFree => exact opHeldWriteRoomFree_memWf h
  | completionWordWrite => exact opCompletionWordWrite_memWf h
  | multicastReplicate => exact opMulticastReplicate_memWf h
  | postDelivery => exact opPostDelivery_memWf h
  | ringReservationResume => exact opRingReservationResume_memWf h
  | fillReport => exact opFillReport_memWf h
  | postQRecordSend => exact opPostQRecordSend_memWf h
  | tokenRowArrival => exact opTokenRowArrival_memWf h
  | mailboxArrival => exact opMailboxArrival_memWf h
  | barrierArrival => exact opBarrierArrival_memWf h
  | frameBarrierArrival => exact opFrameBarrierArrival_memWf h
  | freeRingHeldPublish => exact opFreeRingHeldPublish_memWf h
  | peerAcknowledge => exact opPeerAcknowledge_memWf h
  | ewefonisLinkFailure => exact opEwefonisLinkFailure_memWf h
  | droopDetect => exact opDroopDetect_memWf h
  | ringTailDoorbell => exact opRingTailDoorbell_memWf h
  | ringRestart => exact opRingRestart_memWf h
  | ringEnable => exact opRingEnable_memWf h
  | packetNop | packetLaunch | packetLaunchInd | packetCopy | packetCopyAdd | packetSignalWrite | packetSignalAdd | packetWaitNe
  | packetWaitGe => exact packetStep_memWf h
  | packetWaitTimeout => exact opPacketWaitTimeout_memWf h
  | identity => exact opIdentity_memWf h
  | attest => exact opAttest_memWf h
  | createAs => exact opCreateAs_memWf h
  | destroyAs => exact opDestroyAs_memWf h
  | ringSetup => exact opRingSetup_memWf h
  | tensorSet => exact opTensorSet_memWf h
  | bar2Write => exact opBar2Write_memWf h
  | bar2Read => exact opBar2Read_memWf h
  | bar0RegisterWrite => exact opBar0RegisterWrite_memWf h
  | enumerationUpdate => exact byFirmware_memWf h (fun _ h => opEnumerationUpdate_memWf h)
  | sliceMarkedDead => exact byFirmware_memWf h (fun _ h => opSliceMarkedDead_memWf h)
  | memoryTrainingComplete => exact opMemoryTrainingComplete_memWf h

/-! ## Raised steps (Deferred) -/

theorem runRaised_memWf {r} (h : s.MemWf) : (runRaised r s).MemWf := by
  cases r with
  | portRequestLeave => exact opPortRequestLeave_memWf h
  | sliceRequest => exact opSliceRequest_memWf h
  | remoteDataCacheRequest => exact opRemoteDataCacheRequest_memWf h
  | performAtHome => exact opPerformAtHome_memWf h
  | responseDelivery => exact opResponseDelivery_memWf h
  | announcementApply => exact opAnnouncementApply_memWf h
  | clockGapWriteResume => exact opClockGapWriteResume_memWf h
  | l1LineExpiry => exact h
  | accessRetry => exact opAccessRetry_memWf h
  | watchMessage => exact opWatchMessage_memWf h
  | watchWithdrawal => exact opWatchWithdrawal_memWf h
  | watchWithdrawalAck => exact opWatchWithdrawalAck_memWf h
  | wakeWrite => exact wakeLine_memWf (wakeCore_memWf h)
  | waitTimeout => exact opWaitTimeout_memWf h
  | sleepExpiry => exact opSleepExpiry_memWf h
  | barWaitTimeout => exact opBarWaitTimeout_memWf h
  | busySlotPoll => exact opBusySlotPoll_memWf h
  | busyWaitReport => exact opBusyWaitReport_memWf h
  | shootdownDescriptor => exact opShootdownDescriptor_memWf h
  | shootdownDrainComplete => exact opShootdownDrainComplete_memWf h
  | shootdownAck => exact opShootdownAck_memWf h
  | coreFault => exact byFirmware_memWf h (fun _ h => opCoreFault_memWf h)
  | meetEnqueue => exact opMeetEnqueue_memWf h
  | heldEnqueueEntry => exact opHeldEnqueueEntry_memWf h
  | slotFill => exact opSlotFill_memWf h
  | keyRequest => exact ite_memWf (opKeyRequest_memWf h) h
  | keyGrant => exact opKeyGrant_memWf h
  | keyRelease => exact ite_memWf (releaseKey_memWf h) h
  | keyTableEntryFree => exact opKeyTableEntryFree_memWf h
  | groupPlacement => exact opGroupPlacement_memWf h
  | groupDispatch => exact opGroupDispatch_memWf h
  | successorStart => exact opSuccessorStart_memWf h
  | governorEvaluation => exact opGovernorEvaluation_memWf h
  | governorSetting => exact towerAnswer_memWf (setGovernor_memWf h)
  | rulePublicationFlip => exact opRulePublicationFlip_memWf h
  | taskSuspension => exact opTaskSuspension_memWf h
  | taskRestore => exact opTaskRestore_memWf h
  | matrixArbiterSelect => exact opMatrixArbiterSelect_memWf h
  | mmaKStep => exact opMmaKStep_memWf h
  | mmaRgChunkStart => exact opMmaRgChunkStart_memWf h
  | matrixCommandStop => exact opMatrixCommandStop_memWf h
  | matrixCommandComplete => exact opMatrixCommandComplete_memWf h
  | engineCommandStart => exact opEngineCommandStart_memWf h
  | enginePieceWrite => exact opEnginePieceWrite_memWf h
  | heldWriteRelease => exact byFirmware_memWf h (fun _ h => opHeldWriteRelease_memWf h)
  | heldWriteRoomFree => exact opHeldWriteRoomFree_memWf h
  | completionWordWrite => exact opCompletionWordWrite_memWf h
  | multicastReplicate => exact opMulticastReplicate_memWf h
  | postDelivery => exact opPostDelivery_memWf h
  | ringReservationResume => exact opRingReservationResume_memWf h
  | fillReport => exact opFillReport_memWf h
  | postQRecordSend => exact opPostQRecordSend_memWf h
  | tokenRowArrival => exact opTokenRowArrival_memWf h
  | mailboxArrival => exact opMailboxArrival_memWf h
  | barrierArrival => exact opBarrierArrival_memWf h
  | frameBarrierArrival => exact opFrameBarrierArrival_memWf h
  | freeRingHeldPublish => exact opFreeRingHeldPublish_memWf h
  | peerAcknowledge => exact opPeerAcknowledge_memWf h
  | packetNop | packetLaunch | packetLaunchInd | packetCopy | packetCopyAdd | packetSignalWrite | packetSignalAdd | packetWaitNe
  | packetWaitGe => exact packetStep_memWf h
  | packetWaitTimeout => exact opPacketWaitTimeout_memWf h
  | enumerationUpdate => exact byFirmware_memWf h (fun _ h => opEnumerationUpdate_memWf h)
  | bar2Read => exact opBar2Read_memWf h
  | destroyAs => exact opDestroyAs_memWf h

/-! ## Fetch, deadlines and turns (Run) -/

theorem tickTower_memWf {t} (h : s.MemWf) : (s.tickTower t).MemWf := h

theorem tick_memWf (h : s.MemWf) : s.tick.MemWf :=
  show State.MemWf ((((s.tickTower 0).tickTower 1).tickTower 2).tickTower 3) from tickTower_memWf (tickTower_memWf (tickTower_memWf
    (tickTower_memWf h)))

theorem fetchInstr_memWf (h : s.MemWf) : s.fetchInstr.MemWf := by
  unfold State.fetchInstr
  grind [Res.bind_memWf, fetchWord_memWf, State.MemWf, Res.MemWf]

theorem issue_memWf {k} (h : s.MemWf) : (s.issue k).MemWf := by
  unfold State.issue
  grind [switch_memWf, halt_memWf, stall_memWf, setCore_memWf, fetchInstr_memWf, fetchEnded_memWf, exec_memWf, Res.MemWf, Out.MemWf]

theorem takeTurn_memWf {t} (h : s.MemWf) : (s.takeTurn t).MemWf := by
  unfold State.takeTurn
  grind [issue_memWf, exec_memWf, runRaised_memWf, State.MemWf, Out.MemWf]

theorem attempt_memWf {n r} (h : s.MemWf) (e : s.attempt n = some r) : Out.MemWf r := by
  unfold State.attempt at e
  split at e
  · obtain ⟨k, -, rfl⟩ := Option.map_eq_some_iff.1 e
    exact issue_memWf h
  · split at e
    · rw [← Option.some.inj e]; exact runRaised_memWf h
    · cases e
  · obtain ⟨k, -, rfl⟩ := Option.map_eq_some_iff.1 e
    exact runRaised_memWf h

theorem advanceMachine_memWf (h : s.MemWf) : s.advanceMachine.MemWf := by
  unfold State.advanceMachine
  split
  · exact takeTurn_memWf h
  · cases e : firstSome s.attempt (nextOrder s.ticks) with
    | none => exact h
    | some o =>
      obtain ⟨n, -, hn⟩ := firstSome_eq_some e
      exact attempt_memWf h hn

/-! ## One step (Step) -/

theorem step_memWf (h : s.MemWf) : Out.MemWf (step s) := by
  have ha : s.advanceMachine.MemWf := advanceMachine_memWf h
  unfold step
  cases e : s.advanceMachine with
  | next t => rw [e] at ha; exact tick_memWf ha
  | fault _ => trivial
  | refused _ => trivial


end Sys2Proof.Machine

open Sys2Proof Sys2Proof.Machine in
/-- Settles O58: the step is a turn of the schedule, each turn one meaning of `exec` or one raised step, and no meaning leaves the canonical form;
then cycles pass, which write no byte. That an unlisted byte reads 0 is log 4 (DESIGN CHOICE). -/
theorem memoryStaysCanonical : Obligations.MemoryStaysCanonical := by
  intro s t h e
  have hs : Out.MemWf (step s) := step_memWf h
  rw [e] at hs
  exact hs
end

section
/-! PROOFS. Shootdowns, migrations, uncorrectable errors and dead slices (09 R142, R153-R159; 23 R325, R327): first what a slice and its cores
drop and what the shared operations leave of the shootdowns in progress, then one lemma for each step. -/

namespace Sys2Proof.Machine

/-! ## The range of a descriptor -/

theorem sdPage_iff {d : Shootdown} {p : Nat} :
    sdPage d p = true ↔ d.base / pageBytes d.cls ≤ p ∧ p < d.base / pageBytes d.cls + d.count := by
  simp [sdPage]

theorem sdAs_iff {d : Shootdown} {asid : Nat} : sdAs d asid = true ↔ d.asid = 0xFFFF ∨ asid = d.asid := by
  simp [sdAs]

/-- A line of an address space that the descriptor names lies in its range. -/
def sdCovers (d : Shootdown) (asid vline : Nat) : Bool := sdAs d asid && sdAddr d (vline * 128)

theorem covers_iff {d : Shootdown} {asid vline : Nat} :
    sdCovers d asid vline = true ↔ (d.asid = 0xFFFF ∨ asid = d.asid) ∧
      d.base / pageBytes d.cls ≤ vline * 128 / pageBytes d.cls ∧ vline * 128 / pageBytes d.cls < d.base / pageBytes d.cls + d.count := by
  rw [sdCovers, Bool.and_eq_true, sdAs_iff, sdAddr, sdPage_iff]

/-! ## What a slice drops (R155) -/

/-- What holds of the items a test replaces once they are, and of those it leaves, holds of all. -/
theorem forall_mem_mapIf {p : α → Bool} {f : α → α} {P : α → Prop} (hf : ∀ x, p x = true → P (f x)) (hl : ∀ x, p x = false → P x)
    (l : List α) : ∀ y ∈ mapIf p f l, P y := by
  intro y hy
  obtain ⟨x, -, rfl⟩ := List.mem_map.mp hy
  cases hp : p x with
  | true => exact hf x hp
  | false => exact hl x hp

/-- The translations of its range are gone. -/
theorem dropAt_tlb {s : State} {d : Shootdown} {t h : Nat} {e : TlbEntry} (he : e ∈ (s.dropAt d t h).tlb) (ht : e.tower = t)
    (hh : e.slice = h) (hc : e.cls = d.cls) (ha : sdAs d e.asid = true) : sdPage d e.vpage = false := by
  have hg := (List.mem_filter.mp he).2
  simpa [ht, hh, hc, ha] using hg

/-- The rights that its lines of the range keep are none. -/
theorem dropAt_l2 (s : State) (d : Shootdown) (t h : Nat) : ∀ l ∈ (s.dropAt d t h).l2, l.tower = t → l.slice = h →
    sdCovers d l.asid l.vline = true → l.r = false ∧ l.w = false ∧ l.x = false := by
  refine forall_mem_mapIf (fun l _ _ _ _ => ⟨rfl, rfl, rfl⟩) (fun l hn ht hh hc => ?_) s.l2
  rw [sdCovers, Bool.and_eq_true] at hc
  simp [ht, hh, hc.1, hc.2] at hn

/-- With slice 0 the tower's remote-data cache has dropped the physical range. -/
theorem dropAt_rdc {s : State} {d : Shootdown} {t : Nat} (hd : d.dropPhys = true) {l : RdcLine} (hl : l ∈ (s.dropAt d t 0).rdc)
    (ht : l.tower = t) : ¬ (d.pbase ≤ l.pline * 128 ∧ l.pline * 128 < d.pbase + d.count * pageBytes d.cls) := by
  simp only [State.dropAt, hd, decide_true, Bool.true_and, if_true] at hl
  simpa [ht, imp_iff_not_or] using (List.mem_filter.mp hl).2

/-! ## What its cores invalidate (R153) -/

/-- A core without the L1 lines that a descriptor covers. -/
def Core.invalidated (d : Shootdown) (c : Core) : Core := { c with l1 := c.l1.filter fun l => !sdCovers d l.asid l.vline }

theorem invalidated_l1 (d : Shootdown) (c : Core) : ∀ l ∈ (c.invalidated d).l1, sdCovers d l.asid l.vline = false := by
  intro l hl
  simpa using (List.mem_filter.mp hl).2

/-- A core that the table does not list is as at reset. -/
theorem tget_unlisted (d : α) : ∀ (t : Table α) (k : Nat), k ∉ t.map Prod.fst → tget d t k = d
  | [], _, _ => rfl
  | (j, v) :: t, k, hk => by
    rw [List.map_cons, List.mem_cons, not_or] at hk
    rw [tget, if_neg hk.1]
    split
    · rfl
    · exact tget_unlisted d t k hk.2

/-- Cores changed one by one differ from before in the core table only. -/
theorem foldl_setCore_eq (f : Core → Core) : ∀ (l : List Nat) (s : State),
    ∃ cores, l.foldl (fun s c => s.setCore c (f (s.core c))) s = { s with cores := cores }
  | [], _ => ⟨_, rfl⟩
  | c :: l, s => by
    obtain ⟨cores, e⟩ := foldl_setCore_eq f l (s.setCore c (f (s.core c)))
    exact ⟨cores, e⟩

/-- What a change of a core makes true is true, after the change of all that a list names, of those and of every core it was true of. -/
theorem foldl_setCore_core {f : Core → Core} {P : Core → Prop} (hf : ∀ x, P (f x)) {c : Nat} : ∀ (l : List Nat) (s : State),
    c ∈ l ∨ P (s.core c) → P ((l.foldl (fun s c => s.setCore c (f (s.core c))) s).core c)
  | [], _, h => h.resolve_left List.not_mem_nil
  | a :: l, s, h => by
    refine foldl_setCore_core hf l _ ?_
    by_cases hc : c = a
    · rw [hc, core_setCore]
      exact .inr (hf _)
    · rw [core_setCore_ne s _ hc]
      exact h.imp_left fun hm => (List.mem_cons.mp hm).resolve_left hc

/-- Slots changed one by one differ from before in their contexts only. -/
theorem foldl_setCtx_eq (f : Ctx → Ctx) : ∀ (l : List SlotKey) (s : State),
    ∃ me slots, l.foldl (fun s k => s.setCtx k (f (s.ctx k))) s = { s with me := me, slots := slots }
  | [], _ => ⟨_, _, rfl⟩
  | k :: l, s => by
    obtain ⟨me, slots, e⟩ := foldl_setCtx_eq f l (s.setCtx k (f (s.ctx k)))
    rw [List.foldl_cons, e]
    unfold State.setCtx
    split <;> exact ⟨_, _, rfl⟩

/-- The cores of the table whose router is that of a slice. -/
def State.coresUnder (s : State) (t h : Nat) : List Nat :=
  (s.cores.map Prod.fst).filter fun c => decide (c < 1028 ∧ s.towerOf c = t ∧ s.routerOf c = h)

/-- A slot without a line buffer that a descriptor covers. -/
def Ctx.invalidated (d : Shootdown) (c : Ctx) : Ctx := { c with lineBuf := c.lineBuf.filter fun l => !sdCovers d l.asid l.vline }

/-- The cores' lines go first, then those of the slots. -/
theorem coresInvalidate_eq_foldl (s : State) (d : Shootdown) (t h : Nat) : ∃ slots : List SlotKey, s.coresInvalidate d t h =
    slots.foldl (fun s k => s.setCtx k ((s.ctx k).invalidated d))
      ((s.coresUnder t h).foldl (fun s c => s.setCore c ((s.core c).invalidated d)) s) := ⟨_, rfl⟩

/-- Invalidation changes cores and slots, and nothing else. -/
theorem coresInvalidate_eq (s : State) (d : Shootdown) (t h : Nat) :
    ∃ cores me slots, s.coresInvalidate d t h = { s with cores := cores, me := me, slots := slots } := by
  obtain ⟨keys, e⟩ := coresInvalidate_eq_foldl s d t h
  obtain ⟨cores, e1⟩ := foldl_setCore_eq (Core.invalidated d) (s.coresUnder t h) s
  obtain ⟨me, slots, e2⟩ := foldl_setCtx_eq (Ctx.invalidated d) keys { s with cores := cores }
  exact ⟨cores, me, slots, by rw [e, e1, e2]⟩

/-- A core of the slice's router has no line of the range left. -/
theorem coresInvalidate_l1 {s : State} {d : Shootdown} {t h c : Nat} (hc : c < 1028) (ht : s.towerOf c = t) (hh : s.routerOf c = h) :
    ∀ l ∈ ((s.coresInvalidate d t h).core c).l1, sdCovers d l.asid l.vline = false := by
  obtain ⟨keys, e⟩ := coresInvalidate_eq_foldl s d t h
  have hcores : (s.coresInvalidate d t h).cores = ((s.coresUnder t h).foldl (fun s c => s.setCore c ((s.core c).invalidated d)) s).cores := by
    obtain ⟨_, _, e2⟩ := foldl_setCtx_eq (Ctx.invalidated d) keys
      ((s.coresUnder t h).foldl (fun s c => s.setCore c ((s.core c).invalidated d)) s)
    rw [e, e2]
  rw [State.core, hcores]
  refine foldl_setCore_core (P := fun x => ∀ l ∈ x.l1, sdCovers d l.asid l.vline = false) (invalidated_l1 d) (s.coresUnder t h) s ?_
  by_cases hm : c ∈ s.cores.map Prod.fst
  · exact .inl (List.mem_filter.mpr ⟨hm, decide_eq_true ⟨hc, ht, hh⟩⟩)
  · refine .inr fun l hl => ?_
    rw [State.core, tget_unlisted _ _ _ hm] at hl
    exact absurd hl List.not_mem_nil

/-! ## The shootdowns in progress -/

/-- The shootdowns in progress, and what the mailbox waits for. -/
def State.progress (s : State) : List ShootState × Option Nat × Bool := (s.shoots, s.mboxSd, s.mboxBusy)

theorem shoot_congr {s t : State} (h : t.shoots = s.shoots) (id : Nat) : t.shoot id = s.shoot id := by
  unfold State.shoot
  rw [h]

theorem shoot_id {s : State} {id : Nat} {x : ShootState} (h : s.shoot id = some x) : x.sd.id = id := by
  simpa using List.find?_some h

/-- A shootdown in progress reads as it was put last. -/
theorem shoot_putShoot {s : State} {x y : ShootState} {id : Nat} (h : s.shoot id = some x) (hsd : y.sd = x.sd) :
    (s.putShoot y).shoot id = some y := by
  obtain rfl : y.sd.id = id := hsd ▸ shoot_id h
  exact find?_mapIf_const (p := fun z : ShootState => z.sd.id == y.sd.id) (by simp) h

theorem RaisesTo.progress {s t : State} : RaisesTo s t → t.progress = s.progress := by
  rintro ⟨l, rfl⟩
  rfl

theorem bringUp_progress (t : Nat) (need : Vector (BitVec 20) 4) : ∀ (n : Nat) (s : State), (s.bringUp t need n).progress = s.progress
  | 0, _ => rfl
  | n + 1, s => by
    unfold State.bringUp
    split
    · rfl
    · split
      · exact bringUp_progress t need n _
      · rfl

theorem reach_progress (s : State) (t : Nat) (need : Vector (BitVec 20) 4) : (s.reach t need).progress = s.progress := by
  unfold State.reach
  split
  · rfl
  · exact (clockMoved_raises ..).progress.trans (bringUp_progress ..)

theorem openGap_progress (s : State) (h : Nat) : (s.openGap h).progress = s.progress := by
  unfold State.openGap
  split
  · rfl
  · exact foldl_keeps (p := State.progress) (fun s u => reach_progress s u _) _ s

/-- A write to a tower's memory for an agent moves no shootdown. -/
theorem performFrom_progress {s : State} {pa h : Nat} (hh : homeOf pa = some (.tower h)) (w : Nat) (d : List Byte) (c : Bool) (bad : List Nat) :
    (s.performFrom w pa d c bad).progress = s.progress := by
  obtain ⟨_, _, _, _, _, _, _, _, _, _, e⟩ := performAt_tower_eq hh ((s.openGap h).reach h (s.vc w)) d c bad
  have hp : (((s.openGap h).reach h (s.vc w)).performAt pa d c bad).progress = s.progress := by
    rw [e]
    exact (reach_progress ..).trans (openGap_progress ..)
  unfold State.performFrom
  rw [hh]
  dsimp only
  rw [apply_ite State.progress, reach_progress, ite_self, hp]

/-! ## A descriptor at a slice (R153-R155) -/

/-- A slice that a descriptor reaches has noted itself and its pins, and passes the descriptor on to its awake children; those skipped are stale. -/
def State.forwarded (s : State) (d : Shootdown) (t h : Nat) (x : ShootState) : State :=
  let n := t * 64 + h
  let (kids, skipped) := s.shootTargets 16 (treeKids n)
  let s := s.putShoot { x with reached := n :: x.reached, pins := (s.pinsUnder d t h).foldl sins x.pins, edges := x.edges ++ kids.map fun k => (n, k) }
  ({ s with stale := skipped.foldl sins s.stale }).raises
    (kids.map fun k => Raised.shootdownDescriptor d (Fin.ofNat 4 (k / 64)) (Fin.ofNat 64 k))

theorem forwarded_grade (s : State) (d : Shootdown) (t h : Nat) (x : ShootState) : (s.forwarded d t h x).grade = s.grade := rfl

theorem forwarded_reached {s : State} {d : Shootdown} {t h : Nat} {x : ShootState} (hx : s.shoot d.id = some x) :
    ∃ y, (s.forwarded d t h x).shoot d.id = some y ∧ t * 64 + h ∈ y.reached := by
  have hput (y : ShootState) (hsd : y.sd = x.sd) : (s.putShoot y).shoot d.id = some y := shoot_putShoot hx hsd
  exact ⟨_, hput _ rfl, List.mem_cons_self⟩

/-- What a descriptor does at a slice it reaches for the first time. -/
def State.descended (s : State) (d : Shootdown) (t : Fin 4) (h : Fin 64) (x : ShootState) : State :=
  (((s.forwarded d t h x).dropAt d t h).coresInvalidate d t h).raise (.shootdownDrainComplete d.id t h)

theorem shootdownDescriptor_descends {s : State} {d : Shootdown} {t : Fin 4} {h : Fin 64} {x : ShootState} (hx : s.shoot d.id = some x)
    (hr : x.reached.contains (t.val * 64 + h.val) = false) :
    exec (.shootdownDescriptor d t h) s = .next ((s.wakeRouter t h).descended d t h x) := by
  have hw : (s.wakeRouter t h).shoot d.id = some x := by
    obtain ⟨_, _, _, _, _, e⟩ := wakeRouter_eq s t h
    rw [e]
    exact hx
  refine congrArg Host.Outcome.next ?_
  unfold opShootdownDescriptor
  simp only [hw, Option.isNone_some, Bool.false_eq_true, false_and, and_false, if_false, hr]
  rfl

theorem shootdownDescriptor_starts {s : State} {d : Shootdown} (hn : s.shoot d.id = none) (hp : s.phase ≠ 0xF) :
    ∃ u : State, u.shoot d.id = some ⟨d, [], [], [], [], []⟩ ∧
      exec (.shootdownDescriptor d 0 0) s = .next (u.descended d 0 0 ⟨d, [], [], [], [], []⟩) := by
  obtain ⟨_, _, _, _, _, e⟩ := wakeRouter_eq s 0 0
  have hw : (s.wakeRouter 0 0).shoot d.id = none := by rw [e]; exact hn
  have hph : (s.wakeRouter 0 0).phase ≠ 0xF := by rw [e]; exact hp
  have hu : ({ s.wakeRouter 0 0 with shoots := (s.wakeRouter 0 0).shoots ++ [⟨d, [], [], [], [], []⟩] } : State).shoot d.id =
      some ⟨d, [], [], [], [], []⟩ := by
    unfold State.shoot at hw ⊢
    simp [List.find?_append, hw]
  refine ⟨_, hu, congrArg Host.Outcome.next ?_⟩
  unfold opShootdownDescriptor
  dsimp only [Fin.val_zero]
  rw [if_pos ⟨rfl, by rw [hw]; rfl, hph⟩, hu]
  rfl

/-- What a slice has dropped stays so while its cores invalidate. -/
theorem descended_keeps (s : State) (d : Shootdown) (t : Fin 4) (h : Fin 64) (x : ShootState) :
    let u := (s.forwarded d t h x).dropAt d t h
    (s.descended d t h x).tlb = u.tlb ∧ (s.descended d t h x).l2 = u.l2 ∧ (s.descended d t h x).rdc = u.rdc ∧
      (s.descended d t h x).mem = s.mem ∧ (s.descended d t h x).shoots = (s.forwarded d t h x).shoots := by
  obtain ⟨_, _, _, e⟩ := coresInvalidate_eq ((s.forwarded d t h x).dropAt d t h) d t h
  rw [State.descended, e]
  exact ⟨rfl, rfl, rfl, rfl, rfl⟩

theorem routerOf_congr {s t : State} (h : t.grade = s.grade) (core : Nat) : t.routerOf core = s.routerOf core := by
  unfold State.routerOf State.rows
  rw [h]

theorem descended_l1 {s : State} {d : Shootdown} {t : Fin 4} {h : Fin 64} {x : ShootState} {c : Nat} (hc : c < 1028)
    (ht : s.towerOf c = t.val) (hh : s.routerOf c = h.val) :
    ∀ l ∈ ((s.descended d t h x).core c).l1, sdCovers d l.asid l.vline = false := by
  have hg : ((s.forwarded d t h x).dropAt d t h).grade = s.grade := forwarded_grade s d t h x
  exact coresInvalidate_l1 hc ((towerOf_congr hg c).trans ht) ((routerOf_congr hg c).trans hh)

/-! ## Drain and acknowledgement (R154-R156; 23 R327) -/

theorem shootdownDrainComplete_drains {s : State} {id : Nat} {t : Fin 4} {h : Fin 64} {x : ShootState} (hx : s.shoot id = some x)
    (hr : x.reached.contains (t.val * 64 + h.val) = true) (hd : x.drained.contains (t.val * 64 + h.val) = false)
    (hb : s.shootBusy x.sd x.pins t.val h.val = false) :
    exec (.shootdownDrainComplete id t h) s =
      .next ((s.putShoot { x with drained := (t.val * 64 + h.val) :: x.drained }).raise (.shootdownAck id t h)) := by
  refine congrArg Host.Outcome.next ?_
  unfold opShootdownDrainComplete
  simp only [hx, hr, hd, hb, Bool.not_true, Bool.or_false, Bool.false_eq_true, if_false]

theorem shootdownDrainComplete_waits {s : State} {id : Nat} {t : Fin 4} {h : Fin 64} {x : ShootState} (hx : s.shoot id = some x)
    (hr : x.reached.contains (t.val * 64 + h.val) = true) (hd : x.drained.contains (t.val * 64 + h.val) = false)
    (hb : s.shootBusy x.sd x.pins t.val h.val = true) :
    exec (.shootdownDrainComplete id t h) s = .next (s.raise (.shootdownDrainComplete id t h)) := by
  refine congrArg Host.Outcome.next ?_
  unfold opShootdownDrainComplete
  simp only [hx, hr, hd, hb, Bool.not_true, Bool.or_false, Bool.false_eq_true, if_false, if_true]

/-- A slice may acknowledge: it has drained and not yet acknowledged, and those it forwarded the descriptor to all have. -/
structure ShootState.Due (x : ShootState) (n : Nat) : Prop where
  drained : x.drained.contains n = true
  silent : x.acked.contains n = false
  kids : ∀ e ∈ x.edges, e.1 = n → x.acked.contains e.2 = true

theorem ShootState.Due.goes {x : ShootState} {n : Nat} (h : x.Due n) :
    (!x.drained.contains n || x.acked.contains n || !((x.edges.filter (·.1 == n)).all fun e => x.acked.contains e.2)) = false := by
  have hk : ((x.edges.filter (·.1 == n)).all fun e => x.acked.contains e.2) = true := by
    rw [List.all_eq_true]
    intro e he
    obtain ⟨hm, hn⟩ := List.mem_filter.mp he
    exact h.kids e hm (by simpa using hn)
  rw [h.drained, h.silent, hk]
  rfl

/-- A slice that is not the root acknowledges to the one that forwarded it the descriptor. -/
theorem shootdownAck_ascends {s : State} {id : Nat} {t : Fin 4} {h : Fin 64} {x : ShootState} {e : Nat × Nat} (hx : s.shoot id = some x)
    (hd : x.Due (t.val * 64 + h.val)) (hn : t.val * 64 + h.val ≠ 0) (he : x.edges.find? (·.2 == t.val * 64 + h.val) = some e) :
    exec (.shootdownAck id t h) s = .next ((s.putShoot { x with acked := (t.val * 64 + h.val) :: x.acked }).raise
      (.shootdownAck id (Fin.ofNat 4 (e.1 / 64)) (Fin.ofNat 64 e.1))) := by
  refine congrArg Host.Outcome.next ?_
  unfold opShootdownAck
  simp only [hx, hd.goes, hn, he, Bool.false_eq_true, if_false]

/-- The root takes the acknowledgement again while a migration or a pin keeps the completion word. -/
theorem shootdownAck_waits {s : State} {id : Nat} {t : Fin 4} {h : Fin 64} {x : ShootState} (hx : s.shoot id = some x)
    (hd : x.Due (t.val * 64 + h.val)) (hn : t.val * 64 + h.val = 0)
    (hk : s.frameStalled x.sd.done = true ∨ (s.pinOf (x.sd.done / 128)).isSome = true) :
    exec (.shootdownAck id t h) s = .next (s.raise (.shootdownAck id t h)) := by
  have hk : (s.frameStalled x.sd.done || (s.pinOf (x.sd.done / 128)).isSome) = true := by simpa using hk
  refine congrArg Host.Outcome.next ?_
  unfold opShootdownAck
  simp only [hx, hd.goes, Bool.false_eq_true, if_false]
  rw [if_pos hn, if_pos hk]

/-- A shootdown is over, and the TENSOR_SET that waits for it is answered (23 R327). -/
def State.concluded (s : State) (id : Nat) : State :=
  let s := { s with shoots := s.shoots.filter (·.sd.id ≠ id) }
  if s.mboxSd = some id then ({ s with mboxSd := none }).mailboxReply 0 else s

/-- The root writes the completion word and presents its signal. -/
theorem shootdownAck_concludes {s : State} {id : Nat} {t : Fin 4} {h : Fin 64} {x : ShootState} (hx : s.shoot id = some x)
    (hd : x.Due (t.val * 64 + h.val)) (hn : t.val * 64 + h.val = 0) (hm : s.frameStalled x.sd.done = false)
    (hp : s.pinOf (x.sd.done / 128) = none) :
    exec (.shootdownAck id t h) s = .next (((s.concluded id).performFrom 0 x.sd.done (leBytes 4 1) true).signal x.sd.done) := by
  refine congrArg Host.Outcome.next ?_
  unfold opShootdownAck
  simp only [hx, hd.goes, Bool.false_eq_true, if_false]
  rw [if_pos hn, if_neg (by simp [hm, hp])]
  rfl

/-- An MSI-X vector that is raised touches the two vector words alone. -/
theorem vector_eq (s : State) (v : Nat) : ∃ msix pending, s.vector v = { s with msix := msix, msixPending := pending } := by
  unfold State.vector
  split <;> exact ⟨_, _, rfl⟩

theorem concluded_eq (s : State) (id : Nat) : ∃ sd busy mbox msix pending, s.concluded id =
    { s with shoots := s.shoots.filter (·.sd.id ≠ id), mboxSd := sd, mboxBusy := busy, mbox := mbox, msix := msix, msixPending := pending } ∧
      (s.mboxSd = some id → sd = none ∧ busy = false) := by
  unfold State.concluded State.mailboxReply
  dsimp only
  split
  · obtain ⟨_, _, e⟩ := vector_eq ({ s with
      shoots := s.shoots.filter (·.sd.id ≠ id), mboxSd := none, mbox := s.mbox.set 1 (BitVec.ofNat 8 0), mboxBusy := false }) 16
    exact ⟨none, false, _, _, _, e, fun _ => ⟨rfl, rfl⟩⟩
  · next hne => exact ⟨_, _, _, _, _, rfl, fun h => absurd h hne⟩

/-- After the completion word, at a tower's memory, the shootdown is gone and the mailbox that waited for it is free. -/
theorem concluded_performs {s : State} {id pa tw : Nat} (hh : homeOf pa = some (.tower tw)) :
    let t := ((s.concluded id).performFrom 0 pa (leBytes 4 1) true).signal pa
    t.shoot id = none ∧ StoredAt s.mem t.mem pa (leBytes 4 1) ∧ (s.mboxSd = some id → t.mboxSd = none ∧ t.mboxBusy = false) := by
  obtain ⟨sd, busy, mbox, msix, pending, e, hb⟩ := concluded_eq s id
  have hprog := performFrom_progress (s := s.concluded id) hh 0 (leBytes 4 1) true []
  have hmem := performFrom_mem (s.concluded id) 0 pa (leBytes 4 1) true []
  rw [if_pos (by simp [State.mapped, hh])] at hmem
  generalize (s.concluded id).performFrom 0 pa (leBytes 4 1) true = t at hprog hmem
  rw [e] at hprog hmem
  simp only [State.progress, Prod.mk.injEq] at hprog
  obtain ⟨hshoots, hsd, hbusy⟩ := hprog
  refine ⟨?_, ?_, fun h => ?_⟩
  · rw [State.shoot, List.find?_eq_none]
    intro y hy
    have hy : y ∈ s.shoots.filter _ := hshoots ▸ hy
    simpa using (List.mem_filter.mp hy).2
  · exact hmem ▸ storedAt_msets ..
  · exact ⟨hsd.trans (hb h).1, hbusy.trans (hb h).2⟩

/-! ## Migration (R157) -/

theorem retryDones_raises (s : State) : RaisesTo s s.retryDones := by
  refine RaisesTo.foldl (fun s w => ?_) _ s
  split
  · exact .raise ..
  · exact .refl s

/-- A step that some element of a fold raises, each element only raising others, is raised. -/
theorem mem_raised_foldl {f : State → α → State} {i : Raised} {a : α} (hf : ∀ s b, RaisesTo s (f s b)) (ha : ∀ s, i ∈ (f s a).raised) :
    ∀ (l : List α) (s : State), a ∈ l ∨ i ∈ s.raised → i ∈ (l.foldl f s).raised
  | [], _, h => h.resolve_left List.not_mem_nil
  | b :: l, s, h => by
    refine mem_raised_foldl hf ha l _ ?_
    obtain h | h := h
    · obtain rfl | h := List.mem_cons.mp h
      · exact .inr (ha s)
      · exact .inl h
    · obtain ⟨l', e⟩ := hf s b
      rw [e]
      exact .inr (mem_raised_raises h l')

/-- Every add to a done word that waits for a migration is taken up again. -/
theorem retryDones_retries {s : State} {w : Held} {c : Option Nat} (hw : w ∈ s.held) (hk : w.kind = .doneWord c true) :
    Raised.heldWriteRelease w.id ∈ s.retryDones.raised := by
  refine mem_raised_foldl (a := w) (fun s w => ?_) (fun _ => ?_) s.held s (.inl hw)
  · split
    · exact .raise ..
    · exact .refl s
  · rw [hk]
    exact mem_raised_raise ..

/-- A stalled write walks again: in its buffer it is marked, elsewhere it goes back to its slice. -/
def State.walkAgain (s : State) (r : Req) : State :=
  if r.stage = .buffer then s.putReq { r with rewalk := true }
  else (s.putReq { r with stage := .slice, rewalk := true }).raise (.sliceRequest r.id)

theorem opMigrationStallLift_eq (frame bytes : Nat) (s : State) :
    let u := { s with stallFrames := s.stallFrames.filter (· ≠ (frame, bytes)) }.retryDones
    opMigrationStallLift frame bytes s =
      (u.reqs.filter fun r => r.unperformed && decide (frame ≤ r.pa ∧ r.pa < frame + bytes)).foldl State.walkAgain u := rfl

/-- A request that walks again keeps all that is raised. -/
theorem walkAgain_raised {i : Raised} {s : State} (r : Req) (h : i ∈ s.raised) : i ∈ (s.walkAgain r).raised := by
  unfold State.walkAgain
  split
  · exact h
  · exact mem_raised_raises h _

theorem foldl_walkAgain_raised {i : Raised} : ∀ (l : List Req) (s : State), i ∈ s.raised → i ∈ (l.foldl State.walkAgain s).raised
  | [], _, h => h
  | r :: l, _, h => foldl_walkAgain_raised l _ (walkAgain_raised r h)

theorem migrationStallLift_retries {s : State} {w : Held} {c : Option Nat} (hp : s.phase ≠ 0xF) (frame bytes : Nat) (hw : w ∈ s.held)
    (hk : w.kind = .doneWord c true) :
    ∃ t, exec (.migrationStallLift frame bytes) s = .next t ∧ Raised.heldWriteRelease w.id ∈ t.raised := by
  refine ⟨_, congrArg Host.Outcome.next (byFirmware_acts hp _), ?_⟩
  rw [opMigrationStallLift_eq]
  exact foldl_walkAgain_raised _ _ (retryDones_retries hw hk)

/-- Putting anew the one request in flight. -/
theorem reqs_putReq_single {s : State} {r r' : Req} (hr : s.reqs = [r]) (hid : r'.id = r.id) : (s.putReq r').reqs = [r'] := by
  simp [State.putReq, mapIf, hr, hid]

theorem walkAgain_single {s : State} {r : Req} (hr : s.reqs = [r]) :
    (r.stage = .buffer → (s.walkAgain r).reqs = [{ r with rewalk := true }]) ∧
    (r.stage ≠ .buffer → (s.walkAgain r).reqs = [{ r with stage := .slice, rewalk := true }] ∧
      Raised.sliceRequest r.id ∈ (s.walkAgain r).raised) := by
  unfold State.walkAgain
  refine ⟨fun h => ?_, fun h => ?_⟩
  · rw [if_pos h]
    exact reqs_putReq_single hr rfl
  · rw [if_neg h]
    exact ⟨reqs_putReq_single hr rfl, mem_raised_raise ..⟩

theorem walkAgain_keeps (s : State) (r : Req) :
    (s.walkAgain r).stallFrames = s.stallFrames ∧ (s.walkAgain r).mem = s.mem ∧ (s.walkAgain r).aperture = s.aperture := by
  unfold State.walkAgain
  split <;> exact ⟨rfl, rfl, rfl⟩

/-- A migration that ends lifts its stall, and the one write in flight to its frame walks again. -/
theorem migrationStallLift_walks {s : State} {r : Req} {frame bytes : Nat} (hp : s.phase ≠ 0xF) (hr : s.reqs = [r])
    (hu : r.unperformed = true) (hlo : frame ≤ r.pa) (hhi : r.pa < frame + bytes) :
    ∃ t, exec (.migrationStallLift frame bytes) s = .next t ∧
      t.stallFrames = s.stallFrames.filter (· ≠ (frame, bytes)) ∧
      (r.stage = .buffer → t.reqs = [{ r with rewalk := true }]) ∧
      (r.stage ≠ .buffer → t.reqs = [{ r with stage := .slice, rewalk := true }] ∧ Raised.sliceRequest r.id ∈ t.raised) ∧
      t.mem = s.mem ∧ t.aperture = s.aperture := by
  obtain ⟨l, e⟩ := retryDones_raises { s with stallFrames := s.stallFrames.filter (· ≠ (frame, bytes)) }
  have hreqs : ({ s with stallFrames := s.stallFrames.filter (· ≠ (frame, bytes)) }.raises l).reqs = [r] := hr
  have hop : opMigrationStallLift frame bytes s = ({ s with stallFrames := s.stallFrames.filter (· ≠ (frame, bytes)) }.raises l).walkAgain r := by
    rw [opMigrationStallLift_eq, e, hreqs]
    simp [hu, hlo, hhi]
  obtain ⟨hbuffer, hother⟩ := walkAgain_single hreqs
  obtain ⟨hst, hm, ha⟩ := walkAgain_keeps ({ s with stallFrames := s.stallFrames.filter (· ≠ (frame, bytes)) }.raises l) r
  exact ⟨_, congrArg Host.Outcome.next ((byFirmware_acts hp _).trans hop), hst, hbuffer, hother, hm, ha⟩

/-! ## A dead slice (R142) -/

theorem sliceMarkedDead_serves {s : State} (hp : s.phase ≠ 0xF) (t4 : Fin 4) (h : Fin 64) :
    ∃ t, exec (.sliceMarkedDead t4 h) s = .next t ∧ (∀ va, sliceHash va = h.val → t.sliceOf t4.val va = h.val ^^^ 1) ∧ t.mem = s.mem := by
  refine ⟨_, congrArg Host.Outcome.next (byFirmware_acts hp _), fun va hva => ?_, rfl⟩
  have hdead : smem (opSliceMarkedDead t4 h s).deadSlices (t4.val * 64 + h.val) = true := smem_sins ..
  unfold State.sliceOf
  dsimp only
  rw [hva, if_pos hdead]

/-! ## Uncorrectable errors (R159; 16 R257) -/

theorem mem_sins (l : List Nat) (k : Nat) : k ∈ sins l k := by
  induction l with
  | nil => exact List.mem_singleton_self k
  | cons j t ih =>
    rw [sins]
    split
    · next h => exact h ▸ List.mem_cons_self
    · split
      · exact List.mem_cons_self
      · exact List.mem_cons_of_mem _ ih

theorem uncorrectableError_l1 (s : State) (core n : Nat) : ∃ t, exec (.uncorrectableError (.l1 core n)) s = .next t ∧
    (∀ l ∈ (t.core core).l1, l.pline = n / 4 → n ∈ l.poison) ∧ t.poison = s.poison := by
  refine ⟨_, rfl, fun l hl hn => ?_, rfl⟩
  rw [opUncorrectableError, core_setCore] at hl
  refine forall_mem_mapIf (P := fun l : L1Line => l.pline = n / 4 → n ∈ l.poison) (fun l _ _ => mem_sins ..) (fun l hne hn => ?_) _ l hl hn
  exact absurd hn (beq_eq_false_iff_ne.mp hne)

theorem uncorrectableError_rdc (s : State) (t4 : Fin 4) (n : Nat) : ∃ t, exec (.uncorrectableError (.rdc t4 n)) s = .next t ∧
    (∀ l ∈ t.rdc, l.tower = t4.val → l.pline = n / 4 → n ∈ l.poison) ∧ t.poison = s.poison := by
  refine ⟨_, rfl, ?_, rfl⟩
  refine forall_mem_mapIf (fun l _ _ _ => mem_sins ..) (fun l hne ht hn => ?_) s.rdc
  simp [ht, hn] at hne

theorem uncorrectableError_memory {s : State} {n tw : Nat} (hh : homeOf (n * 32) = some (.tower tw)) :
    exec (.uncorrectableError (.memory n)) s = .next { s with poison := sins s.poison n } := by
  simp [execUncorrectableError, opUncorrectableError, hh]

theorem uncorrectableError_l2 {s : State} {t4 : Fin 4} {n : Nat} (hl : ∃ l ∈ s.l2, l.tower = t4.val ∧ l.pline = n / 4) :
    exec (.uncorrectableError (.l2 t4 n)) s = .next { s with poison := sins s.poison n } := by
  have ha : (s.l2.any fun l => l.tower == t4.val && l.pline == n / 4) = true := by simpa using hl
  exact congrArg Host.Outcome.next (if_pos ha)

theorem uncorrectableError_scratch {s : State} {k : SlotKey} {n : Nat} (hr : (s.ctx k).run ≠ .empty) (hn : n < 128 * (s.ctx k).scratch) :
    exec (.uncorrectableError (.scratch k n)) s = .next (s.setCtx k { s.ctx k with poison := sins (s.ctx k).poison n }) := by
  have ho : (s.ctx k).occupied = true := by
    unfold Ctx.occupied
    split
    · next he => exact absurd he hr
    · rfl
  exact congrArg Host.Outcome.next (if_pos (by simp [ho, hn]))

end Sys2Proof.Machine

open Sys2Proof Sys2Proof.Machine in
/-- Settles O45: each step has a lemma of its own above. The completion word's 4 bytes are log 71 (DESIGN CHOICE), its physical address and its wait
for a pin or a stall log 25 (DEDUCED), the aperture that follows a migration log 55 (DESIGN CHOICE). -/
theorem shootdownAndErrors : Obligations.ShootdownAndErrors := by
  unfold Obligations.ShootdownAndErrors
  intro s d t4 h x frame bytes p k tw r e n inRange mine poisoned
  refine ⟨fun hx hr => ?_, fun hn hp => ?_, fun hx hr hd => ⟨fun hb => ?_, fun hb => shootdownDrainComplete_waits hx hr hd hb⟩,
    fun hx hdr ha hk => ⟨fun hn he => ?_, fun hn hh hm hpin => ?_, fun hn hw => shootdownAck_waits hx ⟨hdr, ha, hk⟩ hn hw⟩,
    fun hp => ⟨congrArg Host.Outcome.next (byFirmware_acts hp _), migrationStallLift_walks hp,
      fun w hw c hk => migrationStallLift_retries hp frame bytes hw hk, sliceMarkedDead_serves hp t4 h⟩,
    fun hp => ?_, uncorrectableError_memory, uncorrectableError_l2, fun hm => congrArg Host.Outcome.next (if_pos hm),
    uncorrectableError_l1 s k p, uncorrectableError_rdc s t4 p, fun hlt => congrArg Host.Outcome.next (if_pos hlt),
    fun hlt => congrArg Host.Outcome.next (if_pos hlt), uncorrectableError_scratch⟩
  · obtain ⟨htlb, hl2, hrdc, hmem, -⟩ := descended_keeps (s.wakeRouter t4 h) d t4 h x
    refine ⟨_, shootdownDescriptor_descends hx hr, fun e he ht hh hc hm hin => ?_, fun l hl ht hh hm hin => ?_, fun h0 hd l hl ht => ?_,
      fun c hc ht hh l hl hm hin => ?_, hmem.trans (wakeRouter_mem ..), mem_raised_raise ..⟩
    · rw [htlb] at he
      exact Bool.false_ne_true ((dropAt_tlb he ht hh hc (sdAs_iff.mpr hm)).symm.trans (sdPage_iff.mpr hin))
    · rw [hl2] at hl
      exact dropAt_l2 _ d _ _ l hl ht hh (covers_iff.mpr ⟨hm, hin⟩)
    · rw [hrdc, h0] at hl
      exact dropAt_rdc hd hl ht
    · have hg := wakeRouter_grade s t4 h
      have hl1 := descended_l1 hc ((towerOf_congr hg c).trans ht) ((routerOf_congr hg c).trans hh) l hl
      exact Bool.false_ne_true (hl1.symm.trans (covers_iff.mpr ⟨hm, hin⟩))
  · obtain ⟨u, hu, hop⟩ := shootdownDescriptor_starts hn hp
    obtain ⟨y, hy, h0⟩ := forwarded_reached (t := 0) (h := 0) hu
    obtain ⟨-, -, -, -, hshoots⟩ := descended_keeps u d 0 0 ⟨d, [], [], [], [], []⟩
    exact ⟨_, y, hop, (shoot_congr hshoots d.id).trans hy, h0⟩
  · exact ⟨_, shootdownDrainComplete_drains hx hr hd hb, shoot_putShoot hx rfl, mem_raised_raise ..⟩
  · exact ⟨_, shootdownAck_ascends hx ⟨hdr, ha, hk⟩ hn he, shoot_putShoot hx rfl, mem_raised_raise ..⟩
  · exact ⟨_, shootdownAck_concludes hx ⟨hdr, ha, hk⟩ hn hm hpin, concluded_performs hh⟩
  · have hidle (f : State → State) : (Host.Outcome.next (s.byFirmware f) : Out) = .next s :=
      congrArg Host.Outcome.next (byFirmware_failed hp f)
    exact List.forall_mem_cons.mpr ⟨hidle _, List.forall_mem_cons.mpr ⟨hidle _, List.forall_mem_singleton.mpr (hidle _)⟩⟩
end

section
/-! PROOFS. Stores to global lines: the requests that they leave in the write buffer (08 R129; 10 R164, R165, R174). -/

namespace Sys2Proof.Machine

/-! ## Requests that a store leaves (10 R165) -/

/-- `t` is `s` with requests of its issuing slot added to the write buffer, for the port to send, and memory and the slot as they were. -/
structure Sent (s t : State) (sig : Bool) (rs : List Req) : Prop where
  reqs : t.reqs = s.reqs ++ rs
  mem : t.mem = s.mem
  me : t.me = s.me
  cur : t.cur = s.cur
  raised : s.raised ⊆ t.raised
  leaves : rs ≠ [] → Raised.portRequestLeave s.myCore 0 ∈ t.raised
  own : ∀ r ∈ rs, r.key = s.cur ∧ r.tid = s.me.tid ∧ r.sig = sig ∧ r.stage = .buffer

theorem Sent.refl (s : State) (sig : Bool) : Sent s s sig [] :=
  ⟨(List.append_nil _).symm, rfl, rfl, rfl, fun _ => id, (absurd rfl ·), nofun⟩

theorem Sent.trans {s t u : State} {sig : Bool} {rs rs' : List Req} (h : Sent s t sig rs) (h' : Sent t u sig rs') : Sent s u sig (rs ++ rs') := by
  have hcore : t.myCore = s.myCore := congrArg coreOfKey h.cur
  refine ⟨?_, h'.mem.trans h.mem, h'.me.trans h.me, h'.cur.trans h.cur, fun _ hi => h'.raised (h.raised hi), fun hne => ?_, fun r hr => ?_⟩
  · rw [h'.reqs, h.reqs, List.append_assoc]
  · by_cases hrs : rs = []
    · exact hcore ▸ h'.leaves fun hrs' => hne (by rw [hrs, hrs', List.append_nil])
    · exact h'.raised (h.leaves hrs)
  · rcases List.mem_append.mp hr with hr | hr
    · exact h.own r hr
    · exact h.cur ▸ h.me ▸ h'.own r hr

theorem l1Store_sent (s : State) (pa : Nat) (d : List (Option Byte)) (sig : Bool) : Sent s (s.l1Store pa d) sig [] := by
  have h (c : Core) : Sent s (s.setCore s.myCore c) sig [] :=
    ⟨(List.append_nil _).symm, rfl, rfl, rfl, fun _ => id, (absurd rfl ·), nofun⟩
  unfold State.l1Store
  split <;> exact h _

theorem pushReq_sent (s : State) (va : Nat) (cls : Bool) (pa : Nat) (op : ReqOp) (scope : BitVec 2) (sig : Bool) :
    ∃ r, Sent s (s.pushReq va cls pa op scope sig false) sig [r] ∧ r.pa = pa ∧ r.op = op :=
  ⟨_, ⟨rfl, rfl, rfl, rfl, List.subset_append_left .., fun _ => mem_raised_raise ..,
    List.forall_mem_singleton.mpr ⟨rfl, rfl, rfl, rfl⟩⟩, rfl, rfl⟩

/-! ## The pieces of a store (01 R16; 08 R129) -/

/-- A piece of a store has a byte to write. -/
def writes (p : Nat × ReqOp) : Bool := decide (p.2 ≠ .store (List.replicate p.2.size none))

theorem writes_store (pa : Nat) (d : List (Option Byte)) : writes (pa, .store d) = !d.all Option.isNone := by
  have hnone : d = List.replicate d.length none ↔ d.all Option.isNone = true := by
    simp [List.eq_replicate_iff]
  rw [writes, show ReqOp.size (.store d) = d.length from rfl]
  by_cases h : d.all Option.isNone = true
  · rw [h, ← hnone.mpr h]
    simp
  · rw [Bool.eq_false_iff.mpr h]
    exact decide_eq_true fun heq => h (hnone.mp (ReqOp.store.inj heq))

/-- A piece leaves one request, of its bytes at its address; one with no byte to write leaves none. -/
theorem pushStore_sent (s : State) (o : Opnd) (va pa : Nat) (d : List (Option Byte)) (sig : Bool) :
    ∃ rs, Sent s (s.pushStore o va pa d sig false) sig rs ∧ rs.map (fun r => (r.pa, r.op)) = [(pa, ReqOp.store d)].filter writes := by
  rw [List.filter_singleton, writes_store, State.pushStore]
  by_cases h : d.all Option.isNone = true
  · rw [if_pos h, h]
    exact ⟨[], .refl s sig, rfl⟩
  · rw [if_neg h, Bool.eq_false_iff.mpr h]
    obtain ⟨r, hr, hpa, hop⟩ := pushReq_sent (s.l1Store pa d) va o.cls pa (.store d) 0b10 sig
    exact ⟨[r], (l1Store_sent s pa d sig).trans hr, by rw [List.map_singleton, hpa, hop]; rfl⟩

/-- The requests that a store to `pa` makes of the pieces of its bytes. -/
def storePieces (pa : Nat) (data : List (Option Byte)) (l : List (Nat × Nat)) : List (Nat × ReqOp) :=
  l.map fun p => (p.1, .store ((data.drop (p.1 - pa)).take p.2))

theorem pushPieces_sent (o : Opnd) (va pa : Nat) (data : List (Option Byte)) (sig : Bool) : ∀ (l : List (Nat × Nat)) (s : State),
    ∃ rs, Sent s (l.foldl (fun s (a, n) => s.pushStore o (va + (a - pa)) a ((data.drop (a - pa)).take n) sig false) s) sig rs ∧
      rs.map (fun r => (r.pa, r.op)) = (storePieces pa data l).filter writes
  | [], s => ⟨[], .refl s sig, rfl⟩
  | (a, n) :: l, s => by
    obtain ⟨rs, hrs, hops⟩ := pushStore_sent s o (va + (a - pa)) a ((data.drop (a - pa)).take n) sig
    obtain ⟨rs', hrs', hops'⟩ := pushPieces_sent o va pa data sig l _
    refine ⟨rs ++ rs', hrs.trans hrs', ?_⟩
    rw [List.map_append, hops, hops', ← List.filter_append]
    rfl

/-- A store to one line leaves the requests of its pieces. -/
theorem writeMask_sent {o : Opnd} {data : List (Option Byte)} {n : Nat} (ho : o.scratch = false) (hn : data.length = n) (s : State)
    (va pa : Nat) (sig : Bool) : ∃ rs, Sent s (s.writeMask o [(va, pa, n)] data sig false) sig rs ∧
      rs.map (fun r => (r.pa, r.op)) = (storePieces pa data (piecesOf pa n)).filter writes := by
  subst hn
  rw [State.writeMask, if_neg (Bool.eq_false_iff.mp ho), State.pushStores, List.take_length, State.pushStores]
  exact pushPieces_sent o va pa data sig _ s

theorem writeNow_global {o : Opnd} (ho : o.scratch = false) (s : State) (ps : List (Nat × Nat × Nat)) (data : List Byte) (sig paid : Bool) :
    s.writeNow o ps data sig paid = s.writeMask o ps (data.map some) sig paid := by
  rw [State.writeNow, State.writeMask, if_neg (Bool.eq_false_iff.mp ho), if_neg (Bool.eq_false_iff.mp ho)]

/-! ## Translation of a store -/

theorem xlateParts_tasks {o : Opnd} {acc : Acc} : ∀ {l : List (Nat × Nat)} {s u : State} {ps : List (Nat × Nat × Nat)},
    s.xlateParts o acc l = .ok ps u → SameTasks s u
  | [], s, u, ps, h => by
    cases h
    exact .refl s
  | (va, n) :: l, s, u, ps, h => by
    obtain ⟨_, _, hfirst, h⟩ := bind_eq_ok.mp h
    obtain ⟨_, _, hrest, h⟩ := bind_eq_ok.mp h
    cases h
    exact (xlate_tasks hfirst).trans (xlateParts_tasks hrest)

theorem writeParts_tasks {s u : State} {o : Opnd} {n : Nat} {ps : List (Nat × Nat × Nat)} (h : s.writeParts o n = .ok ps u) : SameTasks s u := by
  unfold State.writeParts at h
  split at h
  · cases h
    exact .refl s
  · obtain ⟨_, _, hx, h⟩ := bind_eq_ok.mp h
    split at h
    · cases h
    · cases h
      exact xlateParts_tasks hx

/-- A store that is ready has changed no task. -/
theorem writeReady_tasks {s u : State} {o : Opnd} {n : Nat} {ps : List (Nat × Nat × Nat)} (h : s.writeReady o n = .ok ps u) : SameTasks s u := by
  obtain ⟨_, _, hp, h⟩ := bind_eq_ok.mp h
  split at h
  · cases h
    exact writeParts_tasks hp
  · cases h

/-! ## The forms -/

theorem opStore_global {s u : State} {o : Opnd} {n : Nat} {x : Int} {a : BitVec 4} {ps : List (Nat × Nat × Nat)} (sig : Bool) (d : BitVec 6)
    (len : Nat) (hc : s.check a (s.ptr a + x) n false true n = .ok o s) (ho : o.scratch = false) (hr : s.writeReady o n = .ok ps u) :
    opStore n sig d a x len s = (u.writeMask o ps ((leBytes n (s.getG d).toNat).map some) sig false).advance len := by
  rw [opStore, hc, andThen_ok, write_andThen (leBytes_length ..), hr, andThen_ok, writeNow_global ho]

/-- The bytes of a masked store are those of the active byte lanes. -/
theorem maskBytes_vBytes (m : KWord) (v : VWord) :
    maskBytes m (vBytes v) = (List.range 128).map fun i => if m.getLsbD i then some (vByte v i) else none :=
  List.map_congr_left fun i hi => by rw [active, vBytes_getD v (List.mem_range.mp hi)]

theorem opVst_global {s u : State} {o : Opnd} {d : BitVec 5} {a : BitVec 4} {disp : BitVec 5} {k : BitVec 3} {ps : List (Nat × Nat × Nat)}
    (hv : s.me.ownsV d = true) (hc : s.check a (s.vea a disp) 128 false true 128 = .ok o s) (hm : s.me.getK k ≠ 0)
    (hr : s.issued.writeReady o 128 = .ok ps u) :
    opVst d a disp k s = (u.writeMask o ps
      ((List.range 128).map fun i => if (s.me.getK k).getLsbD i then some (vByte (s.me.getV d) i) else none) false false).advance 4 := by
  have hv' : u.me.getV d = s.me.getV d := congrArg (·.getV d) (writeReady_tasks hr).me
  rw [opVst_checked hv k hc, if_neg hm, hr, andThen_ok, hv', maskBytes_vBytes]

end Sys2Proof.Machine

open Sys2Proof Sys2Proof.Machine

/-- Settles O12: a store whose translation gives one line puts its pieces into the write buffer, one request for each that has a byte to write. -/
theorem globalStores : Obligations.GlobalStores := by
  unfold Obligations.GlobalStores
  intro s s2 sig d a disp ext f v vd k q va pa pieces sends hok hs hr
  have hcheck : q.st.check q.areg q.ea q.n q.rd q.wr q.align = .ok q.opnd q.st := hok.check_present fun h => absurd h (Bool.eq_false_iff.mp hs)
  have sent {data : List (Option Byte)} {sg : Bool} {len : Nat} (hn : data.length = q.n)
      (hrun : exec q.instr s = .next ((s2.writeMask q.opnd [(va, pa, q.n)] data sg false).advance len)) : sends data sg len := by
    obtain ⟨rs, hrs, hops⟩ := writeMask_sent hs hn s2 va pa sg
    exact ⟨_, rs, hrun, hrs.reqs, hrs.mem, hrs.me, hops, hrs.leaves, hrs.own⟩
  refine ⟨fun hq => ?scalar, fun hq => ?vector⟩
  case scalar =>
    obtain ⟨i, x, n, len, insn, rfl, -, hrun⟩ := storeForms_runs q hq
    exact sent (by rw [List.length_map, leBytes_length])
      (hrun.trans (congrArg Host.Outcome.next (opStore_global (s := s.withInsn insn) sig d len hcheck hs hr)))
  case vector =>
    intro hk hg hv
    simp only [State.vectorForms, List.mem_cons, List.not_mem_nil, or_false] at hq
    obtain rfl | rfl | rfl := hq
    · cases hk
    · exact sent (by rw [List.length_map, List.length_range]) (congrArg Host.Outcome.next (opVst_global hv hcheck (of_decide_eq_true hg) hr))
    · cases hk
end

section
/-! PROOFS. Lines that expire, stalls that are tried again, watches and wakes, and the waits that end (05 R79; 06 R90, R104; 10 R165; 11 R189, R190;
20 R309; 01 R331). -/

namespace Sys2Proof.Machine

/-! ## A slot that runs on -/

theorem wakeSlot_ctx (s : State) (k : SlotKey) : (s.wakeSlot k).ctx k = { s.ctx k with run := .running } :=
  ((touch_tasks ..).ctx k).trans (ctx_setCtx ..)

theorem completeSlot_ctx (s : State) (k : SlotKey) (f : Ctx → Ctx) (len : Nat) :
    (s.completeSlot k f len).ctx k = ({ f (s.ctx k) with run := .running } : Ctx).advance len :=
  ((touch_tasks ..).ctx k).trans (ctx_setCtx ..)

theorem wakeSlot_me (s : State) : (s.wakeSlot s.cur).me = { s.me with run := .running } := by
  rw [State.wakeSlot, (touch_tasks ..).me, ctx_cur, setCtx_cur]

theorem completeSlot_me (s : State) (f : Ctx → Ctx) (len : Nat) :
    (s.completeSlot s.cur f len).me = ({ f s.me with run := .running } : Ctx).advance len := by
  rw [State.completeSlot, (touch_tasks ..).me, ctx_cur, setCtx_cur]

theorem l1Flush_tasks (s : State) (core : Nat) : SameTasks s (s.l1Flush core) := rfl
theorem acquireAll_tasks (s : State) (core : Nat) : SameTasks s (s.acquireAll core) := (reach_tasks ..).trans (l1Flush_tasks ..)

/-! ## Lines and stalls (10 R165; 06 R90) -/

theorem core_setCtx (s : State) (k : SlotKey) (c : Ctx) (core : Nat) : (s.setCtx k c).core core = s.core core := by
  unfold State.setCtx
  split <;> rfl

theorem l1Flush_l1 (s : State) (core : Nat) : ((s.l1Flush core).core core).l1 = [] := by
  rw [State.l1Flush, core_setCore]
  rfl

theorem wakeSlot_l1 (s : State) (k : SlotKey) : ((s.wakeSlot k).core (coreOfKey k)).l1 = (s.core (coreOfKey k)).l1 := by
  rw [State.wakeSlot, State.touch, core_setCore, core_setCtx]

theorem l1LineExpiry_drops (s : State) (core asid vl : Nat) (l : L1Line) :
    l ∈ ((opL1LineExpiry core asid vl s).core core).l1 ↔ l ∈ (s.core core).l1 ∧ ¬ (l.asid = asid ∧ l.vline = vl) := by
  rw [opL1LineExpiry, core_setCore, List.mem_filter, Bool.not_eq_true', ← Bool.not_eq_true, Bool.and_eq_true, beq_iff_eq, beq_iff_eq]

section
variable {s : State} {k : SlotKey}

theorem accessRetry_retries {y : Stall} (hr : (s.ctx k).run = .stalled y) (hy : y.retries = true) : opAccessRetry k s = s.wakeSlot k := by
  unfold opAccessRetry
  rw [hr]
  split
  · next h => cases h; cases hy
  · next h => cases h; exact if_pos hy
  · next h => exact absurd rfl (h y)

theorem accessRetry_applied {clock : Vector (BitVec 20) 4} (hr : (s.ctx k).run = .stalled (.applied clock)) :
    opAccessRetry k s = if s.allApplied clock then (s.l1Flush (coreOfKey k)).wakeSlot k else s.raise (.accessRetry k) := by
  unfold opAccessRetry
  rw [hr]

end

/-! ## Watches (11 R190) -/

theorem addWatch_stands (s : State) (cl line : Nat) : ∃ w ∈ (s.addWatch cl line).watches, w.line = line ∧ w.cluster = cl := by
  unfold State.addWatch
  dsimp only
  split
  · next h =>
    obtain ⟨w, hw, hp⟩ := List.any_eq_true.mp h
    exact ⟨w, hw, by simpa using hp⟩
  · exact ⟨_, List.mem_append_right _ (List.mem_singleton_self _), rfl, rfl⟩

section
variable {s : State} {cl line : Nat} {m : Monitor} (hm : s.monitor cl line = some m)
include hm

theorem watchMessage_watches (hl : m.leaving = false) (hp : s.pinOf line = none) : opWatchMessage cl line s = s.addWatch cl line := by
  unfold opWatchMessage
  rw [hm]
  exact if_neg (by simp [hl, hp])

theorem watchWithdrawal_withdraws (hl : m.leaving = true) : opWatchWithdrawal cl line s =
    ({ s.wakeHome (line * 128) with watches := (s.wakeHome (line * 128)).watches.filter fun w => !(w.line == line && w.cluster == cl) } : State).raise
      (.watchWithdrawalAck cl line) := by
  unfold opWatchWithdrawal
  rw [hm]
  exact if_pos hl

end

/-! ## Wakes (11 R189, R190) -/

theorem SameTasks.slots {s t : State} (h : SameTasks s t) : t.slots = s.slots := congrArg (·.1.2.2) h

theorem keys_lone {s : State} (h : s.slots = []) : s.keys = [s.cur] := by
  rw [State.keys, h]
  rfl

/-- A wake of a line that the only slot waits on wakes it, once the tower has what the line's home has told. -/
theorem wakeLine_lone {s : State} {cl line : Nat} (hs : s.slots = []) (hcl : monitorOf s.myCore = cl) (hw : s.me.waitsOn line = true) :
    ∃ u, SameTasks s u ∧ s.wakeLine cl line = u.wakeOne u.cur := by
  have reached : ∃ t, SameTasks s t ∧ s.wakeLine cl line =
      (t.keys.filter fun k => monitorOf (coreOfKey k) == cl && (t.ctx k).waitsOn line).foldl State.wakeOne t := by
    unfold State.wakeLine
    dsimp only
    split <;> refine ⟨_, ?_, rfl⟩
    · exact (reach_tasks ..).trans rfl
    · rfl
  obtain ⟨t, ht, hrun⟩ := reached
  have hcur : (monitorOf (coreOfKey t.cur) == cl && (t.ctx t.cur).waitsOn line) = true := by
    rw [ctx_cur, ht.me, ht.cur, hw, Bool.and_true]
    exact beq_iff_eq.mpr hcl
  refine ⟨t, ht, ?_⟩
  rw [hrun, keys_lone (ht.slots.trans hs), List.filter_singleton, hcur]
  rfl

theorem wakeOne_wait {s : State} {line : Nat} {gt : BitVec 6} {o : Option Nat} (h : s.me.run = .parked (.wait line gt o)) :
    (s.wakeOne s.cur).me = ({ s.me.setG gt 1 with run := .running } : Ctx).advance 4 := by
  unfold State.wakeOne
  dsimp only
  rw [ctx_cur, h]
  exact completeSlot_me (s.l1Flush (coreOfKey s.cur)) (·.setG gt 1) 4

theorem wakeOne_rwait {s : State} {line : Nat} (h : s.me.run = .parked (.rwait line)) : (s.wakeOne s.cur).me = { s.me with run := .running } := by
  unfold State.wakeOne
  dsimp only
  rw [ctx_cur, h]
  exact wakeSlot_me (s.l1Flush (coreOfKey s.cur))

/-- A wake write brings what the wake makes of the only slot, if that waits on its line. -/
theorem wakeWrite_lone {s : State} {cl line : Nat} {c : Ctx} (hs : s.slots = []) (hcl : monitorOf s.myCore = cl)
    (hw : s.me.waitsOn line = true) (hwoken : ∀ u : State, u.me = s.me → (u.wakeOne u.cur).me = c) :
    ∃ t, exec (.wakeWrite cl line) s = .next t ∧ t.me = c := by
  have hcore : SameTasks s (s.wakeCore (monitorCore cl)) := wakeRouter_tasks ..
  have hmon : monitorOf (s.wakeCore (monitorCore cl)).myCore = cl := (congrArg (monitorOf ∘ coreOfKey) hcore.cur).trans hcl
  obtain ⟨u, hu, hrun⟩ := wakeLine_lone (hcore.slots.trans hs) hmon (hcore.me ▸ hw)
  exact ⟨_, congrArg Host.Outcome.next hrun, hwoken u (hu.me.trans hcore.me)⟩

/-! ## Deadlines (11 R189; 06 R104; 20 R309) -/

section
variable {s : State} {k : SlotKey} {d : Nat}

theorem waitTimeout_ends {line : Nat} {gt : BitVec 6} (hr : (s.ctx k).run = .parked (.wait line gt (some d))) (hd : d ≤ s.now k) :
    opWaitTimeout k s = (s.completeSlot k (·.setG gt 2) 4).disarm (monitorOf (coreOfKey k)) line := by
  unfold opWaitTimeout
  rw [hr]
  exact if_pos hd

theorem sleepExpiry_ends (hr : (s.ctx k).run = .parked (.sleep d)) (hd : d ≤ s.now k) : opSleepExpiry k s = s.completeSlot k id 4 := by
  unfold opSleepExpiry
  rw [hr]
  exact if_pos hd

theorem barWaitTimeout_ends {bar : Nat} {gt : BitVec 6} (hr : (s.ctx k).run = .parked (.barWait bar gt (some d))) (hd : d ≤ s.now k) :
    opBarWaitTimeout k s = (s.acquireAll (coreOfKey k)).completeSlot k (·.setG gt 2) 4 := by
  unfold opBarWaitTimeout
  rw [hr]
  exact if_pos hd

/-! ## Waits on a BUSY slot (01 R331; 05 R79) -/

variable {va since polled : Nat} (hb : (s.ctx k).run = .stalled (.busy va since polled))
include hb

theorem busySlotPoll_eq : opBusySlotPoll k s = if polled + 224 ≤ s.now k then s.wakeSlot k else s := by
  unfold opBusySlotPoll
  rw [hb]
  rfl

theorem busyDue_eq : s.busyDue k =
    if (s.ctx k).cont.any (fun n => n.made && !n.told) && decide (since + 1050 ≤ s.now k) then some va else none := by
  unfold State.busyDue
  rw [hb]
  rfl

theorem busyWaitReport_tells {n : NetCont} (hc : (s.ctx k).cont = some n) (hm : n.made = true) (ht : n.told = false) (hd : since + 1050 ≤ s.now k) :
    opBusyWaitReport k s = (s.setCtx k { s.ctx k with cont := some { n with told := true } }).report (.busyWait k va) := by
  have hdue : s.busyDue k = some va := by simp [busyDue_eq hb, hc, hm, ht, hd]
  unfold opBusyWaitReport
  rw [hdue]
  dsimp only
  rw [hc]
  rfl

theorem busyWaitReport_silent (h : (∀ n, (s.ctx k).cont = some n → n.made = false ∨ n.told = true) ∨ s.now k < since + 1050) :
    opBusyWaitReport k s = s := by
  have hdue : s.busyDue k = none := by
    rw [busyDue_eq hb]
    refine if_neg fun hdue => ?_
    rw [Bool.and_eq_true, Option.any_eq_true, decide_eq_true_eq] at hdue
    obtain ⟨⟨n, hc, hn⟩, hlate⟩ := hdue
    rcases h with h | hearly
    · rcases h n hc with hm | ht
      · simp [hm] at hn
      · simp [ht] at hn
    · exact Nat.not_le.mpr hearly hlate
  unfold opBusyWaitReport
  rw [hdue]

end

end Sys2Proof.Machine

open Sys2Proof Sys2Proof.Machine

/-- Settles O44: each step ends, tries again or reports the wait that its slot is in, or changes what it names of a line, a monitor table
or the watches. -/
theorem waitSteps : Obligations.WaitSteps := by
  unfold Obligations.WaitSteps
  intro s k core asid vl line cl y m n gt d va bar since polled o clock c ran busy
  have step {t u : State} {P : State → Prop} (ht : u = t) (h : P t) : ∃ t, (.next u : Out) = .next t ∧ P t := ⟨t, congrArg _ ht, h⟩
  refine ⟨⟨_, rfl, l1LineExpiry_drops s core asid vl⟩, fun hr hy => ?retries, fun hr => ⟨fun ha => ?applied, fun ha => ?unapplied⟩,
    fun hm hl hp => step (watchMessage_watches hm hl hp) (addWatch_stands ..), fun hm hl => ?withdrawal, rfl,
    fun hs hcl => ⟨fun hr => ?wait, fun hr => ?rwait⟩,
    fun hr hd => step (waitTimeout_ends hr hd) (((disarm_tasks ..).ctx k).trans (completeSlot_ctx ..)),
    fun hr hd => step (sleepExpiry_ends hr hd) (completeSlot_ctx ..), fun hr hd => ?barWait,
    fun hb hd => step ((busySlotPoll_eq hb).trans (if_pos hd)) (wakeSlot_ctx s k),
    fun hb hd => congrArg _ ((busySlotPoll_eq hb).trans (if_neg (Nat.not_le.mpr hd))),
    fun hb hc hm ht hd => congrArg _ (busyWaitReport_tells hb hc hm ht hd), fun hb h => congrArg _ (busyWaitReport_silent hb h), rfl⟩
  case retries =>
    have hretries : y.retries = true := by
      obtain ⟨x, rfl⟩ | rfl | rfl | rfl | rfl | rfl | rfl | rfl := hy <;> rfl
    exact step (accessRetry_retries hr hretries) (wakeSlot_ctx s k)
  case applied =>
    exact step ((accessRetry_applied hr).trans (if_pos ha)) ⟨wakeSlot_ctx .., (wakeSlot_l1 ..).trans (l1Flush_l1 ..)⟩
  case unapplied => exact congrArg _ ((accessRetry_applied hr).trans (if_neg (Bool.eq_false_iff.mp ha)))
  case withdrawal =>
    refine step (watchWithdrawal_withdraws hm hl) ⟨fun w hw hwl => ?_, mem_raised_raise ..⟩
    simpa [hwl] using (List.mem_filter.mp hw).2
  case wait => exact wakeWrite_lone hs hcl (by simp [Ctx.waitsOn, hr]) fun u hu => hu ▸ wakeOne_wait (hu ▸ hr)
  case rwait => exact wakeWrite_lone hs hcl (by simp [Ctx.waitsOn, hr]) fun u hu => hu ▸ wakeOne_rwait (hu ▸ hr)
  case barWait =>
    refine step (barWaitTimeout_ends hr hd) ?_
    rw [completeSlot_ctx, (acquireAll_tasks ..).ctx]
end

section
/-! PROOFS. A release at any scope, and the write that it makes at its place: a pin store that it pins the line in, the atomic unit of a line
pinned already, or the home (10 R163, R168, R172; 11 R178). -/

namespace Sys2Proof.Machine

/-! ## Writes to pin stores -/

/-- Every pin holds a whole line. -/
def State.WholePins (s : State) : Prop := ∀ p ∈ s.pins, p.data.length = 128

/-- `t` has the memory and the issuing slot of `s`, and its pins hold whole lines if those of `s` do. -/
structure KeepsHomes (s t : State) : Prop where
  mem : t.mem = s.mem
  me : t.me = s.me
  whole : s.WholePins → t.WholePins

theorem KeepsHomes.refl (s : State) : KeepsHomes s s := ⟨rfl, rfl, id⟩

theorem KeepsHomes.trans {s t u : State} (h : KeepsHomes s t) (h' : KeepsHomes t u) : KeepsHomes s u :=
  ⟨h'.mem.trans h.mem, h'.me.trans h.me, h'.whole ∘ h.whole⟩

theorem KeepsHomes.foldl {f : State → α → State} (hf : ∀ s a, KeepsHomes s (f s a)) : ∀ (l : List α) (s : State), KeepsHomes s (l.foldl f s)
  | [], s => .refl s
  | a :: l, s => (hf s a).trans (KeepsHomes.foldl hf l (f s a))

theorem SamePlaces.keepsHomes {s t : State} (h : SamePlaces s t) : KeepsHomes s t :=
  ⟨h.2.1, h.2.2, fun hw => by rw [State.WholePins, h.1]; exact hw⟩

/-- Changes of pins that keep how much each holds. -/
theorem wholePins_mapIf {s : State} (c : Pin → Bool) {f : Pin → Pin} (hf : ∀ p, (f p).data.length = p.data.length) (h : s.WholePins) :
    ∀ p ∈ mapIf c f s.pins, p.data.length = 128 := by
  refine List.forall_mem_map.mpr fun p hp => ?_
  split
  · rw [hf, h p hp]
  · exact h p hp

theorem length_setCells (l : List Byte) (cs : List Host.Cell) : (cs.foldl (fun l c => l.set (c.1 % 128) c.2) l).length = l.length :=
  List.foldlRecOn cs _ (motive := fun r : List Byte => r.length = l.length) rfl fun _ h _ _ => List.length_set.trans h

theorem putPin_keepsHomes (s : State) (pa : Nat) (d : List Byte) (c : Bool) (bad : List Nat) : KeepsHomes s (s.putPin pa d c bad) :=
  ⟨rfl, rfl, wholePins_mapIf (f := (·.put pa d)) _ fun _ => length_setCells ..⟩

theorem reach_samePlaces (s : State) (t : Nat) (need : Vector (BitVec 20) 4) : SamePlaces s (s.reach t need) :=
  ⟨reach_pins .., reach_mem .., (reach_tasks ..).me⟩

/-! ## Pinning a line (R172) -/

/-- A pin with one more owner. -/
def Pin.own (p : Pin) (tid : Nat) : Pin := { p with owners := sins p.owners tid }

/-- A line pinned already gets one more owner. -/
theorem pinLine_again {s : State} {l : Nat} (cl tid : Nat) (h : (s.pinOf l).isSome = true) :
    s.pinLine cl l tid = { s with pins := mapIf (·.pline == l) (Pin.own · tid) s.pins } := by
  obtain ⟨p, hp⟩ := Option.isSome_iff_exists.mp h
  unfold State.pinLine
  rw [hp]
  rfl

/-- Any other is pinned with the bytes of its home. -/
theorem pinLine_first {s : State} {l : Nat} (cl tid : Nat) (h : s.pinOf l = none) : (s.pinLine cl l tid).me = s.me ∧
    (s.pinLine cl l tid).pins = s.pins ++ [⟨cl, l, mgets s.mem (l * 128) 128, [tid]⟩] := by
  have woken {t : State} (ht : SamePlaces s t) : (t.wakeHome (l * 128)).me = s.me ∧
      (t.wakeHome (l * 128)).pins ++ [⟨cl, l, mgets (t.wakeHome (l * 128)).mem (l * 128) 128, [tid]⟩] =
        s.pins ++ [⟨cl, l, mgets s.mem (l * 128) 128, [tid]⟩] := by
    obtain ⟨hpins, hmem, hme⟩ := ht.trans (wakeHome_samePlaces t (l * 128))
    exact ⟨hme, by rw [hpins, hmem]⟩
  unfold State.pinLine
  rw [h]
  refine woken ?_
  split
  · exact reach_samePlaces ..
  · exact ⟨rfl, rfl, rfl⟩

theorem find?_mapIf_own (s : State) (l tid x : Nat) : (mapIf (·.pline == l) (Pin.own · tid) s.pins).find? (·.pline == x) =
    (s.pinOf x).map fun p => if p.pline == l then p.own tid else p := by
  rw [mapIf, List.find?_map]
  refine congrArg _ (congrArg (List.find? · s.pins) (funext fun p => ?_))
  rw [Function.comp_apply]
  split <;> rfl

theorem pinOf_append {s t : State} {l : Nat} {p : Pin} (hl : p.pline = l) (h : s.pinOf l = none) (ht : t.pins = s.pins ++ [p]) (x : Nat) :
    t.pinOf x = if x = l then some p else s.pinOf x := by
  rw [State.pinOf, ht, List.find?_append]
  split
  · next hx =>
    rw [State.pinOf] at h
    rw [hx, h]
    simp [hl]
  · next hx =>
    rw [List.find?_singleton, if_neg (by simpa [hl] using Ne.symm hx), Option.or_none]
    rfl

theorem pinLine_pinned (s : State) (cl l tid : Nat) : ((s.pinLine cl l tid).pinOf l).isSome = true := by
  cases h : s.pinOf l with
  | some p =>
    rw [pinLine_again cl tid (by rw [h]; rfl), State.pinOf, find?_mapIf_own, h]
    rfl
  | none =>
    rw [pinOf_append rfl h (pinLine_first cl tid h).2, if_pos rfl]
    rfl

theorem pinLine_keepsHomes (s : State) (cl l tid : Nat) : KeepsHomes s (s.pinLine cl l tid) := by
  cases h : s.pinOf l with
  | some p =>
    rw [pinLine_again cl tid (by rw [h]; rfl)]
    exact ⟨rfl, rfl, wholePins_mapIf (f := (·.own tid)) _ fun _ => rfl⟩
  | none =>
    obtain ⟨hme, hpins⟩ := pinLine_first cl tid h
    refine ⟨pinLine_mem .., hme, fun hw p hp => ?_⟩
    rw [hpins] at hp
    rcases List.mem_append.mp hp with hp | hp
    · exact hw p hp
    · rw [List.mem_singleton.mp hp]
      exact mgets_length ..

/-- Pinning a line changes no byte at its place. -/
theorem pinLine_placeByte (s : State) (cl l tid x : Nat) : (s.pinLine cl l tid).placeByte x = s.placeByte x := by
  cases h : s.pinOf l with
  | some p =>
    rw [pinLine_again cl tid (by rw [h]; rfl), State.placeByte, State.pinOf, find?_mapIf_own, State.placeByte]
    cases s.pinOf (x / 128) with
    | none => rfl
    | some q =>
      dsimp only [Option.map_some]
      split <;> rfl
  | none =>
    rw [State.placeByte, pinOf_append rfl h (pinLine_first cl tid h).2, State.placeByte]
    by_cases hx : x / 128 = l
    · have hin : x % 128 < (mgets s.mem (l * 128) 128).length := by rw [mgets_length]; omega
      rw [if_pos hx, hx, h]
      dsimp only
      rw [List.getD_eq_getElem _ _ hin, getElem_mgets, ← hx, Nat.div_add_mod']
    · rw [if_neg hx, pinLine_mem]

/-! ## The buffered stores of a release (R172) -/

theorem pinBuffered_keepsHomes (s : State) (cl : Nat) : KeepsHomes s (s.pinBuffered cl) := by
  have pins := KeepsHomes.foldl (fun (s : State) (r : Req) => pinLine_keepsHomes s cl (r.pa / 128) r.tid) s.buffered s
  refine pins.trans (.trans (.foldl (fun t r => ?_) s.buffered _) ⟨rfl, rfl, id⟩)
  split
  · split
    · exact (putPin_keepsHomes ..).trans (signal_samePlaces ..).keepsHomes
    · exact putPin_keepsHomes ..
  · exact .refl t

theorem pinBuffered_none {s : State} (h : s.buffered = []) (cl : Nat) : SamePlaces s (s.pinBuffered cl) := by
  unfold State.pinBuffered
  rw [h]
  exact ⟨rfl, rfl, rfl⟩

/-! ## The place of a release (11 R178) -/

/-- A place at which a write of the line of `pa` can be made: a pin store that takes the line, the unit that has it, or the home of an unpinned line. -/
def State.Takes (s : State) (pa : Nat) : Place → Prop
  | .pin _ => True
  | .unit => (s.pinOf (pa / 128)).isSome = true
  | .home => s.pinOf (pa / 128) = none

theorem releaseWait_home {s : State} {pa : Nat} (h : s.releaseWait .home pa = none) : s.pinOf (pa / 128) = none := by
  by_contra hp
  unfold State.releaseWait at h
  dsimp only at h
  rw [if_pos (Option.isSome_iff_ne_none.mpr hp)] at h
  split_ifs at h

theorem releaseAt_takes {s u : State} {sc : BitVec 2} {pa : Nat} {pl : Place} (h : s.releaseAt sc pa = .ok pl u) : u.Takes pa pl := by
  rw [State.releaseAt] at h
  generalize s.widen sc pa = w at h
  obtain ⟨sc, s⟩ := w
  obtain ⟨_, t, -, h⟩ := bind_eq_ok.mp h
  dsimp only at h
  split at h
  · cases h
  · next hwait =>
    cases h
    unfold State.placeOf at hwait ⊢
    split
    · trivial
    · next hpins =>
      rw [hpins] at hwait
      dsimp only at hwait
      split
      · next hu => exact (Bool.and_eq_true_iff.mp hu).1
      · next hu =>
        rw [if_neg hu] at hwait
        exact releaseWait_home hwait

/-! ## The write of a release -/

/-- The core's own copies, and the watches, of a write that has been made. -/
theorem copies_samePlaces (t : State) (pa : Nat) (data : List Byte) (sig : Bool) :
    SamePlaces t (if sig then (t.l1Store pa (data.map some)).signal pa else t.l1Store pa (data.map some)) := by
  split
  · exact (l1Store_samePlaces ..).trans (signal_samePlaces ..)
  · exact l1Store_samePlaces ..

theorem performFrom_host {s : State} {pa : Nat} (hh : homeOf pa = some .host) (w : Nat) (d : List Byte) (c : Bool) (bad : List Nat) :
    s.performFrom w pa d c bad = s.putBytes pa d c bad := by
  rw [State.performFrom, State.performAt, hh]

/-- A write at the home of an unpinned line of device or host memory. -/
theorem performFrom_stores {s : State} {pa : Nat} {d : List Byte} (hh : inHbm pa = true ∨ homeOf pa = some .host)
    (hline : pa % 128 + d.length ≤ 128) (hp : s.pinOf (pa / 128) = none) (w : Nat) (c : Bool) (bad : List Nat) :
    s.StoredBy (s.performFrom w pa d c bad) .home pa d ∧ (s.performFrom w pa d c bad).me = s.me := by
  rcases hh with hh | hh
  · exact performFrom_stored hh hline hp w c bad
  · have hpin (l : Nat) : (s.putBytes pa d c bad).pinOf l = s.pinOf l := rfl
    have hmem : (s.putBytes pa d c bad).mem = msets s.mem pa d := rfl
    rw [performFrom_host hh]
    refine ⟨⟨fun i hi => ?_, fun _ x hx => ?_, storedAt_msets ..⟩, rfl⟩
    · rw [State.placeByte, hpin, (line_of_offset hline hi).1, hp, hmem]
      dsimp only
      rw [mget_msets_in _ _ _ _ hi, List.getD_eq_getElem _ _ hi]
    · rw [State.placeByte, hpin, hmem, State.placeByte, mget_msets_out _ _ hx]

/-- A write at the unit that has the line. -/
theorem putPin_stores {s : State} {pa : Nat} {d : List Byte} (hline : pa % 128 + d.length ≤ 128) (hw : s.WholePins)
    (hp : (s.pinOf (pa / 128)).isSome = true) : s.StoredBy (s.putPin pa d) .unit pa d := by
  obtain ⟨p, hp⟩ := Option.isSome_iff_exists.mp hp
  exact putPin_stored hline hp (hw p (List.mem_of_find?_eq_some hp))

/-- It leaves the other bytes, of which no request of the state says anything. -/
theorem putPin_others {s : State} {pa : Nat} {d : List Byte} (hline : pa % 128 + d.length ≤ 128) (hw : s.WholePins)
    (hp : (s.pinOf (pa / 128)).isSome = true) {x : Nat} (hx : x < pa ∨ pa + d.length ≤ x) : (s.putPin pa d).placeByte x = s.placeByte x :=
  (putPin_stores (s := { s with reqs := [] }) hline hw hp).2.1 rfl x hx

/-- A write at the pin store that takes the line, behind the buffered stores of the release. -/
theorem pinLine_stores {u : State} {pa : Nat} {d : List Byte} (hline : pa % 128 + d.length ≤ 128) (hw : u.WholePins) (cl tid : Nat) :
    u.StoredBy (((u.pinBuffered cl).pinLine cl (pa / 128) tid).putPin pa d) (.pin cl) pa d := by
  have hkeep := (pinBuffered_keepsHomes u cl).trans (pinLine_keepsHomes _ cl (pa / 128) tid)
  have hpin := pinLine_pinned (u.pinBuffered cl) cl (pa / 128) tid
  refine ⟨(putPin_stores hline (hkeep.whole hw) hpin).1, fun hb x hx => ?_, hkeep.mem⟩
  rw [putPin_others hline (hkeep.whole hw) hpin hx, pinLine_placeByte, (pinBuffered_none hb cl).placeByte]

/-- A release that is done has its write stored at its place, whichever takes it. -/
theorem released_stores {s v u : State} {o o' : Opnd} {n pa : Nat} {sc : BitVec 2} {pl : Place} {data : List Byte} (hr : s.Released o n sc pa pl v u)
    (hn : data.length = n) (sig : Bool) :
    u.StoredBy ((u.releaseFirst pl).performNow o' pl pa data sig) pl pa data ∧ ((u.releaseFirst pl).performNow o' pl pa data sig).me = u.me := by
  obtain ⟨⟨-, hh, hline, -⟩, hw, hrel⟩ := hr
  subst hn
  have copied {t w : State} (ht : SamePlaces t w) := ht.trans (copies_samePlaces w pa data sig)
  have htakes := releaseAt_takes hrel
  cases pl with
  | pin cl =>
    have hs := copied (standsPinned_samePlaces (((u.pinBuffered cl).pinLine cl (pa / 128) (u.pinBuffered cl).me.tid).putPin pa data) o'.va o'.cls pa)
    have hme := ((pinBuffered_keepsHomes u cl).trans (pinLine_keepsHomes _ cl (pa / 128) (u.pinBuffered cl).me.tid)).me
    exact ⟨(pinLine_stores hline hw cl _).congr hs, hs.2.2.trans hme⟩
  | unit =>
    have hs := copied (standsPinned_samePlaces (u.putPin pa data) o'.va o'.cls pa)
    exact ⟨(putPin_stores hline hw htakes).congr hs, hs.2.2⟩
  | home =>
    obtain ⟨hs, hme⟩ := performFrom_stores hh hline htakes u.myTower true []
    have hc := copies_samePlaces (u.performFrom u.myTower pa data true) pa data sig
    exact ⟨hs.congr hc, hc.2.2.trans hme⟩

end Sys2Proof.Machine
end

section
/-! PROOFS. The atomics of major 0x12 (11 R180-R183): what each writes, on scratch and on a line of device memory at any scope. -/

namespace Sys2Proof.Machine

/-! ## An access that reads, and may write, at its place -/

section
variable {s v u : State} {o : Opnd} {n pa : Nat} {sc : BitVec 2} {pl : Place} {sig host : Bool} {f : List Byte → Option (List Byte)}

theorem rmw_scratch (ho : o.scratch = true) (hc : s.ScratchClean o.va n) : s.rmw o n sc sig host f =
    .ok (mgets s.me.mem o.va n) ((f (mgets s.me.mem o.va n)).elim s (s.writeScratch o.va)) := by
  rw [State.rmw, if_pos ho, readScratch_of_clean hc, bind_ok]
  cases f (mgets s.me.mem o.va n) <;> rfl

/-- On a line of device memory that no wait and no poison stands against, one that writes releases first. -/
theorem rmw_writes {new : List Byte} (hr : s.Reached o n pa v) (hh : inHbm pa = true) (hbar : v.readBar pa true = none)
    (hbad : v.placeBad pa n = false) (hf : f ((upFrom pa n).map v.homeView) = some new) (hrel : v.releaseAt sc pa = .ok pl u) :
    s.rmw o n sc sig host f = .ok ((upFrom pa n).map v.homeView) (((u.releaseFirst pl).performNow o pl pa new sig).acquire sc) := by
  obtain ⟨ho, -, -, s1, hc, hx⟩ := hr
  rw [State.rmw, if_neg (Bool.eq_false_iff.mp ho), hc, bind_ok, hx, bind_ok, if_neg (fun h => inHbm_not_host hh h.1), hbar]
  dsimp only
  rw [if_neg (Bool.eq_false_iff.mp hbad), hf]
  dsimp only
  rw [hrel, bind_ok, hostAnswer_hbm hh, bind_ok]

/-- One that does not write releases too, and leaves what stands at every place (R182). -/
theorem rmw_reads (hr : s.Reached o n pa v) (hh : inHbm pa = true) (hbar : v.readBar pa true = none) (hbad : v.placeBad pa n = false)
    (hf : f ((upFrom pa n).map v.homeView) = none) (hrel : v.release sc = .ok () u) :
    ∃ t, s.rmw o n sc sig host f = .ok ((upFrom pa n).map v.homeView) t ∧ SamePlaces u t := by
  obtain ⟨ho, -, -, s1, hc, hx⟩ := hr
  have hdrop : SamePlaces (u.wakeHome pa) ((u.wakeHome pa).l1Drop u.myCore (pa / 128)) := ⟨rfl, rfl, rfl⟩
  refine ⟨_, ?_, ((wakeHome_samePlaces u pa).trans hdrop).trans (acquire_samePlaces _ sc)⟩
  rw [State.rmw, if_neg (Bool.eq_false_iff.mp ho), hc, bind_ok, hx, bind_ok, if_neg (fun h => inHbm_not_host hh h.1), hbar]
  dsimp only
  rw [if_neg (Bool.eq_false_iff.mp hbad), hf]
  dsimp only
  rw [hrel, bind_ok, hostAnswer_hbm hh, bind_ok]

end

/-! ## What an operation writes (R181) -/

theorem two_pow_bytes (n : Nat) : 2 ^ (8 * n) = 256 ^ n := by rw [Nat.pow_mul]

/-- The low bytes of a register. -/
def State.low (s : State) (n : Nat) (r : BitVec 6) : Nat := (s.getG r).toNat % 256 ^ n

/-- What an operation writes over a value, with its operands in the registers; nothing where its condition fails. -/
def AOp.answer (op : AOp) (s : State) (n : Nat) (d b : BitVec 6) (old : Nat) : Option Nat :=
  if op.writes n old (s.low n b) (s.low n d) (s.low n (b ^^^ 1)) then some (op.value n old (s.low n b)) else none

/-- The same in bytes. -/
def AOp.update (op : AOp) (s : State) (n : Nat) (d b : BitVec 6) (bs : List Byte) : Option (List Byte) :=
  (op.answer s n d b (leNat bs)).map (leBytes n)

theorem answer_add (s : State) (n : Nat) (d b : BitVec 6) (old : Nat) :
    AOp.add.answer s n d b old = some ((old + s.low n b) % 256 ^ n) := by
  rw [← two_pow_bytes]
  rfl

theorem answer_maxu (s : State) (n : Nat) (d b : BitVec 6) (old : Nat) : AOp.maxu.answer s n d b old = some (max old (s.low n b)) := by
  show some (if old ≥ s.low n b then old else s.low n b) = _
  rw [Nat.max_def]
  congr 1
  split <;> split <;> omega

theorem answer_cas (s : State) (n : Nat) (d b : BitVec 6) (old : Nat) :
    AOp.cas.answer s n d b old = if old = s.low n d then some (s.low n b) else none := by
  simp [AOp.answer, AOp.writes, AOp.value]

theorem answer_casGt (s : State) (n : Nat) (d b : BitVec 6) (old : Nat) : AOp.casGt.answer s n d b old =
    if (BitVec.ofNat (8 * n) (s.low n b)).toInt > (BitVec.ofNat (8 * n) old).toInt then some (s.low n b) else none := by
  simp [AOp.answer, AOp.writes, AOp.value]

theorem answer_casVer (s : State) (n : Nat) (d b : BitVec 6) (old : Nat) : AOp.casVer.answer s n d b old =
    if old &&& s.low n (b ^^^ 1) = s.low n d &&& s.low n (b ^^^ 1) then some (s.low n b) else none := by
  simp [AOp.answer, AOp.writes, AOp.value]

theorem answer_casPtag (s : State) (n : Nat) (d b : BitVec 6) (old : Nat) : AOp.casPtag.answer s n d b old =
    if old = s.low n d then some (s.low n b - s.low n b % 2 ^ 16 + (old + 1) % 2 ^ 16) else none := by
  have htag (x : Nat) : x / 2 ^ 16 * 2 ^ 16 + (old % 2 ^ 16 + 1) % 2 ^ 16 = x - x % 2 ^ 16 + (old + 1) % 2 ^ 16 := by omega
  simp only [AOp.answer, AOp.writes, AOp.value, beq_iff_eq, htag]

/-! ## An instruction of major 0x12 (R180-R183) -/

section
variable {op : AOp} {s v u : State} {sc : BitVec 2} {sig w : Bool} {d b : BitVec 6} {a : BitVec 4} {o : Opnd} {ea n pa : Nat} {pl : Place}

theorem opAmo_eq (hn : n = if w then 4 else 8) : opAmo op sc sig w d a b s = (s.check a (s.ptr a) n false true n).andThen fun o t =>
    (t.rmw o n sc sig op.onHost (op.update s n d b)).andThen fun bs t =>
      if o.scratch then t.retG d (sextN (8 * n) (leNat bs)) 4 else (t.retG d (sextN (8 * n) (leNat bs)) 4).untilApplied sc := by
  subst hn
  unfold opAmo AOp.update AOp.answer State.low
  simp only [two_pow_bytes, apply_ite (Option.map _), Option.map_some, Option.map_none]

/-- The bytes of scratch after an atomic that wrote `r`, or nothing. -/
theorem elim_writeScratch_storedAt (s : State) (ea n : Nat) (r : Option Nat) :
    StoredAt s.me.mem ((r.map (leBytes n)).elim s (s.writeScratch ea)).me.mem ea (leBytes n (r.getD (s.scratchVal ea n))) := by
  cases r with
  | some new => exact storedAt_msets ..
  | none =>
    have hbytes := leBytes_leNat (mgets s.me.mem ea n)
    rw [mgets_length] at hbytes
    refine ⟨?_, fun _ _ => rfl⟩
    rw [leBytes_length]
    exact hbytes.symm

theorem setG_withScratch (c : Ctx) (m : List Host.Cell) (p : List Nat) (d : BitVec 6) (x : Word) :
    ({ c with mem := m, poison := p } : Ctx).setG d x = { c.setG d x with mem := m, poison := p } := by
  unfold Ctx.setG
  split <;> rfl

theorem elim_writeScratch_setG (s : State) (ea n : Nat) (r : Option Nat) (d : BitVec 6) (x : Word) :
    let t := ((r.map (leBytes n)).elim s (s.writeScratch ea)).setG d x
    t = { s with me := { s.me.setG d x with mem := t.me.mem, poison := t.me.poison } } := by
  cases r with
  | some new => simp only [Option.map_some, Option.elim_some, State.setG, writeScratch_eq, setG_withScratch]
  | none => rfl

theorem opAmo_scratch (hn : n = if w then 4 else 8) (hea : (ea : Int) = s.ptr a) (hok : s.ScratchOk a ea n false true n) (hc : s.ScratchClean ea n) :
    ∃ t, opAmo op sc sig w d a b s = State.advance t 4 ∧
      t = { s with me := { s.me.setG d (sextN (8 * n) (s.scratchVal ea n)) with mem := t.me.mem, poison := t.me.poison } } ∧
      StoredAt s.me.mem t.me.mem ea (leBytes n ((op.answer s n d b (s.scratchVal ea n)).getD (s.scratchVal ea n))) := by
  refine ⟨_, ?_, elim_writeScratch_setG s ea n (op.answer s n d b (s.scratchVal ea n)) d _, ?_⟩
  · rw [opAmo_eq hn, ← hea, check_scratchOk hok, andThen_ok, rmw_scratch rfl hc, andThen_ok]
    rfl
  · have h := elim_writeScratch_storedAt s ea n (op.answer s n d b (s.scratchVal ea n))
    rwa [State.setG, Ctx.setG_eq]

section
variable (hn : n = if w then 4 else 8) (hck : s.check a (s.ptr a) n false true n = .ok o s) (hr : s.Reached o n pa v) (hh : inHbm pa = true)
  (hbar : v.readBar pa true = none) (hbad : v.placeBad pa n = false)
include hn hck hr hh hbar hbad

/-- On a line of device memory one that writes has stored its bytes at the place of its release. -/
theorem opAmo_writes {new : Nat} (hnew : op.answer s n d b (leNat ((upFrom pa n).map v.homeView)) = some new) (hrel : s.Released o n sc pa pl v u) :
    ∃ t, opAmo op sc sig w d a b s = (State.advance t 4).untilApplied sc ∧
      t.me = u.me.setG d (sextN (8 * n) (leNat ((upFrom pa n).map v.homeView))) ∧ u.StoredBy t pl pa (leBytes n new) := by
  have hf : op.update s n d b ((upFrom pa n).map v.homeView) = some (leBytes n new) := by rw [AOp.update, hnew, Option.map_some]
  obtain ⟨hs, hme⟩ := released_stores (o' := o) hrel (leBytes_length n new) sig
  have hac := acquire_samePlaces ((u.releaseFirst pl).performNow o pl pa (leBytes n new) sig) sc
  have hme := congrArg (Ctx.setG · d (sextN (8 * n) (leNat ((upFrom pa n).map v.homeView)))) (hac.2.2.trans hme)
  have hs := hs.congr hac
  refine ⟨State.setG _ d _, ?_, hme, hs⟩
  rw [opAmo_eq hn, hck, andThen_ok, rmw_writes hr hh hbar hbad hf hrel.2.2, andThen_ok, if_neg (Bool.eq_false_iff.mp hr.1)]
  rfl

/-- One that does not write leaves every byte. -/
theorem opAmo_reads (hnew : op.answer s n d b (leNat ((upFrom pa n).map v.homeView)) = none) (hrel : v.release sc = .ok () u) :
    ∃ t, opAmo op sc sig w d a b s = (State.advance t 4).untilApplied sc ∧
      t.me = u.me.setG d (sextN (8 * n) (leNat ((upFrom pa n).map v.homeView))) ∧ t.mem = u.mem ∧ ∀ x, t.placeByte x = u.placeByte x := by
  have hf : op.update s n d b ((upFrom pa n).map v.homeView) = none := by rw [AOp.update, hnew, Option.map_none]
  obtain ⟨t, ht, hs⟩ := rmw_reads (sig := sig) (host := op.onHost) hr hh hbar hbad hf hrel
  refine ⟨t.setG d (sextN (8 * n) (leNat ((upFrom pa n).map v.homeView))), ?_, congrArg (Ctx.setG · d _) hs.2.2, hs.2.1,
    hs.placeByte⟩
  rw [opAmo_eq hn, hck, andThen_ok, ht, andThen_ok, if_neg (Bool.eq_false_iff.mp hr.1)]
  rfl

end

end

end Sys2Proof.Machine

open Sys2Proof Sys2Proof.Machine

/-- Settles O20: each instruction is `opAmo` of its operation, whose access is one of scratch, one that writes or one that does not. -/
theorem atomics : Obligations.Atomics := by
  unfold Obligations.Atomics
  intro s v u sc sig w d b a ea pa old n pl o hn hea x e m i ops res
  have operations : ∀ p ∈ ops, ∃ op : AOp, exec p.1 s = .next (opAmo op sc sig w d a b s) ∧ op.answer s n d b old = p.2 := by
    simp only [ops, List.forall_mem_cons]
    exact ⟨⟨.add, rfl, answer_add ..⟩, ⟨.and, rfl, rfl⟩, ⟨.or, rfl, rfl⟩, ⟨.xor, rfl, rfl⟩, ⟨.min, rfl, rfl⟩, ⟨.max, rfl, rfl⟩,
      ⟨.minu, rfl, rfl⟩, ⟨.maxu, rfl, answer_maxu ..⟩, ⟨.swap, rfl, rfl⟩, ⟨.cas, rfl, answer_cas ..⟩, ⟨.casGt, rfl, answer_casGt ..⟩,
      ⟨.casVer, rfl, answer_casVer ..⟩, ⟨.casPtag, rfl, answer_casPtag ..⟩, fun _ h => nomatch h⟩
  intro p hp
  obtain ⟨op, hrun, hanswer⟩ := operations p hp
  rw [hrun, ← hanswer]
  refine ⟨fun hok hc hold => ?scratch, fun hck hr hh hbar hbad hold => ⟨fun new hnew hrel => ?writes, fun hnone hrel => ?reads⟩⟩
  case scratch =>
    subst hold
    obtain ⟨t, ht, hs⟩ := opAmo_scratch (op := op) (sc := sc) (sig := sig) (d := d) (b := b) hn hea hok hc
    exact ⟨t, congrArg _ ht, hs⟩
  case writes =>
    subst hold
    obtain ⟨t, ht, hs⟩ := opAmo_writes (sig := sig) hn (hea ▸ hck) hr hh hbar hbad hnew hrel
    exact ⟨t, congrArg _ ht, hs⟩
  case reads =>
    subst hold
    obtain ⟨t, ht, hs⟩ := opAmo_reads (sig := sig) hn (hea ▸ hck) hr hh hbar hbad hnone hrel
    exact ⟨t, congrArg _ ht, hs⟩
end

section
/-! PROOFS. Reductions (11 R178, R184-R186): at once on scratch, and as a pending request of the slot on a global line. -/

namespace Sys2Proof.Machine

/-! ## On scratch -/

theorem redScratch_clean {s : State} {o : Opnd} {n : Nat} (hc : s.ScratchClean o.va n) (op : BitVec 4) (x : Nat) :
    s.redScratch o n op x = s.writeScratch o.va (leBytes n (redValue op n (s.scratchVal o.va n) x)) := by
  refine if_neg (Bool.eq_false_iff.mp (List.any_eq_false.mpr fun y hy => ?_))
  obtain ⟨hlo, hhi⟩ := mem_upFrom.mp hy
  have hy := hc (y - o.va) (by omega)
  rw [Nat.add_sub_cancel' hlo] at hy
  simp [hy]

/-- A poisoned piece discards the reduction, with a record (R178). -/
theorem redScratch_poison {s : State} {o : Opnd} {n : Nat} (h : ∃ k < n, smem s.me.poison ((o.va + k) / 32) = true) (op : BitVec 4) (x : Nat) :
    s.redScratch o n op x = s.report (.redPoison o.va) := by
  obtain ⟨k, hk, hp⟩ := h
  exact if_pos (List.any_eq_true.mpr ⟨o.va + k, mem_upFrom.mpr ⟨by omega, by omega⟩, hp⟩)

section
variable {op : BitVec 4} {s u v : State} {sc : BitVec 2} {sig w : Bool} {b : BitVec 6} {a : BitVec 4} {o : Opnd} {ea n pa : Nat}

theorem opRed_scratch (hn : n = if w then 4 else 8) (hea : (ea : Int) = s.ptr a) (hok : s.ScratchOk a ea n false true n) :
    opRed op sc sig w a b s = (s.redScratch ⟨true, ea, (s.me.getA a).cls, 0, a.toNat, []⟩ n op (s.low n b)).advance 4 := by
  subst hn
  unfold opRed State.low
  dsimp only
  rw [← hea, check_scratchOk hok, andThen_ok, two_pow_bytes]
  rfl

/-! ## On a global line -/

theorem hostAnswer_device {s : State} {pa : Nat} (hh : homeOf pa ≠ some .host) (o : Opnd) : s.hostAnswer o pa = .ok () s := if_neg hh

theorem check_va {s t : State} {num : BitVec 4} {ea n align : Nat} {rd wr : Bool} {o : Opnd} (h : s.check num ea n rd wr align = .ok o t) :
    o.va = ea := by
  obtain ⟨-, -, -, -, -, rfl, -⟩ := check_eq_ok.mp h
  rfl

/-- A reduction that nothing holds back leaves one request in the write buffer (R185). -/
theorem opRed_sends (hn : n = if w then 4 else 8) (hck : s.check a (s.ptr a) n false true n = .ok o s) (ho : o.scratch = false)
    (hx : s.xlate o o.va .write = .ok pa u) (hh : homeOf pa ≠ some .host) (hbar : u.writeBar pa = none)
    (hroom : (u.reqs.filter fun r => r.key == u.cur && r.isRed && r.unperformed).length < 16) (hl : u.leavePin sc pa = .ok () v) :
    opRed op sc sig w a b s =
      ((v.l1Drop v.myCore (pa / 128)).pushReq o.va o.cls pa (.red op (!w) (BitVec.ofNat 64 (s.low n b))) sc sig false).advance 4 := by
  subst hn
  unfold opRed State.low
  dsimp only
  rw [hck, andThen_ok, if_neg (Bool.eq_false_iff.mp ho), hx, andThen_ok, if_neg (fun h => hh h.1), hbar]
  dsimp only
  rw [if_neg (Nat.not_le.mpr hroom), hl, andThen_ok, hostAnswer_device hh, andThen_ok, two_pow_bytes]

end

/-! ## The values (R185) -/

theorem redValue_add (n old x : Nat) : redValue 0 n old x = (old + x) % 256 ^ n := by
  rw [← two_pow_bytes]
  rfl

theorem redValue_maxu (n old x : Nat) : redValue 7 n old x = max old x := by
  show (if old ≥ x then old else x) = max old x
  rw [Nat.max_def]
  split <;> split <;> omega

end Sys2Proof.Machine

open Sys2Proof Sys2Proof.Machine

/-- Settles O21: each instruction is `opRed` of its code, which changes scratch or adds a request. -/
theorem reductions : Obligations.Reductions := by
  unfold Obligations.Reductions
  intro s u v sc sig w b a ea pa n o hn hea x old i ops
  have operations : ∀ p ∈ ops, exec p.1 s = .next (opRed p.2.1 sc sig w a b s) ∧ redValue p.2.1 n old x = p.2.2 := by
    simp only [ops, List.forall_mem_append, List.forall_mem_cons]
    refine ⟨⟨⟨rfl, redValue_add ..⟩, ⟨rfl, rfl⟩, ⟨rfl, rfl⟩, ⟨rfl, rfl⟩, ⟨rfl, rfl⟩, ⟨rfl, rfl⟩, ⟨rfl, rfl⟩, ⟨rfl, redValue_maxu ..⟩,
      fun _ h => nomatch h⟩, fun p hp => ?_⟩
    cases w with
    | true =>
      obtain rfl := List.mem_singleton.mp hp
      exact ⟨rfl, rfl⟩
    | false => cases hp
  intro p hp
  obtain ⟨hrun, hvalue⟩ := operations p hp
  rw [hrun, ← hvalue]
  refine ⟨fun hok hc => ?clean, fun hok hbad => ?poisoned, fun hck ho hx hh hbar hroom hl => ?global⟩
  case clean =>
    refine ⟨_, congrArg _ ((opRed_scratch hn hea hok).trans (congrArg (State.advance · 4) (redScratch_clean hc ..))), rfl, ?_⟩
    exact storedAt_msets ..
  case poisoned =>
    exact congrArg _ ((opRed_scratch hn hea hok).trans (congrArg (State.advance · 4) (redScratch_poison hbad ..)))
  case global =>
    obtain rfl : o.va = ea := check_va hck
    rw [show (o.va : Int) = s.ptr a from hea] at hck
    exact ⟨_, _, congrArg _ (opRed_sends hn hck ho hx hh hbar hroom hl), rfl, rfl, rfl, rfl, rfl, rfl, rfl, rfl, rfl⟩
end

section
/-! PROOFS. Acquire loads, release stores and fences (11 R187, R188), and WAIT (11 R189). -/

namespace Sys2Proof.Machine

/-! ## LDA and STL (R187) -/

section
variable {s v u : State} {sc size : BitVec 2} {sig : Bool} {d : BitVec 6} {a : BitVec 4} {o : Opnd} {ea n pa : Nat} {pl : Place} {bs : List Byte}

theorem opLda_scratch (hn : n = 2 ^ size.toNat) (hea : (ea : Int) = s.ptr a) (hok : s.ScratchOk a ea n true false n) (hc : s.ScratchClean ea n) :
    opLda sc size d a s = (s.setG d (BitVec.ofNat 64 (s.scratchVal ea n))).advance 4 := by
  subst hn
  unfold opLda sizeOf2
  dsimp only
  rw [← hea, check_scratchOk hok, andThen_ok, if_pos rfl, readScratch_of_clean (by exact hc), andThen_ok]
  rfl

theorem opLda_home (hn : n = 2 ^ size.toNat) (hck : s.check a (s.ptr a) n true false n = .ok o s) (ho : o.scratch = false)
    (hr : s.readHome o n sc = .ok (pa, bs) u) : opLda sc size d a s = ((u.acquire sc).setG d (BitVec.ofNat 64 (leNat bs))).advance 4 := by
  subst hn
  unfold opLda sizeOf2
  dsimp only
  rw [hck, andThen_ok, if_neg (Bool.eq_false_iff.mp ho), hr, andThen_ok]
  rfl

/-- The bytes read are those that stand at their place. -/
theorem readHome_place (hr : s.readHome o n sc = .ok (pa, bs) u) : bs = (upFrom pa n).map u.placeByte := by
  unfold State.readHome at hr
  obtain ⟨_, _, -, hr⟩ := bind_eq_ok.mp hr
  obtain ⟨_, _, -, hr⟩ := bind_eq_ok.mp hr
  obtain ⟨_, _, -, hr⟩ := bind_eq_ok.mp hr
  obtain ⟨_, _, hfound, hr⟩ := bind_eq_ok.mp hr
  cases hr
  exact readFound_place hfound

theorem opStl_scratch (hn : n = 2 ^ size.toNat) (hea : (ea : Int) = s.ptr a) (hok : s.ScratchOk a ea n false true n) :
    opStl sc sig size d a s = (s.writeScratch ea (leBytes n (s.getG d).toNat)).advance 4 := by
  subst hn
  unfold opStl sizeOf2
  dsimp only
  rw [← hea, check_scratchOk hok, andThen_ok, State.stlWrite, if_pos rfl, andThen_ok]
  rfl

theorem opStl_released (hn : n = 2 ^ size.toNat) (hck : s.check a (s.ptr a) n false true n = .ok o s) (hr : s.Released o n sc pa pl v u) :
    opStl sc sig size d a s =
      (((u.releaseFirst pl).performNow o pl pa (leBytes n (s.getG d).toNat) sig).advance 4).untilApplied sc := by
  obtain ⟨⟨ho, -, -, s1, hc, hx⟩, -, hrel⟩ := hr
  subst hn
  unfold opStl sizeOf2
  dsimp only
  rw [hck, andThen_ok, State.stlWrite, if_neg (Bool.eq_false_iff.mp ho), leBytes_length, hc, bind_ok, hx, bind_ok, hrel, bind_ok, andThen_ok,
    if_neg (Bool.eq_false_iff.mp ho)]

end

/-! ## FENCE (R188) -/

theorem narrow_iff (sc : BitVec 2) : narrow sc = true ↔ sc = 0 ∨ sc = 1 := by
  rw [narrow, Bool.or_eq_true, beq_iff_eq, beq_iff_eq]

theorem not_narrow_iff : ∀ sc : BitVec 2, ¬ narrow sc = true ↔ sc = 0b10 ∨ sc = 0b11 := by decide

/-- The slot has nothing outstanding at a scope exactly when each of its requests stands in a pin store that the scope reaches. -/
theorem drainedAt_iff (s : State) (sc : BitVec 2) :
    s.drainedAt s.cur sc = true ↔ ∀ r ∈ s.reqs, r.key = s.cur → (sc = 0 ∨ sc = 1) ∧ r.stage = .pinned := by
  rw [State.drainedAt, List.all_eq_true]
  refine forall₂_congr fun r _ => ?_
  rw [Bool.or_eq_true, decide_eq_true_eq, Bool.and_eq_true, narrow_iff, beq_iff_eq, ← imp_iff_not_or]

theorem drainedAt_eq_false (s : State) (sc : BitVec 2) :
    s.drainedAt s.cur sc = false ↔ ∃ r ∈ s.reqs, r.key = s.cur ∧ ¬ ((sc = 0 ∨ sc = 1) ∧ r.stage = .pinned) := by
  simp only [← Bool.not_eq_true, drainedAt_iff, not_forall, exists_prop]

section
variable {s u : State} {sc : BitVec 2} (hu : u = if sc = 0b10 ∨ sc = 0b11 then s.unpinTask s.me.tid else s)
include hu

/-- A release ends its task's pins at device and system scope, and then waits (10 R173). -/
theorem release_eq : s.release sc = if !u.drainedAt u.cur sc then .done (u.stall .drain)
    else if sc = 0b11 ∧ !u.allApplied (u.vc u.myTower) then .done (u.stall .clock) else .ok () u := by
  have hpins : u = if narrow sc then s else s.unpinTask s.me.tid :=
    hu.trans ((if_congr (not_narrow_iff sc).symm rfl rfl).trans (ite_not ..))
  rw [State.release, ← hpins]

theorem release_done (hd : u.drainedAt u.cur sc = true) (ha : sc = 0b11 → u.allApplied (u.vc u.myTower) = true) : s.release sc = .ok () u := by
  rw [release_eq hu, hd, if_neg (by decide), if_neg fun h => by simp [ha h.1] at h]

theorem release_clock (hd : u.drainedAt u.cur sc = true) (h3 : sc = 0b11) (ha : u.allApplied (u.vc u.myTower) = false) :
    s.release sc = .done (u.stall .clock) := by
  rw [release_eq hu, hd, if_neg (by decide), ha, if_pos ⟨h3, rfl⟩]

theorem release_drain (hd : u.drainedAt u.cur sc = false) : s.release sc = .done (u.stall .drain) := by
  rw [release_eq hu, hd, if_pos (by decide)]

end

/-! ## WAIT (R189) -/

section
variable {s u : State} {gt b : BitVec 6} {a : BitVec 4} {o : Opnd} {n pa : Nat} {bs : List Byte}

theorem opWait_read (hck : s.check a (s.ptr a) n true false n = .ok o s) (ho : o.scratch = false) (hr : s.readHome o n 0b10 = .ok (pa, bs) u) :
    opWait n gt a b s = if leNat bs ≠ (u.arm (pa / 128)).low n b then
      (((u.arm (pa / 128)).disarm (u.arm (pa / 128)).myMonitor (pa / 128)).setG gt 0).advance 4
    else (u.arm (pa / 128)).park (.wait (pa / 128) gt ((u.arm (pa / 128)).deadline gt)) := by
  unfold opWait
  rw [hck, andThen_ok, if_neg (Bool.eq_false_iff.mp ho), hr, andThen_ok, State.low, ← two_pow_bytes]
  rfl

theorem deadline_eq (s : State) (gt : BitVec 6) : s.deadline gt =
    if (s.getG gt).toNat % 2 ^ 32 = 0 then none else some ((s.tower s.myTower).cycle + (s.getG gt).toNat % 2 ^ 32) := by
  simp only [State.deadline, bitsNat, pow_zero, Nat.div_one]

end

end Sys2Proof.Machine

open Sys2Proof Sys2Proof.Machine

/-- Settles O22: LDA is a read at its place, STL the write of a release, FENCE a release and an acquire. -/
theorem acquireRelease : Obligations.AcquireRelease := by
  unfold Obligations.AcquireRelease
  intro s v u sc size sig d a ea pa n pl o bs hn hea
  refine ⟨fun hok hc => congrArg _ (opLda_scratch hn hea hok hc), fun hck ho hr => ⟨congrArg Host.Outcome.next ?load, readHome_place hr⟩,
    fun hok => ⟨_, congrArg _ (opStl_scratch hn hea hok), rfl, ?stored⟩, fun hck hr => ?store, fun hu => ?fence⟩
  case load =>
    rw [show (ea : Int) = s.ptr a from hea] at hck
    exact opLda_home hn hck ho hr
  case stored => exact storedAt_msets ..
  case store =>
    rw [show (ea : Int) = s.ptr a from hea] at hck
    obtain ⟨hs, hme⟩ := released_stores (o' := o) hr (leBytes_length n (s.getG d).toNat) sig
    exact ⟨_, congrArg _ (opStl_released hn hck hr), hme, hs⟩
  case fence =>
    have hrun : exec (.fence sc) s = .next ((s.release sc).andThen fun _ t => (t.acquire sc).advance 4) := rfl
    intro there
    rw [hrun]
    refine ⟨fun hall ha => ?_, fun hall h3 ha => ?_, fun hleft => ?_⟩
    · rw [release_done hu ((drainedAt_iff u sc).mpr hall) ha]
      rfl
    · rw [release_clock hu ((drainedAt_iff u sc).mpr hall) h3 ha]
      rfl
    · rw [release_drain hu ((drainedAt_eq_false u sc).mpr hleft)]
      rfl

/-- Settles O23: WAIT arms its monitor for the word that it has read, and completes or parks. -/
theorem waits : Obligations.Waits := by
  unfold Obligations.Waits
  intro s u gt b a ea n pa o bs i hi hea hck ho hr v t
  have hrun : exec i s = .next (opWait n gt a b s) := by obtain ⟨rfl, rfl⟩ | ⟨rfl, rfl⟩ := hi <;> rfl
  rw [show (ea : Int) = s.ptr a from hea] at hck
  rw [hrun, opWait_read hck ho hr]
  refine ⟨fun hne => congrArg _ (if_pos hne), fun heq => congrArg _ ?_⟩
  rw [deadline_eq]
  exact if_neg (not_not.mpr heq)
end

section
/-! PROOFS. Meets and keys (13 R202-R206, R212-R214; 01 R25): first what a pigeonhole takes and what is held at it, then how a slot takes a meet, and
last what a home does with its keys. -/

namespace Sys2Proof.Machine

/-! ## What does not touch a tower -/

theorem RaisesTo.tower {s t : State} (h : RaisesTo s t) (n : Nat) : t.tower n = s.tower n := by
  obtain ⟨l, rfl⟩ := h
  rfl

theorem tower_setTower_ne (s : State) {t n : Nat} (x : Tower) (h : n % 4 ≠ t % 4) : (s.setTower t x).tower n = s.tower n :=
  Vector.getElem_set_ne (Nat.mod_lt _ (by decide)) (Nat.mod_lt _ (by decide)) h.symm

theorem overflow_tower (s : State) (t i n : Nat) : (s.overflow t i).tower n = s.tower n := by
  unfold State.overflow
  dsimp only
  split <;> rfl

theorem offer_raises (s : State) (k : Option SlotKey) : RaisesTo s (s.offer k) := by
  cases k with
  | none => exact .refl s
  | some k => exact .raise ..

/-! ## Pigeonholes (R202, R203) -/

theorem pigeonPut_tower (s : State) (t : Nat) (m : MeetRec) :
    (s.pigeonPut t m).tower t = { s.tower t with pigeon := (s.tower t).pigeon ++ [m] } := by
  unfold State.pigeonPut
  dsimp only
  split
  · rw [overflow_tower, tower_setTower]
  · exact tower_setTower ..

theorem pigeonFault_enters {s : State} {t : Nat} (h : (s.tower t).heldFault = [] ∧ (s.tower t).pfault.length < (s.tower t).pigeonCap 8)
    (f : PigeonFault) : (s.pigeonFault t f).tower t = { s.tower t with pfault := (s.tower t).pfault ++ [f] } := by
  unfold State.pigeonFault
  dsimp only
  rw [if_pos h]
  split
  · rw [overflow_tower, tower_setTower]
  · exact tower_setTower ..

theorem pigeonFault_held {s : State} {t : Nat} (h : ¬ ((s.tower t).heldFault = [] ∧ (s.tower t).pfault.length < (s.tower t).pigeonCap 8))
    (f : PigeonFault) : (s.pigeonFault t f).tower t = { s.tower t with heldFault := (s.tower t).heldFault ++ [f] } := by
  unfold State.pigeonFault
  dsimp only
  rw [if_neg h, overflow_tower, tower_setTower]

/-! ## A meet on its way (R202, R203) -/

theorem meetEnqueue_unsent {s : State} {asid x y : Nat} (h : ∀ c, Raised.meetEnqueue asid c x y ∉ s.raised) :
    exec (.meetEnqueue asid x y) s = .next s := by
  show execMeetEnqueue asid x y s = _
  rw [execMeetEnqueue, takeMeet_unsent h]

theorem meetEnqueue_sent (s : State) (asid core x y : Nat) :
    exec (.meetEnqueue asid x y) { s with raised := .meetEnqueue asid core x y :: s.raised } = .next (opMeetEnqueue asid core x y s) := by
  show execMeetEnqueue asid x y _ = _
  rw [execMeetEnqueue, takeMeet_sent]

section
variable {s u : State} {asid core x y : Nat} {a b : BitVec 12} {e : RuleEntry}

theorem opMeetEnqueue_pinned (h : s.kindsOf (s.agentTower asid x) asid core x y = .wait u) :
    opMeetEnqueue asid core x y s = u.raise (.meetEnqueue asid core x y) := by
  unfold opMeetEnqueue
  simp only [h]

theorem opMeetEnqueue_unruled (h : s.kindsOf (s.agentTower asid x) asid core x y = .ok (a, b) u)
    (hr : findRule (u.published (s.agentTower asid x) asid) a b = none) :
    opMeetEnqueue asid core x y s = u.pigeonFault (s.agentTower asid x) (.meet asid x y 0x0F (kindsInfo a b)) := by
  unfold opMeetEnqueue
  simp only [h, hr]

/-- A meet with an entry goes to its pigeonhole where that has room and none waits for it, and is held behind the others where not. -/
theorem opMeetEnqueue_ruled (h : s.kindsOf (s.agentTower asid x) asid core x y = .ok (a, b) u)
    (hr : findRule (u.published (s.agentTower asid x) asid) a b = some e) :
    (opMeetEnqueue asid core x y s).tower (s.agentTower asid x) =
      let w := u.tower (s.agentTower asid x)
      let m : MeetRec := ⟨asid, core, x, y, e.stage, e.prio, u.nextId⟩
      if w.hasRoom e.stage = true ∧ ∀ r ∈ w.heldEnq, r.stage ≠ e.stage then { w with pigeon := w.pigeon ++ [m] }
      else { w with heldEnq := w.heldEnq ++ [m] } := by
  have hiff : ((u.tower (s.agentTower asid x)).hasRoom e.stage && (u.tower (s.agentTower asid x)).heldEnq.all (·.stage ≠ e.stage)) = true ↔
      (u.tower (s.agentTower asid x)).hasRoom e.stage = true ∧ ∀ r ∈ (u.tower (s.agentTower asid x)).heldEnq, r.stage ≠ e.stage := by
    simp only [Bool.and_eq_true, List.all_eq_true, decide_eq_true_eq]
  unfold opMeetEnqueue
  simp only [h, hr]
  by_cases hroom : (u.tower (s.agentTower asid x)).hasRoom e.stage = true ∧ ∀ r ∈ (u.tower (s.agentTower asid x)).heldEnq, r.stage ≠ e.stage
  · rw [if_pos hroom]
    refine (congrArg (State.tower · _) (if_pos (hiff.mpr hroom))).trans ?_
    rw [(offer_raises ..).tower, pigeonPut_tower]
    rfl
  · rw [if_neg hroom]
    refine (congrArg (State.tower · _) (if_neg (mt hiff.mp hroom))).trans ?_
    rw [overflow_tower, tower_setTower]
    rfl

end

/-! ## What is held at a pigeonhole (R203) -/

/-- What stands at a tower's pigeonholes. -/
def Tower.queues (x : Tower) : List MeetRec × List MeetRec × List PigeonFault × List PigeonFault := (x.pigeon, x.heldEnq, x.pfault, x.heldFault)

theorem enlarge_queues (s : State) (t : Nat) : ((s.enlarge t).tower t).queues = (s.tower t).queues := by
  unfold State.enlarge
  refine foldl_keeps (p := fun u : State => (u.tower t).queues) (fun u i => ?_) _ s
  dsimp only
  split
  · rw [tower_setTower]
    rfl
  · rfl

/-- The tower once the Courier firmware, where it acts, has answered its overflow records. -/
def State.ringsAnswered (s : State) (t : Nat) : Tower := (s.byFirmware (·.enlarge t)).tower t

theorem ringsAnswered_eq (s : State) (t : Nat) : s.ringsAnswered t = if s.phase = 0xF then s.tower t else (s.enlarge t).tower t :=
  apply_ite (State.tower · t) ..

theorem ringsAnswered_queues (s : State) (t : Nat) : (s.ringsAnswered t).queues = (s.tower t).queues := by
  rw [ringsAnswered_eq]
  split
  · rfl
  · exact enlarge_queues s t

theorem opHeldEnqueueEntry_enters {s : State} {t : Fin 4} {m : MeetRec}
    (h : (s.ringsAnswered t.val).heldEnq.find? (fun r => (s.ringsAnswered t.val).hasRoom r.stage) = some m) :
    (opHeldEnqueueEntry t s).tower t.val =
      { s.ringsAnswered t.val with heldEnq := (s.ringsAnswered t.val).heldEnq.erase m, pigeon := (s.ringsAnswered t.val).pigeon ++ [m] } := by
  unfold State.ringsAnswered at h ⊢
  unfold opHeldEnqueueEntry
  simp only [h]
  rw [(RaisesTo.raise ..).tower, pigeonPut_tower, tower_setTower]

theorem opHeldEnqueueEntry_faults {s : State} {t : Fin 4} {f : PigeonFault} {fs : List PigeonFault}
    (h : (s.ringsAnswered t.val).heldEnq.find? (fun r => (s.ringsAnswered t.val).hasRoom r.stage) = none)
    (hf : (s.ringsAnswered t.val).heldFault = f :: fs) (hl : (s.ringsAnswered t.val).pfault.length < (s.ringsAnswered t.val).pigeonCap 8) :
    (opHeldEnqueueEntry t s).tower t.val =
      { s.ringsAnswered t.val with heldFault := fs, pfault := (s.ringsAnswered t.val).pfault ++ [f] } := by
  unfold State.ringsAnswered at h hf hl ⊢
  unfold opHeldEnqueueEntry
  simp only [h, hf, if_pos hl]
  rw [(RaisesTo.raise ..).tower, tower_setTower]

/-! ## A slot takes a meet (R204, R205; 01 R25; 03 R49) -/

/-- A new task stands in its slot with the registers that `f` gives it, and with frames that were free. -/
theorem placeNew_ctx (s : State) (k : SlotKey) (asid tid : Nat) (gid : Option Nat) (sh : Shape) (pc : Addr) (keys : List Nat) (f : Ctx → Ctx) :
    ∃ (c : Ctx) (frames : List Nat), (s.placeNew k asid tid gid sh pc keys f).ctx k = { f c with frames := frames } ∧
      c.run = .running ∧ c.pc = pc ∧ c.asid = asid ∧ c.gid = gid :=
  ⟨_, _, ((placeCtx_tasks ..).ctx k).trans (ctx_setCtx ..), rfl, rfl, rfl, rfl⟩

/-- A context runs the code of a meet's entry, with the meet's agents in g8 and g9. -/
def Ctx.RunsMeet (c : Ctx) (m : MeetRec) (e : RuleEntry) : Prop :=
  c.run = .running ∧ c.pc = e.code ∧ c.getG 8 = BitVec.ofNat 64 m.x ∧ c.getG 9 = BitVec.ofNat 64 m.y ∧ c.asid = m.asid

theorem placeMeet_runs (s : State) (k : SlotKey) (id : Nat) (m : MeetRec) (e : RuleEntry) (keys : List Nat) :
    ((s.placeMeet k id m e keys).ctx k).RunsMeet m e := by
  obtain ⟨c, frames, h, hrun, hpc, hasid, -⟩ := placeNew_ctx s k m.asid id none e.shape e.code keys
    fun c => (c.setG 8 (BitVec.ofNat 64 m.x)).setG 9 (BitVec.ofNat 64 m.y)
  rw [State.placeMeet, h]
  refine ⟨hrun, hpc, ?_, Ctx.getG_setG _ _ (by decide), hasid⟩
  exact (Ctx.getG_setG_ne _ _ (by decide)).trans (Ctx.getG_setG _ _ (by decide))

section
variable {s u : State} {k : SlotKey} {m : MeetRec} {e : RuleEntry}

/-- A meet whose entry declares no key is placed at once. -/
theorem bindMeet_keyless {t : Nat} {a b : BitVec 12} (hr : findRule (s.published t m.asid) a b = some e) (hn : e.nkeys = 0)
    (ht : s.slotTakes k e.shape = true) : ((s.bindMeet k t m a b).ctx k).RunsMeet m e := by
  have hpay : s.payload t m e = .ok [] s := by
    unfold State.payload
    rw [hn]
    rfl
  have hkeys (p : Word) : recipeKeys e.nkeys e.keys p = [] := by rw [hn]; rfl
  unfold State.bindMeet
  simp only [hr, hpay, hkeys, ht]
  exact placeMeet_runs ..

theorem dequeueMeet_keyless {t : Nat} {a b : BitVec 12} (hk : s.kindsOf t m.asid m.core m.x m.y = .ok (a, b) u)
    (hr : findRule (u.published t m.asid) a b = some e) (hn : e.nkeys = 0) (ht : u.slotTakes k e.shape = true) :
    ((s.dequeueMeet k t m).ctx k).RunsMeet m e := by
  unfold State.dequeueMeet
  simp only [hk]
  split
  · exact bindMeet_keyless hr hn ht
  · exact bindMeet_keyless hr hn ht

/-- A free slot of an open core, for which no suspended task is to be restored, takes the best work there is. -/
theorem opSlotFill_unit {x : KeyUnit} (hf : s.slotFree k = true) (ho : s.coreOpen (coreOfKey k) = true) (hr : s.restoreFor (coreOfKey k) = none)
    (hb : s.bestWork (coreOfKey k) = some (.unit x m e)) (ht : s.slotTakes k e.shape = true) :
    opSlotFill k s = (s.placeUnit k x m e).raise (.slotFill k) := by
  unfold opSlotFill
  simp only [hf, ho, hr, hb, ht, Bool.not_true, Bool.or_self, Bool.false_eq_true, if_false, if_true]

theorem opSlotFill_meet (hf : s.slotFree k = true) (ho : s.coreOpen (coreOfKey k) = true) (hr : s.restoreFor (coreOfKey k) = none)
    (hb : s.bestWork (coreOfKey k) = some (.meet m)) :
    opSlotFill k s = (s.dequeueMeet k (s.towerOf (coreOfKey k)) m).raise (.slotFill k) := by
  unfold opSlotFill
  simp only [hf, ho, hr, hb, Bool.not_true, Bool.or_self, Bool.false_eq_true, if_false]

/-- A slot that has taken a meet is offered work again, if it is only to pass the offer on. -/
theorem raise_slotFill_runs (h : (s.ctx k).RunsMeet m e) :
    ((s.raise (.slotFill k)).ctx k).RunsMeet m e ∧ Raised.slotFill k ∈ (s.raise (.slotFill k)).raised := ⟨h, mem_raised_raise ..⟩

end

/-! ## Keys at their home (R212) -/

/-- The entry of a key in a tower's table. -/
def Tower.entryOf (x : Tower) (key : Nat) : Option KeyEntry := x.keys.find? (·.key == key)

theorem keyHolder_eq (s : State) (key : Nat) : s.keyHolder key = ((s.tower (keyHome key)).entryOf key).map (·.holder) := rfl

theorem keyHolder_setTower (s : State) (key : Nat) (x : Tower) : (s.setTower (keyHome key) x).keyHolder key = (x.entryOf key).map (·.holder) := by
  rw [keyHolder_eq, tower_setTower]

/-- A table that keeps a key's holder leaves it the holder. -/
theorem keyHolder_setTower_keeps {s : State} {t key : Nat} {x : Tower} {u : Nat} (h : s.keyHolder key = some u)
    (hx : ∀ e, (s.tower t).entryOf key = some e → ∃ e', x.entryOf key = some e' ∧ e'.holder = e.holder) :
    (s.setTower t x).keyHolder key = some u := by
  by_cases ht : keyHome key % 4 = t % 4
  · have hs : s.tower (keyHome key) = s.tower t := by simp only [State.tower, ht]
    have hset : s.setTower t x = s.setTower (keyHome key) x := by simp only [State.setTower, ht]
    rw [keyHolder_eq, hs, Option.map_eq_some_iff] at h
    obtain ⟨e, he, rfl⟩ := h
    obtain ⟨e', he', hh⟩ := hx e he
    rw [hset, keyHolder_setTower, he', Option.map_some, hh]
  · rw [keyHolder_eq, tower_setTower_ne s x ht]
    exact h

theorem find?_mapIf_key {f : KeyEntry → KeyEntry} (hf : ∀ e, (f e).key = e.key) (key j : Nat) (l : List KeyEntry) :
    (mapIf (·.key == key) f l).find? (·.key == j) = (l.find? (·.key == j)).map fun e => if j = key then f e else e := by
  have hp : ((fun e : KeyEntry => e.key == j) ∘ fun e => if (e.key == key) = true then f e else e) = fun e => e.key == j := by
    funext e
    dsimp only [Function.comp]
    split
    · rw [hf]
    · rfl
  rw [mapIf, List.find?_map, hp]
  cases h : l.find? (·.key == j) with
  | none => rfl
  | some e =>
    have hj : e.key = j := by simpa using List.find?_some h
    simp only [Option.map_some, hj, beq_iff_eq]

section
variable {s : State} {unit key : Nat} {e : KeyEntry}

/-- The table in which a unit has joined a key's queue. -/
def Tower.queued (x : Tower) (unit key : Nat) : Tower :=
  { x with keys := mapIf (·.key == key) (fun e => { e with waiters := e.waiters ++ [unit] }) x.keys }

theorem queued_entryOf (x : Tower) (unit key j : Nat) : (x.queued unit key).entryOf j =
    (x.entryOf j).map fun e => if j = key then { e with waiters := e.waiters ++ [unit] } else e :=
  find?_mapIf_key (f := fun e => { e with waiters := e.waiters ++ [unit] }) (fun _ => rfl) key j x.keys

theorem queued_length (x : Tower) (unit key : Nat) : (x.queued unit key).keys.length = x.keys.length := List.length_map ..

/-- The table with a new entry, of a key that a unit holds. -/
def Tower.granted (x : Tower) (unit key : Nat) : Tower := { x with keys := x.keys ++ [⟨key, unit, []⟩] }

theorem granted_entryOf_new {x : Tower} (unit : Nat) (h : x.entryOf key = none) : (x.granted unit key).entryOf key = some ⟨key, unit, []⟩ := by
  unfold Tower.entryOf Tower.granted at *
  rw [List.find?_append, h]
  simp

theorem granted_entryOf_old {x : Tower} (unit j : Nat) (h : x.entryOf key = some e) : (x.granted unit j).entryOf key = some e := by
  unfold Tower.entryOf Tower.granted at *
  rw [List.find?_append, h]
  rfl

/-! ## A request for a key (R212, R213) -/

theorem opKeyRequest_queues (h : (s.tower (keyHome key)).entryOf key = some e) :
    opKeyRequest unit key s = s.setTower (keyHome key) ((s.tower (keyHome key)).queued unit key) := by
  unfold Tower.entryOf at h
  unfold opKeyRequest
  simp only [h]
  rfl

theorem opKeyRequest_grants (h : (s.tower (keyHome key)).entryOf key = none) (hl : (s.tower (keyHome key)).keys.length < 8192) :
    opKeyRequest unit key s = (s.setTower (keyHome key) ((s.tower (keyHome key)).granted unit key)).raise (.keyGrant unit key) := by
  unfold Tower.entryOf at h
  unfold opKeyRequest
  simp only [h, if_pos hl]
  rfl

theorem opKeyRequest_waits (h : (s.tower (keyHome key)).entryOf key = none) (hl : 8192 ≤ (s.tower (keyHome key)).keys.length) :
    opKeyRequest unit key s = s.setTower (keyHome key)
      { s.tower (keyHome key) with keyWait := (s.tower (keyHome key)).keyWait ++ [(unit, key)] } := by
  unfold Tower.entryOf at h
  unfold opKeyRequest
  simp only [h, if_neg (Nat.not_lt.mpr hl)]

theorem opKeyRequest_queues_tower (unit : Nat) (h : (s.tower (keyHome key)).entryOf key = some e) :
    (opKeyRequest unit key s).tower (keyHome key) = (s.tower (keyHome key)).queued unit key := by
  rw [opKeyRequest_queues h, tower_setTower]

theorem opKeyRequest_grants_tower (unit : Nat) (h : (s.tower (keyHome key)).entryOf key = none) (hl : (s.tower (keyHome key)).keys.length < 8192) :
    (opKeyRequest unit key s).tower (keyHome key) = (s.tower (keyHome key)).granted unit key := by
  rw [opKeyRequest_grants h hl, (RaisesTo.raise ..).tower, tower_setTower]

/-- A request takes no key from its holder. -/
theorem opKeyRequest_keyHolder {j u : Nat} (h : s.keyHolder j = some u) : (opKeyRequest unit key s).keyHolder j = some u := by
  cases hk : (s.tower (keyHome key)).entryOf key with
  | some x =>
    rw [opKeyRequest_queues hk]
    refine keyHolder_setTower_keeps h fun e he => ⟨_, by rw [queued_entryOf, he, Option.map_some], ?_⟩
    split <;> rfl
  | none =>
    by_cases hl : (s.tower (keyHome key)).keys.length < 8192
    · rw [opKeyRequest_grants hk hl]
      exact keyHolder_setTower_keeps h fun e he => ⟨e, granted_entryOf_old unit key he, rfl⟩
    · rw [opKeyRequest_waits hk (Nat.not_lt.mp hl)]
      exact keyHolder_setTower_keeps h fun e he => ⟨e, he, rfl⟩

theorem asks_iff : s.asks unit key = true ↔ (∃ u, s.unitOf unit = some u ∧ u.need.head? = some key) ∧
    (unit, key) ∉ (s.tower (keyHome key)).keyWait ∧
    ∀ e ∈ (s.tower (keyHome key)).keys, e.key = key → e.holder ≠ unit ∧ unit ∉ e.waiters := by
  simp only [State.asks, Bool.and_eq_true, Option.any_eq_true, beq_iff_eq, Bool.not_eq_true', List.contains_eq_mem, decide_eq_false_iff_not,
    List.all_eq_true, Bool.or_eq_true, decide_eq_true_eq, and_assoc, imp_iff_not_or, ne_eq]

theorem keyRequest_asked (h : s.asks unit key = true) : exec (.keyRequest unit key) s = .next (opKeyRequest unit key s) :=
  congrArg Host.Outcome.next (if_pos h)

theorem keyRequest_unasked (h : ¬ s.asks unit key = true) : exec (.keyRequest unit key) s = .next s := congrArg Host.Outcome.next (if_neg h)

end

/-! ## Grant and release (R213, R214) -/

section
variable {s : State} {unit key w : Nat} {u : KeyUnit} {ks : List Nat} {e : KeyEntry}

theorem opKeyGrant_gone (h : s.unitOf unit = none) : opKeyGrant unit key s = s.raise (.keyRelease unit key) := by
  unfold opKeyGrant
  simp only [h]

theorem opKeyGrant_lost (h : s.unitOf unit = some u) (hk : s.keyHolder key ≠ some unit) : opKeyGrant unit key s = s := by
  unfold opKeyGrant
  simp only [h]
  split
  · rfl
  · exact if_pos (.inr hk)

/-- A unit that has been given a key asks for the next one. -/
theorem opKeyGrant_next (h : s.unitOf unit = some u) (hn : u.need = key :: w :: ks) (hk : s.keyHolder key = some unit) :
    opKeyGrant unit key s = ({ s with units := mapIf (·.id == unit) (fun _ => { u with need := w :: ks, held := u.held ++ [key] }) s.units } :
      State).raise (.keyRequest unit w) := by
  unfold opKeyGrant
  simp only [h, hn]
  exact if_neg (by simp [hk])

theorem unitOf_mapIf {u' : KeyUnit} (h : s.unitOf unit = some u) (hid : u'.id = unit) :
    ({ s with units := mapIf (·.id == unit) (fun _ => u') s.units } : State).unitOf unit = some u' :=
  find?_mapIf_const (p := fun x : KeyUnit => x.id == unit) (by simp [hid]) h

theorem unitOf_id (h : s.unitOf unit = some u) : u.id = unit := by
  unfold State.unitOf at h
  simpa using List.find?_some h

theorem keyRelease_given (s : State) (unit key : Nat) :
    exec (.keyRelease key) { s with raised := .keyRelease unit key :: s.raised } = .next (opKeyRelease unit key s) := by
  have htake : ({ s with raised := .keyRelease unit key :: s.raised } : State).takeRelease key = some (unit, s) := by
    simp [State.takeRelease, firstSome]
  show execKeyRelease key _ = _
  rw [execKeyRelease, htake]

theorem keyRelease_ungiven (h : ∀ n, Raised.keyRelease n key ∉ s.raised) : exec (.keyRelease key) s = .next s := by
  have htake : s.takeRelease key = none := by
    refine firstSome_none fun r hr => ?_
    split
    · next n k =>
      refine if_neg fun hk => ?_
      subst hk
      exact h n hr
    · rfl
  show execKeyRelease key s = _
  rw [execKeyRelease, htake]

theorem opKeyRelease_holder (h : s.keyHolder key = some unit) : opKeyRelease unit key s = s.releaseKey key := if_pos h

theorem opKeyRelease_other (h : s.keyHolder key ≠ some unit) : opKeyRelease unit key s = s := if_neg h

/-- A key that no unit waits for becomes free. -/
theorem releaseKey_frees (h : (s.tower (keyHome key)).entryOf key = some e) (hw : e.waiters = []) : (s.releaseKey key).keyHolder key = none := by
  have hfree : (s.setTower (keyHome key) { s.tower (keyHome key) with keys := (s.tower (keyHome key)).keys.filter (·.key ≠ key) }).keyHolder
      key = none := by
    rw [keyHolder_setTower, Option.map_eq_none_iff]
    exact List.find?_eq_none.mpr fun x hx => by simpa using (List.mem_filter.mp hx).2
  unfold Tower.entryOf at h
  unfold State.releaseKey
  simp only [h, hw]
  split
  · exact hfree
  · exact hfree

/-- A key that units wait for goes to the one that has waited longest. -/
theorem releaseKey_passes {ws : List Nat} (h : (s.tower (keyHome key)).entryOf key = some e) (hw : e.waiters = w :: ws) :
    (s.releaseKey key).keyHolder key = some w ∧ Raised.keyGrant w key ∈ (s.releaseKey key).raised := by
  have hrel : s.releaseKey key = (s.setTower (keyHome key) { s.tower (keyHome key) with
      keys := mapIf (·.key == key) (fun e => { e with holder := w, waiters := ws }) (s.tower (keyHome key)).keys }).raise (.keyGrant w key) := by
    unfold Tower.entryOf at h
    unfold State.releaseKey
    simp only [h, hw]
  have hkeys := find?_mapIf_key (f := fun e => { e with holder := w, waiters := ws }) (fun _ => rfl) key key (s.tower (keyHome key)).keys
  rw [hrel]
  refine ⟨?_, mem_raised_raise ..⟩
  refine (keyHolder_setTower ..).trans ?_
  unfold Tower.entryOf at h ⊢
  rw [hkeys, h]
  simp

end

/-! ## Requests that wait at a full table (R212) -/

section
variable {s : State} {t unit key : Nat} {rest : List (Nat × Nat)}

/-- The tower at whose table other requests wait. -/
def Tower.awaited (x : Tower) (l : List (Nat × Nat)) : Tower := { x with keyWait := l }

theorem awaited_entryOf (x : Tower) (l : List (Nat × Nat)) (key : Nat) : (x.awaited l).entryOf key = x.entryOf key := rfl

/-- The state in which the first request that waits at a tower's table no longer waits. -/
def State.unqueued (s : State) (t : Nat) (rest : List (Nat × Nat)) : State := s.setTower t ((s.tower t).awaited rest)

theorem unqueued_tower (s : State) (t : Nat) (rest : List (Nat × Nat)) : (s.unqueued t rest).tower t = (s.tower t).awaited rest :=
  tower_setTower ..

theorem unqueued_keyHolder {j u : Nat} (h : s.keyHolder j = some u) : (s.unqueued t rest).keyHolder j = some u :=
  keyHolder_setTower_keeps h fun e he => ⟨e, he, rfl⟩

theorem serveWaiting_room (h : (s.tower t).keyWait = (unit, key) :: rest) (hl : (s.tower t).keys.length < 8192) (n : Nat) :
    s.serveWaiting t (n + 1) = (opKeyRequest unit key (s.unqueued t rest)).serveWaiting t n := by
  rw [State.serveWaiting]
  simp only [h, if_pos hl]
  rfl

theorem serveWaiting_full (hl : 8192 ≤ (s.tower t).keys.length) : ∀ n, s.serveWaiting t n = s
  | 0 => rfl
  | n + 1 => by
    rw [State.serveWaiting]
    split
    · rfl
    · exact if_neg (Nat.not_lt.mpr hl)

/-- No request that proceeds takes a key from its holder. -/
theorem serveWaiting_keyHolder {j u : Nat} : ∀ (n : Nat) {s : State}, s.keyHolder j = some u → (s.serveWaiting t n).keyHolder j = some u
  | 0, _, h => h
  | n + 1, s, h => by
    rw [State.serveWaiting]
    split
    · exact h
    · split
      · exact serveWaiting_keyHolder n (opKeyRequest_keyHolder (unqueued_keyHolder h))
      · exact h

/-- The first request that waits is for a key that is free. -/
theorem opKeyTableEntryFree_grants {t : Fin 4} (ht : t.val = keyHome key) (hq : (s.tower (keyHome key)).keyWait = (unit, key) :: rest)
    (hk : (s.tower (keyHome key)).entryOf key = none) (hl : (s.tower (keyHome key)).keys.length < 8192) :
    (opKeyTableEntryFree t s).keyHolder key = some unit ∧
      (rest = [] ∨ (s.tower (keyHome key)).keys.length = 8191 → ((opKeyTableEntryFree t s).tower (keyHome key)).keyWait = rest) := by
  have hop : opKeyTableEntryFree t s = (opKeyRequest unit key (s.unqueued (keyHome key) rest)).serveWaiting (keyHome key) rest.length := by
    rw [opKeyTableEntryFree, ht, hq, List.length_cons, serveWaiting_room hq hl]
  have htower : (opKeyRequest unit key (s.unqueued (keyHome key) rest)).tower (keyHome key) =
      ((s.tower (keyHome key)).awaited rest).granted unit key := by
    rw [← unqueued_tower]
    exact opKeyRequest_grants_tower unit (by rw [unqueued_tower]; exact hk) (by rw [unqueued_tower]; exact hl)
  rw [hop]
  refine ⟨serveWaiting_keyHolder _ ?_, ?_⟩
  · rw [keyHolder_eq, htower, granted_entryOf_new unit ((awaited_entryOf ..).trans hk), Option.map_some]
  · rintro (rfl | hfull)
    · exact congrArg Tower.keyWait htower
    · have hlen : 8192 ≤ ((opKeyRequest unit key (s.unqueued (keyHome key) rest)).tower (keyHome key)).keys.length := by
        rw [htower, Tower.granted, List.length_append, Tower.awaited, hfull, List.length_singleton]
      rw [serveWaiting_full hlen, htower]
      rfl

/-- The first request that waits joins a queue, which uses no entry, and the next is for a key that is free. -/
theorem opKeyTableEntryFree_next {t : Fin 4} {u2 k2 : Nat} {e : KeyEntry} (ht : t.val = keyHome key) (ht2 : t.val = keyHome k2)
    (hq : (s.tower (keyHome key)).keyWait = [(unit, key), (u2, k2)]) (hk : (s.tower (keyHome key)).entryOf key = some e)
    (hk2 : (s.tower (keyHome key)).entryOf k2 = none) (hl : (s.tower (keyHome key)).keys.length < 8192) :
    (opKeyTableEntryFree t s).keyHolder k2 = some u2 ∧ ((opKeyTableEntryFree t s).tower (keyHome key)).keyWait = [] ∧
      ((opKeyTableEntryFree t s).tower (keyHome key)).entryOf key = some { e with waiters := e.waiters ++ [unit] } := by
  have hhome : keyHome k2 = keyHome key := ht2.symm.trans ht
  let s1 := opKeyRequest unit key (s.unqueued (keyHome key) [(u2, k2)])
  let x1 := ((s.tower (keyHome key)).awaited [(u2, k2)]).queued unit key
  have hs1 : s1.tower (keyHome key) = x1 := by
    refine (opKeyRequest_queues_tower (e := e) unit ?_).trans ?_ <;> rw [unqueued_tower]
    exact hk
  have hl1 : x1.keys.length < 8192 := by rw [queued_length]; exact hl
  have hentry : x1.entryOf key = some { e with waiters := e.waiters ++ [unit] } := by
    rw [queued_entryOf, awaited_entryOf, hk, Option.map_some, if_pos rfl]
  have hentry2 : x1.entryOf k2 = none := by rw [queued_entryOf, awaited_entryOf, hk2, Option.map_none]
  have hs2 : (opKeyRequest u2 k2 (s1.unqueued (keyHome key) [])).tower (keyHome key) = (x1.awaited []).granted u2 k2 := by
    rw [← hhome] at hs1 ⊢
    rw [← hs1, ← unqueued_tower]
    refine opKeyRequest_grants_tower u2 ?_ ?_ <;> rw [unqueued_tower, hs1]
    exacts [hentry2, hl1]
  have hop : opKeyTableEntryFree t s = opKeyRequest u2 k2 (s1.unqueued (keyHome key) []) := by
    rw [opKeyTableEntryFree, ht, hq, List.length_cons, serveWaiting_room hq hl, List.length_singleton,
      serveWaiting_room (s := s1) (by rw [hs1]; rfl) (by rw [hs1]; exact hl1), State.serveWaiting]
  rw [hop, keyHolder_eq, hhome, hs2, granted_entryOf_new u2 ((awaited_entryOf ..).trans hentry2),
    granted_entryOf_old u2 k2 ((awaited_entryOf ..).trans hentry)]
  exact ⟨rfl, rfl, rfl⟩

end

end Sys2Proof.Machine

open Sys2Proof Sys2Proof.Machine

/-- Settles O46: each clause is what one step does, by that step's own lemma. -/
theorem meetsAndKeys : Obligations.MeetsAndKeys := by
  unfold Obligations.MeetsAndKeys
  intro s s1 asid core x y k unit u2 key k2 w ka kb e m u t4 ks ws ent rest f fs tw home x4 grown given asked fault record sent asks next placed
  have hasks : s.asks unit key = true ↔ asks := asks_iff
  have hgrown : s.ringsAnswered t4.val = grown := ringsAnswered_eq s t4.val
  have hqueues := ringsAnswered_queues s t4.val
  rw [hgrown] at hqueues
  simp only [Tower.queues, Prod.mk.injEq] at hqueues
  obtain ⟨hpigeon, henq, hpfault, hfault⟩ := hqueues
  refine ⟨meetEnqueue_unsent, fun hk => ?pinned, fun hk hr => ?unruled, fun hk hr => ?ruled, fun hm => ?enters, fun hm hf hl => ?faults,
    fun ⟨hfree, hopen, hrest⟩ hb ht => ?unit, fun ⟨hfree, hopen, hrest⟩ hb hk hr hn ht => ?meet, fun ha => keyRequest_unasked (mt hasks.mp ha),
    fun ha hk hl => ?granted, fun ha hk hl => ?full, fun ha hk => ?queued, fun hu => congrArg Host.Outcome.next (opKeyGrant_gone hu),
    fun hu _ hk => congrArg Host.Outcome.next (opKeyGrant_lost hu hk), fun hu hn hk => ?nextKey, fun hk hh hw => ?frees, fun hk hh hw => ?passes,
    fun hk => ?other, keyRelease_ungiven, fun ht hq hk hl => ?room, fun ht ht2 hq hk hk2 hl => ?rooms⟩
  case pinned => exact (meetEnqueue_sent s asid core x y).trans (congrArg _ (opMeetEnqueue_pinned hk))
  case unruled =>
    refine ⟨_, meetEnqueue_sent s asid core x y, fun he hl => ?_, fun hn => ?_⟩
    · rw [opMeetEnqueue_unruled hk hr, pigeonFault_enters ⟨he, hl⟩]
      rfl
    · rw [opMeetEnqueue_unruled hk hr, pigeonFault_held hn]
      rfl
  case ruled =>
    have htower := opMeetEnqueue_ruled hk hr
    refine ⟨_, meetEnqueue_sent s asid core x y, fun hroom hnone => ?_, fun hfull => ?_⟩
    · exact congrArg Tower.pigeon (htower.trans (if_pos ⟨hroom, hnone⟩))
    · refine congrArg Tower.heldEnq (htower.trans (if_neg ?_))
      rintro ⟨hroom, hnone⟩
      obtain hno | ⟨r, hr, hst⟩ := hfull
      · exact absurd hroom (by rw [hno]; decide)
      · exact hnone r hr hst
  case enters =>
    have htower := opHeldEnqueueEntry_enters (s := s) (t := t4) (m := m) (by rw [hgrown, henq]; exact hm)
    rw [hgrown, henq, hpigeon] at htower
    exact ⟨opHeldEnqueueEntry t4 s, rfl, congrArg Tower.pigeon htower, congrArg Tower.heldEnq htower⟩
  case faults =>
    have htower := opHeldEnqueueEntry_faults (s := s) (t := t4) (f := f) (fs := fs) (by rw [hgrown, henq]; exact hm)
      (by rw [hgrown, hfault]; exact hf) (by rw [hgrown, hpfault]; exact hl)
    rw [hgrown, hpfault] at htower
    exact ⟨opHeldEnqueueEntry t4 s, rfl, congrArg Tower.pfault htower, congrArg Tower.heldFault htower⟩
  case unit =>
    obtain ⟨⟨hrun, hpc, hx, hy, hasid⟩, hraised⟩ := raise_slotFill_runs (s := s.placeUnit k u m e) (placeMeet_runs ..)
    rw [← opSlotFill_unit hfree hopen hrest hb ht] at hrun hpc hx hy hasid hraised
    exact ⟨opSlotFill k s, rfl, hrun, hpc, hx, hy, hasid, hraised⟩
  case meet =>
    obtain ⟨⟨hrun, hpc, hx, hy, hasid⟩, hraised⟩ := raise_slotFill_runs (dequeueMeet_keyless hk hr hn ht)
    rw [← opSlotFill_meet hfree hopen hrest hb] at hrun hpc hx hy hasid hraised
    exact ⟨opSlotFill k s, rfl, hrun, hpc, hx, hy, hasid, hraised⟩
  case granted =>
    refine ⟨_, keyRequest_asked (hasks.mpr ha), ?_⟩
    rw [opKeyRequest_grants hk hl]
    refine ⟨(keyHolder_setTower ..).trans ?_, mem_raised_raise ..⟩
    rw [granted_entryOf_new unit hk, Option.map_some]
  case full =>
    refine ⟨_, keyRequest_asked (hasks.mpr ha), ?_⟩
    rw [opKeyRequest_waits hk hl, tower_setTower, keyHolder_setTower]
    exact ⟨rfl, congrArg (Option.map _) hk⟩
  case queued =>
    refine ⟨_, keyRequest_asked (hasks.mpr ha), ?_⟩
    rw [opKeyRequest_queues hk, tower_setTower]
    refine (queued_entryOf ..).trans ?_
    exact (congrArg _ hk).trans (congrArg some (if_pos rfl))
  case nextKey =>
    refine ⟨_, congrArg Host.Outcome.next (opKeyGrant_next hu hn hk), ?_, mem_raised_raise ..⟩
    exact unitOf_mapIf hu (unitOf_id (u := u) hu)
  case frees =>
    refine ⟨_, keyRelease_given s unit key, ?_⟩
    rw [opKeyRelease_holder (by rw [keyHolder_eq]; exact (congrArg _ hk).trans (congrArg some hh))]
    exact releaseKey_frees hk hw
  case passes =>
    refine ⟨_, keyRelease_given s unit key, ?_⟩
    rw [opKeyRelease_holder (by rw [keyHolder_eq]; exact (congrArg _ hk).trans (congrArg some hh))]
    exact releaseKey_passes hk hw
  case other => exact (keyRelease_given s unit key).trans (congrArg _ (opKeyRelease_other hk))
  case room =>
    refine ⟨opKeyTableEntryFree t4 s, rfl, ?_⟩
    rw [ht]
    exact opKeyTableEntryFree_grants ht hq hk hl
  case rooms =>
    refine ⟨opKeyTableEntryFree t4 s, rfl, ?_⟩
    rw [ht]
    exact opKeyTableEntryFree_next ht ht2 hq hk hk2 hl

end

section
/-! PROOFS. Groups, successors, the governor and publication (13 R209-R211, R213, R215, R219, R221; 01 R25; 03 R53; 14 R232, R236, R240). -/

namespace Sys2Proof.Machine

/-! ## A launch's next group (R209-R211, R213; 01 R25) -/

section
variable {s : State} {l : Launch} {u n : Nat}

/-- A launch whose next group has no unit yet starts one, that asks for the group's lowest key. -/
theorem opGroupPlacement_acquires {key : Nat} {ks : List Nat} (h : s.launches.find? (·.id == l.id) = some l) (hu : l.unit = none)
    (hk : recipeKeys l.desc.nkeys l.desc.keys (l.keyarg + BitVec.ofNat 64 l.next) = key :: ks) :
    opGroupPlacement l.id s =
      ({ s with launches := mapIf (·.id == l.id) (fun _ => { l with unit := some s.nextId }) s.launches } : State).startUnit l.tower
        (.group l.id l.next) (key :: ks) := by
  unfold opGroupPlacement
  simp only [h, hu, hk]

theorem opGroupPlacement_ready (h : s.launches.find? (·.id == l.id) = some l) (hu : l.unit = some u) (hr : s.groupReady l = true) :
    opGroupPlacement l.id s = s.tryGroup l := by
  unfold opGroupPlacement
  simp only [h, hu, if_pos hr]

theorem tryGroup_places (hu : l.unit = some u) (hp : s.findPosition l = some n) (hc : ∀ c ∈ l.cores n, s.outranked l c = false) :
    s.tryGroup l = s.placeGroup l u n := by
  have hnone : (l.cores n).filter (s.outranked l) = [] := List.filter_eq_nil_iff.mpr fun c h => by rw [hc c h]; decide
  unfold State.tryGroup
  simp only [hu, hp, hnone]

/-- A core whose free slot goes to something else first keeps the group from its place. -/
theorem tryGroup_offers {c : Nat} (hu : l.unit = some u) (hp : s.findPosition l = some n) (hc : c ∈ l.cores n) (ho : s.outranked l c = true) :
    s.tryGroup l =
      s.raises (((l.cores n).filter (s.outranked l)).filterMap fun c => (s.slotFor c l.desc.shape).map Raised.slotFill) := by
  have hne : (l.cores n).filter (s.outranked l) ≠ [] := List.ne_nil_of_mem (List.mem_filter.mpr ⟨hc, ho⟩)
  obtain ⟨c', cs, hcs⟩ := List.exists_cons_of_ne_nil hne
  unfold State.tryGroup
  simp only [hu, hp, hcs]

theorem placeGroup_group (s : State) (l : Launch) (u n : Nat) : ∃ g, (s.placeGroup l u n).groups = s.groups ++ [g] ∧ g.desc = l.desc ∧
    g.index = l.next ∧ g.asid = l.asid ∧ g.args = l.args ∧ ∀ c ∈ l.cores n, Raised.groupDispatch g.gid c ∈ (s.placeGroup l u n).raised := by
  have hsent (t : State) (gid c : Nat) (h : c ∈ l.cores n) :
      Raised.groupDispatch gid c ∈ (t.raises ((l.cores n).map fun c => Raised.groupDispatch gid c)).raised :=
    List.mem_append_right _ (List.mem_map_of_mem h)
  unfold State.placeGroup
  dsimp only
  split
  · exact ⟨_, rfl, rfl, rfl, rfl, rfl, fun c h => hsent _ s.nextId c h⟩
  · exact ⟨_, rfl, rfl, rfl, rfl, rfl, fun c h => List.mem_append_left _ (hsent _ s.nextId c h)⟩

end

/-! ## Dispatch (R211, R221; 14 R236) -/

/-- The first registers of a group's task are all that is written of its context. -/
theorem launchRegs_keeps (p : Ctx → β) (hp : ∀ c g, p { c with g := g } = p c) (args : Vector Word 6) (i dx dy : Nat) (c : Ctx) :
    p (launchRegs args i dx dy c) = p c := by
  have hset (c : Ctx) (n : BitVec 6) (v : Word) : p (c.setG n v) = p c := by
    rw [c.setG_eq]
    exact hp ..
  simp only [launchRegs, hset]

theorem getG_frames (c : Ctx) (l : List Nat) (n : BitVec 6) : ({ c with frames := l } : Ctx).getG n = c.getG n := rfl

theorem launchRegs_getG (args : Vector Word 6) (i dx dy : Nat) (c : Ctx) :
    let r := launchRegs args i dx dy c
    r.getG 3 = args[0] ∧ r.getG 4 = args[1] ∧ r.getG 5 = args[2] ∧ r.getG 6 = args[3] ∧ r.getG 7 = args[4] ∧ r.getG 8 = args[5] ∧
      r.getG 9 = BitVec.ofNat 64 i := by
  simp (disch := decide) only [launchRegs, Ctx.getG_setG, Ctx.getG_setG_ne, and_self]

section
variable {s : State} {gid core : Nat} {k : SlotKey} {g : Group}

/-- The state in which a group's task has started in its slot. -/
def State.dispatched (s : State) (g : Group) (gid core : Nat) (k : SlotKey) : State :=
  ({ s with nextId := s.nextId + 1 } : State).placeNew k g.asid s.nextId (some gid) g.desc.shape g.desc.code (s.unitKeys g.unit)
    (launchRegs g.args g.index (coreX core - g.ox) (coreY core - g.oy))

theorem opGroupDispatch_eq (hg : s.groupOf gid = some g) (hr : s.reserved.find? (fun r => r.2 == gid && coreOfKey r.1 == core) = some (k, gid)) :
    opGroupDispatch gid core s = if (s.core core).stopped then s.raise (.groupDispatch gid core)
      else if s.coreLive core then s.dispatched g gid core k else s.dropDispatch k gid := by
  unfold opGroupDispatch
  simp only [hg, hr]
  rfl

theorem dispatched_ctx (s : State) (g : Group) (gid core : Nat) (k : SlotKey) :
    let c := (s.dispatched g gid core k).ctx k
    c.run = .running ∧ c.pc = g.desc.code ∧ c.getG 3 = g.args[0] ∧ c.getG 4 = g.args[1] ∧ c.getG 5 = g.args[2] ∧ c.getG 6 = g.args[3] ∧
      c.getG 7 = g.args[4] ∧ c.getG 8 = g.args[5] ∧ c.getG 9 = BitVec.ofNat 64 g.index ∧ c.gid = some gid := by
  obtain ⟨c, frames, h, hrun, hpc, -, hgid⟩ := placeNew_ctx { s with nextId := s.nextId + 1 } k g.asid s.nextId (some gid) g.desc.shape g.desc.code
    (s.unitKeys g.unit) (launchRegs g.args g.index (coreX core - g.ox) (coreY core - g.oy))
  obtain ⟨h3, h4, h5, h6, h7, h8, h9⟩ := launchRegs_getG g.args g.index (coreX core - g.ox) (coreY core - g.oy) c
  simp only [State.dispatched, h, getG_frames]
  exact ⟨(launchRegs_keeps Ctx.run (fun _ _ => rfl) ..).trans hrun, (launchRegs_keeps Ctx.pc (fun _ _ => rfl) ..).trans hpc, h3, h4, h5, h6, h7, h8,
    h9, (launchRegs_keeps Ctx.gid (fun _ _ => rfl) ..).trans hgid⟩

end

/-! ## Successors (R219; 03 R53) -/

/-- The slots that a group's tasks have been held in, under its successor. -/
def State.succeeded (s : State) (gid : Nat) (g : Group) (d : KDesc) : State :=
  (s.keys.filter fun k => (s.ctx k).gid == some gid && decide ((s.ctx k).run = .held)).foldl
    (fun t k => t.succSlot g g.desc d (s.unitKeys g.unit) k) (s.setGroup { g with desc := d, held := 0, succ := none })

section
variable {s : State} {gid : Nat} {g : Group} {d : KDesc} (hg : s.groupOf gid = some g) (hd : g.succ = some d)
include hg hd

/-- A successor waits for every task of its group, and for every key that it declares. -/
theorem opSuccessorStart_waits (h : g.broken = true ∨ g.held ≠ g.live ∨ ∃ k ∈ g.succKeys d, k ∉ s.unitKeys g.unit) :
    opSuccessorStart gid s = s := by
  have hwaits : (g.broken || decide (g.held ≠ g.live) || (g.succKeys d).any (!(s.unitKeys g.unit).contains ·)) = true := by
    simpa [or_assoc] using h
  unfold opSuccessorStart
  simp only [hg, hd]
  exact if_pos hwaits

/-- A key that it does not declare is still on its way back. -/
theorem opSuccessorStart_looksAgain (hb : g.broken = false) (hl : g.held = g.live) (hk : ∀ k ∈ g.succKeys d, k ∈ s.unitKeys g.unit)
    (hmore : ∃ k ∈ s.unitKeys g.unit, k ∉ g.succKeys d) : opSuccessorStart gid s = s.raise (.successorStart gid) := by
  have hready : ¬ (g.broken || decide (g.held ≠ g.live) || (g.succKeys d).any (!(s.unitKeys g.unit).contains ·)) = true := by
    simpa [hb, hl] using hk
  have hextra : (s.unitKeys g.unit).any (!(g.succKeys d).contains ·) = true := by simpa using hmore
  unfold opSuccessorStart
  simp only [hg, hd]
  exact (if_neg hready).trans (if_pos hextra)

theorem opSuccessorStart_starts (hb : g.broken = false) (hl : g.held = g.live) (hk : ∀ k, k ∈ g.succKeys d ↔ k ∈ s.unitKeys g.unit) :
    opSuccessorStart gid s = s.succeeded gid g d := by
  have hready : ¬ (g.broken || decide (g.held ≠ g.live) || (g.succKeys d).any (!(s.unitKeys g.unit).contains ·)) = true := by
    simpa [hb, hl] using fun k => (hk k).mp
  have hextra : ¬ (s.unitKeys g.unit).any (!(g.succKeys d).contains ·) = true := by simpa using fun k => (hk k).mpr
  unfold opSuccessorStart
  simp only [hg, hd]
  exact (if_neg hready).trans (if_neg hextra)

end

/-- The state in which a held slot has given up the tiles and the barrier objects that its successor does not inherit. -/
def State.shed (s : State) (m : KDesc) (k : SlotKey) : State :=
  let t := ((ownedAccs (s.ctx k)).filter fun i => !m.accBits.getLsbD i).foldl (fun s i => s.dropTile (tileOf (coreOfKey k) i)) s
  { t with bars := ((s.ctx k).bars.filter fun b => !m.bar b).foldl (fun t b => tdel t (coreOfKey k * 128 + b)) t.bars }

theorem shed_tasks (s : State) (m : KDesc) (k : SlotKey) : SameTasks s (s.shed m k) :=
  SameTasks.foldl (fun u i => (rfl : SameTasks u (u.dropTile (tileOf (coreOfKey k) i))))
    ((ownedAccs (s.ctx k)).filter fun i => !m.accBits.getLsbD i) s

/-- The barrier objects of a held slot's successor. -/
def State.succBarsOf (s : State) (m d : KDesc) (k : SlotKey) : List Nat := succBars m d (s.ctx k).bars ((s.shed m k).freeBars (coreOfKey k))

/-- The state in which the barrier objects that the successor does not inherit are its own. -/
def State.barred (s : State) (m d : KDesc) (k : SlotKey) : State :=
  (s.shed m k).takeBars (coreOfKey k) (s.ctx k).tid ((s.succBarsOf m d k).filter fun b => !((s.ctx k).bars.filter m.bar).contains b)

/-- The frames that a successor with more scratch pages gets beside those of its slot. -/
def State.succFrames (s : State) (m d : KDesc) (k : SlotKey) : List Nat :=
  (s.barred m d k).frameChoice (s.ctx k).homeTower (d.scratch - (s.ctx k).frames.length)

theorem succSlot_eq (s : State) (g : Group) (m d : KDesc) (keys : List Nat) (k : SlotKey) : s.succSlot g m d keys k =
    ((((((s.barred m d k).dropFrames ((s.ctx k).frames.drop d.scratch)).useFrames (s.succFrames m d k)).setCtx k
      { succCtx m d g (s.succBarsOf m d k) keys (s.ctx k) with frames := (s.ctx k).frames.take d.scratch ++ s.succFrames m d k }).repool
        (coreOfKey k)).acquireAll (coreOfKey k)).lookAgain := rfl

theorem takeBars_tasks (s : State) (core tid : Nat) (bars : List Nat) : SameTasks s (s.takeBars core tid bars) := rfl
theorem useFrames_tasks (s : State) (l : List Nat) : SameTasks s (s.useFrames l) := rfl
theorem lookAgain_tasks (s : State) : SameTasks s s.lookAgain := rfl
theorem dropFrames_tasks (s : State) (l : List Nat) : SameTasks s (s.dropFrames l) := rfl

/-- A successor's start changes the tasks by the context of its slot. -/
theorem succSlot_tasks (s : State) (g : Group) (m d : KDesc) (keys : List Nat) (k : SlotKey) : ∃ bars frames,
    SameTasks (s.setCtx k { succCtx m d g bars keys (s.ctx k) with frames := frames }) (s.succSlot g m d keys k) := by
  have hfitted : SameTasks s (((s.barred m d k).dropFrames ((s.ctx k).frames.drop d.scratch)).useFrames (s.succFrames m d k)) :=
    (shed_tasks s m k).trans ((takeBars_tasks ..).trans ((dropFrames_tasks ..).trans (useFrames_tasks ..)))
  rw [succSlot_eq]
  exact ⟨_, _, (hfitted.setCtx k _).trans ((repool_tasks ..).trans ((acquireAll_tasks ..).trans (lookAgain_tasks _)))⟩

theorem succCtx_shape (m d : KDesc) (g : Group) (bars keys : List Nat) (c : Ctx) : (succCtx m d g bars keys c).run = .running ∧
    (succCtx m d g bars keys c).pc = d.code ∧ (succCtx m d g bars keys c).regs = d.regs ∧ (succCtx m d g bars keys c).scratch = d.scratch := by
  unfold succCtx
  dsimp only
  split
  · exact ⟨rfl, rfl, rfl, rfl⟩
  · exact ⟨launchRegs_keeps Ctx.run (fun _ _ => rfl) .., launchRegs_keeps Ctx.pc (fun _ _ => rfl) ..,
      launchRegs_keeps Ctx.regs (fun _ _ => rfl) .., launchRegs_keeps Ctx.scratch (fun _ _ => rfl) ..⟩

/-- The only slot of a machine, held for its group's successor, runs it. -/
theorem succeeded_lone {s : State} {gid : Nat} {g : Group} (d : KDesc) (hg : s.groupOf gid = some g) (hs : s.slots = [])
    (hgid : s.me.gid = some gid) (hrun : s.me.run = .held) :
    (s.succeeded gid g d).me.run = .running ∧ (s.succeeded gid g d).me.pc = d.code ∧ (s.succeeded gid g d).me.regs = d.regs ∧
      (s.succeeded gid g d).me.scratch = d.scratch ∧ (s.succeeded gid g d).groupOf gid = some { g with desc := d, held := 0, succ := none } := by
  have hkeys : s.keys.filter (fun k => (s.ctx k).gid == some gid && decide ((s.ctx k).run = .held)) = [s.cur] := by
    rw [keys_lone hs, List.filter_singleton]
    simp [ctx_cur, hgid, hrun]
  obtain ⟨bars, frames, ht⟩ := succSlot_tasks (s.setGroup { g with desc := d, held := 0, succ := none }) g g.desc d (s.unitKeys g.unit) s.cur
  have hone : s.succeeded gid g d = (s.setGroup { g with desc := d, held := 0, succ := none }).succSlot g g.desc d (s.unitKeys g.unit) s.cur := by
    rw [State.succeeded, hkeys, List.foldl_cons, List.foldl_nil]
  have hgroup := groupOf_setGroup (g' := { g with desc := d, held := 0, succ := none }) hg (groupOf_gid (g := g) hg)
  rw [← hone] at ht
  have hme := ht.me.trans (congrArg State.me (setCtx_cur (s.setGroup { g with desc := d, held := 0, succ := none }) _))
  obtain ⟨hruns, hpc, hregs, hscratch⟩ := succCtx_shape g.desc d g bars (s.unitKeys g.unit)
    ((s.setGroup { g with desc := d, held := 0, succ := none }).ctx s.cur)
  rw [hme]
  exact ⟨hruns, hpc, hregs, hscratch, (ht.groupOf gid).trans ((groupOf_setCtx ..).trans hgroup)⟩

/-! ## The governor (R215) -/

/-- A class within its two levels keeps the cores as they are. -/
theorem govern_rests {s : State} {t i : Nat} (hi : i < 8) (hh : (s.tower t).occupancy (BitVec.ofNat 3 i) ≤ ((s.tower t).high[i]!).toNat)
    (hl : ((s.tower t).low[i]!).toNat ≤ (s.tower t).occupancy (BitVec.ofNat 3 i)) : s.govern t i = s := by
  rw [getElem!_pos (s.tower t).high i hi] at hh
  rw [getElem!_pos (s.tower t).low i hi] at hl
  unfold State.govern
  simp only [Nat.mod_eq_of_lt hi, if_neg (Nat.not_lt.mpr hh), if_neg (Nat.not_lt.mpr hl)]

/-- The core that a class above its high level is given. -/
def State.moved (s : State) (t cls c : Nat) : State :=
  (s.setCore c { s.core c with saved := some (s.core c).mask, mask := 1#8 <<< cls, movedTo := cls, movedAt := (s.tower t).cycle }).offerCore c

theorem govern_moves {s : State} {t cls c : Nat} (hi : cls < 8) (hh : ((s.tower t).high[cls]!).toNat < (s.tower t).occupancy (BitVec.ofNat 3 cls))
    (hc : s.movedFirst ((s.coresOf t).filter fun c => s.coreLive c && !(s.core c).serves (BitVec.ofNat 3 cls) && (s.core c).rested (s.tower t).cycle) =
      some c) : s.govern t cls = s.moved t cls c := by
  rw [getElem!_pos (s.tower t).high cls hi] at hh
  unfold State.govern
  simp only [Nat.mod_eq_of_lt hi, if_pos hh, hc]
  rfl

theorem opGovernorEvaluation_moves {s : State} {t : Fin 4} {cls c : Nat} (hi : cls < 8)
    (hrest : ∀ i < 8, i ≠ cls → (s.tower t.val).occupancy (BitVec.ofNat 3 i) ≤ ((s.tower t.val).high[i]!).toNat ∧
      ((s.tower t.val).low[i]!).toNat ≤ (s.tower t.val).occupancy (BitVec.ofNat 3 i))
    (hh : ((s.tower t.val).high[cls]!).toNat < (s.tower t.val).occupancy (BitVec.ofNat 3 cls))
    (hc : s.movedFirst ((s.coresOf t.val).filter fun c =>
      s.coreLive c && !(s.core c).serves (BitVec.ofNat 3 cls) && (s.core c).rested (s.tower t.val).cycle) = some c) :
    opGovernorEvaluation t s = s.moved t.val cls c := by
  have hrests (u : State) (hu : u.tower t.val = s.tower t.val) (i : Nat) (h : i ∈ List.range 8) (hne : i ≠ cls) : u.govern t.val i = u := by
    have h8 := List.mem_range.mp h
    obtain ⟨hhigh, hlow⟩ := hrest i h8 hne
    exact govern_rests h8 (by rw [hu]; exact hhigh) (by rw [hu]; exact hlow)
  have hmove := govern_moves hi hh hc
  rw [opGovernorEvaluation, ← hmove]
  exact foldl_once List.nodup_range (List.mem_range.mpr hi) (hrests s rfl) (by rw [hmove]; exact hrests _ rfl)

theorem moved_core (s : State) (t cls c : Nat) : (s.moved t cls c).core c =
    { s.core c with saved := some (s.core c).mask, mask := 1#8 <<< cls, movedTo := cls, movedAt := (s.tower t).cycle } :=
  core_setCore ..

theorem tower_of_towers {s t : State} (h : t.towers = s.towers) (n : Nat) : t.tower n = s.tower n := by
  simp only [State.tower, h]

/-! ## The answer of a tower (R232, R240) -/

section
variable {s : State} {k : SlotKey} {n : Nat}

theorem towerAnswer_more (h : (s.ctx k).run = .stalled (.towers n)) (hn : 1 < n) :
    (s.towerAnswer k).ctx k = { s.ctx k with run := .stalled (.towers (n - 1)) } := by
  unfold State.towerAnswer
  simp only [h, if_neg (Nat.not_le.mpr hn)]
  exact ctx_setCtx ..

theorem towerAnswer_last (h : (s.ctx k).run = .stalled (.towers n)) (hn : n = 1) :
    (s.towerAnswer k).ctx k = ({ s.ctx k with run := .running } : Ctx).advance 4 := by
  unfold State.towerAnswer
  simp only [h, if_pos hn.le]
  exact completeSlot_ctx ..

theorem towerAnswer_towers (s : State) (k : SlotKey) : (s.towerAnswer k).towers = s.towers := by
  unfold State.towerAnswer
  split
  · split
    · exact completeSlot_towers ..
    · exact setCtx_towers ..
  · rfl

theorem towerAnswer_spaces (s : State) (k : SlotKey) : (s.towerAnswer k).spaces = s.spaces := by
  have hset (c : Ctx) : (s.setCtx k c).spaces = s.spaces := by
    unfold State.setCtx
    split <;> rfl
  unfold State.towerAnswer
  split
  · split
    · exact hset _
    · exact hset _
  · rfl

end

/-! ## Settings (R240) -/

theorem foldl_account_tasks (s : State) (l : List Nat) : SameTasks s (l.foldl State.account s) := .foldl account_tasks l s
theorem foldl_account_towers (s : State) (l : List Nat) : (l.foldl State.account s).towers = s.towers :=
  foldl_keeps (p := State.towers) (f := State.account) (fun _ _ => rfl) l s

theorem setGovernor_tasks (s : State) (t : Nat) (ga gb : Word) : SameTasks s (s.setGovernor t ga gb) := by
  unfold State.setGovernor
  dsimp only
  split
  · split <;> rfl
  · split
    · exact (foldl_account_tasks ..).trans rfl
    · rfl

section
variable (s : State) (t : Nat) {ga gb : Word}

/-- The tower whose levels for a class are set. -/
def Tower.levels (x : Tower) (i : Nat) (high low : BitVec 16) : Tower :=
  { x with high := x.high.set (i % 8) high (Nat.mod_lt _ (by decide)), low := x.low.set (i % 8) low (Nat.mod_lt _ (by decide)) }

theorem levels_get (x : Tower) (i : Nat) (high low : BitVec 16) :
    (x.levels i high low).high[i % 8]! = high ∧ (x.levels i high low).low[i % 8]! = low := by
  have hi : i % 8 < 8 := Nat.mod_lt _ (by decide)
  rw [getElem!_pos (x.levels i high low).high (i % 8) hi, getElem!_pos (x.levels i high low).low (i % 8) hi]
  exact ⟨Vector.getElem_set_self .., Vector.getElem_set_self ..⟩

theorem setGovernor_levels (hs : ga.toNat / 2 ^ 8 % 4 = 0) (hl : (gb.extractLsb' 16 16).toNat ≤ (gb.extractLsb' 0 16).toNat) :
    s.setGovernor t ga gb = s.setTower t ((s.tower t).levels ga.toNat (gb.extractLsb' 0 16) (gb.extractLsb' 16 16)) := by
  have hcls : bitsNat ga.toNat 2 0 % 8 = ga.toNat % 8 := by simp [bitsNat]
  have hnot : ¬ (gb.extractLsb' 0 16 : BitVec 16) < gb.extractLsb' 16 16 := Nat.not_lt.mpr hl
  unfold State.setGovernor
  refine (if_pos hs).trans ((if_neg hnot).trans ?_)
  simp only [hcls]
  rfl

theorem setGovernor_refused (hs : ga.toNat / 2 ^ 8 % 4 = 0) (hl : (gb.extractLsb' 0 16).toNat < (gb.extractLsb' 16 16).toNat) :
    s.setGovernor t ga gb = s := by
  unfold State.setGovernor
  exact (if_pos hs).trans (if_pos (BitVec.lt_def.mpr hl))

theorem setGovernor_phase (hs : ga.toNat / 2 ^ 8 % 4 = 1) :
    (s.setGovernor t ga gb).tower t = { s.tower t with phase := gb.setWidth 4 } := by
  have hne : ¬ bitsNat ga.toNat 9 8 = 0 := fun h => absurd (hs.symm.trans h) (by decide)
  have hset : s.setGovernor t ga gb = ((s.coresOf t).foldl State.account s).setTower t
      { ((s.coresOf t).foldl State.account s).tower t with phase := gb.setWidth 4 } := by
    unfold State.setGovernor
    exact (if_neg hne).trans (if_pos hs)
  rw [hset, tower_setTower, tower_of_towers (foldl_account_towers ..)]

end

/-! ## Publication (R232) -/

/-- The generation that a slot's RULEPUB publishes: the shadow as it stood at its first flip. -/
def Space.generation (sp : Space) (key : Nat) : List RuleEntry := (tfind sp.pending key).getD sp.shadow

/-- An address space that has flipped on a tower, with `n` flips of the RULEPUB to come, this one included. -/
def Space.flipped (sp : Space) (t : Fin 4) (key n : Nat) : Space :=
  { sp with
    published := sp.published.set t.val (sp.generation key) t.isLt,
    pending := if n ≤ 1 then tdel sp.pending key else tset sp.pending key (sp.generation key) }

section
variable {s : State} {asid key n : Nat} {sp : Space}

theorem flipRules_eq (h : s.space asid = some sp) (t : Fin 4) (key n : Nat) :
    s.flipRules t asid key n = s.setSpace asid (sp.flipped t key n) := by
  unfold State.flipRules
  simp only [h]
  rfl

theorem flipped_pending (sp : Space) (t : Fin 4) (key : Nat) (hn : 1 < n) : tfind (sp.flipped t key n).pending key = some (sp.generation key) := by
  rw [Space.flipped, if_neg (Nat.not_le.mpr hn), tfind_tset]

theorem published_flipped {t : Fin 4} (h : s.space asid = some (sp.flipped t key n)) : s.published t.val asid = sp.generation key := by
  unfold State.published
  simp only [h, Nat.mod_eq_of_lt t.isLt]
  exact Vector.getElem_set_self ..

theorem opRulePublicationFlip_flips (h : (s.ctx key).run = .stalled (.towers n)) (t : Fin 4) (asid : Nat) :
    opRulePublicationFlip t asid key s = (s.flipRules t asid key n).towerAnswer key := by
  unfold opRulePublicationFlip
  simp only [h]

end

end Sys2Proof.Machine

open Sys2Proof Sys2Proof.Machine

/-- Settles O47: each clause is what one step does, by that step's own lemma. -/
theorem groupsAndGovernor : Obligations.GroupsAndGovernor := by
  unfold Obligations.GroupsAndGovernor
  intro s l u n gid core k cls c key g d tw ga gb asid sp ks x occ waits answered high low gen ready sent
  have hanswered (u : State) (hu : u.ctx key = s.ctx key) (m : Nat) (hw : waits m) : answered (u.towerAnswer key) m := by
    have hrun : (u.ctx key).run = .stalled (.towers m) := (congrArg Ctx.run hu).trans hw
    refine ⟨fun hm => ?_, fun hm => ?_⟩
    · rw [towerAnswer_last hrun hm, hu]
    · rw [towerAnswer_more hrun hm, hu]
  refine ⟨fun hl hu hk => ?acquires, fun ⟨hl, hu, hr, hp⟩ hc => ?placed, fun ⟨hl, hu, hr, hp⟩ hc ho hf => ?offered, fun ⟨hg, hr⟩ hs => ?stopped,
    fun ⟨hg, hr⟩ hs hlive => ?dead, fun ⟨hg, hr⟩ hs hlive => ?dispatched,
    fun hg hd => ⟨fun h => congrArg _ (opSuccessorStart_waits hg hd h),
      fun hb hl hk hm => congrArg _ (opSuccessorStart_looksAgain hg hd hb hl hk hm)⟩,
    fun hg hd hb hl hk hs hgid hrun => ?succeeds, fun hi hrest hh hc => ?moves, fun hw hn => ?setting, fun hw hn hsp => ?publication⟩
  case acquires =>
    refine ⟨opGroupPlacement l.id s, rfl, ?_⟩
    rw [opGroupPlacement_acquires hl hu hk]
    exact ⟨rfl, mem_raised_raise ..⟩
  case placed =>
    obtain ⟨g, hgroup⟩ := placeGroup_group s l u n
    refine ⟨opGroupPlacement l.id s, g, rfl, ?_⟩
    rw [opGroupPlacement_ready hl hu hr, tryGroup_places hu hp hc]
    exact hgroup
  case offered =>
    refine ⟨opGroupPlacement l.id s, rfl, ?_⟩
    rw [opGroupPlacement_ready hl hu hr, tryGroup_offers hu hp hc ho]
    refine ⟨rfl, rfl, List.mem_append_right _ (List.mem_filterMap.mpr ⟨c, List.mem_filter.mpr ⟨hc, ho⟩, ?_⟩)⟩
    rw [hf, Option.map_some]
  case stopped => exact congrArg _ ((opGroupDispatch_eq hg hr).trans (if_pos hs))
  case dead =>
    refine congrArg _ ((opGroupDispatch_eq hg hr).trans ?_)
    rw [hs, hlive]
    rfl
  case dispatched =>
    refine ⟨opGroupDispatch gid core s, rfl, ?_⟩
    rw [opGroupDispatch_eq hg hr, hs, hlive]
    exact dispatched_ctx s g gid core k
  case succeeds =>
    refine ⟨opSuccessorStart gid s, rfl, ?_⟩
    rw [opSuccessorStart_starts hg hd hb hl hk]
    exact succeeded_lone d hg hs hgid hrun
  case moves =>
    refine ⟨opGovernorEvaluation tw s, rfl, ?_⟩
    rw [opGovernorEvaluation_moves hi hrest hh hc]
    exact moved_core ..
  case setting =>
    have htower : ((s.setGovernor tw.val ga gb).towerAnswer key).tower tw.val = (s.setGovernor tw.val ga gb).tower tw.val :=
      tower_of_towers (towerAnswer_towers ..) _
    refine ⟨(s.setGovernor tw.val ga gb).towerAnswer key, rfl, hanswered _ ((setGovernor_tasks ..).ctx key) n hw, fun hs hl => ?_, fun hs hl => ?_,
      fun hs => ?_⟩
    · rw [htower, setGovernor_levels s tw.val hs hl, tower_setTower]
      exact levels_get ..
    · rw [htower, setGovernor_refused s tw.val hs hl]
    · rw [htower, setGovernor_phase s tw.val hs]
  case publication =>
    have hspace : ((s.setSpace asid (sp.flipped tw key n)).towerAnswer key).space asid = some (sp.flipped tw key n) :=
      (congrArg (tfind · asid) (towerAnswer_spaces ..)).trans (tfind_tset ..)
    refine ⟨opRulePublicationFlip tw asid key s, sp.flipped tw key n, rfl, ?_⟩
    rw [opRulePublicationFlip_flips hw, flipRules_eq hsp]
    exact ⟨hanswered (s.setSpace asid _) rfl n hw, published_flipped hspace, hspace, rfl, flipped_pending sp tw key⟩

end

section
/-! PROOFS. Net instructions (13 R197-R201, R207; 14 R222-R230): what is left to do after a wait, and what each step of it does. -/

namespace Sys2Proof.Machine

/-! ## A context that has a net instruction in hand (09 R160; log 81) -/

theorem setCont_self {s : State} {c : NetCont} (h : s.me.cont = some c) : s.setCont c = s := by
  unfold State.setCont
  rw [← h]

/-- A context with something else left to do, and other accesses paid for. -/
def Ctx.aside (c : Ctx) (o : Option NetCont) (n : Nat) (p : Bool) : Ctx := { c with cont := o, nth := n, paid := p }

theorem Ctx.aside_setG (c : Ctx) (o : Option NetCont) (n : Nat) (p : Bool) (m : BitVec 6) (v : Word) :
    (c.aside o n p).setG m v = (c.setG m v).aside o n p := by
  unfold Ctx.setG
  split <;> rfl

theorem Ctx.aside_ended (c : Ctx) (o : Option NetCont) (n : Nat) (p : Bool) : (c.aside o n p).ended = c.ended := rfl

/-- Completion forgets what was left to do, and what the port has been paid for. -/
theorem Ctx.aside_advance (c : Ctx) (o : Option NetCont) (n : Nat) (p : Bool) (len : Nat) : (c.aside o n p).advance len = c.advance len := by
  unfold Ctx.advance
  rw [show (c.aside o n p).rep = c.rep from rfl, show (c.aside o n p).getG = c.getG from rfl, show (c.aside o n p).pc = c.pc from rfl]
  simp only [aside_setG, aside_ended]
  rfl

theorem aside_retG (s : State) (o : Option NetCont) (n : Nat) (p : Bool) (d : BitVec 6) (v : Word) (len : Nat) :
    ({ s with me := s.me.aside o n p } : State).retG d v len = s.retG d v len := by
  have hme : ((s.me.aside o n p).setG d v).advance len = (s.me.setG d v).advance len := by rw [Ctx.aside_setG, Ctx.aside_advance]
  exact congrArg (fun c => { s with me := c }) hme

theorem nextPart_retG (s : State) (d : BitVec 6) (v : Word) (len : Nat) : s.nextPart.retG d v len = s.retG d v len :=
  aside_retG s s.me.cont 0 false d v len
theorem setCont_retG (s : State) (c : NetCont) (d : BitVec 6) (v : Word) (len : Nat) : (s.setCont c).retG d v len = s.retG d v len :=
  aside_retG s (some c) s.me.nth s.me.paid d v len

/-! ## The end of a net instruction (R207; 14 R226) -/

section
variable {s : State} {c : NetCont}

theorem netFinish_waits (h : s.meetsOwed c = true) : s.netFinish c = (s.setCont c).stall .drain := if_pos h

theorem netFinish_gives (h : s.meetsOwed c = false) (hr : c.release = none) : s.netFinish c = s.retG c.gd c.result 4 := by
  unfold State.netFinish
  rw [h, hr]
  rfl

theorem netFinish_setCont (hr : c.release = none) (c' : NetCont) : (s.setCont c').netFinish c = s.netFinish c := by
  cases h : s.meetsOwed c with
  | true => exact (netFinish_waits (s := s.setCont c') h).trans (netFinish_waits h).symm
  | false => exact (netFinish_gives (s := s.setCont c') h hr).trans ((setCont_retG ..).trans (netFinish_gives h hr).symm)

/-! ## One thing after another -/

theorem netRun_ends (h : (s.setCont c).netNext c = none) : ∀ n, State.netRun n c s = s.netFinish c
  | 0 => rfl
  | n + 1 => by
    unfold State.netRun
    rw [h]

theorem netRun_next {r : Res NetCont} (h : (s.setCont c).netNext c = some r) (n : Nat) :
    State.netRun (n + 1) c s = r.andThen fun c s => State.netRun n c s.nextPart := by
  rw [State.netRun, h]

/-- What the context says is left is of no account to a run, which keeps that itself. -/
theorem netRun_setCont (hr : c.release = none) (c' : NetCont) (n : Nat) : State.netRun n c (s.setCont c') = State.netRun n c s := by
  have hset : (s.setCont c').setCont c = s.setCont c := rfl
  cases h : (s.setCont c).netNext c with
  | none => rw [netRun_ends h, netRun_ends (hset.symm ▸ h), netFinish_setCont hr]
  | some r =>
    cases n with
    | zero => exact netFinish_setCont hr c'
    | succ n => rw [netRun_next h, netRun_next (hset.symm ▸ h)]

theorem fuel_pos (c : NetCont) : c.fuel = c.fuel - 1 + 1 := by
  unfold NetCont.fuel
  omega

theorem netGo_ends (h : (s.setCont c).netNext c = none) : s.netGo c = s.netFinish c := netRun_ends h _

theorem netGo_next {r : Res NetCont} (h : (s.setCont c).netNext c = some r) :
    s.netGo c = r.andThen fun c' t => State.netRun (c.fuel - 1) c' t.nextPart := by
  rw [State.netGo, fuel_pos, netRun_next h, ← fuel_pos]

/-! ## Which thing is next -/

section
variable (hb : c.build = none)
include hb

theorem netNext_short {va : Nat} {d : List Byte} {l : List (Nat × List Byte)} (hp : c.puts = (va, d) :: l) (hd : d.length ≤ 32) :
    s.netNext c = some ((s.netWrite 0 va d).bind fun _ s => .ok { c with puts := l } s) := by
  unfold State.netNext
  rw [hb, hp]
  exact congrArg some (if_pos hd)

theorem netNext_long {va : Nat} {d : List Byte} {l : List (Nat × List Byte)} (hp : c.puts = (va, d) :: l) (hd : 32 < d.length) :
    s.netNext c = some (s.netPiece c va d l) := by
  unfold State.netNext
  rw [hb, hp]
  exact congrArg some (if_neg (Nat.not_le.mpr hd))

theorem netNext_after (hp : c.puts = []) : s.netNext c = s.netAfter c := by
  unfold State.netNext
  rw [hb, hp]

end

theorem netAfter_exchanges (ht : c.trap = none) {x : Word} {a : Nat} (he : c.exch = some (x, a)) : s.netAfter c = some (s.netExchange c x a) := by
  unfold State.netAfter
  rw [ht, he]

/-- Nothing stands before the links and the agents to be freed. -/
structure NetCont.Clear (c : NetCont) : Prop where
  trap : c.trap = none
  exch : c.exch = none
  late : c.late = none
  meet : c.meet = none
  cell : c.cell = none
  join : c.join = none

section
variable (h : c.Clear)
include h

theorem netAfter_links {x w : Word} {l : List (Word × Word)} (hl : c.links = (x, w) :: l) :
    s.netAfter c = some (s.netLink { c with links := l } x w) := by
  obtain ⟨ht, he, hla, hm, hc, hj⟩ := h
  unfold State.netAfter
  rw [ht, he, hla, hm, hc, hj, hl]

theorem netAfter_frees {a : Nat} {l : List Nat} (hl : c.links = []) (hf : c.frees = a :: l) :
    s.netAfter c = some (.ok { c with puts := [(a, List.replicate 64 0)], cell := some a, frees := l } s) := by
  obtain ⟨ht, he, hla, hm, hc, hj⟩ := h
  unfold State.netAfter
  rw [ht, he, hla, hm, hc, hj, hl, hf]

theorem netAfter_idle (hl : c.links = []) (hf : c.frees = []) : s.netAfter c = none := by
  obtain ⟨ht, he, hla, hm, hc, hj⟩ := h
  unfold State.netAfter
  rw [ht, he, hla, hm, hc, hj, hl, hf]

end

end

/-! ## How many steps are left: an upper bound, which each of them lowers -/

/-- At most so many steps: a build leaves up to 11 writes, five links and two agents to free; a link writes a port and then exchanges, or joins; an
exchange may find a join to make; a join leaves up to two writes, that of the second port, a meet and a cell to free; an agent to free is zeroed and
then loses its bit. -/
def NetCont.stepsLeft (c : NetCont) : Nat :=
  70 * boolNat c.build.isSome + c.puts.length + boolNat c.trap.isSome + 6 * boolNat c.exch.isSome + boolNat c.late.isSome + boolNat c.meet.isSome +
    boolNat c.cell.isSome + 5 * boolNat c.join.isSome + 8 * c.links.length + 3 * c.frees.length

@[simp] theorem boolNat_true : boolNat true = 1 := rfl
@[simp] theorem boolNat_false : boolNat false = 0 := rfl
theorem boolNat_eq_zero {b : Bool} : boolNat b = 0 ↔ b = false := by cases b <;> decide

theorem headerArity_lt (h : Word) : headerArity h < 4 := bitsNat_lt ..

theorem takeItems_length {agents : Bool} {size n : Nat} {s t : State} {l : List Nat} (h : s.takeItems agents size n = some (l, t)) :
    l.length = n := by
  induction n generalizing s l t with
  | zero => cases h; rfl
  | succ n ih =>
    unfold State.takeItems at h
    split at h
    · cases h
    split at h
    · cases h
    dsimp only at h
    split at h
    · cases h
    split at h
    · cases h
    · next hrest =>
      cases h
      rw [List.length_cons, ih hrest]

theorem dupPuts_length (b : NetBuild) (t : Nat) (as cs : List Nat) : (b.dupPuts t as cs).length = cs.length + 2 + headerArity b.hx := by
  simp only [NetBuild.dupPuts, List.length_append, List.length_map, List.length_range, List.length_cons, List.length_nil]

theorem eraPuts_length (t : Nat) (as : List Nat) : (eraPuts t as).length = as.length := List.length_map ..

section
variable {s t : State} {c c' : NetCont}

theorem netBuild_lowers {b : NetBuild} (hb : c.build = some b) (h : s.netBuild c b = .ok c' t) : c'.stepsLeft < c.stepsLeft := by
  have harity := headerArity_lt b.hx
  unfold State.netBuild at h
  dsimp only at h
  split at h
  · cases h
  next as s1 has =>
  split at h
  · cases h
  next cs s2 hcs =>
  cases h
  have has := takeItems_length has
  have hcs := takeItems_length hcs
  have hputs : (if b.dup then b.dupPuts t.myTower as cs else eraPuts t.myTower as).length ≤ 11 := by
    cases hd : b.dup with
    | true =>
      rw [hd, if_pos rfl] at hcs
      rw [if_pos rfl, dupPuts_length]
      omega
    | false =>
      rw [hd, if_neg Bool.false_ne_true] at has
      rw [if_neg Bool.false_ne_true, eraPuts_length]
      omega
  have hlinks : ((as.map agentRef).zip b.ends).length ≤ 5 := by
    rw [List.length_zip, List.length_map, has]
    split <;> omega
  simp only [NetCont.stepsLeft, hb, List.length_cons, List.length_nil, Option.isSome_some, Option.isSome_none, boolNat_true, boolNat_false]
  omega

theorem netPiece_lowers {va : Nat} {d : List Byte} {l : List (Nat × List Byte)} (hp : c.puts = (va, d) :: l)
    (h : s.netPiece c va d l = .ok c' t) : c'.stepsLeft < c.stepsLeft := by
  unfold State.netPiece at h
  dsimp only at h
  split at h
  · cases h
    simp [NetCont.stepsLeft, hp]
  · obtain ⟨_, _, -, h⟩ := bind_eq_ok.mp h
    cases h

theorem netExchange_lowers {x : Word} {a : Nat} (he : c.exch = some (x, a)) (h : s.netExchange c x a = .ok c' t) : c'.stepsLeft < c.stepsLeft := by
  obtain ⟨_, _, -, h⟩ := bind_eq_ok.mp h
  obtain ⟨old, _, -, h⟩ := bind_eq_ok.mp h
  split at h
  · cases h
  split at h
  · cases h
  obtain ⟨_, _, -, h⟩ := bind_eq_ok.mp h
  cases h
  split
  · simp [NetCont.stepsLeft, he, boolNat]
  · simp [NetCont.stepsLeft, he, boolNat]
    omega

theorem netLate_lowers {va : Nat} {d : List Byte} (hl : c.late = some (va, d)) (h : s.netLate c va d = .ok c' t) : c'.stepsLeft < c.stepsLeft := by
  obtain ⟨w, _, -, h⟩ := bind_eq_ok.mp h
  split at h
  · cases h
  split at h
  · cases h
  obtain ⟨_, _, -, h⟩ := bind_eq_ok.mp h
  cases h
  simp [NetCont.stepsLeft, hl, boolNat]

theorem enqueueMeet_lowers {x y : Nat} (hm : c.meet = some (x, y)) (h : s.enqueueMeet c x y = .ok c' t) : c'.stepsLeft < c.stepsLeft := by
  obtain ⟨_, _, -, h⟩ := bind_eq_ok.mp h
  obtain ⟨_, _, -, h⟩ := bind_eq_ok.mp h
  obtain ⟨_, _, -, h⟩ := bind_eq_ok.mp h
  cases h
  simp [NetCont.stepsLeft, hm, boolNat]

theorem netJoin_lowers {x y : Word} {cell : Option Nat} (hp : c.puts = []) (hj : c.join = some (x, y, cell))
    (h : s.netJoin c x y cell = .ok c' t) : c'.stepsLeft < c.stepsLeft := by
  have hone (b : Bool) : boolNat b ≤ 1 := by cases b <;> decide
  have hcell := hone cell.isSome
  unfold State.netJoin at h
  dsimp only at h
  split at h
  · split at h
    · cases h
      simp only [NetCont.stepsLeft, hp, hj, List.length_cons, List.length_nil, Option.isSome_some, Option.isSome_none, boolNat_true, boolNat_false]
      omega
    · cases h
  · cases h
    have hmeet := hone (if tagOf x = .agent ∧ tagOf y = .agent then some (refAddr x, refAddr y) else none).isSome
    simp only [NetCont.stepsLeft, hp, hj, List.length_cons, List.length_nil, Option.isSome_some, Option.isSome_none, boolNat_true, boolNat_false]
    omega

theorem netLink_lowers {x w : Word} {l : List (Word × Word)} (hclear : c.Clear) (hp : c.puts = []) (hlinks : c.links = (x, w) :: l)
    (h : s.netLink { c with links := l } x w = .ok c' t) : c'.stepsLeft < c.stepsLeft := by
  obtain ⟨ht, he, hl, hm, hc, hj⟩ := hclear
  unfold State.netLink at h
  dsimp only at h
  split at h
  · obtain ⟨_, _, -, h⟩ := bind_eq_ok.mp h
    split at h
    on_goal 2 => split at h
    all_goals
      obtain ⟨_, _, -, h⟩ := bind_eq_ok.mp h
      cases h
      simp [NetCont.stepsLeft, *, boolNat]
      omega
  · obtain ⟨_, _, -, h⟩ := bind_eq_ok.mp h
    cases h
    simp [NetCont.stepsLeft, *, boolNat]
    omega

theorem netAfter_lowers (hp : c.puts = []) (h : s.netAfter c = some (.ok c' t)) : c'.stepsLeft < c.stepsLeft := by
  unfold State.netAfter at h
  split at h
  · simp at h
  · next hexch => exact netExchange_lowers hexch (Option.some.inj h)
  · next hlate => exact netLate_lowers hlate (Option.some.inj h)
  · next hmeet => exact enqueueMeet_lowers hmeet (Option.some.inj h)
  · next hcell =>
    cases h
    simp [NetCont.stepsLeft, hcell, boolNat]
  · next hjoin => exact netJoin_lowers hp hjoin (Option.some.inj h)
  · next ht he hl hm hc hj =>
    split at h
    · next hlinks => exact netLink_lowers ⟨ht, he, hl, hm, hc, hj⟩ hp hlinks (Option.some.inj h)
    · next hfrees =>
      cases h
      simp [NetCont.stepsLeft, hfrees, hc, hp, boolNat]
      omega
    · cases h

/-- Every step that does not end the turn lowers the bound. -/
theorem netNext_lowers (h : s.netNext c = some (.ok c' t)) : c'.stepsLeft < c.stepsLeft := by
  unfold State.netNext at h
  split at h
  · next hb => exact netBuild_lowers hb (Option.some.inj h)
  · next hp =>
    split at h
    · obtain ⟨_, _, -, h⟩ := bind_eq_ok.mp (Option.some.inj h)
      cases h
      simp [NetCont.stepsLeft, hp]
    · exact netPiece_lowers hp (Option.some.inj h)
  · next hp => exact netAfter_lowers hp h

/-- With the bound at 0 nothing is left. -/
theorem netNext_none (h : c.stepsLeft = 0) : s.netNext c = none := by
  simp only [NetCont.stepsLeft, Nat.add_eq_zero_iff, Nat.mul_eq_zero, boolNat_eq_zero, Option.isSome_eq_false_iff, Option.isNone_iff_eq_none,
    List.length_eq_zero_iff, OfNat.ofNat_ne_zero, false_or] at h
  obtain ⟨⟨⟨⟨⟨⟨⟨⟨⟨hb, hp⟩, ht⟩, he⟩, hl⟩, hm⟩, hc⟩, hj⟩, hlinks⟩, hfrees⟩ := h
  rw [netNext_after hb hp, netAfter_idle ⟨ht, he, hl, hm, hc, hj⟩ hlinks hfrees]

/-- Every bound that is high enough lets a run go to its end. -/
theorem netRun_enough {n m : Nat} (hn : c.stepsLeft ≤ n) (hm : c.stepsLeft ≤ m) : State.netRun n c s = State.netRun m c s := by
  induction n generalizing m c s with
  | zero =>
    have hends : (s.setCont c).netNext c = none := netNext_none (Nat.le_zero.mp hn)
    rw [netRun_ends hends, netRun_ends hends]
  | succ n ih =>
    cases h : (s.setCont c).netNext c with
    | none => rw [netRun_ends h, netRun_ends h]
    | some r =>
      cases m with
      | zero => rw [netNext_none (Nat.le_zero.mp hm)] at h; cases h
      | succ m =>
        rw [netRun_next h, netRun_next h]
        cases r with
        | done u => rfl
        | ok c' u =>
          have hless := netNext_lowers h
          exact ih (by omega) (by omega)

end

/-! ## A write, a piece, an exchange (13 R198, R200; 01 R16; logs 79, 110) -/

section
variable {s t u : State} {c : NetCont}

/-- The 32-byte pieces of a write, each with its bytes. -/
def halvesOf (va : Nat) (data : List Byte) : List (Nat × List Byte) :=
  (piecesOf va data.length).map fun p => (p.1, (data.drop (p.1 - va)).take p.2)

theorem netPiece_writes {va b : Nat} {d bs : List Byte} {l left : List (Nat × List Byte)}
    (ht : takeAny s.free (halvesOf va d) = some ((b, bs), left)) (hw : s.netWrite 0 b bs = .ok () t) :
    s.netPiece c va d l = .done (({ t with free := t.free + 1 } : State).setCont { c with puts := left ++ l }).nextPart := by
  have htake : takeAny s.free ((piecesOf va d.length).map fun (a, n) => (a, (d.drop (a - va)).take n)) = some ((b, bs), left) := ht
  unfold State.netPiece
  simp only [htake, hw, bind_ok]

variable {a : Nat} {x : Word}

theorem netReleased_drained (h : s.drained s.cur = true) : s.netReleased = .ok () s := if_pos h

section
variable (hd : s.drained s.cur = true) {w : Word} (hr : s.netRead 0 a true = .ok w t)
include hd hr

/-- The first arrival leaves its reference in an EMPTY cell. -/
theorem netExchange_first (hw : w = 0) (hp : t.netPut a (leBytes 8 (x &&& 0xE0FFFFFFFFFFFFFF).toNat) = .ok () u) :
    s.netExchange c x a = .ok { c with exch := none, made := true, firstArr := true } u := by
  have hword : x &&& 0xE0FFFFFFFFFFFFFF ||| 0 = x &&& 0xE0FFFFFFFFFFFFFF := BitVec.or_zero
  subst hw
  rw [State.netExchange, netReleased_drained hd, bind_ok, hr, bind_ok, if_neg (by decide), if_neg (by decide), if_pos (by decide), hword, hp]
  rfl

/-- A third arrival is a violation. -/
theorem netExchange_second (hw : w.getLsbD 60 = true) : s.netExchange c x a = .done (t.wireTrap a) := by
  have hsecond : isSecond w = true := hw
  rw [State.netExchange, netReleased_drained hd, bind_ok, hr, bind_ok, if_pos hsecond]

theorem netExchange_bad (hw : w.getLsbD 60 = false) (hb : badCell w = true) : s.netExchange c x a = .done (t.wireTrap (refAddr w)) := by
  have hfirst : ¬ isSecond w = true := by rw [isSecond, hw]; decide
  rw [State.netExchange, netReleased_drained hd, bind_ok, hr, bind_ok, if_neg hfirst, if_pos hb]

end

theorem badCell_of_tag {w : Word} (h : tagOf w = .wire ∨ tagOf w = .busy ∨ tagOf w = .reserved) : badCell w = true := by
  unfold badCell
  obtain h | h | h := h <;> rw [h]

/-- A link to an EMPTY cell has slot(x) name the cell, and then the exchange. -/
theorem netLink_names {p q g : Word} (hq : tagOf q = .wire) (hc : s.checkCell 0 (refAddr q) = .ok 0 t) (hr : t.netRead 1 (slotVa p) false = .ok g u)
    (hg : tagOf g ≠ .empty) : s.netLink c p q =
      .ok { c with puts := [(slotVa p, leBytes 8 (wireRef (refAddr q)).toNat)], exch := some (p, refAddr q) } u := by
  have hx : t.checkX 1 p = .ok () u := by rw [State.checkX, hr, bind_ok, if_neg hg]
  unfold State.netLink
  rw [if_pos hq]
  dsimp only
  rw [hc, bind_ok, if_neg (by decide), if_pos (by decide), hx]
  rfl

/-! ## An instruction that has begun (log 81) -/

theorem netResume_begins (h : s.me.cont = none) (f : State → State) : s.netResume f = f s := by
  unfold State.netResume
  rw [h]

/-- An instruction that has begun goes on with what is left, whichever it is. -/
theorem exec_resumes (h : s.me.cont = some c) (gd ga gb : BitVec 6) : ∀ i ∈ ([.link gd ga gb, .adup gd ga gb, .aera gd ga gb, .payshare gd ga,
    .paydrop gd ga, .anew gd ga, .wire gd, .afree ga] : List Instr), exec i s = .next (s.netGo c) := by
  have hgo (f : State → State) : (.next (s.netResume f) : Out) = .next (s.netGo c) := by
    unfold State.netResume
    rw [h]
  simp only [List.forall_mem_cons, List.not_mem_nil, false_imp_iff, implies_true, and_true]
  exact ⟨hgo _, hgo _, hgo _, hgo _, hgo _, hgo _, hgo _, hgo _⟩

theorem exec_setCont (s : State) (c : NetCont) (gd ga gb : BitVec 6) : ∀ i ∈ ([.link gd ga gb, .adup gd ga gb, .aera gd ga gb, .payshare gd ga,
    .paydrop gd ga, .anew gd ga, .wire gd, .afree ga] : List Instr), exec i (s.setCont c) = .next ((s.setCont c).netGo c) := exec_resumes rfl gd ga gb

section
variable (h : s.me.cont = some c)
include h

theorem netGo_goes {r : Res NetCont} (hn : s.netNext c = some r) : s.netGo c = r.andThen fun c' t => State.netRun (c.fuel - 1) c' t.nextPart :=
  netGo_next ((setCont_self h).symm ▸ hn)

theorem netGo_idle (hb : c.build = none) (hp : c.puts = []) (hclear : c.Clear) (hl : c.links = []) (hf : c.frees = []) :
    s.netGo c = s.netFinish c := by
  refine netGo_ends ?_
  rw [setCont_self h, netNext_after hb hp, netAfter_idle hclear hl hf]

variable {va : Nat} {d : List Byte} {l : List (Nat × List Byte)} (hb : c.build = none) (hp : c.puts = (va, d) :: l)
include hb hp

/-- After a write of one piece the instruction stands as it would with that write already behind it. -/
theorem netGo_short (hd : d.length ≤ 32) (hr : c.release = none) (hw : s.netWrite 0 va d = .ok () t) :
    s.netGo c = (t.nextPart.setCont { c with puts := l }).netGo { c with puts := l } := by
  have hfuel : c.fuel - 1 = ({ c with puts := l } : NetCont).fuel := by
    simp only [NetCont.fuel, hp, List.length_cons]
    omega
  rw [netGo_goes h (netNext_short hb hp hd), hw, bind_ok, andThen_ok, hfuel, State.netGo, netRun_setCont (c := { c with puts := l }) hr]

/-- A write of a record makes one of its pieces, which one being free, and leaves the other for the next step. -/
theorem netGo_long {z : Nat} {half : List Byte} {left : List (Nat × List Byte)} (hd : 32 < d.length)
    (ht : takeAny s.free (halvesOf va d) = some ((z, half), left)) (hw : s.netWrite 0 z half = .ok () t) :
    s.netGo c = (({ t with free := t.free + 1 } : State).setCont { c with puts := left ++ l }).nextPart := by
  rw [netGo_goes h (netNext_long hb hp hd), netPiece_writes ht hw, andThen_done]

end

end

/-! ## The last write -/

section
variable {s t : State} {gd : BitVec 6} {v : Word} {b : Nat} {bs : List Byte}

/-- An instruction whose value is known from the start gives it after its last write. -/
theorem netGo_last (hd : bs.length ≤ 32) (hw : (s.setCont { NetCont.of gd (some v) false with puts := [(b, bs)] }).netWrite 0 b bs = .ok () t) :
    s.netGo { NetCont.of gd (some v) false with puts := [(b, bs)] } = t.retG gd v 4 := by
  rw [netGo_next (netNext_short rfl rfl hd), hw, bind_ok, andThen_ok, netRun_ends rfl, netFinish_gives rfl rfl]
  exact nextPart_retG t gd v 4

/-- A record's last write is followed by the clearing of its allocation bit. -/
theorem netGo_lastFreed {r : Nat} (hd : bs.length ≤ 32)
    (hw : (s.setCont { NetCont.of gd (some v) false with puts := [(b, bs)], cell := some r }).netWrite 0 b bs = .ok () t) :
    s.netGo { NetCont.of gd (some v) false with puts := [(b, bs)], cell := some r } = (t.unalloc r).retG gd v 4 := by
  have hfree : (t.nextPart.setCont { NetCont.of gd (some v) false with cell := some r }).netNext
      { NetCont.of gd (some v) false with cell := some r } =
        some (.ok (NetCont.of gd (some v) false) ((t.nextPart.setCont { NetCont.of gd (some v) false with cell := some r }).unalloc r)) := rfl
  rw [netGo_next (netNext_short rfl rfl hd), hw, bind_ok, andThen_ok]
  refine (netRun_next hfree 8).trans ?_
  rw [andThen_ok, netRun_ends rfl, netFinish_gives rfl rfl]
  exact aside_retG (t.unalloc r) _ 0 false gd v 4

end

end Sys2Proof.Machine

end

section
/-! PROOFS. The net instructions themselves, once their checks have passed (13 R197, R207, R208; 14 R222-R230). -/

namespace Sys2Proof.Machine

/-! ## Addresses and records (13 R197, R198) -/

theorem bitsNat_low (x hi : Nat) : bitsNat x hi 0 = x % 2 ^ (hi + 1) := congrArg (· % 2 ^ (hi + 1)) (Nat.div_one x)

theorem refAddr_eq (w : Word) : refAddr w = w.toNat % 2 ^ 56 := bitsNat_low w.toNat 55

theorem myTower_lt (s : State) : s.myTower < 4 := by
  unfold State.myTower State.towerOf
  split <;> exact Nat.mod_lt _ (by decide)

/-- A new record's header holds bits [19:0] of the operand and the home tower. -/
theorem setHome_new (x : Nat) {t : Nat} (ht : t < 4) : (setHome (BitVec.ofNat 64 (bitsNat x 19 0)) t).toNat = x % 2 ^ 20 + t * 2 ^ 20 := by
  simp only [setHome, putBits, bitsNat, BitVec.toNat_ofNat]
  omega

theorem recordBytes_four (h w0 w1 w2 w3 p n : Word) : recordBytes h [w0, w1, w2, w3] p n =
    leBytes 8 h.toNat ++ leBytes 8 w0.toNat ++ leBytes 8 w1.toNat ++ leBytes 8 w2.toNat ++ leBytes 8 w3.toNat ++ leBytes 8 p.toNat ++
      leBytes 8 n.toNat ++ leBytes 8 0 := by
  simp only [recordBytes, List.flatMap_cons, List.flatMap_nil, List.append_nil, List.append_assoc]

/-- A new record: its principal port BUSY, its auxiliary ports BUSY below its arity. -/
theorem recordBytes_new (x : Nat) {t : Nat} (ht : t < 4) :
    let h := setHome (BitVec.ofNat 64 (bitsNat x 19 0)) t
    let port (i : Nat) : Nat := if i < x / 2 ^ 12 % 4 then 0xE000000000000000 else 0
    recordBytes h (busyPorts (headerArity h)) 0 0 = leBytes 8 (x % 2 ^ 20 + t * 2 ^ 20) ++ leBytes 8 0xE000000000000000 ++ leBytes 8 (port 0) ++
      leBytes 8 (port 1) ++ leBytes 8 (port 2) ++ leBytes 8 0 ++ leBytes 8 0 ++ leBytes 8 0 := by
  intro h port
  have hnat : h.toNat = x % 2 ^ 20 + t * 2 ^ 20 := setHome_new x ht
  have harity : headerArity h = x / 2 ^ 12 % 4 := by
    rw [headerArity, hnat, bitsNat]
    omega
  have hport (i : Nat) : (if i < headerArity h then busyRef else 0).toNat = port i := by
    rw [harity, apply_ite BitVec.toNat]
    rfl
  have hfour : busyPorts (headerArity h) = [busyRef, if 0 < headerArity h then busyRef else 0, if 1 < headerArity h then busyRef else 0,
    if 2 < headerArity h then busyRef else 0] := rfl
  rw [hfour, recordBytes_four, hnat, hport, hport, hport]
  rfl

/-- Dropping a payload of kind 1 leaves the rest of the header. -/
theorem dropPaykind {h : Word} (hk : headerPaykind h = 1) : putBits h.toNat 19 16 0 = h.toNat - 2 ^ 16 := by
  simp only [headerPaykind, bitsNat] at hk
  simp only [putBits]
  omega

/-! ## AGLD, ANEW, WIRE and AFREE (14 R224, R225) -/

section
variable {s t u v : State} {ad : BitVec 4} {gd ga gb : BitVec 6} {h : Word}

theorem opAgld_names (hc : s.checkAgent 0 (refAddr (s.getG ga)) = .ok h t) (hlt : h.toNat < 2 ^ 22) : opAgld ad ga s =
    (t.setA ad ⟨BitVec.ofNat 56 (refAddr (s.getG ga)), BitVec.ofNat 56 (refAddr (s.getG ga)), BitVec.ofNat 56 (refAddr (s.getG ga) + 64),
      t.classAt t.myCore (refAddr (s.getG ga)), false, false, true, true⟩).advance 4 := by
  have hclear : ¬ h.toNat / 2 ^ 22 ≠ 0 := not_not_intro (Nat.div_eq_of_lt hlt)
  rw [opAgld, hc, andThen_ok, if_neg hclear]

theorem opAgld_refuses (hc : s.checkAgent 0 (refAddr (s.getG ga)) = .ok h t) (hle : 2 ^ 22 ≤ h.toNat) :
    opAgld ad ga s = t.wireTrap (refAddr (s.getG ga)) := by
  have hset : h.toNat / 2 ^ 22 ≠ 0 := (Nat.div_pos hle (by decide)).ne'
  rw [opAgld, hc, andThen_ok, if_pos hset]

variable (hn : s.me.cont = none)
include hn

section
variable (hs : s.netStart = .ok () t) {a : Nat}
include hs

theorem opAnew_takes (ht : t.takeAgents 1 = some ([a], u)) : opAnew gd ga s = u.netGo { NetCont.of gd (some (agentRef a)) false with
    puts := [(a, recordBytes (setHome (BitVec.ofNat 64 (bitsNat (u.getG ga).toNat 19 0)) u.myTower)
      (busyPorts (headerArity (setHome (BitVec.ofNat 64 (bitsNat (u.getG ga).toNat 19 0)) u.myTower))) 0 0)] } := by
  rw [opAnew, netResume_begins hn, hs, andThen_ok, ht]

theorem opAnew_stalls (ht : t.takeAgents 1 = none) : opAnew gd ga s = t.stall .pool := by rw [opAnew, netResume_begins hn, hs, andThen_ok, ht]

theorem opWire_takes (ht : t.takeCells 1 = some ([a], u)) :
    opWire gd s = u.netGo { NetCont.of gd (some (wireRef a)) false with puts := [(a, leBytes 8 0)] } := by
  rw [opWire, netResume_begins hn, hs, andThen_ok, ht]

theorem opWire_stalls (ht : t.takeCells 1 = none) : opWire gd s = t.stall .pool := by rw [opWire, netResume_begins hn, hs, andThen_ok, ht]

theorem opAfree_begins (hc : t.checkAgent 0 (refAddr (s.getG ga)) = .ok h u) :
    opAfree ga s = u.nextPart.netGo { NetCont.of 0 (some 0) false with frees := [refAddr (s.getG ga)] } := by
  rw [opAfree, netResume_begins hn]
  dsimp only
  rw [hs, andThen_ok, hc, andThen_ok]

end

/-! ## LINK, ADUP and AERA (14 R226-R228) -/

variable (hs : s.linkStart = .ok () t)
include hs

theorem opLink_begins (hx : tagOf (s.getG ga) = .agent ∨ tagOf (s.getG ga) = .auxref)
    (hw : tagOf (s.getG gb) = .agent ∨ tagOf (s.getG gb) = .auxref ∨ tagOf (s.getG gb) = .wire) {g : Word}
    (hcx : t.checkRef 0 (s.getG ga) = .ok h u) (hcw : u.checkRef 2 (s.getG gb) = .ok g v) :
    opLink gd ga gb s = v.nextPart.netGo { NetCont.of gd none true with links := [(s.getG ga, s.getG gb)] } := by
  have hport : ¬ (tagOf (s.getG ga) ≠ .agent ∧ tagOf (s.getG ga) ≠ .auxref) := by tauto
  have hend : ¬ (tagOf (s.getG gb) ≠ .agent ∧ tagOf (s.getG gb) ≠ .auxref ∧ tagOf (s.getG gb) ≠ .wire) := by tauto
  rw [opLink, netResume_begins hn]
  dsimp only
  rw [if_neg hport, if_neg hend, hs, andThen_ok, hcx, andThen_ok, hcw, andThen_ok]

variable {wd wx : List Word} {count pages : Nat}

omit hn hs in
/-- With every end fit to be linked, the share step comes before the new agents. -/
theorem commute_builds {dup : Bool} {d x : Nat} (he : badEnds (NetBuild.ends ⟨dup, d, x, h, wd, wx, 0, 0⟩) = none)
    (hr : u.shareFor h wx dup = .ok (count, pages) v) : u.commute dup gd d x h wd wx =
      v.nextPart.netGo { NetCont.of gd none false with build := some ⟨dup, d, x, h, wd, wx, count, pages⟩ } := by
  unfold State.commute
  rw [he]
  dsimp only
  rw [hr]
  rfl

theorem opAdup_builds (hf : t.facing (refAddr (s.getG ga)) (refAddr (s.getG gb)) 1 = .ok (h, wd, wx) u)
    (he : badEnds ([wd.getD 1 0, wd.getD 2 0] ++ (wx.drop 1).take (headerArity h)) = none) (hr : u.shareFor h wx true = .ok (count, pages) v) :
    opAdup gd ga gb s = v.nextPart.netGo { NetCont.of gd none false with
      build := some ⟨true, refAddr (s.getG ga), refAddr (s.getG gb), h, wd, wx, count, pages⟩ } := by
  rw [opAdup, netResume_begins hn]
  dsimp only
  rw [hs, andThen_ok, hf]
  exact commute_builds he hr

theorem opAera_builds (hf : t.facing (refAddr (s.getG ga)) (refAddr (s.getG gb)) 0 = .ok (h, wd, wx) u)
    (he : badEnds ((wx.drop 1).take (headerArity h)) = none) (hr : u.shareFor h wx false = .ok (count, pages) v) :
    opAera gd ga gb s = v.nextPart.netGo { NetCont.of gd none false with
      build := some ⟨false, refAddr (s.getG ga), refAddr (s.getG gb), h, wd, wx, count, pages⟩ } := by
  rw [opAera, netResume_begins hn]
  dsimp only
  rw [hs, andThen_ok, hf]
  exact commute_builds he hr

end

/-! ## The new agents and cells (14 R227, R228) -/

section
variable {s t u : State} {b : NetBuild} {as cs : List Nat}

theorem netBuild_dup (c : NetCont) (hb : b.dup = true) (ha : s.takeAgents (headerArity b.hx + 2) = some (as, t))
    (hc : t.takeCells (2 * headerArity b.hx) = some (cs, u)) : s.netBuild c b = .ok { c with
      build := none, puts := b.dupPuts u.myTower as cs, links := (as.map agentRef).zip b.ends, frees := [b.d, b.x], release := none } u := by
  unfold State.netBuild
  simp only [hb, if_true, ha, hc, Bool.not_true, Bool.false_and, Bool.false_eq_true, if_false]

theorem netBuild_era (c : NetCont) (hb : b.dup = false) (ha : s.takeAgents (headerArity b.hx) = some (as, t)) (hc : t.takeCells 0 = some (cs, u)) :
    s.netBuild c b = .ok { c with
      build := none, puts := eraPuts u.myTower as, links := (as.map agentRef).zip b.ends, frees := [b.d, b.x],
      release := if headerPaykind b.hx = 1 ∧ b.count = 0 then some ((b.wx.getD 5 0).toNat % 2 ^ 56, b.pages) else none } u := by
  unfold State.netBuild
  simp only [hb, Bool.false_eq_true, if_false, ha, hc, Bool.not_false, Bool.true_and, Bool.and_eq_true, beq_iff_eq, bitsNat_low]

end

/-! ## PAYSHARE and PAYDROP (14 R230) -/

section
variable {s t u v w : State} {up : Bool} {gd ga : BitVec 6} {h : Word} (hn : s.me.cont = none) (hs : s.netStart = .ok () t)
  (hc : t.checkAgent 0 (refAddr (s.getG ga)) = .ok h u)
include hn hs hc

theorem opPay_nothing (hk : headerPaykind h ≠ 1) : opPay up gd ga s = u.retG gd 0 4 := by
  rw [opPay, netResume_begins hn]
  dsimp only
  rw [hs, andThen_ok, hc, andThen_ok, if_pos hk]

variable (hk : headerPaykind h = 1) {ws : List Word} (hw : u.recordWords 1 32 (refAddr (s.getG ga)) 40 2 = .ok ws v) {count pages : Nat}
  (hr : v.shareStep ((ws.getD 1 0).toNat % 2 ^ 56) up = .ok (count, pages) w)
include hk hw hr

theorem opPay_steps : opPay up gd ga s = w.nextPart.netGo { NetCont.of gd (some (BitVec.ofNat 64 count)) false with
    puts := if up then [(refAddr (s.getG ga) + 40, leBytes 8 (sharedPayload (ws.getD 0 0) count).toNat)]
      else [(refAddr (s.getG ga), leBytes 8 (h.toNat - 2 ^ 16)), (refAddr (s.getG ga) + 40, List.replicate 16 0)],
    release := if up || count ≠ 0 then none else some ((ws.getD 1 0).toNat % 2 ^ 56, pages) } := by
  rw [opPay, netResume_begins hn]
  dsimp only
  rw [hs, andThen_ok, hc, andThen_ok, if_neg (not_not_intro hk), hw, andThen_ok, bitsNat_low, hr, andThen_ok, dropPaykind hk]

omit hr in
theorem opPay_shares (hr : v.shareStep ((ws.getD 1 0).toNat % 2 ^ 56) true = .ok (count, pages) w) : opPay true gd ga s =
    w.nextPart.netGo { NetCont.of gd (some (BitVec.ofNat 64 count)) false with
      puts := [(refAddr (s.getG ga) + 40, leBytes 8 (sharedPayload (ws.getD 0 0) count).toNat)] } := opPay_steps hn hs hc hk hw hr

omit hr in
/-- At 0 the block is to be released. -/
theorem opPay_drops (hr : v.shareStep ((ws.getD 1 0).toNat % 2 ^ 56) false = .ok (count, pages) w) : opPay false gd ga s =
    w.nextPart.netGo { NetCont.of gd (some (BitVec.ofNat 64 count)) false with
      puts := [(refAddr (s.getG ga), leBytes 8 (h.toNat - 2 ^ 16)), (refAddr (s.getG ga) + 40, List.replicate 16 0)],
      release := if count = 0 then some ((ws.getD 1 0).toNat % 2 ^ 56, pages) else none } := by
  rw [opPay_steps hn hs hc hk hw hr]
  by_cases h0 : count = 0 <;> simp [h0]

end

/-! ## The first step of an instruction that has begun -/

section
variable {s t u : State} {gd : BitVec 6} {a : Nat}

/-- What is left of an AFREE: writes of zeros, and the allocation bit. -/
def NetCont.freeing (a : Nat) (l : List (Nat × List Byte)) : NetCont := { NetCont.of 0 (some 0) false with puts := l, cell := some a }

/-- AFREE zeroes one half of the record, which one being free; the other half and the allocation bit are left. -/
theorem netGo_frees {b : Nat} {bs : List Byte} {rest : List (Nat × List Byte)}
    (ht : takeAny s.free (halvesOf a (List.replicate 64 0)) = some ((b, bs), rest))
    (hw : (s.nextPart.setCont (NetCont.freeing a [(a, List.replicate 64 0)])).netWrite 0 b bs = .ok () t) :
    s.nextPart.netGo { NetCont.of 0 (some 0) false with frees := [a] } =
      (({ t with free := t.free + 1 } : State).setCont (.freeing a rest)).nextPart := by
  have hpiece := netPiece_writes (s := s.nextPart.setCont (.freeing a [(a, List.replicate 64 0)])) (c := .freeing a [(a, List.replicate 64 0)])
    (l := []) ht hw
  rw [List.append_nil] at hpiece
  rw [netGo_next ((netNext_after rfl rfl).trans (netAfter_frees ⟨rfl, rfl, rfl, rfl, rfl, rfl⟩ rfl rfl)), andThen_ok]
  exact (netRun_next (netNext_long rfl rfl (by decide)) 10).trans (congrArg (Res.andThen · fun c s => State.netRun 10 c s.nextPart) hpiece)

/-- LINK to a wire's EMPTY cell: slot(x) is to name the cell, and then its reference is exchanged. -/
theorem netGo_names {p q g : Word} (hc : s.me.cont = some { NetCont.of gd none true with links := [(p, q)] }) (hq : tagOf q = .wire)
    (hcell : s.checkCell 0 (refAddr q) = .ok 0 t) (hr : t.netRead 1 (slotVa p) false = .ok g u) (hg : tagOf g ≠ .empty) :
    let c : NetCont := { NetCont.of gd none true with puts := [(slotVa p, leBytes 8 (wireRef (refAddr q)).toNat)], exch := some (p, refAddr q) }
    s.netGo { NetCont.of gd none true with links := [(p, q)] } = (u.nextPart.setCont c).netGo c := by
  intro c
  have hsteps : c.stepsLeft = 7 := rfl
  rw [netGo_goes hc ((netNext_after rfl rfl).trans (netAfter_links ⟨rfl, rfl, rfl, rfl, rfl, rfl⟩ rfl)), netLink_names hq hcell hr hg, andThen_ok,
    State.netGo, netRun_setCont (c := c) rfl]
  exact netRun_enough (c := c) (hsteps.trans_le (Nat.le_of_ble_eq_true rfl)) (hsteps.trans_le (Nat.le_of_ble_eq_true rfl))

/-- The first arrival at a cell gives 0. -/
theorem netGo_first {p : Word} (hc : s.me.cont = some { NetCont.of gd none true with exch := some (p, a) }) (hd : s.drained s.cur = true)
    (hr : s.netRead 0 a true = .ok 0 t) (hp : t.netPut a (leBytes 8 (p &&& 0xE0FFFFFFFFFFFFFF).toNat) = .ok () u) :
    s.netGo { NetCont.of gd none true with exch := some (p, a) } = u.retG gd 0 4 := by
  rw [netGo_goes hc ((netNext_after rfl rfl).trans (netAfter_exchanges rfl rfl)), netExchange_first hd hr rfl hp, andThen_ok, netRun_ends rfl,
    netFinish_gives rfl rfl]
  exact nextPart_retG u gd 0 4

end

end Sys2Proof.Machine

open Sys2Proof Sys2Proof.Machine

/-- Settles O37: each clause is how an instruction begins, by its own lemma, or how one that has begun goes on, which is the same for all of them
(`exec_resumes`). The header that ANEW makes has bits 15:14 of ga (log 107, DESIGN CHOICE); what `badCell` refuses at an exchange beyond
reserved tags, and the information word, are log 110 (DESIGN CHOICE). -/
theorem netInstructions : Obligations.NetInstructions := by
  unfold Obligations.NetInstructions
  intro s s1 s2 s3 s4 ad gd ga gb a b d count pages h g p q wd wx as cs c bs rest x y rec64 busy port agent wire net fresh linking halves
  have next {t u : State} (h : t = u) : (.next t : Out) = .next u := congrArg _ h
  have address {w : Word} {n : Nat} (h : n = w.toNat % 2 ^ 56) : refAddr w = n := (refAddr_eq w).trans h.symm
  have inNet {i : Instr} (hi : i ∈ net) : i ∈ net ++ fresh := List.mem_append_left fresh hi
  have resumes {t u : State} {k : NetCont} (hc : t.me.cont = some k) (hgo : t.netGo k = u) (i : Instr) (hi : i ∈ net ++ fresh) :
      exec i t = .next u := (exec_resumes hc gd ga gb i hi).trans (next hgo)
  refine ⟨fun ha hc => ?agld, fun hn hs => ⟨fun ht => ?anew, fun ht => next (opAnew_stalls hn hs ht),
    fun ht hw => next ((opWire_takes hn hs ht).trans (netGo_last (by decide) hw)), fun ht => next (opWire_stalls hn hs ht),
    fun ha hc => ?afree⟩, fun hn hx hw hs hcx hcw => next (opLink_begins hn hs hx hw hcx hcw), fun hc hq ha hcell hr hg i hi => ?names,
    fun hc hd hr hp i hi => resumes hc (netGo_first hc hd hr hp) i (inNet hi), fun hn hd ha hs => ?builds, ?records,
    fun hn ha hs hc => ?pays, fun hc hb hp ht he hl hm hce hj hli hfr hrel => ?idle, fun hc hb hp => ?puts, fun v cell hc hlen hw => ?last,
    fun w hc hb hp ht he hd hr => ?violations⟩
  case agld =>
    obtain rfl := address ha
    exact ⟨fun hlt => next (opAgld_names hc hlt), fun hle => next (opAgld_refuses hc hle)⟩
  case anew =>
    refine next ((opAnew_takes hn hs ht).trans ?_)
    rw [recordBytes_new _ (myTower_lt s2)]
    rfl
  case afree =>
    intro left ht hw
    obtain rfl := address ha
    exact next ((opAfree_begins hn hs hc).trans (netGo_frees ht hw))
  case names =>
    subst ha
    exact (resumes hc (netGo_names hc hq hcell hr hg) i (inNet hi)).trans (exec_setCont _ _ gd ga gb i (inNet hi)).symm
  case builds =>
    obtain rfl := address hd
    obtain rfl := address ha
    exact ⟨fun hf hbad hr => next (opAdup_builds hn hs hf hbad hr), fun hf hbad hr => next (opAera_builds hn hs hf hbad hr)⟩
  case records =>
    intro n pay ports
    exact ⟨fun ha hc => netBuild_dup c rfl ha hc, fun ha hc => netBuild_era c rfl ha hc⟩
  case pays =>
    obtain rfl := address ha
    refine ⟨fun hk => ⟨next (opPay_nothing hn hs hc hk), next (opPay_nothing hn hs hc hk)⟩, fun hk hw hd => ?_⟩
    subst hd
    exact ⟨fun hr => next (opPay_shares hn hs hc hk hw hr), fun hr => ⟨h.toNat - 2 ^ 16, next (opPay_drops hn hs hc hk hw hr), rfl⟩⟩
  case idle =>
    have hidle := netGo_idle hc hb hp ⟨ht, he, hl, hm, hce, hj⟩ hli hfr
    refine ⟨fun ho => resumes hc (hidle.trans ?_), fun ho => resumes hc (hidle.trans (netFinish_gives ho hrel))⟩
    rw [netFinish_waits ho, setCont_self hc]
  case puts =>
    refine ⟨fun hlen hrel hw i hi => ?_, fun z half left hlen ht hw => resumes hc (netGo_long hc hb hp hlen ht hw)⟩
    exact (resumes hc (netGo_short hc hb hp hlen hrel hw) i hi).trans (exec_setCont _ _ gd ga gb i hi).symm
  case last =>
    have hset := setCont_self hc
    intro t i hi
    refine resumes hc ?_ i (List.mem_append_right net hi)
    cases cell with
    | none => exact netGo_last hlen (hset.symm ▸ hw)
    | some r => exact netGo_lastFreed hlen (hset.symm ▸ hw)
  case violations =>
    have hgoes := netGo_goes hc ((netNext_after hb hp).trans (netAfter_exchanges ht he))
    refine ⟨fun hw i hi => resumes hc ?_ i (inNet hi), fun hw htag i hi => resumes hc ?_ i (inNet hi)⟩
    · rw [hgoes, netExchange_second hd hr hw, andThen_done]
      rfl
    · rw [hgoes, netExchange_bad hd hr hw (badCell_of_tag htag), andThen_done, refAddr_eq]
      rfl

end

section
/-! PROOFS. The rule table and launches, as instructions (14 R231, R232, R235). -/

namespace Sys2Proof.Machine

/-! ## Rights (R223, R330) -/

/-- A refusal that concerns no address reports its source code and number alone. -/
theorem permTrap_rights (s : State) {src num : Nat} (hs : src < 16) (hn : num < 16) :
    s.permTrap src num 0 = s.trap 0x03 (BitVec.ofNat 64 (src * 16 + num)) := by
  rw [State.permTrap, accessInfo, Nat.mod_eq_of_lt hs, Nat.mod_eq_of_lt hn, Nat.zero_mod, Nat.zero_mul, Nat.zero_add]

/-! ## The rule table (R231, R232) -/

section
variable {s : State} {a : BitVec 4}

theorem opRuleset_refused (h : s.hasRule = false) : opRuleset a s = s.trap 0x03 0xA0 := by
  unfold opRuleset
  rw [h]
  exact permTrap_rights s (by decide) (by decide)

theorem opRulepub_refused (h : s.hasRule = false) : opRulepub s = s.trap 0x03 0xA0 := by
  unfold opRulepub
  rw [h]
  exact permTrap_rights s (by decide) (by decide)

theorem opRulepub_sends (h : s.hasRule = true) :
    opRulepub s = (s.hold (.towers 4)).raises ([0, 1, 2, 3].map fun t => Raised.rulePublicationFlip t s.me.asid s.cur) := by
  unfold opRulepub
  rw [h]
  rfl

section
variable {o : Opnd} {bs : List Byte} {t u : State} (h : s.hasRule = true) (hc : s.check a (s.ptr a) 64 true false 64 = .ok o t)
  (hr : t.read o 64 = .ok bs u)
include h hc hr

theorem opRuleset_faults {r : Nat} (hbad : ruleReason bs = some r) : opRuleset a s = u.launchFault r := by
  unfold opRuleset
  simp only [h, hc, hr, andThen_ok, hbad, Bool.not_true, Bool.false_eq_true, if_false]

theorem opRuleset_stores {sp : Space} (hok : ruleReason bs = none) (hsp : u.space u.me.asid = some sp) :
    opRuleset a s = u.storeRule sp (parseRule bs).1 (parseRule bs).2 := by
  unfold opRuleset
  simp only [h, hc, hr, andThen_ok, hok, hsp, Bool.not_true, Bool.false_eq_true, if_false]

end

variable {sp : Space} {e : RuleEntry} {valid : Bool}

/-- The state in which a pair's entry stands in the shadow, or has left it. -/
def State.stored (s : State) (sp : Space) (e : RuleEntry) (valid : Bool) : State :=
  ({ s with free := s.free + 1 } : State).setSpace s.me.asid { sp with shadow := putRule sp.shadow e valid }

/-- An entry that goes, or whose pair has one already, needs no room. -/
theorem storeRule_fits (h : valid = false ∨ ∃ x ∈ sp.shadow, x.kindLo = e.kindLo ∧ x.kindHi = e.kindHi) :
    s.storeRule sp e valid = (s.stored sp e valid).advance 4 := by
  have hfits : (valid && (sp.shadow.all fun x => !(x.kindLo == e.kindLo && x.kindHi == e.kindHi)) && Config.ruleFull s.free) = false := by
    obtain rfl | ⟨x, hx, hlo, hhi⟩ := h
    · rfl
    · have hpair : (sp.shadow.all fun x => !(x.kindLo == e.kindLo && x.kindHi == e.kindHi)) = false :=
        List.all_eq_false.mpr ⟨x, hx, by simp [hlo, hhi]⟩
      rw [hpair, Bool.and_false, Bool.false_and]
  unfold State.storeRule
  rw [hfits]
  rfl

/-- Otherwise the entry is stored, or the slot stalls, the shadow unchanged, with a record of the full table. -/
theorem storeRule_cases (s : State) (sp : Space) (e : RuleEntry) (valid : Bool) : s.storeRule sp e valid = (s.stored sp e valid).advance 4 ∨
    ∃ t : State, s.storeRule sp e valid = t.stall .pool ∧ CourierRec.ruleTableFull s.me.asid ∈ t.courier ∧ t.spaces = s.spaces := by
  unfold State.storeRule
  dsimp only
  split
  · refine .inr ⟨_, rfl, ?_⟩
    split
    · next hrec => exact ⟨List.contains_iff_mem.mp hrec, rfl⟩
    · exact ⟨List.mem_append_right _ (List.mem_singleton_self _), rfl⟩
  · exact .inl rfl

end

/-! ## Launches (R235) -/

section
variable {s t u v w x : State} {ind : Bool} {e : EFlags} {gd : BitVec 6} {a : BitVec 4} {o : Opnd} {bs ds : List Byte}
  (hc : s.check a (s.ptr a) 80 true false 16 = .ok o t) (hr : t.read o 80 = .ok bs u) (hrel : u.release e.scope = .ok () v)
  (hd : v.officeRead (parseBlock bs).desc 128 = .ok ds w)
include hc hr hrel hd

theorem opLaunch_faults {r : Nat} (h : w.launchReason (parseBlock bs) (parseDesc (parseBlock bs).desc ds) = some r) :
    opLaunch ind e gd a s = w.launchFault r := by
  unfold opLaunch
  simp only [hc, hr, hrel, hd, andThen_ok, h]

variable {n : Nat} (h : w.launchReason (parseBlock bs) (parseDesc (parseBlock bs).desc ds) = none)
  (hn : (if ind then w.indCount (parseBlock bs) e.scope else .ok (parseBlock bs).count w) = .ok n x)
include h hn

theorem opLaunch_tooMany (hbig : 2 ^ 24 ≤ n) : opLaunch ind e gd a s = x.launchFault 0x0B := by
  have hlt : 2 ^ 24 - 1 < n := by omega
  unfold opLaunch
  simp only [hc, hr, hrel, hd, andThen_ok, h, hn, if_pos hlt]

theorem opLaunch_adds (hlt : n < 2 ^ 24) (hpos : n = 0 ∨ x.somePosition (parseBlock bs) (parseDesc (parseBlock bs).desc ds) = true) :
    opLaunch ind e gd a s =
      (x.addLaunch x.me.asid (parseBlock bs) (parseDesc (parseBlock bs).desc ds) n).retG gd (BitVec.ofNat 64 n) 8 := by
  have hcount : ¬ 2 ^ 24 - 1 < n := by omega
  have hplace : ¬ (0 < n ∧ x.somePosition (parseBlock bs) (parseDesc (parseBlock bs).desc ds) = false) := by
    rintro ⟨h0, hnone⟩
    obtain rfl | hsome := hpos
    · exact absurd h0 (Nat.lt_irrefl 0)
    · exact absurd (hsome.symm.trans hnone) (by decide)
  unfold opLaunch
  simp only [hc, hr, hrel, hd, andThen_ok, h, hn, if_neg hcount, if_neg hplace]

end

end Sys2Proof.Machine

open Sys2Proof Sys2Proof.Machine

/-- Settles O38: each clause is what one instruction does, by that instruction's own lemma. -/
theorem rulesAndLaunches : Obligations.RulesAndLaunches := by
  unfold Obligations.RulesAndLaunches
  intro s s0 s1 s2 s3 s4 e gd a o bs ds sp r n ea b d launched
  have next {t u : State} (h : t = u) : (.next t : Out) = .next u := congrArg _ h
  refine ⟨fun h => ⟨next (opRuleset_refused h), next (opRulepub_refused h)⟩,
    fun h hc hr => ⟨fun hbad => next (opRuleset_faults h hc hr hbad), fun hok hsp => ⟨fun hfits => ?fits, ?full⟩⟩,
    fun h => next (opRulepub_sends h),
    fun hc hr hrel hd => ⟨fun hbad => ⟨next (opLaunch_faults hc hr hrel hd hbad), next (opLaunch_faults hc hr hrel hd hbad)⟩,
      fun hok => ⟨fun hlt hpos => next (opLaunch_adds (ind := false) hc hr hrel hd hok rfl hlt hpos), fun hn =>
        ⟨fun hlt hpos => next (opLaunch_adds (ind := true) hc hr hrel hd hok hn hlt hpos),
          fun hbig => next (opLaunch_tooMany (ind := true) hc hr hrel hd hok hn hbig)⟩⟩⟩⟩
  case fits => exact next ((opRuleset_stores h hc hr hok hsp).trans (storeRule_fits hfits))
  case full =>
    have hstores := opRuleset_stores h hc hr hok hsp
    obtain hput | ⟨t, hstall, hrec⟩ := storeRule_cases s1 sp (parseRule bs).1 (parseRule bs).2
    · exact .inl (next (hstores.trans hput))
    · exact .inr ⟨t, next (hstores.trans hstall), hrec⟩

end

section
/-! PROOFS. The end of a task and of its group's part, keys, the governor and the profile, as instructions (05 R79; 13 R218, R219; 14 R238-R241). -/

namespace Sys2Proof.Machine

/-! ## The slot that a task leaves (05 R79; 10 R173) -/

theorem retryDones_cur (s : State) : s.retryDones.cur = s.cur :=
  foldl_keeps (p := State.cur) (fun s h => by split <;> rfl) _ s

theorem foldl_raise_cur (f : α → Raised) (l : List α) (s : State) : (l.foldl (fun s a => s.raise (f a)) s).cur = s.cur :=
  foldl_keeps (p := State.cur) (f := fun s a => s.raise (f a)) (fun _ _ => rfl) l s

theorem endPin_cur (s : State) (p : Pin) : (s.endPin p).cur = s.cur := by
  unfold State.endPin
  refine (retryDones_cur _).trans ((foldl_raise_cur ..).trans ?_)
  have hperformed := (performFrom_tasks { s with pins := s.pins.filter (·.pline ≠ p.pline) } (s.towerOfCluster p.cluster) (p.pline * 128) p.data
    false []).cur
  split
  · exact (addWatch_cur ..).trans hperformed
  · exact hperformed

theorem unpinTask_cur (s : State) (tid : Nat) : (s.unpinTask tid).cur = s.cur := foldl_keeps endPin_cur _ s

theorem endSlot_me (s : State) : (s.endSlot s.cur).me = .empty := by
  have hset := setCtx_cur (s.unpinTask (s.ctx s.cur).tid) .empty
  rw [unpinTask_cur] at hset
  exact (freeSlot_tasks (s.unpinTask (s.ctx s.cur).tid) s.cur).me.trans (congrArg State.me hset)

/-- A task that is of no group leaves an empty slot. -/
theorem endTask_me {s : State} (hg : s.me.gid = none) (retired : Bool) : (s.endTask s.cur retired).me = .empty := by
  unfold State.endTask
  simp only [ctx_cur, hg]
  exact endSlot_me s

/-! ## RETIRE and KREL (R238, R239) -/

section
variable {s t : State}

theorem opRetire_ends (hb : s.engineBusy s.me.tid = false) (hr : s.release 0b10 = .ok () t) : opRetire s = t.endTask t.cur true := by
  unfold opRetire
  rw [hb, hr]
  rfl

theorem opRetire_waits (hb : s.engineBusy s.me.tid = true) : opRetire s = s.stall (.engine 0) := if_pos hb

variable {gd ga : BitVec 6}

theorem opKrel_gives (hk : s.keyHolder (bitsNat (s.getG ga).toNat 47 0) = some (s.holderOf s.me)) (hr : s.release 0b10 = .ok () t) :
    opKrel gd ga s = (t.releaseKey (bitsNat (s.getG ga).toNat 47 0)).retG gd 1 4 := by
  unfold opKrel
  rw [if_pos hk, hr]
  rfl

theorem opKrel_keeps (hk : s.keyHolder (bitsNat (s.getG ga).toNat 47 0) ≠ some (s.holderOf s.me)) : opKrel gd ga s = s.retG gd 0 4 := if_neg hk

end

/-! ## RETIRE.S (13 R218, R219) -/

/-- The slot is held for the successor `d` of its group. -/
def State.heldFor (s : State) (g : Group) (d : KDesc) : State :=
  ({ s with me := { s.me with run := .held } } : State).setGroup { g with held := g.held + 1, succ := some d }

/-- The last task of a group hands over to the successor. -/
theorem holdKey_last {s : State} {k : SlotKey} {g : Group} {d : KDesc} (hb : g.broken = false) (hl : g.held + 1 = g.live) :
    s.holdKey k g d = ((s.setCtx k { s.ctx k with run := .held }).setGroup { g with held := g.held + 1, succ := some d }).handOver
      { g with held := g.held + 1, succ := some d } d := by
  unfold State.holdKey
  simp only [hb, Bool.false_eq_true, if_false, if_pos hl]

section
variable {s t : State} {g : Group} {d : KDesc}

/-- A RETIRE.S whose release and whose commands are done holds its slot, and hands over with its group's last. -/
theorem retirePassed_holds (h : s.release d.rscope = .ok () t ∧ t.succQuiet t.me.tid g.desc = true ∧ g.broken = false) :
    (g.held + 1 ≠ g.live → s.retirePassed g d = t.heldFor g d) ∧
      (g.held + 1 = g.live → s.retirePassed g d = (t.heldFor g d).handOver { g with held := g.held + 1, succ := some d } d) := by
  obtain ⟨hr, hq, hb⟩ := h
  have hheld : s.retirePassed g d = t.holdKey t.cur g d := by
    unfold State.retirePassed
    rw [hr, andThen_ok, if_pos hq]
    rfl
  rw [hheld]
  refine ⟨fun hl => (holdKey_waits hb hl).trans ?_, fun hl => (holdKey_last hb hl).trans ?_⟩
  · rw [ctx_cur, setCtx_cur]
    rfl
  · rw [ctx_cur, setCtx_cur]
    rfl

variable {gid : Nat}

theorem opRetireS_alone (h : s.me.gid = none) : opRetireS s = s.illegal := by
  unfold opRetireS
  rw [h]
  rfl

variable (hgid : s.me.gid = some gid) (hg : s.groupOf gid = some g)
include hgid hg

theorem opRetireS_retry (hs : s.me.succ = some d) : opRetireS s = s.retirePassed g d := by
  unfold opRetireS
  simp only [hgid, Option.bind_some, hg, hs]

theorem opRetireS_unnamed (hs : s.me.succ = none) (h0 : g.desc.succ = 0) : opRetireS s = s.launchFault 0x0A := by
  unfold opRetireS
  simp only [hgid, Option.bind_some, hg, hs, if_pos h0]

variable {ds : List Byte} (hs : s.me.succ = none) (h0 : g.desc.succ ≠ 0) (hr : s.officeRead g.desc.succ.toNat 128 = .ok ds t)
include hs h0 hr

theorem opRetireS_refused {r : Nat} (h : t.succReason g (parseDesc g.desc.succ.toNat ds) = some r) : opRetireS s = t.launchFault r := by
  unfold opRetireS
  simp only [hgid, Option.bind_some, hg, hs, if_neg h0, hr, andThen_ok, h]

theorem opRetireS_passes (h : t.succReason g (parseDesc g.desc.succ.toNat ds) = none) : opRetireS s =
    ({ t with me := { t.me with succ := some (parseDesc g.desc.succ.toNat ds) } } : State).retirePassed g (parseDesc g.desc.succ.toNat ds) := by
  unfold opRetireS
  simp only [hgid, Option.bind_some, hg, hs, if_neg h0, hr, andThen_ok, h]

end

/-! ## The governor and the profile (R240, R241) -/

section
variable {s : State} {gd ga gb : BitVec 6}

theorem opGovset_refused (h : s.hasGov = false) : opGovset ga gb s = s.trap 0x03 0xA1 := by
  unfold opGovset
  rw [h]
  exact permTrap_rights s (by decide) (by decide)

theorem opProfrd_refused (h : s.hasGov = false) : opProfrd gd ga s = s.trap 0x03 0xA1 := by
  unfold opProfrd
  rw [h]
  exact permTrap_rights s (by decide) (by decide)

variable (h : s.hasGov = true)
include h

theorem opGovset_nothing (hw : (s.getG ga).getLsbD 9 = true) : opGovset ga gb s = s.advance 4 := by
  unfold opGovset
  simp only [h, hw, Bool.not_true, Bool.false_eq_true, if_false, if_true]

theorem opGovset_sends (hw : (s.getG ga).getLsbD 9 = false) : opGovset ga gb s =
    (s.hold (.towers 4)).raises ([0, 1, 2, 3].map fun t => Raised.governorSetting t s.cur (s.getG ga) (s.getG gb)) := by
  unfold opGovset
  simp only [h, hw, Bool.not_true, Bool.false_eq_true, if_false]

theorem opProfrd_dead (hl : s.coreLive (bitsNat (s.getG ga).toNat 9 0) = false) : opProfrd gd ga s = s.retG gd 0 4 := by
  unfold opProfrd
  simp only [h, hl, Bool.not_true, Bool.not_false, Bool.false_eq_true, if_false, if_true]

/-- The counter is counted up to now, read, and zeroed where the instruction asks for it. -/
theorem opProfrd_reads (hl : s.coreLive (bitsNat (s.getG ga).toNat 9 0) = true) :
    let u := s.account (bitsNat (s.getG ga).toNat 9 0)
    let k := profKey (bitsNat (s.getG ga).toNat 9 0) (bitsNat (s.getG ga).toNat 19 16) ((s.getG ga).getLsbD 24)
    opProfrd gd ga s = ({ u with profile := if (s.getG ga).getLsbD 31 then tset u.profile k 0 else u.profile } : State).retG gd
      ((tget 0 u.profile k).setWidth 64) 4 := by
  unfold opProfrd
  simp only [h, hl, Bool.not_true, Bool.false_eq_true, if_false]
  cases (s.getG ga).getLsbD 31 <;> rfl

end

end Sys2Proof.Machine

open Sys2Proof Sys2Proof.Machine

/-- Settles O39: each clause is what one instruction does, by that instruction's own lemma. -/
theorem taskEnds : Obligations.TaskEnds := by
  unfold Obligations.TaskEnds
  intro s s1 s2 gd ga gb g gid r ds x key core d u pk
  have next {a b : State} (h : a = b) : (.next a : Out) = .next b := congrArg _ h
  have hkey : bitsNat (s.getG ga).toNat 47 0 = key := bitsNat_low ..
  have hcore : bitsNat (s.getG ga).toNat 9 0 = core := bitsNat_low ..
  refine ⟨fun hb hr => ⟨next (opRetire_ends hb hr), fun hg => endTask_me hg true⟩, fun hb => next (opRetire_waits hb), fun hr => ?yields,
    fun hg => next (opRetireS_alone hg), fun hgid hg => ⟨fun hs => ⟨fun h0 => next (opRetireS_unnamed hgid hg hs h0), fun h0 hrd =>
      ⟨fun hbad => next (opRetireS_refused hgid hg hs h0 hrd hbad), fun hok hp => ?first⟩⟩, fun e hs hp => ?retry⟩,
    fun hk hr => ?gives, fun hk => ?keeps, fun hg => ⟨next (opGovset_refused hg), next (opProfrd_refused hg)⟩,
    fun hg => ⟨fun hw => next (opGovset_nothing hg hw), fun hw => next (opGovset_sends hg hw), fun hl => ?dead, fun hl => ?reads⟩⟩
  case yields =>
    refine next ((beginSuspend_eq _ _).trans ?_)
    simp only [State.advance, Ctx.advance_once hr, Ctx.ended, Ctx.at, hr]
    rfl
  case first =>
    obtain ⟨hwait, hlast⟩ := retirePassed_holds hp
    have hgoes := opRetireS_passes hgid hg hs h0 hrd hok
    exact ⟨fun hl => next (hgoes.trans (hwait hl)), fun hl => next (hgoes.trans (hlast hl))⟩
  case retry =>
    obtain ⟨hwait, hlast⟩ := retirePassed_holds hp
    have hgoes := opRetireS_retry hgid hg hs
    exact ⟨fun hl => next (hgoes.trans (hwait hl)), fun hl => next (hgoes.trans (hlast hl))⟩
  case gives =>
    rw [← hkey] at hk
    exact next ((opKrel_gives hk hr).trans (by rw [hkey]; rfl))
  case keeps =>
    rw [← hkey] at hk
    exact next (opKrel_keeps hk)
  case dead =>
    rw [← hcore] at hl
    exact next (opProfrd_dead hg hl)
  case reads =>
    rw [← hcore] at hl
    refine next ((opProfrd_reads hg hl).trans ?_)
    rw [hcore]
    rfl

end

section
/-! PROOFS. What accesses of memory leave of the matrix arrays (09 R143-R160; 10 R163-R173): the commands, the tiles and the B-store. -/

namespace Sys2Proof.Machine

/-! ## All that an access changes -/

/-- `s` with what accesses of memory change as it is in `u`: memory, caches, clocks, routers, ports, pins and requests, and what they raise. -/
def State.accessed (s u : State) : State :=
  { s with
    cores := u.cores, towers := u.towers, mem := u.mem, poison := u.poison, tlb := u.tlb, l2 := u.l2, rdc := u.rdc, msc := u.msc,
    misses := u.misses, pins := u.pins, reqs := u.reqs, anns := u.anns, watches := u.watches, gated := u.gated, stale := u.stale,
    routed := u.routed, courier := u.courier, raised := u.raised, free := u.free }

/-- `t` is `s` after accesses of memory, and nothing else of it changed. -/
def AccessesTo (s t : State) : Prop := t = s.accessed t

theorem AccessesTo.refl (s : State) : AccessesTo s s := rfl

theorem AccessesTo.trans {s t u : State} (h : AccessesTo s t) (h' : AccessesTo t u) : AccessesTo s u := by
  unfold AccessesTo at *
  rw [h] at h'
  exact h'

theorem AccessesTo.foldl {f : State → α → State} (hf : ∀ s a, AccessesTo s (f s a)) : ∀ (l : List α) (s : State), AccessesTo s (l.foldl f s)
  | [], s => .refl s
  | a :: l, s => (hf s a).trans (AccessesTo.foldl hf l (f s a))

theorem AccessesTo.ite {s t u : State} {p : Prop} [Decidable p] (ht : AccessesTo s t) (hu : AccessesTo s u) : AccessesTo s (if p then t else u) := by
  split
  · exact ht
  · exact hu

theorem RaisesTo.accesses {s t : State} : RaisesTo s t → AccessesTo s t := by
  rintro ⟨l, rfl⟩
  rfl

section
variable {s t : State} (h : AccessesTo s t)
include h

theorem AccessesTo.eq : t = s.accessed t := h
theorem AccessesTo.mcmds : t.mcmds = s.mcmds := (congrArg State.mcmds h.eq).trans rfl
theorem AccessesTo.acc : t.acc = s.acc := (congrArg State.acc h.eq).trans rfl
theorem AccessesTo.bstore : t.bstore = s.bstore := (congrArg State.bstore h.eq).trans rfl

end

/-! ## Clocks and homes (10 R163, R170) -/

theorem wakeRouter_accesses (s : State) (t h : Nat) : AccessesTo s (s.wakeRouter t h) := by
  obtain ⟨_, _, _, _, _, e⟩ := wakeRouter_eq s t h
  rw [e]
  rfl

theorem wakeHome_accesses (s : State) (pa : Nat) : AccessesTo s (s.wakeHome pa) := by
  obtain ⟨_, _, _, _, _, e⟩ := wakeHome_eq s pa
  rw [e]
  rfl

theorem mscAdd_accesses (s : State) (pline : Nat) : AccessesTo s (s.mscAdd pline) := by
  obtain ⟨_, _, e⟩ := mscAdd_eq s pline
  rw [e]
  rfl

theorem rdcAdd_accesses (s : State) (t pa : Nat) : AccessesTo s (s.rdcAdd t pa) := by
  obtain ⟨_, _, _, e⟩ := rdcAdd_eq s t pa
  rw [e]
  rfl

theorem bringUp_accesses (t : Nat) (need : Vector (BitVec 20) 4) : ∀ (n : Nat) (s : State), AccessesTo s (s.bringUp t need n)
  | 0, s => .refl s
  | n + 1, s => by
    unfold State.bringUp
    split
    · exact .refl s
    · split
      · next a _ => exact AccessesTo.trans (t := s.applyAnn a) rfl (bringUp_accesses t need n _)
      · exact .refl s

theorem reach_accesses (s : State) (t : Nat) (need : Vector (BitVec 20) 4) : AccessesTo s (s.reach t need) :=
  .ite (.refl s) ((bringUp_accesses t need _ s).trans (clockMoved_raises ..).accesses)

theorem openGap_accesses (s : State) (h : Nat) : AccessesTo s (s.openGap h) :=
  .ite (.refl s) (.foldl (fun s u => reach_accesses s u _) _ s)

theorem reachHome_accesses (s : State) (t pa : Nat) : AccessesTo s (s.reachHome t pa) := by
  unfold State.reachHome
  split
  · exact (AccessesTo.ite (.refl s) (reach_accesses ..)).trans (wakeHome_accesses ..)
  · exact .refl s

theorem performAt_accesses (s : State) (pa : Nat) (d : List Byte) (c : Bool) (bad : List Nat) : AccessesTo s (s.performAt pa d c bad) := by
  cases hh : homeOf pa with
  | none => unfold State.performAt; rw [hh]; exact .refl s
  | some home =>
    cases home with
    | tower h =>
      obtain ⟨_, _, _, _, _, _, _, _, _, _, e⟩ := performAt_tower_eq hh s d c bad
      rw [e]
      rfl
    | host => unfold State.performAt; rw [hh]; rfl
    | peer p => unfold State.performAt; rw [hh]; exact .ite rfl rfl

theorem performFrom_accesses (s : State) (w pa : Nat) (d : List Byte) (c : Bool) (bad : List Nat) :
    AccessesTo s (s.performFrom w pa d c bad) := by
  unfold State.performFrom
  split
  · next h _ =>
    have hdone := ((openGap_accesses s h).trans (reach_accesses _ h (s.vc w))).trans (performAt_accesses _ pa d c bad)
    exact .ite hdone (hdone.trans (reach_accesses ..))
  · exact performAt_accesses ..

/-! ## Pins (10 R172, R173) -/

theorem addWatch_accesses (s : State) (cl line : Nat) : AccessesTo s (s.addWatch cl line) := by
  have evicted (u : State) (l : List Watch) : AccessesTo u (match l with
      | oldest :: _ => if 256 ≤ l.length then ({ u with watches := u.watches.erase oldest }).raise (.wakeWrite oldest.cluster oldest.line) else u
      | [] => u) := by
    cases l
    · exact .refl u
    · exact .ite rfl (.refl u)
  exact .ite (wakeHome_accesses ..) ((wakeHome_accesses ..).trans ((evicted ..).trans rfl))

theorem endPin_accesses (s : State) (p : Pin) : AccessesTo s (s.endPin p) := by
  have performed := performFrom_accesses { s with pins := s.pins.filter (·.pline ≠ p.pline) } (s.towerOfCluster p.cluster) (p.pline * 128) p.data
    false []
  have watched (u : State) (c : Bool) : AccessesTo u (if c then u.addWatch p.cluster p.pline else u) := .ite (addWatch_accesses ..) (.refl u)
  have retried (u : State) (l : List Req) : AccessesTo u (l.foldl (fun s r => s.raise (.performAtHome r.id)) u).retryDones :=
    (AccessesTo.foldl (f := fun s (r : Req) => s.raise (.performAtHome r.id)) (fun _ _ => rfl) l u).trans (retryDones_raises _).accesses
  have answered (u : State) (l : List Req) : AccessesTo u { u with reqs := l } := rfl
  exact (AccessesTo.trans (t := { s with pins := s.pins.filter (·.pline ≠ p.pline) }) rfl performed).trans
    ((answered ..).trans ((watched ..).trans (retried ..)))

theorem place_accesses (s : State) (w pa : Nat) (d : List Byte) (c : Bool) (bad : List Nat) : AccessesTo s (s.place w pa d c bad) := by
  unfold State.place
  split
  · rfl
  · exact performFrom_accesses ..

/-! ## Translation (09 R146-R149) -/

theorem fillL2_accesses (s : State) (e : TlbEntry) (va : Nat) : AccessesTo s (s.fillL2 e va) :=
  .ite (AccessesTo.trans (t := { s with l2 := _, free := _ }) rfl (mscAdd_accesses ..)) (.refl s)

theorem prefetch_accesses (s : State) (e : TlbEntry) (va : Nat) : AccessesTo s (s.prefetch e va) := by
  have missed (c : Bool) (l : List (Nat × Nat × Nat)) : AccessesTo s (if c then s else { s with misses := l }) := .ite (.refl s) rfl
  have ahead (l : List Nat) (u : State) : AccessesTo u (l.foldl (fun s l => s.fillL2 e (l * 128)) u) := .foldl (fun s _ => fillL2_accesses s e _) l u
  have drawn (u : State) : AccessesTo u { u with free := u.free + 1 } := rfl
  exact .ite (((missed ..).trans (drawn _)).trans (ahead ..)) (missed ..)

theorem setAD_accesses (s : State) (w : Nat) (l : Leaf) (write : Bool) : AccessesTo s (s.setAD w l write) :=
  .ite (.refl s) (performFrom_accesses ..)

theorem walkSlice_accesses {s u : State} {w : Who} {h va : Nat} {cls : Bool} {acc : Acc} {e : TlbEntry}
    (hok : s.walkSlice w h va cls acc = .ok (e, u)) : AccessesTo s u := by
  have walked (root : Nat) : AccessesTo s (s.walkWake root va cls) := .foldl wakeHome_accesses _ s
  unfold State.walkSlice at hok
  dsimp only at hok
  split at hok
  · cases hok
  · split at hok
    · cases hok
    · cases hok
      exact ((walked _).trans (setAD_accesses ..)).trans rfl

theorem translate_accesses {s u : State} {w : Who} {va pa : Nat} {cls : Bool} {acc : Acc} (hok : s.translate w va cls acc = .ok pa u) :
    AccessesTo s u := by
  unfold State.translate at hok
  dsimp only at hok
  have hw : AccessesTo s ((if w.core < 1028 then s.wakeCore w.core else s).wakeRouter w.tower (s.sliceOf w.tower va)) :=
    (AccessesTo.ite (wakeRouter_accesses ..) (.refl s)).trans (wakeRouter_accesses ..)
  generalize (if w.core < 1028 then s.wakeCore w.core else s).wakeRouter w.tower (s.sliceOf w.tower va) = v at hok hw
  split at hok
  · split at hok
    · cases hok; exact hw
    · cases hok
  · split at hok
    · cases hok
    · next e x hgot =>
      have hx : AccessesTo v x := by
        split at hgot
        · cases hgot; exact .refl v
        · exact walkSlice_accesses hgot
      split at hok
      · cases hok
        exact ((hw.trans hx).trans (prefetch_accesses ..)).trans (fillL2_accesses ..)
      · cases hok

/-! ## The accesses of an engine (09 R160; 10 R170, R173, R176) -/

theorem engXlate_accesses {s u : State} {w : EWho} {va pa : Nat} {cls : Bool} {acc : Acc} (h : s.engXlate w va cls acc = .ok pa u) :
    AccessesTo s u := by
  unfold State.engXlate at h
  split at h
  · next ht => cases h; exact translate_accesses ht
  · cases h
  · cases h

theorem engBytes_accesses (s : State) (w : EWho) (pa n : Nat) : AccessesTo s (s.engBytes w pa n).2 := by
  unfold State.engBytes
  dsimp only
  split
  · exact .ite (.refl s) (reachHome_accesses ..)
  · exact .ite (.refl s) ((reachHome_accesses ..).trans (rdcAdd_accesses ..))

theorem engLine_accesses {s u : State} {w : EWho} {va n : Nat} {cls : Bool} {bs : List PByte} (h : s.engLine w va n cls = .ok bs u) :
    AccessesTo s u := by
  obtain ⟨pa, v, hx, h⟩ := eng_bind_eq_ok.mp h
  split at h
  · cases h
  · cases h
    exact (engXlate_accesses hx).trans (engBytes_accesses ..)

theorem engLines_accesses {w : EWho} {cls : Nat → Bool} : ∀ {l : List (Nat × Nat)} {s u : State} {bs : List PByte},
    s.engLines w cls l = .ok bs u → AccessesTo s u
  | [], s, u, bs, h => by cases h; exact .refl s
  | (va, n) :: l, s, u, bs, h => by
    obtain ⟨_, v, hline, h⟩ := eng_bind_eq_ok.mp h
    obtain ⟨_, x, hrest, h⟩ := eng_bind_eq_ok.mp h
    cases h
    exact (engLine_accesses hline).trans (engLines_accesses hrest)

theorem engRead_accesses {s u : State} {w : EWho} {va n : Nat} {bs : List PByte} (h : s.engRead w va n = .ok bs u) : AccessesTo s u :=
  engLines_accesses h

theorem mapLines_accesses {w : EWho} {acc : Acc} : ∀ {l : List Nat} {s u : State} {m : List (Nat × Nat)},
    s.mapLines w acc l = .ok m u → AccessesTo s u
  | [], s, u, m, h => by cases h; exact .refl s
  | line :: l, s, u, m, h => by
    obtain ⟨_, v, hx, h⟩ := eng_bind_eq_ok.mp h
    obtain ⟨_, x, hrest, h⟩ := eng_bind_eq_ok.mp h
    cases h
    exact (engXlate_accesses hx).trans (mapLines_accesses hrest)

theorem engUnpin_accesses (s : State) (w : EWho) (tid : Nat) (scope : BitVec 2) (pa : Nat) : AccessesTo s (s.engUnpin w tid scope pa) := by
  unfold State.engUnpin
  split
  · exact .ite (endPin_accesses ..) (.refl s)
  · exact .refl s

theorem putPiece_accesses (s : State) (t : Nat) (cs : List (Nat × PByte)) (p : Nat) : AccessesTo s (s.putPiece t cs p) := place_accesses ..

theorem engPay_accesses (s : State) (k : SlotKey) (asid id cost paid : Nat) : AccessesTo s (s.engPay k asid id cost paid).2 := by
  have leaves (u : State) : AccessesTo u (u.payPiece k asid id paid).2 := by
    unfold State.payPiece
    dsimp only
    split <;> rfl
  unfold State.engPay
  split
  · exact .refl s
  · exact (wakeRouter_accesses ..).trans (leaves _)

theorem reachBlock_accesses (s : State) (c : MCmd) (l : Nat) : AccessesTo s (s.reachBlock c l) :=
  .ite (.refl s) (.ite (reachHome_accesses ..) ((reachHome_accesses ..).trans (rdcAdd_accesses ..)))

/-! ## Where a block's bytes stand does not turn on the model's free choices (09 R157) -/

theorem wakeRouter_free (s : State) (n t h : Nat) : ({ s with free := n } : State).wakeRouter t h = { s.wakeRouter t h with free := n } := by
  unfold State.wakeRouter
  dsimp only
  split
  · split <;> rfl
  · rfl

/-- The translation that a walk of a slice makes of the leaf that it finds. -/
def Leaf.translation (l : Leaf) (w : Who) (h va : Nat) (cls : Bool) (acc : Acc) : TlbEntry :=
  ⟨w.tower, h, w.asid, cls, va / pageBytes cls, l.frame, decide (bitsNat l.entry 1 1 = 1), decide (bitsNat l.entry 2 2 = 1),
    decide (bitsNat l.entry 6 6 = 1), accWrite acc || decide (bitsNat l.entry 5 5 = 1)⟩

theorem walkSlice_translation (s : State) (w : Who) (h va : Nat) (cls : Bool) (acc : Acc) :
    (s.walkSlice w h va cls acc).toOption.map Prod.fst =
      (s.space w.asid).bind fun sp => (s.walk sp.root va cls).toOption.map (·.translation w h va cls acc) := by
  unfold State.walkSlice
  cases s.space w.asid with
  | none => rfl
  | some sp =>
    obtain ⟨hm, hl, -⟩ := walkWake_keeps s sp.root va cls
    dsimp only [Option.bind_some]
    rw [walk_congr hm hl]
    cases s.walk sp.root va cls <;> rfl

/-- The translation that a slice has of an address, in its cache or by a walk. -/
def State.found (s : State) (w : Who) (h va : Nat) (cls : Bool) (acc : Acc) : Except State (TlbEntry × State) :=
  match (s.cached w.tower h w.asid va cls).filter (fun e => !(accWrite acc && !e.d)) with
  | some e => .ok (e, s)
  | none => s.walkSlice w h va cls acc

theorem found_free (s : State) (n : Nat) (w : Who) (h va : Nat) (cls : Bool) (acc : Acc) :
    (({ s with free := n } : State).found w h va cls acc).toOption.map Prod.fst = (s.found w h va cls acc).toOption.map Prod.fst := by
  have hcached : ({ s with free := n } : State).cached w.tower h w.asid va cls = s.cached w.tower h w.asid va cls := rfl
  have hspace : ({ s with free := n } : State).space w.asid = s.space w.asid := rfl
  have hwalk (root : Nat) : ({ s with free := n } : State).walk root va cls = s.walk root va cls := walk_congr rfl rfl root va cls
  unfold State.found
  rw [hcached]
  split
  · rfl
  · simp only [walkSlice_translation, hspace, hwalk]

/-- The physical address that a lookup gives. -/
def Look.pa? : Look → Option Nat
  | .ok pa _ => some pa
  | .fault _ | .denied _ => none

/-- What a lookup past the router answers. -/
def State.answered (s : State) (w : Who) (h va : Nat) (cls : Bool) (acc : Acc) : Option Nat :=
  match (s.l2.find? fun l => l.tower == w.tower && l.slice == h && l.asid == w.asid && l.vline == va / 128 && (l.r || l.w || l.x)).filter
      fun l => !(accWrite acc && !l.d) with
  | some l => if accAllowed acc l.r l.w l.x then some (l.pline * 128 + va % 128) else none
  | none => ((s.found w h va cls acc).toOption.map Prod.fst).bind fun e =>
    if accAllowed acc e.r e.w e.x then some (e.frame + va % pageBytes cls) else none

theorem translate_pa? (s : State) (w : Who) (va : Nat) (cls : Bool) (acc : Acc) : (s.translate w va cls acc).pa? =
    ((if w.core < 1028 then s.wakeCore w.core else s).wakeRouter w.tower (s.sliceOf w.tower va)).answered w (s.sliceOf w.tower va) va cls acc := by
  unfold State.translate State.answered
  dsimp only
  generalize (if w.core < 1028 then s.wakeCore w.core else s).wakeRouter w.tower (s.sliceOf w.tower va) = v
  generalize Option.filter _ (v.l2.find? _) = hit
  cases hit with
  | some l =>
    dsimp only
    split <;> rfl
  | none =>
    change Look.pa? (match v.found w (s.sliceOf w.tower va) va cls acc with | .error s => _ | .ok (e, s) => _) = _
    cases v.found w (s.sliceOf w.tower va) va cls acc with
    | error t => rfl
    | ok e =>
      dsimp only [Except.toOption, Option.map_some, Option.bind_some]
      split <;> rfl

theorem translate_free (s : State) (n : Nat) (w : Who) (va : Nat) (cls : Bool) (acc : Acc) :
    (({ s with free := n } : State).translate w va cls acc).pa? = (s.translate w va cls acc).pa? := by
  have woken : (if w.core < 1028 then ({ s with free := n } : State).wakeCore w.core else { s with free := n }).wakeRouter w.tower
      (s.sliceOf w.tower va) =
      { (if w.core < 1028 then s.wakeCore w.core else s).wakeRouter w.tower (s.sliceOf w.tower va) with free := n } := by
    rw [← wakeRouter_free]
    split
    · exact congrArg (·.wakeRouter w.tower (s.sliceOf w.tower va)) (wakeRouter_free ..)
    · rfl
  have hslice : ({ s with free := n } : State).sliceOf w.tower va = s.sliceOf w.tower va := rfl
  rw [translate_pa?, translate_pa?, hslice, woken]
  unfold State.answered
  rw [found_free]

/-- Who asks for an engine's translation (R151). -/
def EWho.asker (w : EWho) : Who := ⟨w.tower, w.asid, 0xFFFF, w.index, w.origin⟩

/-- A byte of a block stands where its line translates to, else where it did when the command was attached. -/
theorem blockPa_eq (s : State) (c : MCmd) (acc : Acc) (va : Nat) : s.blockPa c acc va =
    (s.translate (s.mWho c).asker va (s.classAt (coreOfKey c.key) va) acc).pa?.getD
      ((c.map.find? (·.1 == va / 128)).elim 0 Prod.snd * 128 + va % 128) := by
  unfold State.blockPa State.engXlate EWho.asker
  cases s.translate _ va (s.classAt (coreOfKey c.key) va) acc with
  | ok pa t => rfl
  | fault t => cases c.map.find? (·.1 == va / 128) <;> rfl
  | denied t => cases c.map.find? (·.1 == va / 128) <;> rfl

theorem blockPa_free (s : State) (n : Nat) (c : MCmd) (acc : Acc) (va : Nat) :
    ({ s with free := n } : State).blockPa c acc va = s.blockPa c acc va := by
  rw [blockPa_eq, blockPa_eq, translate_free]
  rfl

end Sys2Proof.Machine
end

section
/-! PROOFS. What the shared operations of the matrix arrays leave of the commands and of the stores (16 R245-R254). -/

namespace Sys2Proof.Machine

/-! ## The commands listed -/

/-- The commands that a state lists, by id. -/
def State.listed (s : State) : List Nat := s.mcmds.map (·.id)

theorem AccessesTo.listed {s t : State} (h : AccessesTo s t) : t.listed = s.listed := congrArg (List.map MCmd.id) h.mcmds

@[simp] theorem putM_listed (s : State) (c : MCmd) : (s.putM c).listed = s.listed := by
  unfold State.listed State.putM mapIf
  rw [List.map_map]
  refine List.map_congr_left fun y _ => ?_
  dsimp only [Function.comp]
  split
  · next h => exact (beq_iff_eq.mp h).symm
  · rfl

/-- A command put stands in the list where one of its id did. -/
theorem mem_putM {s : State} {c : MCmd} (h : c.id ∈ s.listed) : c ∈ (s.putM c).mcmds := by
  obtain ⟨y, hy, hid⟩ := List.mem_map.mp h
  exact List.mem_map.mpr ⟨y, hy, if_pos (beq_iff_eq.mpr hid)⟩

theorem unlisted_ne {s : State} {id : Nat} (h : id ∉ s.listed) : ∀ y ∈ s.mcmds, y.id ≠ id :=
  fun _ hy he => h (List.mem_map.mpr ⟨_, hy, he⟩)

theorem runningM_listed {s : State} {cl : Nat} {c : MCmd} (h : s.runningM cl = some c) : c.id ∈ s.listed := by
  unfold State.runningM at h
  split at h
  · exact List.mem_map_of_mem (List.mem_of_find?_eq_some h)
  · cases h

@[simp] theorem setCtx_mcmds (s : State) (k : SlotKey) (c : Ctx) : (s.setCtx k c).mcmds = s.mcmds := by
  unfold State.setCtx
  split <;> rfl

@[simp] theorem completeSlot_mcmds (s : State) (k : SlotKey) (f : Ctx → Ctx) (len : Nat) : (s.completeSlot k f len).mcmds = s.mcmds :=
  setCtx_mcmds ..

theorem wakeArray_listed (s : State) (cl : Nat) : (s.wakeArray cl).listed = s.listed := by
  unfold State.wakeArray
  split <;> rfl

theorem entered_listed (s : State) (id : Nat) :
    ({ s with mcmds := mapIf (·.id == id) MCmd.entered s.mcmds } : State).listed = s.listed := by
  unfold State.listed mapIf
  rw [List.map_map]
  refine List.map_congr_left fun y _ => ?_
  dsimp only [Function.comp]
  split <;> rfl

theorem entryFree_listed (s : State) (cl q : Nat) : (s.entryFree cl q).listed = s.listed := by
  have completed (u : State) (k : SlotKey) : (u.completeSlot k id 4).listed = u.listed := congrArg (List.map MCmd.id) (completeSlot_mcmds ..)
  unfold State.entryFree
  dsimp only
  split
  · next c _ =>
    have entered := (wakeArray_listed _ cl).trans (entered_listed s c.id)
    split
    · split
      · exact (completed ..).trans entered
      · exact entered
    · rfl
  · split <;> rfl

theorem arrayFree_listed (s : State) (cl : Nat) : (s.arrayFree cl).listed = s.listed := by
  unfold State.arrayFree
  dsimp only
  split <;> rfl

/-- A command that is dropped is listed no more. -/
theorem dropM_unlists (s : State) (c : MCmd) : c.id ∉ (s.dropM c).listed := by
  have dropped : c.id ∉ (({ s with mcmds := s.mcmds.filter (·.id ≠ c.id) } : State).leavePortE c.key c.id).listed := by
    intro h
    obtain ⟨y, hy, hid⟩ := List.mem_map.mp h
    exact of_decide_eq_true (List.mem_filter.mp hy).2 hid
  unfold State.dropM
  dsimp only
  rw [apply_ite State.listed, arrayFree_listed, ite_self, apply_ite State.listed, entryFree_listed, ite_self]
  exact dropped

theorem wakeMx_mcmds (s : State) (tid : Nat) : (s.wakeMx tid).mcmds = s.mcmds := by
  unfold State.wakeMx
  split
  · split
    · split
      · exact (completeSlot_mcmds ..).trans ((reach_accesses ..).trans rfl : AccessesTo s (s.acquireAll _)).mcmds
      · rfl
    · rfl
  · rfl

theorem undoDraws_mcmds (s : State) (c : MCmd) : (s.undoDraws c).mcmds = s.mcmds := by
  unfold State.undoDraws
  split
  · exact setCtx_mcmds ..
  all_goals rfl

theorem endM_gone (s : State) (c : MCmd) : ∀ y ∈ (s.endM c).mcmds, y.id ≠ c.id := by
  unfold State.endM
  rw [wakeMx_mcmds]
  exact unlisted_ne (dropM_unlists s c)

/-! ## The stores -/

/-- Memory, the accumulators and the B-store. -/
def State.stores (s : State) : List Host.Cell × Table (BitVec 32) × List Host.Cell := (s.mem, s.acc, s.bstore)

/-- Both states hold the same in memory, in the accumulators and in the B-store. -/
def SameStores (s t : State) : Prop := t.stores = s.stores

theorem SameStores.refl (s : State) : SameStores s s := rfl
theorem SameStores.trans {s t u : State} (h : SameStores s t) (h' : SameStores t u) : SameStores s u := Eq.trans h' h

theorem SameStores.ite {s t u : State} {p : Prop} [Decidable p] (ht : SameStores s t) (hu : SameStores s u) : SameStores s (if p then t else u) := by
  split
  · exact ht
  · exact hu

theorem SameStores.mem {s t : State} (h : SameStores s t) : t.mem = s.mem := congrArg (·.1) h
theorem SameStores.acc {s t : State} (h : SameStores s t) : t.acc = s.acc := congrArg (·.2.1) h
theorem SameStores.bstore {s t : State} (h : SameStores s t) : t.bstore = s.bstore := congrArg (·.2.2) h

/-- Accesses that write nothing leave the stores. -/
theorem AccessesTo.sameStores {s t : State} (h : AccessesTo s t) (hm : t.mem = s.mem) : SameStores s t := by
  unfold SameStores State.stores
  rw [hm, h.acc, h.bstore]

theorem setCtx_stores (s : State) (k : SlotKey) (c : Ctx) : SameStores s (s.setCtx k c) := by
  unfold State.setCtx
  exact .ite rfl rfl

theorem completeSlot_stores (s : State) (k : SlotKey) (f : Ctx → Ctx) (len : Nat) : SameStores s (s.completeSlot k f len) :=
  (setCtx_stores ..).trans rfl

theorem putSteps_stores (s : State) (c : MCmd) (n : Nat) : SameStores s (s.putSteps c n) := setCtx_stores ..

theorem putM_putSteps_stores (s : State) (c : MCmd) (n : Nat) : SameStores s ((s.putM c).putSteps c n) :=
  SameStores.trans (t := s.putM c) rfl (putSteps_stores ..)

theorem finishMma_stores (s : State) (c : MCmd) : SameStores s (s.finishMma c) :=
  ((putSteps_stores ..).trans (completeSlot_stores ..)).trans rfl

theorem undoDraws_stores (s : State) (c : MCmd) : SameStores s (s.undoDraws c) := by
  unfold State.undoDraws
  split
  · exact setCtx_stores ..
  all_goals rfl

theorem entryFree_stores (s : State) (cl q : Nat) : SameStores s (s.entryFree cl q) := by
  have woken (u : State) : SameStores u (u.wakeArray cl) := .ite rfl rfl
  unfold State.entryFree
  dsimp only
  split
  · next c _ =>
    have entered : SameStores s (({ s with mcmds := mapIf (·.id == c.id) MCmd.entered s.mcmds } : State).wakeArray cl) :=
      SameStores.trans (t := { s with mcmds := _ }) rfl (woken _)
    exact .ite (.ite (entered.trans (completeSlot_stores ..)) entered) (.refl s)
  · exact .ite rfl (.refl s)

theorem arrayFree_stores (s : State) (cl : Nat) : SameStores s (s.arrayFree cl) := .ite rfl rfl

theorem dropM_stores (s : State) (c : MCmd) : SameStores s (s.dropM c) := by
  have freed (u : State) : SameStores u (if c.inQueue then u.entryFree c.cluster c.queue else u) := .ite (entryFree_stores ..) (.refl u)
  have idle (u : State) : SameStores u (if (u.cluster c.cluster).runCmd = some c.id then u.arrayFree c.cluster else u) :=
    .ite (arrayFree_stores ..) (.refl u)
  exact SameStores.trans (t := ({ s with mcmds := s.mcmds.filter (·.id ≠ c.id) } : State).leavePortE c.key c.id) rfl ((freed _).trans (idle _))

theorem acquireAll_stores (s : State) (core : Nat) : SameStores s (s.acquireAll core) :=
  ((reach_accesses ..).sameStores (reach_mem ..)).trans rfl

theorem wakeMx_stores (s : State) (tid : Nat) : SameStores s (s.wakeMx tid) := by
  unfold State.wakeMx
  split
  · split
    · exact .ite ((acquireAll_stores ..).trans (completeSlot_stores ..)) (.refl s)
    · exact .refl s
  · exact .refl s

theorem endM_stores (s : State) (c : MCmd) : SameStores s (s.endM c) := (dropM_stores ..).trans (wakeMx_stores ..)

theorem reachHome_mem (s : State) (t pa : Nat) : (s.reachHome t pa).mem = s.mem := by
  unfold State.reachHome
  split
  · rw [wakeHome_mem, apply_ite State.mem, reach_mem, ite_self]
  · rfl

theorem reachBlock_stores (s : State) (c : MCmd) (l : Nat) : SameStores s (s.reachBlock c l) := by
  refine (reachBlock_accesses s c l).sameStores ?_
  unfold State.reachBlock
  dsimp only
  obtain ⟨_, _, _, e⟩ := rdcAdd_eq (s.reachHome (s.mWho c).tower (l * 128)) (s.mWho c).tower (l * 128)
  rw [apply_ite State.mem, apply_ite State.mem, e, reachHome_mem, ite_self, ite_self]

@[simp] theorem putB_mem (s : State) (cs : List (Nat × PByte)) : (s.putB cs).mem = s.mem := rfl

/-! ## The port (09 R160; 12 R194) -/

theorem engPay_mem (s : State) (k : SlotKey) (asid id cost paid : Nat) : (s.engPay k asid id cost paid).2.mem = s.mem := by
  have leaves (u : State) : (u.payPiece k asid id paid).2.mem = u.mem := by
    unfold State.payPiece
    dsimp only
    split <;> rfl
  unfold State.engPay
  split
  · rfl
  · exact (leaves _).trans (wakeRouter_mem ..)

/-- A command that pays is the same but for what it has paid, and is put back. -/
theorem payM_eq {s s1 : State} {c c1 : MCmd} {cost : Nat} (h : s.payM c cost = (c1, s1)) :
    ∃ n u, c1 = { c with paid := n } ∧ s1 = u.putM c1 ∧ AccessesTo s u ∧ u.mem = s.mem := by
  cases h
  exact ⟨_, _, rfl, rfl, engPay_accesses .., engPay_mem ..⟩

theorem payM_id {s s1 : State} {c c1 : MCmd} {cost : Nat} (h : s.payM c cost = (c1, s1)) : c1.id = c.id := by
  obtain ⟨_, _, rfl, -⟩ := payM_eq h
  rfl

theorem payM_cluster {s s1 : State} {c c1 : MCmd} {cost : Nat} (h : s.payM c cost = (c1, s1)) : c1.cluster = c.cluster := by
  obtain ⟨_, _, rfl, -⟩ := payM_eq h
  rfl

theorem payM_listed {s s1 : State} {c c1 : MCmd} {cost : Nat} (h : s.payM c cost = (c1, s1)) : s1.listed = s.listed := by
  obtain ⟨n, u, -, rfl, hu, -⟩ := payM_eq h
  exact (putM_listed ..).trans hu.listed

theorem payM_stores {s s1 : State} {c c1 : MCmd} {cost : Nat} (h : s.payM c cost = (c1, s1)) : SameStores s s1 := by
  obtain ⟨n, u, -, rfl, hu, hm⟩ := payM_eq h
  exact (hu.sameStores hm).trans rfl

end Sys2Proof.Machine
end

section
/-! PROOFS. The matrix arrays on their own (16 R246-R256; 17 R262-R268): one lemma for each thing that a step can do. -/

namespace Sys2Proof.Machine

/-! ## The progress of a command in its slot (16 R253, R254) -/

section
variable (s : State) (c : MCmd) (n : Nat)

theorem putSteps_mcmds : (s.putSteps c n).mcmds = s.mcmds := setCtx_mcmds ..

theorem putSteps_raised : (s.putSteps c n).raised = s.raised := by
  unfold State.putSteps State.setCtx
  split <;> rfl

theorem putSteps_progress : ((s.putSteps c n).ctx c.key).getG c.gbReg =
    if c.gbReg = 0 then 0 else putProgress ((s.ctx c.key).getG c.gbReg) n := by
  unfold State.putSteps
  rw [ctx_setCtx]
  split
  · next h => rw [h, Ctx.getG_zero]
  · next h => exact Ctx.getG_setG _ _ h

end

/-! ## The arbiter starts a command (16 R247, R256; 17 R262-R268) -/

/-- The arbiter's choice: the queue, what is left of its turn, and the command that the array performs now. -/
def State.choose (s : State) (cl q left id : Nat) : State :=
  s.setCluster cl { s.cluster cl with lastQ := q, turnLeft := left, runCmd := some id }

theorem opMatrixArbiterSelect_starts {s : State} {cl q left : Nat} {c : MCmd} (hidle : (s.cluster cl).runCmd = none)
    (hq : s.nextQueue cl = some (q, left)) (hc : s.mcmds.find? (fun y => y.cluster == cl && y.queue == q && y.inQueue) = some c) :
    opMatrixArbiterSelect cl s = (s.choose cl q left c.id).startM c := by
  unfold opMatrixArbiterSelect
  simp only [hidle, hq, hc, Option.isSome_none, Bool.false_eq_true, if_false]
  rfl

theorem choose_runCmd (s : State) (cl q left id : Nat) : ((s.choose cl q left id).cluster cl).runCmd = some id :=
  congrArg Cluster.runCmd (tget_tset ..)

section
variable {s : State} {c : MCmd}

theorem startM_aclr (h : c.op = .aclr) : s.startM c = s.raise (.matrixCommandComplete c.cluster) := by
  unfold State.startM
  rw [h]

theorem startM_mma (h : c.op = .mma ∨ c.op = .rg) : s.startM c = s.startMma c := by
  unfold State.startM
  obtain h | h := h <;> rw [h]

theorem startM_block (h : c.op = .bld ∨ c.op = .ast) : s.startM c = s.startBlock c (if c.op = .bld then .engRead else .engWrite) := by
  unfold State.startM
  obtain h | h := h <;> rw [h] <;> rfl

theorem firstStep_eq (s : State) (c : MCmd) :
    s.firstStep c = s.raise (if c.op = .rg then .mmaRgChunkStart c.cluster else .mmaKStep c.cluster) := by
  unfold State.firstStep
  cases c.op <;> rfl

theorem startMma_tensor (hr : c.ring = none) : s.startMma c = (s.putM { c with phase := .attached }).firstStep c := by
  unfold State.startMma
  rw [hr]

/-- A command of a ring attaches, with the ring's head and the progress that its slot shows (R254, R256). -/
def State.attachRing (s : State) (c : MCmd) (head : Nat) : State :=
  ((s.putM { c with phase := .attached, head := head, paid := 0 }).firstStep c).putSteps c
    (if c.op = .rg then c.step / (shapeOf c.shape).steps * (shapeOf c.shape).steps else c.step)

theorem attachRing_attached (h : c.id ∈ s.listed) (head : Nat) :
    { c with phase := .attached, head := head, paid := 0 } ∈ (s.attachRing c head).mcmds := by
  unfold State.attachRing
  rw [putSteps_mcmds, firstStep_eq]
  exact mem_putM h

theorem attachRing_raised (s : State) (c : MCmd) (head : Nat) :
    (if c.op = .rg then Raised.mmaRgChunkStart c.cluster else Raised.mmaKStep c.cluster) ∈ (s.attachRing c head).raised := by
  unfold State.attachRing
  rw [putSteps_raised, firstStep_eq]
  exact mem_raised_raise ..

theorem attachRing_progress (s : State) (c : MCmd) (head : Nat) : ((s.attachRing c head).ctx c.key).getG c.gbReg =
    if c.gbReg = 0 then 0 else putProgress ((s.ctx c.key).getG c.gbReg)
      (if c.op = .rg then c.step / (shapeOf c.shape).steps * (shapeOf c.shape).steps else c.step) := by
  unfold State.attachRing
  rw [putSteps_progress, firstStep_eq]
  rfl

section
variable {s1 s2 : State} {c1 : MCmd} {h : QReg} {bs : List PByte} (hr : c.ring = some h) (hpay : s.payM c 32 = (c1, s1)) (hpaid : 32 ≤ c1.paid)
  (hread : s1.ringRead c1 h = .ok bs s2)
include hr hpay hpaid hread

theorem startMma_poisoned (hp : anyPoison bs = true) : s.startMma c = s2.trapM c1 0x05 := by
  unfold State.startMma
  simp only [hr, hpay, Nat.not_lt.mpr hpaid, hread, hp, if_true, if_false]

theorem startMma_unfilled (hp : anyPoison bs = false) (ho : c1.op = .mma) (hn : (pringCounts bs).filled.toNat < (shapeOf c1.shape).m) :
    s.startMma c = s2.trapM c1 0x04 := by
  unfold State.startMma
  simp only [hr, hpay, Nat.not_lt.mpr hpaid, hread, hp, ho, hn, and_self, Bool.false_eq_true, if_true, if_false]

theorem startMma_attaches (hp : anyPoison bs = false) (hn : c1.op = .mma → (shapeOf c1.shape).m ≤ (pringCounts bs).filled.toNat) :
    s.startMma c = s2.attachRing c1 (pringCounts bs).head.toNat := by
  have hfilled : ¬ (c1.op = .mma ∧ (pringCounts bs).filled.toNat < (shapeOf c1.shape).m) := fun ⟨ho, hlt⟩ => Nat.not_lt.mpr (hn ho) hlt
  unfold State.startMma
  simp only [hr, hpay, Nat.not_lt.mpr hpaid, hread, hp, hfilled, Bool.false_eq_true, if_false]
  rfl

end

section
variable {acc : Acc} {s1 : State}

theorem startBlock_faults {va : Nat} (h : s.mapLines (s.mWho c) acc (c.blockLines c.block.1 c.block.2) = .fault va s1) :
    s.startBlock c acc = s1.faultM c va := by
  unfold State.startBlock
  simp only [h]

/-- A block that translates: the command is detached, and its instruction complete. -/
theorem startBlock_detaches {m : List (Nat × Nat)} (h : s.mapLines (s.mWho c) acc (c.blockLines c.block.1 c.block.2) = .ok m s1) :
    s.startBlock c acc = ((s1.putM { c with map := m, phase := .detached }).detachKey c.key id).raise (.matrixCommandComplete c.cluster) := by
  unfold State.startBlock
  simp only [h]

end

end

/-! ## Reads piece by piece (01 R16) -/

/-- A free choice has been made. -/
abbrev State.drawn (s : State) : State := { s with free := s.free + 1 }

section
variable {s s1 s2 : State} {c c1 c2 : MCmd} {l : List (Nat × Nat)}

theorem drawn_engRead_listed {w : EWho} {va k : Nat} {bs : List PByte} (h : s.drawn.engRead w va k = .ok bs s2) : s2.listed = s.listed :=
  (engRead_accesses h).listed

/-- A piece of several has been read. -/
theorem readOn_more {va k : Nat} {rest : List (Nat × Nat)} {bs : List PByte} (ht : takeAny s.free (c.unread l) = some ((va, k), rest))
    (hne : rest ≠ []) (hr : s.drawn.engRead (s.mWho c) va k = .ok bs s2) :
    s.readOn c l = .ok none (s2.putM { c with got := c.got ++ [(va, bs)] }) := by
  unfold State.readOn
  simp only [ht, hr, eng_bind_ok, if_neg hne]

/-- A command that has read all is the same but for what it has read. -/
theorem readOn_same (h : s.readOn c l = .ok (some c2) s2) : ∃ got, c2 = { c with got := got } := by
  obtain ⟨-, hc, -⟩ | ⟨p, rest, bs, t, -, -, -, hc⟩ := readOn_eq_ok h
  · exact ⟨c.got, Option.some.inj hc⟩
  · split at hc
    · exact ⟨_, Option.some.inj hc⟩
    · cases hc

/-- What a piece read leaves: the command has it, the stores are as they were, and the step is to come again. -/
theorem putM_again {u : State} {y : MCmd} {r : Raised} (h : y.id ∈ u.listed) :
    let t := (u.putM y).raise r
    y ∈ t.mcmds ∧ t.acc = u.acc ∧ t.mem = u.mem ∧ t.bstore = u.bstore ∧ r ∈ t.raised :=
  ⟨mem_putM h, rfl, rfl, rfl, mem_raised_raise ..⟩

theorem again_stores (s : State) (y z : MCmd) : SameStores s ((s.putM y).againM z) := rfl

/-! ## A K-step (16 R253; 17 R262) -/

theorem opMmaKStep_runs {cl : Nat} (hc : s.runningM cl = some c) (ho : c.op = .mma) (hp : c.phase = .attached) (hh : s.heldM c = true) :
    opMmaKStep cl s = s.kStepM c := by
  unfold opMmaKStep
  simp only [hc, ho, hp, hh, and_self, if_true]

section
variable (hpay : s.payM c (engineCost (c.aAccesses (List.range (shapeOf c.shape).m) [c.step])) = (c1, s1))
include hpay

theorem kStepM_waits (h : c1.paid < engineCost (c.aAccesses (List.range (shapeOf c.shape).m) [c.step])) :
    s.kStepM c = s1.raise (.mmaKStep c1.cluster) := by
  unfold State.kStepM
  simp only [hpay, if_pos h]

variable (hpaid : engineCost (c.aAccesses (List.range (shapeOf c.shape).m) [c.step]) ≤ c1.paid)
include hpaid

theorem kStepM_more (h : s1.readOn c1 (c.aAccesses (List.range (shapeOf c.shape).m) [c.step]) = .ok none s2) :
    s.kStepM c = s2.raise (.mmaKStep c1.cluster) := by
  unfold State.kStepM
  simp only [hpay, if_neg (Nat.not_lt.mpr hpaid), h]

theorem kStepM_adds (h : s1.readOn c1 (c.aAccesses (List.range (shapeOf c.shape).m) [c.step]) = .ok (some c2) s2) :
    s.kStepM c = s2.addKStep c2 := by
  unfold State.kStepM
  simp only [hpay, if_neg (Nat.not_lt.mpr hpaid), h]

end

/-- The products are added to the tile, and nothing else of the stores changes. -/
theorem addKStep_adds {rows : List ARow} {b : List (List Val × Val)} (ha : c.aRows (List.range (shapeOf c.shape).m) c.step = some rows)
    (hb : c.bColumns s c.step = some b) : SameStores { s with acc := rows.foldl (c.addStep b) s.acc } (s.addKStep c) := by
  unfold State.addKStep
  simp only [ha, hb]
  exact .ite ((putM_putSteps_stores ..).trans (finishMma_stores ..)) ((putM_putSteps_stores ..).trans rfl)

theorem addKStep_traps (h : c.aRows (List.range (shapeOf c.shape).m) c.step = none ∨ c.bColumns s c.step = none) :
    s.addKStep c = s.trapM c 0x05 := by
  unfold State.addKStep
  dsimp only
  split
  · next ha hb =>
    obtain h | h := h
    · cases h.symm.trans ha
    · cases h.symm.trans hb
  · rfl

/-! ## A chunk (16 R253; 17 R263) -/

theorem opMmaRgChunkStart_runs {cl : Nat} {h : QReg} (hc : s.runningM cl = some c) (ho : c.op = .rg) (hr : c.ring = some h)
    (hp : c.phase = .attached) (hh : s.heldM c = true) : opMmaRgChunkStart cl s = s.chunkM c h := by
  unfold opMmaRgChunkStart
  simp only [hc, hr, ho, hp, hh, and_self, if_true]

theorem chunkM_counts {h : QReg} {bs : List PByte} (hc : c.count = none) (hpay : s.payM c 32 = (c1, s1)) (hpaid : 32 ≤ c1.paid)
    (hread : s1.ringRead c1 h = .ok bs s2) (hp : anyPoison bs = false) : s.chunkM c h =
      s2.chunkRows { c1 with count := some (pringCounts bs).filled.toNat } (pringCounts bs).filled.toNat := by
  unfold State.chunkM
  simp only [hc, hpay, Nat.not_lt.mpr hpaid, hread, hp, Bool.false_eq_true, if_false]

theorem chunkM_counted {h : QReg} {n : Nat} (hc : c.count = some n) : s.chunkM c h = s.chunkRows c n := by
  unfold State.chunkM
  rw [hc]

section
variable {n : Nat}
  (hpay : s.payM c (32 + engineCost (c.aAccesses (c.chunkOf n) (List.range (shapeOf c.shape).steps))) = (c1, s1))
  (hpaid : 32 + engineCost (c.aAccesses (c.chunkOf n) (List.range (shapeOf c.shape).steps)) ≤ c1.paid)
include hpay hpaid

theorem chunkRows_more (h : s1.readOn c1 (c.aAccesses (c.chunkOf n) (List.range (shapeOf c.shape).steps)) = .ok none s2) :
    s.chunkRows c n = s2.raise (.mmaRgChunkStart c1.cluster) := by
  unfold State.chunkRows
  simp only [hpay, if_neg (Nat.not_lt.mpr hpaid), h]

theorem chunkRows_adds (h : s1.readOn c1 (c.aAccesses (c.chunkOf n) (List.range (shapeOf c.shape).steps)) = .ok (some c2) s2) :
    s.chunkRows c n = s2.addChunk c2 (c.chunkOf n) := by
  unfold State.chunkRows
  simp only [hpay, if_neg (Nat.not_lt.mpr hpaid), h]

end

theorem addChunk_adds {rows : List Nat} {t : Table (BitVec 32)} (h : c.chunkSteps s rows (List.range (shapeOf c.shape).steps) s.acc = some t) :
    SameStores { s with acc := t } (s.addChunk c rows) := by
  unfold State.addChunk
  simp only [h]
  exact .ite ((putM_putSteps_stores ..).trans (finishMma_stores ..)) ((putM_putSteps_stores ..).trans rfl)

theorem addChunk_traps {rows : List Nat} (h : c.chunkSteps s rows (List.range (shapeOf c.shape).steps) s.acc = none) :
    s.addChunk c rows = s.trapM c 0x05 := by
  unfold State.addChunk
  simp only [h]

/-! ## Stops (16 R254; 17 R268) -/

theorem opMatrixCommandStop_stops {cl : Nat} (hc : s.runningM cl = some c) (hp : c.phase = .attached) (hh : s.heldM c = false) :
    opMatrixCommandStop cl s = (s.dropM c).undoDraws c := by
  unfold opMatrixCommandStop
  simp only [hc, hp, hh, and_self, if_true]

theorem stopped_gone (s : State) (c : MCmd) : ∀ y ∈ ((s.dropM c).undoDraws c).mcmds, y.id ≠ c.id := by
  rw [undoDraws_mcmds]
  exact unlisted_ne (dropM_unlists s c)

/-! ## Completion (16 R246) -/

theorem opMatrixCommandComplete_runs {cl : Nat} (hc : s.runningM cl = some c) (hp : c.phase = .detached) :
    opMatrixCommandComplete cl s = s.completeM c := by
  unfold opMatrixCommandComplete
  simp only [hc, hp, if_true]

section
variable {cl : Nat} (hc : s.runningM cl = some c) (hp : c.phase = .detached)
include hc hp

theorem opMatrixCommandComplete_mma (h : c.op = .mma ∨ c.op = .rg) : opMatrixCommandComplete cl s = s.endM c := by
  rw [opMatrixCommandComplete_runs hc hp, State.completeM]
  obtain h | h := h <;> rw [h]

theorem opMatrixCommandComplete_aclr (h : c.op = .aclr) : opMatrixCommandComplete cl s = (s.zeroTile c.tile).endM c := by
  rw [opMatrixCommandComplete_runs hc hp, State.completeM, h]

theorem opMatrixCommandComplete_bld (h : c.op = .bld) : opMatrixCommandComplete cl s = s.completeBld c := by
  rw [opMatrixCommandComplete_runs hc hp, State.completeM, h]

theorem opMatrixCommandComplete_ast (h : c.op = .ast) : opMatrixCommandComplete cl s = s.completeAst c := by
  rw [opMatrixCommandComplete_runs hc hp, State.completeM, h]

end

theorem zeroTile_zeroes (s : State) (t : Nat) : ∀ e ∈ (s.zeroTile t).acc, e.1 / 32768 ≠ t :=
  fun _ he => of_decide_eq_true (List.mem_filter.mp he).2

/-! ## The detached part of BLD (17 R264, R265) -/

/-- The state in which a piece's line has come to the engine's tower. -/
def State.bldSeen (s : State) (c : MCmd) (va : Nat) : State := s.drawn.reachBlock c (s.drawn.blockPa c .engRead va / 128)

theorem bldSeen_accesses (s : State) (c : MCmd) (va : Nat) : AccessesTo s (s.bldSeen c va) :=
  AccessesTo.trans (t := s.drawn) rfl (reachBlock_accesses ..)

theorem bldSeen_stores (s : State) (c : MCmd) (va : Nat) : SameStores s (s.bldSeen c va) :=
  SameStores.trans (t := s.drawn) rfl (reachBlock_stores ..)

section
variable (hpay : s.payM c (engineCost c.blockAccesses) = (c1, s1))
include hpay

theorem completeBld_waits (h : c1.paid < engineCost c.blockAccesses) : s.completeBld c = s1.againM c1 := by
  unfold State.completeBld
  simp only [hpay, if_pos h]

theorem completeBld_reads (h : engineCost c.blockAccesses ≤ c1.paid) : s.completeBld c = s1.bldPiece c1 := by
  unfold State.completeBld
  simp only [hpay, if_neg (Nat.not_lt.mpr h)]

end

section
variable {va k : Nat} {rest : List (Nat × Nat)} (ht : takeAny s.free (c.unread c.blockAccesses) = some ((va, k), rest))
include ht

theorem bldPiece_waits (hp : s.pinnedAway (some c.cluster) (s.blockPa c .engRead va / 128) = true) :
    s.bldPiece c = s.drawn.againM c := by
  unfold State.bldPiece
  simp only [ht, hp, if_true]

variable (hp : s.pinnedAway (some c.cluster) (s.blockPa c .engRead va / 128) = false)
include hp

theorem bldPiece_more (hne : rest ≠ []) : s.bldPiece c =
    ((s.bldSeen c va).putM { c with got := c.got ++ [(va, (s.bldSeen c va).blockBytes c va k)] }).againM c := by
  unfold State.bldPiece State.bldSeen
  rw [blockPa_free]
  simp only [ht, hp, Bool.false_eq_true, if_false, if_neg hne]
  rfl

theorem bldPiece_fills (hr : rest = []) : s.bldPiece c =
    let y := { c with got := c.got ++ [(va, (s.bldSeen c va).blockBytes c va k)] }
    ((s.bldSeen c va).putM y).fillB y := by
  unfold State.bldPiece State.bldSeen
  rw [blockPa_free]
  simp only [ht, hp, Bool.false_eq_true, if_false, if_pos hr]

end

/-! ## The detached part of AST (17 R266, R267; 10 R176) -/

theorem completeAst_window (h : c.outs = none) : s.completeAst c = s.astWindow c := by
  unfold State.completeAst
  rw [h]

/-- An AST that has read its window, with its bytes by the pieces that they fall in. -/
def MCmd.due (c : MCmd) (s : State) : MCmd :=
  let cs := c.astRows s (aWin c.gb) (List.range (aWin c.gb).rows) c.sr
  { c with outs := some (((cs.map (·.1 / 32)).foldl sins []).map fun p => (p, cs.filter fun z => z.1 / 32 == p)) }

theorem astWindow_eq (s : State) (c : MCmd) : s.astWindow c =
    ((if c.mode then s.zeroWindow c.tile (aWin c.gb) else s).putM (c.due s)).againM c := rfl

/-- .Z changes the accumulators alone. -/
theorem windowed_keeps (s : State) (c : MCmd) : let t := if c.mode then s.zeroWindow c.tile (aWin c.gb) else s
    t.mem = s.mem ∧ t.listed = s.listed := by
  dsimp only
  split <;> exact ⟨rfl, rfl⟩

theorem completeAst_waits (h : c.outs = some []) (hs : c.e.scope = 0b11) (ha : s.allApplied c.clock = false) : s.completeAst c = s.againM c := by
  unfold State.completeAst
  simp only [h, hs, ha, Bool.not_false, and_self, if_true]

theorem completeAst_ends (h : c.outs = some []) (ha : c.e.scope ≠ 0b11 ∨ s.allApplied c.clock = true) : s.completeAst c = s.endM c := by
  have hdone : ¬ (c.e.scope = 0b11 ∧ (!s.allApplied c.clock) = true) := by
    rintro ⟨hs, hn⟩
    obtain ha | ha := ha
    · exact ha hs
    · rw [ha] at hn
      cases hn
  unfold State.completeAst
  simp only [h, if_neg hdone]

theorem completeAst_pays {l : List (Nat × List (Nat × PByte))} (h : c.outs = some l) (hne : l ≠ [])
    (hpay : s.payM c (engineCost c.blockAccesses) = (c1, s1)) (hpaid : engineCost c.blockAccesses ≤ c1.paid) :
    s.completeAst c = s1.astPiece c1 l := by
  obtain ⟨x, l, rfl⟩ := List.exists_cons_of_ne_nil hne
  unfold State.completeAst
  simp only [h, hpay, if_neg (Nat.not_lt.mpr hpaid)]

/-- Where a piece of an AST stands. -/
def State.astPa (s : State) (c : MCmd) (p : Nat) : Nat := s.drawn.blockPa c .engWrite (p * 32)

/-- The command's task has given up the pin of its cluster on a piece's line, where the scope asks for it (log 97). -/
def State.astReady (s : State) (c : MCmd) (p : Nat) : State := s.drawn.engUnpin (s.drawn.mWho c) c.tid c.e.scope (s.astPa c p)

/-- A piece of an AST has been written. -/
def State.astPut (s : State) (c : MCmd) (p : Nat) (cs : List (Nat × PByte)) : State :=
  (s.astReady c p).putPiece (s.drawn.mWho c).tower (cs.map fun z => (s.astPa c p + z.1 % 32, z.2)) (s.astPa c p / 32)

section
variable {l rest : List (Nat × List (Nat × PByte))} {p : Nat} {cs : List (Nat × PByte)} (ht : takeAny s.free l = some ((p, cs), rest))
include ht

theorem astPiece_waits (hw : (s.astReady c p).engWait (s.drawn.mWho c) c.e.scope (s.astPa c p) = true) :
    s.astPiece c l = (s.astReady c p).againM c := by
  unfold State.astPiece
  simp only [ht]
  exact if_pos hw

theorem astPiece_writes (hw : (s.astReady c p).engWait (s.drawn.mWho c) c.e.scope (s.astPa c p) = false) : s.astPiece c l =
    ((s.astPut c p cs).putM { c with outs := some rest, clock := (s.astPut c p cs).vc (s.drawn.mWho c).tower }).againM c := by
  unfold State.astPiece
  simp only [ht]
  exact if_neg (ne_true_of_eq_false hw)

end

theorem astPut_accesses (s : State) (c : MCmd) (p : Nat) (cs : List (Nat × PByte)) : AccessesTo s (s.astPut c p cs) :=
  AccessesTo.trans (t := s.drawn) rfl ((engUnpin_accesses ..).trans (putPiece_accesses ..))

end

end Sys2Proof.Machine

open Sys2Proof Sys2Proof.Machine

/-- Settles O49: each clause is what one step does, by that step's own lemma. That the products of a K-step and of a chunk are one step is log 47
(DEDUCED), the columns of B of a chunk without rows log 94 (DESIGN CHOICE), the pin ended before a piece of an AST log 97 (DEDUCED). -/
theorem matrixSteps : Obligations.MatrixSteps := by
  unfold Obligations.MatrixSteps
  intro s s1 s2 s3 s4 cl q left n va c c1 c2 c3 c4 rows b h bs tt m ms l rest p k cs x gone chosen reads step counts on chunkReads chunk more block
    cells at_ taken line seen filled ready attached detached
  have next {t u : State} (h : t = u) : (.next t : Out) = .next u := congrArg _ h
  refine ⟨fun hidle hq hc => ?select,
    fun ⟨hc, hp, hh⟩ ho hpay => ⟨fun hlt => ?kWaits, fun hle ht hne hr => ?kMore, fun hle hr => ?kAdds⟩,
    fun ⟨hc, hp, hh⟩ ho hring => ⟨fun hn hpay hle hr hclean => ?counts, fun hn hpay hle ht hne hr => ?chunkMore,
      fun hn hpay hle hr => ?chunkAdds⟩,
    fun hc hp hh => ?stops, fun ⟨hc, hp⟩ ho => ?mma, fun ⟨hc, hp⟩ ho => ?zeroes,
    fun ⟨hc, hp⟩ ho hpay => ⟨fun hlt => ?bldWaits, fun hle ht => ?bldPiece⟩,
    fun ⟨hc, hp⟩ ho hout => ?window, fun ⟨hc, hp⟩ ho hout hne hpay hle ht => ?astPiece,
    fun ⟨hc, hp⟩ ho hout => ⟨fun hs ha => ?applied, fun ha => ?ends⟩⟩
  case select =>
    have starts {t : State} (h : chosen.startM c = t) : exec (.matrixArbiterSelect cl) s = .next t :=
      next ((opMatrixArbiterSelect_starts hidle hq hc).trans h)
    have hin : c.id ∈ chosen.listed := List.mem_map_of_mem (List.mem_of_find?_eq_some hc)
    refine ⟨fun ho => starts (startM_aclr ho), fun ho hr => ?tensor, fun ho hr hpay hpaid hread => ?ring, fun ho => ?block⟩
    case tensor =>
      have hop := (startM_mma (.inl ho)).trans (startMma_tensor (s := chosen) hr)
      rw [firstStep_eq, if_neg (by rw [ho]; decide)] at hop
      exact ⟨_, starts hop, choose_runCmd .., mem_putM hin, mem_raised_raise ..⟩
    case ring =>
      have hin2 : c.id ∈ s2.listed := by rwa [(engRead_accesses hread).listed, payM_listed hpay]
      have attaches {t : State} (h : chosen.startMma c = t) := starts ((startM_mma ho).trans h)
      obtain ⟨_, _, rfl, -⟩ := payM_eq hpay
      exact ⟨fun hp => attaches (startMma_poisoned hr hpay hpaid hread hp),
        fun hp hm hn => attaches (startMma_unfilled hr hpay hpaid hread hp hm hn),
        fun hp hn => ⟨_, attaches (startMma_attaches hr hpay hpaid hread hp hn), attachRing_attached hin2 _, attachRing_progress ..,
          attachRing_raised ..⟩⟩
    case block =>
      refine ⟨fun hs => starts ((startM_block ho).trans (startBlock_faults hs)),
        fun hs => ⟨_, starts ((startM_block ho).trans (startBlock_detaches hs)), ?_, completeSlot_ctx .., mem_raised_raise ..⟩⟩
      have hin1 : c.id ∈ s1.listed := by rwa [(mapLines_accesses hs).listed]
      exact (completeSlot_mcmds ..).symm ▸ mem_putM hin1
  case kWaits => exact next ((opMmaKStep_runs hc ho hp hh).trans (kStepM_waits hpay hlt))
  case kMore =>
    have hin : c1.id ∈ s2.listed := by
      rw [drawn_engRead_listed hr, payM_listed hpay, payM_id hpay]
      exact runningM_listed hc
    exact ⟨_, next ((opMmaKStep_runs hc ho hp hh).trans (kStepM_more hpay hle (readOn_more ht hne hr))), putM_again hin⟩
  case kAdds =>
    have hop := (opMmaKStep_runs hc ho hp hh).trans (kStepM_adds hpay hle hr)
    obtain ⟨_, _, rfl, -⟩ := payM_eq hpay
    obtain ⟨_, rfl⟩ := readOn_same hr
    exact ⟨fun ha => ⟨fun hb => ⟨_, next hop, (addKStep_adds ha hb).acc, (addKStep_adds ha hb).mem⟩,
      fun hb => next (hop.trans (addKStep_traps (.inr hb)))⟩, fun ha => next (hop.trans (addKStep_traps (.inl ha)))⟩
  case counts => exact next ((opMmaRgChunkStart_runs hc ho hring hp hh).trans (chunkM_counts hn hpay hle hr hclean))
  case chunkMore =>
    have hin : c1.id ∈ s2.listed := by
      rw [drawn_engRead_listed hr, payM_listed hpay, payM_id hpay]
      exact runningM_listed hc
    have hop := (opMmaRgChunkStart_runs hc ho hring hp hh).trans (chunkM_counted hn)
    exact ⟨_, next (hop.trans (chunkRows_more hpay hle (readOn_more ht hne hr))), putM_again hin⟩
  case chunkAdds =>
    have hop := ((opMmaRgChunkStart_runs hc ho hring hp hh).trans (chunkM_counted hn)).trans (chunkRows_adds hpay hle hr)
    obtain ⟨_, _, rfl, -⟩ := payM_eq hpay
    obtain ⟨_, rfl⟩ := readOn_same hr
    exact ⟨fun hs => ⟨_, next hop, (addChunk_adds hs).acc⟩, fun hs => next (hop.trans (addChunk_traps hs))⟩
  case stops =>
    exact ⟨_, next (opMatrixCommandStop_stops hc hp hh), stopped_gone s c, ((dropM_stores s c).trans (undoDraws_stores _ c)).acc⟩
  case mma => exact ⟨_, next (opMatrixCommandComplete_mma hc hp ho), endM_gone s c, (endM_stores s c).acc⟩
  case zeroes =>
    have hend := endM_stores (s.zeroTile c.tile) c
    exact ⟨_, next (opMatrixCommandComplete_aclr hc hp ho), endM_gone _ c, hend.mem,
      hend.acc.symm ▸ zeroTile_zeroes s c.tile⟩
  case bldWaits => exact next ((opMatrixCommandComplete_bld hc hp ho).trans (completeBld_waits hpay hlt))
  case bldPiece =>
    have hop := (opMatrixCommandComplete_bld hc hp ho).trans (completeBld_reads hpay hle)
    have hin : c1.id ∈ (s1.bldSeen c1 va).listed := by
      rw [(bldSeen_accesses ..).listed, payM_listed hpay, payM_id hpay]
      exact runningM_listed hc
    have hsame := (payM_stores hpay).trans (bldSeen_stores s1 c1 va)
    have hid : c1.id = c.id := payM_id hpay
    rw [← payM_cluster hpay]
    refine ⟨fun hpin => next (hop.trans (bldPiece_waits ht hpin)), fun hpin => ⟨fun hne => ?more, fun hms => ?fills⟩⟩
    case more =>
      have hmore := hsame.trans (again_stores (s1.bldSeen c1 va) filled c1)
      exact ⟨_, next (hop.trans (bldPiece_more ht hpin hne)), mem_putM hin, hmore.acc, hmore.mem, hmore.bstore, mem_raised_raise ..⟩
    case fills =>
      have hgone := endM_gone (((s1.bldSeen c1 va).putM filled).putB filled.bldCells) filled
      have hend := endM_stores (((s1.bldSeen c1 va).putM filled).putB filled.bldCells) filled
      rw [show filled.id = c.id from hid] at hgone
      exact ⟨_, next (hop.trans (bldPiece_fills ht hpin hms)), hgone, (hend.mem.trans (putB_mem ..)).trans hsame.mem, hend.bstore⟩
  case window =>
    have hop := (opMatrixCommandComplete_ast hc hp ho).trans (completeAst_window hout)
    obtain ⟨hmem, hlisted⟩ := windowed_keeps s c
    have hkeeps := again_stores (if c.mode then s.zeroWindow c.tile (aWin c.gb) else s) (c.due s) c
    have hin : (c.due s).id ∈ _ := hlisted.symm ▸ runningM_listed hc
    exact ⟨_, c.due s, next (hop.trans (astWindow_eq s c)), mem_putM hin, rfl, rfl, hkeeps.mem.trans hmem, hkeeps.acc, mem_raised_raise ..⟩
  case astPiece =>
    have hop := (opMatrixCommandComplete_ast hc hp ho).trans (completeAst_pays hout hne hpay hle)
    have hin : c1.id ∈ (s1.astPut c1 p cs).listed := by
      rw [(astPut_accesses ..).listed, payM_listed hpay, payM_id hpay]
      exact runningM_listed hc
    have hid : c1.id = c.id := payM_id hpay
    exact ⟨fun hw => next (hop.trans (astPiece_waits ht hw)), fun hw => ⟨_, _, next (hop.trans (astPiece_writes ht hw)), (again_stores ..).mem,
      mem_putM hin, hid, rfl⟩⟩
  case applied => exact next ((opMatrixCommandComplete_ast hc hp ho).trans (completeAst_waits hout hs ha))
  case ends =>
    have hop := (opMatrixCommandComplete_ast hc hp ho).trans (completeAst_ends hout ha)
    exact ⟨_, next hop, endM_gone s c, (endM_stores s c).mem⟩

end
